-- ==== Sys2Proof/Word.lean ====
section
/-!
DEFINITION. The word types of the ZQ-4 and their plainest facts. A value in flight, a common register and a
special register are 64 bits wide (spec/01 R31, R38); a byte has 8 bits (spec/02 R47).
-/

namespace Sys2Proof

/-- A 64-bit value: a common register, a special register, or a slice operand of up to 16 slices. -/
abbrev Word := BitVec 64

/-- A byte of memory. -/
abbrev Byte := BitVec 8

/-- A bundle address, 32 bits (spec/05 R104). -/
abbrev PC := BitVec 32

/-- A 64-bit lane mask, as a predicate holds it (spec/01 R35). -/
abbrev Mask := BitVec 64

end Sys2Proof
end

