-- ==== Sys2Proof/Config.lean ====
section
/-!
DEFINITION. What an implementation fixes and the spec leaves open: the free values. Each is an opaque constant with
no body, so no proof can see a value of it (log entries 1 to 6, 41, 42, 45, 59, 61 and 72 name each).
-/

namespace Sys2Proof.Config

/-- Which of the two bracketing FP32 values vrcp, vrsqrt, vexp2 and vlog2 return for an operand (spec/08 R194:
the choice depends only on the operation and the operand). Operation numbers are the opcodes of class V.
Log entry 1. -/
opaque approxUp : (opcode : Nat) → (operand : Nat) → Bool

/-- Nanoseconds that pass between two steps of the model, by step number (timing is left open; log entry 2). -/
opaque elapsed : (stepNo : Nat) → Nat

/-- A byte that the Gaffer reads where a page has been unmapped since it was checked, by step number and intermediate address
(spec/19 R385). Log entry 3. -/
opaque freeByte : (stepNo : Nat) → (ia : Nat) → Byte

/-- SHA3-256 of a byte string, as the number of its 256 bits: the spec names the function and gives no
definition of it (spec/26 R456). Log entry 4. -/
opaque sha3 : List Byte → BitVec 256

/-- Whether an image's ML-DSA-44 signature verifies with the vendor key (spec/26 R456 steps 2 and 4); the key and the image format
are not given. Log entry 4. -/
opaque imageSigned : List Byte → Bool

/-- An image's security version (spec/26 R456 step 2). Log entry 4. -/
opaque imageVersion : List Byte → BitVec 32

/-- The ML-DSA-44 signature bytes over the first 256 bytes of a report (spec/26 R458). Log entry 4. -/
opaque signature : List Byte → List Byte

/-- SHA3-256 of the device identity public key for a given meas1 (spec/26 R458). Log entry 4. -/
opaque identityHash : BitVec 256 → BitVec 256

/-- The fused minimum security version (spec/26 R456, R458). Log entry 4. -/
opaque fusedVersion : BitVec 32

/-- Whether the ROM self-test of the security block passes (spec/26 R456 step 1). Log entry 4. -/
opaque selfTest : Bool

/-- The bytes of the boot ROM (spec/26 R456 step 1). Log entry 4. -/
opaque romBytes : List Byte

/-- Cycles of a core's island clock that pass in a step, by step number and core (the cycle counters of spec/23 R440;
timing is left open; log entry 2). -/
opaque cycles : (stepNo : Nat) → (core : Nat) → Nat

/-- Those of a core's cycles in a step that pass before the last boundary of 10 µs windows in it, by step number and core (spec/23
R441). Log entry 2. -/
opaque cyclesBefore : (stepNo : Nat) → (core : Nat) → Nat

/-- Those of them that pass in the last complete window, where two boundaries or more fall in one step. Log entry 2. -/
opaque cyclesBetween : (stepNo : Nat) → (core : Nat) → Nat

/-- The temperature of an island in degrees as the part finds it, by step number and island (spec/24 R444). Log entry 42. -/
opaque temperature : (stepNo : Nat) → (island : Nat) → Nat

/-- The host port (false for port 0) behind which a host physical address lies: the spec gives no map (spec/22 R425).
Log entry 5. -/
opaque hostPort : (frame : Nat) → Bool

/-- The bank of a line of an HBM4E channel, by physical address: the spec gives no map (spec/13 R301). Log entry 6. -/
opaque hbmBank : (line : Nat) → Nat

/-- The row of a line in its bank, by physical address: the spec gives no map (spec/13 R301). Log entry 6. -/
opaque hbmRow : (line : Nat) → Nat

/-- The place of a context's save area in the vault above its cluster, in units of 64 bytes: the Gaffer assigns it and the
spec gives no rule (spec/11 R247). Log entry 59. -/
opaque saveArea : (cluster : Nat) → (ctx : Nat) → Nat

/-- Whether an access sees the other byte where the old or the new one may be seen, by step number and key of the byte
(spec/07 R164, R169; spec/09 R207). Log entry 3. -/
opaque seesOther : (stepNo : Nat) → (key : Nat) → Bool

/-- The sync interval of the time transmitter, in ns: the spec gives none (spec/20 R407). Log entry 45. -/
opaque syncInterval : Nat

/-- The store number in the record of a corrected error outside the five stores that spec/13 R306 numbers. Log entry 41. -/
opaque otherStore : (store : Nat) → BitVec 8

/-- How many of the rows that running DRNs have formed have been written when a core's engine comes to its next micro-op, by step
number and core (spec/12 R282). Log entry 61. -/
opaque drained : (stepNo : Nat) → (core : Nat) → Nat

/-- Whether a leaf of a translation cache has been evicted since it was last used, by step number and intermediate address: the
spec gives neither capacity nor replacement (spec/15 R334). Log entry 72. -/
opaque leafEvicted : (stepNo : Nat) → (ia : Nat) → Bool

/-- Whether the run below a page has been evicted (spec/15 R335). Log entry 72. -/
opaque runEvicted : (stepNo : Nat) → (ia : Nat) → Bool

end Sys2Proof.Config
end

