-- ==== Sys2Proof/Syntax.lean ====
section
/-!
DEFINITION. The syntax of everything the ZQ-4 does: one constructor of `Instr` per row of spec/opcode_table.json.
A slot operation carries its slot and the fields of its word as R67 lays them out; a micro-op carries its core and
its fields (R276); an event of another agent carries what names it (a context, a command, a partition, a register
write). Kinds, slots and parties are names, not numbers.
-/

namespace Sys2Proof

/-- The nine slots of a bundle, in encoding order (spec/03 R66). -/
inductive Pos where
  | c | a0 | a1 | m0 | m1 | v0 | v1 | e | k
  deriving DecidableEq, Repr

/-- The kind of a source (spec/03 R69): private slices 00, common register 01, special register or loop index 10,
immediate 11. -/
inductive Kind where
  | slices | common | special | imm
  deriving DecidableEq, Repr

/-- A 12-bit operand field: an 8-bit start over a 4-bit width minus one (R68). -/
structure Operand where
  start : BitVec 8
  wm1 : BitVec 4
  deriving DecidableEq, Repr

/-- The fields of a slot word below its opcode (R67). In wide-immediate form bits 22:0, that is src2, k1, k2 and mod
together, are one immediate (R73). -/
structure Fields where
  fmt : BitVec 4
  pneg : Bool
  pidx : BitVec 6
  dst : Operand
  src1 : Operand
  src2 : Operand
  k1 : Kind
  k2 : Kind
  mod : BitVec 7
  deriving DecidableEq, Repr

/-- A micro-op of a writable routine (spec/12 R276), below its op code: six register fields, flags, immediate;
`zero` holds bits 41:39. -/
structure MicroOp where
  f0 : BitVec 3
  f1 : BitVec 3
  f2 : BitVec 3
  f3 : BitVec 3
  f4 : BitVec 3
  f5 : BitVec 3
  zero : BitVec 3
  flags : BitVec 7
  imm : BitVec 32
  deriving DecidableEq, Repr

/-- The blocks of memory-mapped registers (spec/00 R5): the prefix of the names. `prtm` is the per-partition memory
block of spec/13 R294 and spec/14 R326, `prt` the device-wide one of spec/22 R422. -/
inductive Block where
  | sup | xltc | xltp | prtm | mrv | lhr | gaf | uep | ptm | prt | hif | pty | red | dvf
  deriving DecidableEq, Repr

/-- A memory-mapped register: its block, the block's number (cluster, partition, stack, port, island; 0 where there
is one), and its byte offset. -/
structure RegAddr where
  block : Block
  scope : Nat
  off : Nat
  deriving DecidableEq, Repr

/-- Who writes a register (spec/22 R432): a host function at a port, a cluster's supervisor, or a block of the part. -/
inductive Party where
  | host (port : Nat) (fn : Nat)
  | supervisor (cluster : Nat)
  | gaffer
  | jeldaeth
  deriving DecidableEq, Repr

/-- A 1588 event message that a port stamps (R406): a Sync that arrives, with its departure if it is a one-step one; the requests
that the part sends for the end-to-end and the peer-to-peer delay; the response to the latter, with the time that the peer
held the request, or for a two-step one the time at which the peer took it. -/
inductive PtpEvent where
  | sync (twoStep : Bool) (departure : Int)
  | delayReq
  | pdelayReq
  | pdelayResp (twoStep : Bool) (time : Int)
  deriving DecidableEq, Repr

/-- A packet that uses an unsupported part of the transport (R400): the port it came by, and whether the part is one of the
semantic sublayer, for which it is refused and not only dropped. -/
structure BadPacket where
  port : Nat
  semantic : Bool
  deriving DecidableEq, Repr

/-- Every operation and event of spec/opcode_table.json. -/
inductive Instr where
  /-- BR (R109). Sets a pending transfer to an offset target. -/
  | br (p : Pos) (f : Fields)
  /-- JMP (R109). Sets a pending transfer to a register target. -/
  | jmp (p : Pos) (f : Fields)
  /-- CALL (R109). Writes a link and sets a pending transfer to an offset target. -/
  | call (p : Pos) (f : Fields)
  /-- CALLC (R109). Writes a link and sets a pending transfer to a register target. -/
  | callc (p : Pos) (f : Fields)
  /-- RET (R109). Sets a pending transfer to the return address in a register. -/
  | ret (p : Pos) (f : Fields)
  /-- LOOP (R110). Pushes a loop-stack entry or skips the body when the count is not positive. -/
  | loop (p : Pos) (f : Fields)
  /-- LOOPD (R111). Reads a scratchpad descriptor and pushes a whole loop nest. -/
  | loopd (p : Pos) (f : Fields)
  /-- LOOPX (R112). Pops n loop entries and transfers to a target. -/
  | loopx (p : Pos) (f : Fields)
  /-- FORK (R114). Pushes a task descriptor onto the core's deque and counts it in its join slot. -/
  | fork (p : Pos) (f : Fields)
  /-- FORKR (R114). Pushes a range task descriptor onto the core's deque. -/
  | forkr (p : Pos) (f : Fields)
  /-- JOIN (R117). Stalls until a join-mode barrier count reaches zero. -/
  | join (p : Pos) (f : Fields)
  /-- TAKE (R115). Delivers or steals a task of the own grid and transfers to its entry. -/
  | take (p : Pos) (f : Fields)
  /-- RETIRE (R116). Completes every running task and ends the sequencer. -/
  | retire (p : Pos) (f : Fields)
  /-- RETIRE_T (R116). Completes the innermost running task and continues at a target. -/
  | retireT (p : Pos) (f : Fields)
  /-- YIELD (R129). Saves the context to the Gaffer as at a safe point. -/
  | yield (p : Pos) (f : Fields)
  /-- FGET (R119). Reads a full future word or raises FUTURE_EMPTY. -/
  | fget (p : Pos) (f : Fields)
  /-- FPUT (R119). Writes an empty future word and marks it full. -/
  | fput (p : Pos) (f : Fields)
  /-- PHASE (R124). Begins a phase boundary, waiting on the lead allowance and earlier off-core commands. -/
  | phase (p : Pos) (f : Fields)
  /-- BINIT (R122). Sets a barrier slot to barrier mode with a target or to join mode. -/
  | binit (p : Pos) (f : Fields)
  /-- BARRIVE (R122). Makes one arrival on a barrier slot. -/
  | barrive (p : Pos) (f : Fields)
  /-- BWAIT (R122). Arrives on a barrier slot and stalls until the episode completes. -/
  | bwait (p : Pos) (f : Fields)
  /-- FRD (R127). Reads the frontier of a commit domain. -/
  | frd (p : Pos) (f : Fields)
  /-- LVLRD (R127). Reads the level and action slack of the session. -/
  | lvlrd (p : Pos) (f : Fields)
  /-- EMRD (R127). Reads emission counts of the session. -/
  | emrd (p : Pos) (f : Fields)
  /-- SRD (R38). Reads a special register into a common register. -/
  | srd (p : Pos) (f : Fields)
  /-- SWR (R128). Writes a special register. -/
  | swr (p : Pos) (f : Fields)
  /-- ECALL (R129). Stops the sequencer with an ECALL trap to the supervisor. -/
  | ecall (p : Pos) (f : Fields)
  /-- TRAP (R129). Stops the sequencer with an SWTRAP trap to the supervisor. -/
  | trap (p : Pos) (f : Fields)
  /-- URET (R121). Clears active and transfers back to the trapping bundle. -/
  | uret (p : Pos) (f : Fields)
  /-- DBRK (R129). Stops the sequencer with DEBUG_BREAK to the debug owner. -/
  | dbrk (p : Pos) (f : Fields)
  /-- TKWAIT (R125). Stalls until a token is not pending. -/
  | tkwait (p : Pos) (f : Fields)
  /-- CLI (R107). Loads a sign-extended 23-bit constant into a common register. -/
  | cli (p : Pos) (f : Fields)
  /-- CLUI (R107). Shifts a common register left 23 and inserts a 23-bit constant. -/
  | clui (p : Pos) (f : Fields)
  /-- CADD (R107). Adds two 64-bit values into a common register. -/
  | cadd (p : Pos) (f : Fields)
  /-- CSUB (R107). Subtracts two 64-bit values into a common register. -/
  | csub (p : Pos) (f : Fields)
  /-- CMUL (R107). Multiplies two 64-bit values into a common register. -/
  | cmul (p : Pos) (f : Fields)
  /-- CAND (R107). Bitwise and into a common register. -/
  | cand (p : Pos) (f : Fields)
  /-- COR (R107). Bitwise or into a common register. -/
  | cor (p : Pos) (f : Fields)
  /-- CXOR (R107). Bitwise exclusive or into a common register. -/
  | cxor (p : Pos) (f : Fields)
  /-- CSLL (R107). Logical left shift into a common register. -/
  | csll (p : Pos) (f : Fields)
  /-- CSRL (R107). Logical right shift into a common register. -/
  | csrl (p : Pos) (f : Fields)
  /-- CSRA (R107). Arithmetic right shift into a common register. -/
  | csra (p : Pos) (f : Fields)
  /-- CCMP (R108). Compares two 64-bit values into a predicate. -/
  | ccmp (p : Pos) (f : Fields)
  /-- CMOV (R107). Copies a value into a common register. -/
  | cmov (p : Pos) (f : Fields)
  /-- CPSET (R107). Writes a predicate from a value. -/
  | cpset (p : Pos) (f : Fields)
  /-- CPGET (R107). Reads a predicate into a common register. -/
  | cpget (p : Pos) (f : Fields)
  /-- ADD (R135). Scalar integer add, wrapping or saturating. -/
  | add (p : Pos) (f : Fields)
  /-- SUB (R135). Scalar integer subtract, wrapping or saturating. -/
  | sub (p : Pos) (f : Fields)
  /-- MUL (R135). Low bits of a scalar integer product. -/
  | mul (p : Pos) (f : Fields)
  /-- MULH (R135). High bits of a scalar integer product. -/
  | mulh (p : Pos) (f : Fields)
  /-- DIV (R136). Truncating scalar integer division. -/
  | div (p : Pos) (f : Fields)
  /-- REM (R136). Truncating scalar integer remainder. -/
  | rem (p : Pos) (f : Fields)
  /-- AND (R135). Scalar bitwise and. -/
  | and (p : Pos) (f : Fields)
  /-- OR (R135). Scalar bitwise or. -/
  | or (p : Pos) (f : Fields)
  /-- XOR (R135). Scalar bitwise exclusive or. -/
  | xor (p : Pos) (f : Fields)
  /-- SLL (R135). Scalar logical left shift. -/
  | sll (p : Pos) (f : Fields)
  /-- SRL (R135). Scalar logical right shift. -/
  | srl (p : Pos) (f : Fields)
  /-- SRA (R135). Scalar arithmetic right shift. -/
  | sra (p : Pos) (f : Fields)
  /-- MIN (R135). Scalar integer minimum. -/
  | min (p : Pos) (f : Fields)
  /-- MAX (R135). Scalar integer maximum. -/
  | max (p : Pos) (f : Fields)
  /-- ABS (R135). Scalar integer absolute value. -/
  | abs (p : Pos) (f : Fields)
  /-- CLZ (R137). Counts leading zeros of a scalar. -/
  | clz (p : Pos) (f : Fields)
  /-- POPC (R137). Counts set bits of a scalar. -/
  | popc (p : Pos) (f : Fields)
  /-- EXT (R138). Extends or truncates a scalar to the destination width. -/
  | ext (p : Pos) (f : Fields)
  /-- XTR (R138). Extracts a bit field from a scalar. -/
  | xtr (p : Pos) (f : Fields)
  /-- INS (R138). Inserts a value into a bit field of the destination. -/
  | ins (p : Pos) (f : Fields)
  /-- LI (R139). Loads a sign-extended immediate into scalar slices. -/
  | li (p : Pos) (f : Fields)
  /-- LEA (R135). Adds a shifted index to a base. -/
  | lea (p : Pos) (f : Fields)
  /-- CMP (R140). Compares scalars into a predicate. -/
  | cmp (p : Pos) (f : Fields)
  /-- SEL (R141). Selects one of two scalars by a predicate bit. -/
  | sel (p : Pos) (f : Fields)
  /-- PAND (R142). Predicate and with optional inversions. -/
  | pand (p : Pos) (f : Fields)
  /-- POR (R142). Predicate or with optional inversions. -/
  | por (p : Pos) (f : Fields)
  /-- PXOR (R142). Predicate exclusive or with optional inversions. -/
  | pxor (p : Pos) (f : Fields)
  /-- PSET (R143). Writes a predicate from a source value. -/
  | pset (p : Pos) (f : Fields)
  /-- PGET (R143). Writes low bits of a predicate to scalar slices. -/
  | pget (p : Pos) (f : Fields)
  /-- XFER (R144). Copies slices from the other bench's file. -/
  | xfer (p : Pos) (f : Fields)
  /-- FADD (R145). Scalar floating add rounded once. -/
  | fadd (p : Pos) (f : Fields)
  /-- FSUB (R145). Scalar floating subtract rounded once. -/
  | fsub (p : Pos) (f : Fields)
  /-- FMUL (R145). Scalar floating multiply rounded once. -/
  | fmul (p : Pos) (f : Fields)
  /-- FMA (R145). Scalar fused multiply-add into the destination. -/
  | fma (p : Pos) (f : Fields)
  /-- FDIV (R145). Scalar floating divide rounded once. -/
  | fdiv (p : Pos) (f : Fields)
  /-- FMIN (R146). Scalar floating minimum. -/
  | fmin (p : Pos) (f : Fields)
  /-- FMAX (R146). Scalar floating maximum. -/
  | fmax (p : Pos) (f : Fields)
  /-- FCMP (R147). Scalar floating compare into a predicate. -/
  | fcmp (p : Pos) (f : Fields)
  /-- FCVT (R148). Converts between floating and tapered formats. -/
  | fcvt (p : Pos) (f : Fields)
  /-- ICVT (R148). Converts between integer and floating formats. -/
  | icvt (p : Pos) (f : Fields)
  /-- KLD (R153). Loads scale registers from scratchpad bytes. -/
  | kld (p : Pos) (f : Fields)
  /-- KMOV (R153). Copies one scale register to another. -/
  | kmov (p : Pos) (f : Fields)
  /-- KBIND (R153). Binds scale registers to A, B and output. -/
  | kbind (p : Pos) (f : Fields)
  /-- KFMT (R153). Sets the matrix operand and output formats in KB. -/
  | kfmt (p : Pos) (f : Fields)
  /-- KADD (R153). Adds to a scale register with clamping. -/
  | kadd (p : Pos) (f : Fields)
  /-- KSUB (R153). Subtracts from a scale register with clamping. -/
  | ksub (p : Pos) (f : Fields)
  /-- KLI (R153). Loads an immediate into a scale register. -/
  | kli (p : Pos) (f : Fields)
  /-- KCLR (R153). Clears all sixteen scale registers. -/
  | kclr (p : Pos) (f : Fields)
  /-- LD (R159). Scalar scratchpad load. -/
  | ld (p : Pos) (f : Fields)
  /-- ST (R159). Scalar scratchpad store. -/
  | st (p : Pos) (f : Fields)
  /-- VLD (R160). Loads 64 contiguous elements from scratchpad. -/
  | vld (p : Pos) (f : Fields)
  /-- VST (R160). Stores 64 contiguous elements to scratchpad. -/
  | vst (p : Pos) (f : Fields)
  /-- VLDS (R161). Strided vector scratchpad load. -/
  | vlds (p : Pos) (f : Fields)
  /-- VSTS (R161). Strided vector scratchpad store. -/
  | vsts (p : Pos) (f : Fields)
  /-- VLDX (R161). Indexed vector scratchpad load. -/
  | vldx (p : Pos) (f : Fields)
  /-- VSTX (R161). Indexed vector scratchpad store. -/
  | vstx (p : Pos) (f : Fields)
  /-- GATH (R161). Gathers lanes from per-lane scratchpad addresses of either form. -/
  | gath (p : Pos) (f : Fields)
  /-- SCAT (R161). Scatters lanes to per-lane scratchpad addresses of either form. -/
  | scat (p : Pos) (f : Fields)
  /-- FLD (R168). Enqueues a far or vault load completing a token. -/
  | fld (p : Pos) (f : Fields)
  /-- FST (R168). Enqueues a far or vault store completing a token. -/
  | fst (p : Pos) (f : Fields)
  /-- FLDV (R169). Enqueues a copy of lines from far or vault memory into scratchpad. -/
  | fldv (p : Pos) (f : Fields)
  /-- FSTV (R169). Enqueues a copy of lines from scratchpad to far or vault memory. -/
  | fstv (p : Pos) (f : Fields)
  /-- SPILL (R166). Stores scalar slices to scratchpad nibbles. -/
  | spill (p : Pos) (f : Fields)
  /-- FILL (R166). Loads scalar slices from scratchpad nibbles. -/
  | fill (p : Pos) (f : Fields)
  /-- VSPILL (R166). Stores vector slices to scratchpad nibbles. -/
  | vspill (p : Pos) (f : Fields)
  /-- VFILL (R166). Loads vector slices from scratchpad nibbles. -/
  | vfill (p : Pos) (f : Fields)
  /-- AMO (R170). Enqueues a memory-side atomic read-modify-write. -/
  | amo (p : Pos) (f : Fields)
  /-- AMOCAS (R171). Enqueues a compare-and-swap or swap atomic. -/
  | amocas (p : Pos) (f : Fields)
  /-- PROBE (R173). Enqueues a translation probe of a byte range. -/
  | probe (p : Pos) (f : Fields)
  /-- CWB (R174). Writes back dirty NC lines of the cluster cache. -/
  | cwb (p : Pos) (f : Fields)
  /-- CINV (R174). Drops NC lines of the cluster cache. -/
  | cinv (p : Pos) (f : Fields)
  /-- CWBI (R174). Writes back and drops NC lines of the cluster cache. -/
  | cwbi (p : Pos) (f : Fields)
  /-- QFENCE (R175). Stalls until earlier commands on masked queues have performed. -/
  | qfence (p : Pos) (f : Fields)
  /-- VLDB (R159). Loads one element and broadcasts it to every lane. -/
  | vldb (p : Pos) (f : Fields)
  /-- TAG (R165). Marks a scratchpad word's tag empty. -/
  | tag (p : Pos) (f : Fields)
  /-- TAGRD (R165). Reads a scratchpad word's tag. -/
  | tagrd (p : Pos) (f : Fields)
  /-- VADD (R185). Lane-wise add. -/
  | vadd (p : Pos) (f : Fields)
  /-- VSUB (R185). Lane-wise subtract. -/
  | vsub (p : Pos) (f : Fields)
  /-- VMUL (R185). Lane-wise multiply. -/
  | vmul (p : Pos) (f : Fields)
  /-- VMULH (R185). Lane-wise high product. -/
  | vmulh (p : Pos) (f : Fields)
  /-- VFMA (R186). Lane-wise multiply-add into the destination. -/
  | vfma (p : Pos) (f : Fields)
  /-- VFMS (R186). Lane-wise multiply minus the destination. -/
  | vfms (p : Pos) (f : Fields)
  /-- VFNMA (R186). Lane-wise destination minus product. -/
  | vfnma (p : Pos) (f : Fields)
  /-- VMIN (R185). Lane-wise minimum. -/
  | vmin (p : Pos) (f : Fields)
  /-- VMAX (R185). Lane-wise maximum. -/
  | vmax (p : Pos) (f : Fields)
  /-- VABS (R187). Lane-wise absolute value. -/
  | vabs (p : Pos) (f : Fields)
  /-- VNEG (R187). Lane-wise negation. -/
  | vneg (p : Pos) (f : Fields)
  /-- VADDS (R185). Lane-wise saturating add. -/
  | vadds (p : Pos) (f : Fields)
  /-- VSUBS (R185). Lane-wise saturating subtract. -/
  | vsubs (p : Pos) (f : Fields)
  /-- VAND (R185). Lane-wise bitwise and. -/
  | vand (p : Pos) (f : Fields)
  /-- VOR (R185). Lane-wise bitwise or. -/
  | vor (p : Pos) (f : Fields)
  /-- VXOR (R185). Lane-wise bitwise exclusive or. -/
  | vxor (p : Pos) (f : Fields)
  /-- VSLL (R185). Lane-wise logical left shift. -/
  | vsll (p : Pos) (f : Fields)
  /-- VSRL (R185). Lane-wise logical right shift. -/
  | vsrl (p : Pos) (f : Fields)
  /-- VSRA (R185). Lane-wise arithmetic right shift. -/
  | vsra (p : Pos) (f : Fields)
  /-- VCLZ (R185). Lane-wise leading-zero count. -/
  | vclz (p : Pos) (f : Fields)
  /-- VPOPC (R185). Lane-wise population count. -/
  | vpopc (p : Pos) (f : Fields)
  /-- VCMP (R191). Lane-wise compare into predicate bits. -/
  | vcmp (p : Pos) (f : Fields)
  /-- VSEL (R192). Lane-wise select by predicate. -/
  | vsel (p : Pos) (f : Fields)
  /-- VMOV (R185). Lane-wise move. -/
  | vmov (p : Pos) (f : Fields)
  /-- VLI (R185). Loads an immediate into every lane. -/
  | vli (p : Pos) (f : Fields)
  /-- VEXT (R185). Lane-wise bit-field extraction. -/
  | vext (p : Pos) (f : Fields)
  /-- VCVT (R190). Lane-wise format conversion. -/
  | vcvt (p : Pos) (f : Fields)
  /-- VRND (R189). Lane-wise rounding to integral value. -/
  | vrnd (p : Pos) (f : Fields)
  /-- VSCALE (R188). Lane-wise power-of-two scaling rounded once. -/
  | vscale (p : Pos) (f : Fields)
  /-- VRCP (R194). Lane-wise reciprocal. -/
  | vrcp (p : Pos) (f : Fields)
  /-- VRSQRT (R194). Lane-wise reciprocal square root. -/
  | vrsqrt (p : Pos) (f : Fields)
  /-- VEXP2 (R194). Lane-wise power of two. -/
  | vexp2 (p : Pos) (f : Fields)
  /-- VLOG2 (R194). Lane-wise base-2 logarithm. -/
  | vlog2 (p : Pos) (f : Fields)
  /-- VRED (R196). Reduces enabled lanes into every enabled lane. -/
  | vred (p : Pos) (f : Fields)
  /-- VSCAN (R196). Inclusive scan over enabled lanes. -/
  | vscan (p : Pos) (f : Fields)
  /-- VPERM (R197). Permutes lanes by index. -/
  | vperm (p : Pos) (f : Fields)
  /-- VBCAST (R197). Broadcasts one lane to all. -/
  | vbcast (p : Pos) (f : Fields)
  /-- VROT (R197). Rotates lanes. -/
  | vrot (p : Pos) (f : Fields)
  /-- VSLIDE (R197). Slides lanes up or down with zero fill. -/
  | vslide (p : Pos) (f : Fields)
  /-- VIOTA (R185). Writes a plus lane number times b. -/
  | viota (p : Pos) (f : Fields)
  /-- VPACK (R198). Packs groups of lanes into one lane. -/
  | vpack (p : Pos) (f : Fields)
  /-- VUNPACK (R199). Unpacks packed elements into lanes. -/
  | vunpack (p : Pos) (f : Fields)
  /-- VDOT (R202). Lane-wise narrow signed dot product accumulated into 32 bits. -/
  | vdot (p : Pos) (f : Fields)
  /-- VDOTSU (R202). Lane-wise signed-by-unsigned dot product. -/
  | vdotsu (p : Pos) (f : Fields)
  /-- VPSET (R193). Sets predicate bits from nonzero lanes. -/
  | vpset (p : Pos) (f : Fields)
  /-- VPGET (R193). Writes predicate bits into lanes. -/
  | vpget (p : Pos) (f : Fields)
  /-- VFIRST (R193). Writes the index of the lowest set predicate bit. -/
  | vfirst (p : Pos) (f : Fields)
  /-- MCALL (R212). Enqueues a matrix routine call capturing parameters and scales. -/
  | mcall (p : Pos) (f : Fields)
  /-- MPSET (R211). Writes a matrix parameter register. -/
  | mpset (p : Pos) (f : Fields)
  /-- MLOAD (R213). Enqueues loading of a writable matrix routine. -/
  | mload (p : Pos) (f : Fields)
  /-- SMCOPY (R214). Enqueues a copy into sparsity side memory. -/
  | smcopy (p : Pos) (f : Fields)
  /-- NCOPY (R220). Enqueues a six-dimensional block copy. -/
  | ncopy (p : Pos) (f : Fields)
  /-- EGATH (R222). Enqueues a row gather from a table. -/
  | egath (p : Pos) (f : Fields)
  /-- ESCAT (R222). Enqueues a row scatter to a table. -/
  | escat (p : Pos) (f : Fields)
  /-- MCAST (R223). Enqueues a multicast to members' banks. -/
  | mcast (p : Pos) (f : Fields)
  /-- MCASTB (R223). Enqueues a multicast that ends with a barrier arrival. -/
  | mcastb (p : Pos) (f : Fields)
  /-- COLL (R226). Enqueues a collective across gang members. -/
  | coll (p : Pos) (f : Fields)
  /-- TNLD (R225). Enqueues a tile load through a Marver unit. -/
  | tnld (p : Pos) (f : Fields)
  /-- TNST (R225). Enqueues a tile store through a Marver unit. -/
  | tnst (p : Pos) (f : Fields)
  /-- TNPF (R225). Enqueues a tile prefetch into the memory-side cache. -/
  | tnpf (p : Pos) (f : Fields)
  /-- EMIT (R228). Enqueues an action chunk for emission at an instant. -/
  | emit (p : Pos) (f : Fields)
  /-- ESTAT (R230). Reads engine queue and routine status. -/
  | estat (p : Pos) (f : Fields)
  /-- ACCLD (R215). Enqueues a copy of raw words into the accumulators. -/
  | accld (p : Pos) (f : Fields)
  /-- ACCST (R215). Enqueues a copy of raw accumulator words out. -/
  | accst (p : Pos) (f : Fields)
  /-- ADRAIN (R216). Enqueues a converting drain of accumulators. -/
  | adrain (p : Pos) (f : Fields)
  /-- ACLR (R217). Enqueues clearing of accumulator rows. -/
  | aclr (p : Pos) (f : Fields)
  /-- ECANCEL (R231). Removes unstarted engine commands in masked queues. -/
  | ecancel (p : Pos) (f : Fields)
  /-- EBAR (R231). Completes once earlier engine commands have completed, optionally releasing. -/
  | ebar (p : Pos) (f : Fields)
  /-- BUNDLE_ISSUE (R89). The sequencer fetches a bundle, checks it as a whole and issues it or one repetition of it. -/
  | bundleIssue (core : Nat)
  /-- EMPTY_BUNDLE (R87). A bundle with no slot words issues and counts as one bundle issued per repetition. -/
  | emptyBundle (core : Nat)
  /-- RESULT_LANDS (R22). An exposed-latency result lands in its destination when its bundle count expires. -/
  | resultLands (core : Nat)
  /-- STALL_RELEASE (R32). A stalled bundle issues once the token completion or resource it waited for arrives. -/
  | stallRelease (core : Nat)
  /-- PHASE_COMPLETE (R124). Once its waits end the phase releases, acquires and advances PHASE. -/
  | phaseComplete (core : Nat)
  /-- ENGINE_COMMAND_START (R207). An engine takes a queued command once its order and wait operand allow it. -/
  | engineCommandStart (cid : Nat)
  /-- ENGINE_COMMAND_COMPLETE (R206). An engine command finishes and completes its token with an ecode. -/
  | engineCommandComplete (cid : Nat)
  /-- COLL_START (R226). A collective starts once every selected member has issued a matching coll. -/
  | collStart (cid : Nat)
  /-- UOP_END (R277). Ends the routine once all work has finished. -/
  | uopEnd (core : Nat) (u : MicroOp)
  /-- UOP_NOP (R277). Does nothing. -/
  | uopNop (core : Nat) (u : MicroOp)
  /-- UOP_SETI (R277). Sets a routine register to an immediate. -/
  | uopSeti (core : Nat) (u : MicroOp)
  /-- UOP_SETP (R277). Sets a routine register from a matrix parameter field. -/
  | uopSetp (core : Nat) (u : MicroOp)
  /-- UOP_MAD (R277). Multiply-adds routine registers. -/
  | uopMad (core : Nat) (u : MicroOp)
  /-- UOP_LOOP (R277). Starts a routine loop or skips it. -/
  | uopLoop (core : Nat) (u : MicroOp)
  /-- UOP_ENDL (R277). Closes a routine loop iteration. -/
  | uopEndl (core : Nat) (u : MicroOp)
  /-- UOP_LDW (R278). Loads a weight block into a buffer. -/
  | uopLdw (core : Nat) (u : MicroOp)
  /-- UOP_MMA (R278). Multiplies A rows by a weight block into accumulators. -/
  | uopMma (core : Nat) (u : MicroOp)
  /-- UOP_ACLR (R277). Clears accumulator rows. -/
  | uopAclr (core : Nat) (u : MicroOp)
  /-- UOP_MSK (R277). Masks accumulator words above a diagonal. -/
  | uopMsk (core : Nat) (u : MicroOp)
  /-- UOP_DRN (R279). Drains accumulator rows converted to memory. -/
  | uopDrn (core : Nat) (u : MicroOp)
  /-- UOP_BWT (R277). Arrives at a barrier and waits for the episode. -/
  | uopBwt (core : Nat) (u : MicroOp)
  /-- UOP_BAR (R277). Optionally releases and makes one barrier arrival. -/
  | uopBar (core : Nat) (u : MicroOp)
  /-- OFFCORE_COMMAND_PERFORM (R167). An off-core queue command performs and completes its token. -/
  | offcoreCommandPerform (cid : Nat)
  /-- CTX_KILLED (R253). Another sequencer of a failed grid ends at its next bundle boundary. -/
  | ctxKilled (ctx : Nat)
  /-- SEQUENCER_END (R116). A retired sequencer ends once its pending tokens complete. -/
  | sequencerEnd (ctx : Nat)
  /-- GRID_END (R253). When every sequencer of a grid has ended its resources are freed and released. -/
  | gridEnd (gkey : Nat)
  /-- TRAP_RECORD_ENQUEUE (R256). A stop's record enters the supervisor trap ring when there is room. -/
  | trapRecordEnqueue (cluster : Nat)
  /-- CONTEXT_SAVE (R247). A yielding context is saved to its image after its tokens complete. -/
  | contextSave (ctx : Nat)
  /-- PAGE_WALK_COMPLETE (R333). A memory-side page walk finishes with a translation or a fault code. -/
  | pageWalkComplete (part : Nat) (ia : Nat)
  /-- FAULT_ENTRY_CREATE (R338). A probing fault creates or merges into a fault entry once room exists. -/
  | faultEntryCreate (cid : Nat)
  /-- FQ_REPLAY (R339). Resolve action 1 makes every waiter walk again. -/
  | fqReplay (cluster : Nat) (seq : Nat)
  /-- FQ_REFUSE (R339). Resolve action 2 completes each waiter's token with a refusal code. -/
  | fqRefuse (cluster : Nat) (seq : Nat) (code : Nat)
  /-- FQ_EXHAUSTED (R339). Resolve action 3 ends each waiter's grid with MEM_EXHAUSTED. -/
  | fqExhausted (cluster : Nat) (seq : Nat)
  /-- RANGE_ENTRY_COMMIT (R330). A write of XLT_RNG_DATA3 commits or refuses a range entry. -/
  | rangeEntryCommit (cluster : Nat) (value : Word)
  /-- XLT_INV (R342). Starts invalidation of translation entries for a granule range. -/
  | xltInv (part : Nat) (value : Word)
  /-- XLT_INV_DONE (R342). Invalidation busy clears once all overlapping entries are gone. -/
  | xltInvDone (part : Nat)
  /-- SWAP_START (R343). XLT_SWAP_CMD starts a far-near page swap or is refused. -/
  | swapStart (part : Nat)
  /-- SWAP_LINE (R343). The swap engine exchanges one line and sets its progress bit. -/
  | swapLine (part : Nat)
  /-- XLT_CLR_ADD (R345). Hands frames to the clear engine after dropping their cached lines. -/
  | xltClrAdd (part : Nat) (value : Word)
  /-- CLEAR_SWEEP_LINE (R345). The clear engine zeroes the next uncleared line. -/
  | clearSweepLine (part : Nat)
  /-- CTX_SAVE_CMD (R257). Supervisor op 1 saves a stopped context to an image. -/
  | ctxSaveCmd (cluster : Nat) (ctx : Nat)
  /-- CTX_RESTORE_CMD (R257). Supervisor op 2 restores a context from its image and resumes it. -/
  | ctxRestoreCmd (cluster : Nat) (ctx : Nat)
  /-- CTX_END_CMD (R257). Supervisor op 3 ends a context with CTX_KILLED. -/
  | ctxEndCmd (cluster : Nat) (ctx : Nat)
  /-- TASK_COMMIT (R367). The Lehr commits a committable frontier task and publishes its writes. -/
  | taskCommit (part : Nat) (dom : Nat)
  /-- LEHR_STALL_ABORT (R366). After 2 µs of a stalled domain the last stalled task is aborted. -/
  | lehrStallAbort (part : Nat) (dom : Nat)
  /-- ABORT_REDIRECT (R369). An aborted running task's sequencer is redirected to its take's no-task path. -/
  | abortRedirect (ctx : Nat)
  /-- LAUNCH_CONSUME (R381). The Gaffer consumes a descriptor from the device submission ring. -/
  | launchConsume (part : Nat)
  /-- HOST_QUEUE_CONSUME (R428). The Gaffer consumes a launch descriptor from a host queue. -/
  | hostQueueConsume (queue : Nat)
  /-- LAUNCH_RELEASE (R382). A launch reaching its release time is set up or refused. -/
  | launchRelease (gkey : Nat)
  /-- GANG_PLACE (R383). The Gaffer places the next gang of a grid when resources allow. -/
  | gangPlace (gkey : Nat)
  /-- SLICE_EXPIRY (R388). A launch gang that used its time slice while another waits is asked to yield. -/
  | sliceExpiry (gkey : Nat) (gang : Nat)
  /-- YIELD_LATE (R389). A yield exceeding its bound is counted in GAF_YIELD_LATE. -/
  | yieldLate (gkey : Nat) (gang : Nat)
  /-- TOKEN_ARRIVAL (R403). The endpoint writes a sensor token into its session ring or refuses it. -/
  | tokenArrival (session : Nat) (port : Nat) (payload : List Byte)
  /-- UNSUPPORTED_PACKET (R400). Traffic using an unsupported transport part is dropped or refused and counted. -/
  | unsupportedPacket (packet : BadPacket)
  /-- JOB_RELEASE (R404). A session job is released at its release instant and keyed. -/
  | jobRelease (job : Nat)
  /-- DEADLINE_MISS (R398). A job still running at its deadline is ended and counted as a miss. -/
  | deadlineMiss (gkey : Nat)
  /-- HOLD_CHUNK_EMIT (R397). At an emission instant the Gaffer emits the session's hold chunk. -/
  | holdChunkEmit (part : Nat) (session : Nat)
  /-- EMISSION_DEPARTURE (R410). A queued chunk departs on its port at its instant or is dropped as LATE. -/
  | emissionDeparture (port : Nat)
  /-- MIRROR_COPY (R411). After an action job the mirror source is copied to the shadow and committed. -/
  | mirrorCopy (gkey : Nat)
  /-- FAILOVER_SWITCH (R412). On the primary's reset the endpoint switches the session to the shadow die. -/
  | failoverSwitch (session : Nat)
  /-- SESSION_ADMIT (R393). GAF_SES_CMD op 1 admits the selected session or refuses it. -/
  | sessionAdmit (part : Nat)
  /-- SESSION_CLOSE (R393). GAF_SES_CMD op 2 closes the selected session. -/
  | sessionClose (part : Nat)
  /-- SESSION_CLOSE_DONE (R393). A closing session becomes FREE once its running jobs end. -/
  | sessionCloseDone (part : Nat) (session : Nat)
  /-- SESSION_FORCE_LEVEL (R396). GAF_SES_CMD op 3 forces a session's level. -/
  | sessionForceLevel (part : Nat) (level : Nat)
  /-- SESSION_FORCE_RELEASE (R396). Op 3 with bit 10 releases a forced level. -/
  | sessionForceRelease (part : Nat)
  /-- SESSION_SUSPEND (R430). After 64 periods without a host a session is suspended. -/
  | sessionSuspend (part : Nat) (session : Nat)
  /-- DSQ_ENABLE (R381). Enabling the submission ring zeroes its indices and clears overrun. -/
  | dsqEnable (part : Nat) (value : Word)
  /-- PTP_EVENT_MESSAGE (R406). A 1588 event message is stamped and disciplines the time unit. -/
  | ptpEventMessage (port : Nat) (message : PtpEvent) (rate : Int)
  /-- HOLDOVER (R407). After 8 sync intervals without a usable sync the unit reports holdover. -/
  | holdover
  /-- PTM_STEP (R408). Steps the time count forward. -/
  | ptmStep (value : Word)
  /-- DIR_RD (R324). The home handles a cluster read miss. -/
  | dirRd (cluster : Nat) (line : Nat)
  /-- DIR_WN (R324). The home records a cluster's first dirty byte. -/
  | dirWn (cluster : Nat) (line : Nat)
  /-- DIR_EVC (R324). The home removes a cluster's dropped clean copy. -/
  | dirEvc (cluster : Nat) (line : Nat)
  /-- DIR_WB (R324). The home merges a cluster write-back and invalidates others. -/
  | dirWb (cluster : Nat) (line : Nat) (evict : Bool)
  /-- DIR_HW (R324). An atomic or engine write performs at home and invalidates sharers. -/
  | dirHw (line : Nat)
  /-- DIR_VIC (R325). A victimised directory entry back-invalidates its holders. -/
  | dirVic (line : Nat)
  /-- WHEEL_TURN (R300). A channel serves the request of its current wheel position. -/
  | wheelTurn (stack : Nat) (ch : Nat)
  /-- ROW_HAMMER_THROTTLE (R301). The 1024th activation of a row occupies the bank and charges the tenant. -/
  | rowHammerThrottle (stack : Nat) (ch : Nat) (bank : Nat) (row : Nat)
  /-- ROW_HAMMER_REFRESH_END (R301). After 320 ns the throttled bank is released. -/
  | rowHammerRefreshEnd (stack : Nat) (ch : Nat) (bank : Nat)
  /-- ECC_UNCORRECTABLE (R303). An uncorrectable error poisons a word or resets the partition. -/
  | eccUncorrectable (store : Nat) (unit : Nat) (addr : Nat)
  /-- PARTITION_RESET (R254). An unrecoverable fault resets one partition and ends its contexts. -/
  | partitionReset (part : Nat) (cls : Nat)
  /-- PARTITION_RESET_DONE (R254). The reset partition becomes present again. -/
  | partitionResetDone (part : Nat)
  /-- MERGE_PAIR (R423). PRT_QCMD op 1 merges a pair of dies. -/
  | mergePair (pair : Nat)
  /-- SPLIT_PAIR (R423). PRT_QCMD op 2 splits a pair. -/
  | splitPair (pair : Nat)
  /-- MERGE_W (R423). PRT_QCMD op 3 merges H0 and H1 into W. -/
  | mergeW
  /-- SPLIT_W (R423). PRT_QCMD op 4 splits W. -/
  | splitW
  /-- PARTITION_QUIET (R424). The drain step becomes quiet and flushing begins. -/
  | partitionQuiet
  /-- QUIESCE_TIMEOUT (R424). PRT_QTIMEOUT passes and the command is refused. -/
  | quiesceTimeout
  /-- PARTITION_FLUSH_DONE (R423). After the flush the configuration is rewritten in one commit. -/
  | partitionFlushDone
  /-- LEASE_RENEW (R426). A port renews or takes the lease. -/
  | leaseRenew (port : Nat)
  /-- LEASE_EXPIRY (R426). The lease lapses to the armed port or to host-less running. -/
  | leaseExpiry
  /-- DOORBELL (R429). A submission doorbell write is accepted, ignored or overruns. -/
  | doorbell (port : Nat) (value : Word)
  /-- QUEUE_RESET (R429). HIF_Q_RESET resets a queue pair's indices and state. -/
  | queueReset (port : Nat)
  /-- CSQ_UPDATE (R431). A cross-side queue index update raises an interrupt or overrun. -/
  | csqUpdate (queue : Nat)
  /-- HOST_LINK_DOWN (R425). A host link goes down and host-homed memory behind it becomes inaccessible. -/
  | hostLinkDown (port : Nat)
  /-- CLAIM (R433). A party claims a resource. -/
  | claim (res : Nat) (who : Nat)
  /-- CLAIM_RELEASE (R433). The owner releases a claim. -/
  | claimRelease (res : Nat) (who : Nat)
  /-- CLAIM_HANDOVER (R433). The owner hands a claim to another party. -/
  | claimHandover (res : Nat) (who : Nat) (target : Nat)
  /-- DBG_SAVE (R437). RED_DBG_CMD op 1 saves a debug-stopped context. -/
  | dbgSave (cluster : Nat) (ctx : Nat)
  /-- DBG_RESTORE (R437). RED_DBG_CMD op 2 restores and resumes a context. -/
  | dbgRestore (cluster : Nat) (ctx : Nat)
  /-- DBG_RESUME (R437). RED_DBG_CMD op 3 resumes a context unchanged. -/
  | dbgResume (cluster : Nat) (ctx : Nat)
  /-- HIST_SAMPLE (R439). At each sampling period every core is sampled into the histogram. -/
  | histSample (cluster : Nat)
  /-- HIST_WINDOW_END (R439). A window's histogram table is written out and cleared. -/
  | histWindowEnd (cluster : Nat)
  /-- STALL_RATIO_WINDOW (R441). At each 10 µs window end the stall and compute ratios update. -/
  | stallRatioWindow (core : Nat)
  /-- COUNTER_LOW_READ (R442). A low-half counter read sets the function's latch. -/
  | counterLowRead (fn : Nat) (core : Nat) (k : Nat)
  /-- COUNTER_HIGH_READ (R442). A high-half counter read returns and clears the latch. -/
  | counterHighRead (fn : Nat) (core : Nat) (k : Nat)
  /-- DVF_REQUEST (R445). A DVF_REQ write is checked and starts an operating-point change. -/
  | dvfRequest (island : Nat) (value : Word)
  /-- VOLTAGE_STEP (R446). The island voltage moves one 10 mV step every 100 ns. -/
  | voltageStep (island : Nat)
  /-- CLOCK_RESTART (R446). After a 400 ns stop the island clock restarts at the new frequency. -/
  | clockRestart (island : Nat)
  /-- THERMAL_THROTTLE (R448). At 110 °C the island is throttled to the floor point. -/
  | thermalThrottle (island : Nat)
  /-- THROTTLE_CLEAR (R448). Throttled clears when temperature falls below T_hi. -/
  | throttleClear (island : Nat) (celsius : Nat)
  /-- ATTESTATION_REQUEST (R458). HIF_ATT_CMD captures nonce and measurements for a report. -/
  | attestationRequest (port : Nat) (value : Word)
  /-- ATTESTATION_DONE (R458). The signed report is written and busy clears. -/
  | attestationDone (port : Nat)
  /-- POWER_ON (R456). The supply ramps and the boot sequence runs. -/
  | powerOn
  /-- PACKAGE_RESET (R459). PERST on both ports or a watchdog resets the part and reboots. -/
  | packageReset
  /-- SINGLE_PORT_PERST (R459). PERST on one port resets only that port's link. -/
  | singlePortPerst (port : Nat)
  /-- VF_RESET (R459). A function-level reset resets a virtual function's queues, claims and memory. -/
  | vfReset (vf : Nat)
  /-- REGISTER_WRITE (R294). A write to a register without behaviour of its own stores, clamps or is ignored. -/
  | registerWrite (who : Party) (reg : RegAddr) (value : Word)
  /-- HOST_LINK_UP (R425). A host port's link comes up again, so host-homed memory behind it is reachable and walks stop failing HOST_DOWN. -/
  | hostLinkUp (port : Nat)
  /-- ECC_CORRECTED (R303). A correctable error is found, repaired in place and reported with a CORRECTED error record. -/
  | eccCorrected (store : Nat) (unit : Nat) (addr : Nat)
  /-- REFRESH_WINDOW_END (R301). A bank's 32 ms refresh window ends and its per-row activation counts start again. -/
  | refreshWindowEnd (stack : Nat) (ch : Nat) (bank : Nat)
  /-- PTP_GENERAL_MESSAGE (R406). A 1588 general message such as Follow_Up or Delay_Resp is received and used for two-step sync or delay measurement. -/
  | ptpGeneralMessage (port : Nat) (kind : Nat) (origin : Int)
  /-- SUPERVISOR_FENCE (R319). A supervisor core executes FENCE, which acts as a partition-scope release and acquire, or FENCE.I. -/
  | supervisorFence (cluster : Nat) (code : Bool)
  /-- SUPERVISOR_STORE (R319). A supervisor core stores through its cluster cache, for example to page tables, save images or an instruction store. -/
  | supervisorStore (cluster : Nat) (ia : Nat) (data : List Byte)
  /-- HOST_BAR2_WRITE (R425). A host writes vault memory through BAR2, such as queue descriptors, ring indices or cross-side queue entries. -/
  | hostBar2Write (port : Nat) (vault : Nat) (data : List Byte)
  deriving DecidableEq, Repr

end Sys2Proof
end

