-- ==== Sys2Proof/Decode.lean ====
section
/-!
DEFINITION. Decoding bundles and slot words (spec/03 R64-R68, R73, R78, R91, R92), and the encoder beside it. Decoding
is total: a bundle cut short, or a code that is unassigned in its class, is rejected by name. The checks of R89 on the
fields of an accepted word are in Machine/Checks.lean.
-/

namespace Sys2Proof

/-! ### Bit-field helpers -/

/-- Bits lo+n-1 .. lo of a number, as a vector of n bits. -/
def bitsAt (x lo n : Nat) : BitVec n := BitVec.ofNat n (x >>> lo)

/-- A little-endian number from bytes (spec/02 R47). -/
def ofBytesLE : List Byte → Nat
  | [] => 0
  | b :: bs => b.toNat + 256 * ofBytesLE bs

/-- The `n` low bytes of a number, little-endian (spec/02 R47). -/
def toBytesLE : Nat → Nat → List Byte
  | 0, _ => []
  | n + 1, x => BitVec.ofNat 8 x :: toBytesLE n (x / 256)

/-- Sign extension of the low `w` bits of a number to an integer. -/
def signed (w x : Nat) : Int :=
  let u := x % 2 ^ w
  if w ≠ 0 ∧ u.testBit (w - 1) then (u : Int) - 2 ^ w else (u : Int)

/-- An integer taken modulo 2^w, as a 64-bit word (w at most 64). -/
def narrow (w : Nat) (x : Int) : Word := BitVec.ofNat 64 (x % 2 ^ w).toNat

/-! ### Fields of a slot word -/

/-- The kind that two bits name (R69). -/
def Kind.ofBits (b : BitVec 2) : Kind :=
  match b.toNat with
  | 0 => .slices
  | 1 => .common
  | 2 => .special
  | _ => .imm

/-- The two bits of a kind (R69). -/
def Kind.toBits : Kind → BitVec 2
  | .slices => 0
  | .common => 1
  | .special => 2
  | .imm => 3

/-- An operand field from its twelve bits (R68). -/
def Operand.ofBits (b : BitVec 12) : Operand := ⟨b.extractLsb' 4 8, b.extractLsb' 0 4⟩

/-- The twelve bits of an operand field (R68). -/
def Operand.toBits (o : Operand) : BitVec 12 := o.start ++ o.wm1

/-- Width of an operand field in slices (spec/03 R68). -/
def Operand.slices (o : Operand) : Nat := o.wm1.toNat + 1
/-- Width of an operand field in bits. -/
def Operand.bits (o : Operand) : Nat := 4 * o.slices
/-- The signed 12-bit immediate of an operand field (R69). -/
def Operand.imm (o : Operand) : Int := (o.toBits).toInt
/-- The register number of a common operand (R69). -/
def Operand.reg (o : Operand) : Nat := o.start.toNat % 32

/-- The fields of a slot word (R67). -/
def Fields.ofWord (w : Word) : Fields where
  fmt := w.extractLsb' 54 4
  pneg := w.getLsbD 53
  pidx := w.extractLsb' 47 6
  dst := Operand.ofBits (w.extractLsb' 35 12)
  src1 := Operand.ofBits (w.extractLsb' 23 12)
  src2 := Operand.ofBits (w.extractLsb' 11 12)
  k1 := Kind.ofBits (w.extractLsb' 9 2)
  k2 := Kind.ofBits (w.extractLsb' 7 2)
  mod := w.extractLsb' 0 7

/-- A slot word from its opcode and fields (R67). -/
def Fields.toWord (code : BitVec 6) (f : Fields) : Word :=
  code ++ f.fmt ++ BitVec.ofBool f.pneg ++ f.pidx ++ f.dst.toBits ++ f.src1.toBits ++ f.src2.toBits
    ++ f.k1.toBits ++ f.k2.toBits ++ f.mod

/-- The 23-bit immediate of the wide form (R73). -/
def Fields.imm23 (f : Fields) : BitVec 23 := f.src2.toBits ++ f.k1.toBits ++ f.k2.toBits ++ f.mod

/-- The wide immediate, sign-extended. -/
def Fields.wide (f : Fields) : Int := f.imm23.toInt

/-! ### Slots and classes -/

/-- Opcode classes (R66). -/
inductive Cls where
  | c | a | m | v | e | k
  deriving DecidableEq, Repr

/-- The class of a slot position (R66). -/
def Pos.cls : Pos → Cls
  | .c => .c
  | .a0 | .a1 => .a
  | .m0 | .m1 => .m
  | .v0 | .v1 => .v
  | .e => .e
  | .k => .k

/-- The slot index (R66). -/
def Pos.index : Pos → Nat
  | .c => 0
  | .a0 => 1
  | .a1 => 2
  | .m0 => 3
  | .m1 => 4
  | .v0 => 5
  | .v1 => 6
  | .e => 7
  | .k => 8

/-- The bench of a slot: true for bench 1 (R16, R66). -/
def Pos.bench : Pos → Bool
  | .a1 | .m1 | .v1 => true
  | _ => false

/-- The slots in encoding order (R64). -/
def Pos.all : List Pos := [.c, .a0, .a1, .m0, .m1, .v0, .v1, .e, .k]

/-! ### The opcode map (R91) -/

/-- Class C of the opcode map (R91); a dash is `none` (R92). -/
def decodeC (code : Nat) (p : Pos) (f : Fields) : Option Instr :=
  match code with
  | 1 => some (.br p f)
  | 2 => some (.jmp p f)
  | 3 => some (.call p f)
  | 4 => some (.callc p f)
  | 5 => some (.ret p f)
  | 6 => some (.loop p f)
  | 7 => some (.loopd p f)
  | 8 => some (.loopx p f)
  | 9 => some (.fork p f)
  | 10 => some (.forkr p f)
  | 11 => some (.join p f)
  | 12 => some (.take p f)
  | 13 => some (if f.mod.getLsbD 0 then .retireT p f else .retire p f)
  | 14 => some (.yield p f)
  | 15 => some (.fget p f)
  | 16 => some (.fput p f)
  | 17 => some (.phase p f)
  | 18 => some (.binit p f)
  | 19 => some (.barrive p f)
  | 20 => some (.bwait p f)
  | 21 => some (.frd p f)
  | 22 => some (.lvlrd p f)
  | 23 => some (.emrd p f)
  | 24 => some (.srd p f)
  | 25 => some (.swr p f)
  | 26 => some (.ecall p f)
  | 27 => some (.trap p f)
  | 28 => some (.uret p f)
  | 29 => some (.dbrk p f)
  | 30 => some (.tkwait p f)
  | 31 => some (.cli p f)
  | 32 => some (.clui p f)
  | 33 => some (.cadd p f)
  | 34 => some (.csub p f)
  | 35 => some (.cmul p f)
  | 36 => some (.cand p f)
  | 37 => some (.cor p f)
  | 38 => some (.cxor p f)
  | 39 => some (.csll p f)
  | 40 => some (.csrl p f)
  | 41 => some (.csra p f)
  | 42 => some (.ccmp p f)
  | 43 => some (.cmov p f)
  | 44 => some (.cpset p f)
  | 45 => some (.cpget p f)
  | _ => none

/-- Class A of the opcode map (R91); a dash is `none` (R92). -/
def decodeA (code : Nat) (p : Pos) (f : Fields) : Option Instr :=
  match code with
  | 1 => some (.add p f)
  | 2 => some (.sub p f)
  | 3 => some (.mul p f)
  | 4 => some (.mulh p f)
  | 5 => some (.div p f)
  | 6 => some (.rem p f)
  | 7 => some (.and p f)
  | 8 => some (.or p f)
  | 9 => some (.xor p f)
  | 10 => some (.sll p f)
  | 11 => some (.srl p f)
  | 12 => some (.sra p f)
  | 13 => some (.min p f)
  | 14 => some (.max p f)
  | 15 => some (.abs p f)
  | 16 => some (.clz p f)
  | 17 => some (.popc p f)
  | 18 => some (.ext p f)
  | 19 => some (.xtr p f)
  | 20 => some (.ins p f)
  | 21 => some (.li p f)
  | 22 => some (.lea p f)
  | 23 => some (.cmp p f)
  | 24 => some (.sel p f)
  | 25 => some (.pand p f)
  | 26 => some (.por p f)
  | 27 => some (.pxor p f)
  | 28 => some (.pset p f)
  | 29 => some (.pget p f)
  | 30 => some (.xfer p f)
  | 31 => some (.fadd p f)
  | 32 => some (.fsub p f)
  | 33 => some (.fmul p f)
  | 34 => some (.fma p f)
  | 35 => some (.fdiv p f)
  | 36 => some (.fmin p f)
  | 37 => some (.fmax p f)
  | 38 => some (.fcmp p f)
  | 39 => some (.fcvt p f)
  | 40 => some (.icvt p f)
  | _ => none

/-- Class M of the opcode map (R91); a dash is `none` (R92). -/
def decodeM (code : Nat) (p : Pos) (f : Fields) : Option Instr :=
  match code with
  | 1 => some (.ld p f)
  | 2 => some (.st p f)
  | 3 => some (.vld p f)
  | 4 => some (.vst p f)
  | 5 => some (.vlds p f)
  | 6 => some (.vsts p f)
  | 7 => some (.vldx p f)
  | 8 => some (.vstx p f)
  | 9 => some (.gath p f)
  | 10 => some (.scat p f)
  | 11 => some (.fld p f)
  | 12 => some (.fst p f)
  | 13 => some (.fldv p f)
  | 14 => some (.fstv p f)
  | 15 => some (.spill p f)
  | 16 => some (.fill p f)
  | 17 => some (.vspill p f)
  | 18 => some (.vfill p f)
  | 19 => some (.amo p f)
  | 20 => some (.amocas p f)
  | 21 => some (.probe p f)
  | 22 => some (.cwb p f)
  | 23 => some (.cinv p f)
  | 24 => some (.cwbi p f)
  | 25 => some (.qfence p f)
  | 26 => some (.vldb p f)
  | 27 => some (.tag p f)
  | 28 => some (.tagrd p f)
  | _ => none

/-- Class V of the opcode map (R91); a dash is `none` (R92). -/
def decodeV (code : Nat) (p : Pos) (f : Fields) : Option Instr :=
  match code with
  | 1 => some (.vadd p f)
  | 2 => some (.vsub p f)
  | 3 => some (.vmul p f)
  | 4 => some (.vmulh p f)
  | 5 => some (.vfma p f)
  | 6 => some (.vfms p f)
  | 7 => some (.vfnma p f)
  | 8 => some (.vmin p f)
  | 9 => some (.vmax p f)
  | 10 => some (.vabs p f)
  | 11 => some (.vneg p f)
  | 12 => some (.vadds p f)
  | 13 => some (.vsubs p f)
  | 14 => some (.vand p f)
  | 15 => some (.vor p f)
  | 16 => some (.vxor p f)
  | 17 => some (.vsll p f)
  | 18 => some (.vsrl p f)
  | 19 => some (.vsra p f)
  | 20 => some (.vclz p f)
  | 21 => some (.vpopc p f)
  | 22 => some (.vcmp p f)
  | 23 => some (.vsel p f)
  | 24 => some (.vmov p f)
  | 25 => some (.vli p f)
  | 26 => some (.vext p f)
  | 27 => some (.vcvt p f)
  | 28 => some (.vrnd p f)
  | 29 => some (.vscale p f)
  | 30 => some (.vrcp p f)
  | 31 => some (.vrsqrt p f)
  | 32 => some (.vexp2 p f)
  | 33 => some (.vlog2 p f)
  | 34 => some (.vred p f)
  | 35 => some (.vscan p f)
  | 36 => some (.vperm p f)
  | 37 => some (.vbcast p f)
  | 38 => some (.vrot p f)
  | 39 => some (.vslide p f)
  | 40 => some (.viota p f)
  | 41 => some (.vpack p f)
  | 42 => some (.vunpack p f)
  | 43 => some (.vdot p f)
  | 44 => some (.vdotsu p f)
  | 45 => some (.vpset p f)
  | 46 => some (.vpget p f)
  | 47 => some (.vfirst p f)
  | _ => none

/-- Class E of the opcode map (R91); a dash is `none` (R92). -/
def decodeE (code : Nat) (p : Pos) (f : Fields) : Option Instr :=
  match code with
  | 1 => some (.mcall p f)
  | 2 => some (.mpset p f)
  | 3 => some (.mload p f)
  | 4 => some (.smcopy p f)
  | 5 => some (.ncopy p f)
  | 6 => some (.egath p f)
  | 7 => some (.escat p f)
  | 8 => some (.mcast p f)
  | 9 => some (.mcastb p f)
  | 10 => some (.coll p f)
  | 11 => some (.tnld p f)
  | 12 => some (.tnst p f)
  | 13 => some (.tnpf p f)
  | 14 => some (.emit p f)
  | 15 => some (.estat p f)
  | 16 => some (.accld p f)
  | 17 => some (.accst p f)
  | 18 => some (.adrain p f)
  | 19 => some (.aclr p f)
  | 20 => some (.ecancel p f)
  | 21 => some (.ebar p f)
  | _ => none

/-- Class K of the opcode map (R91); a dash is `none` (R92). -/
def decodeK (code : Nat) (p : Pos) (f : Fields) : Option Instr :=
  match code with
  | 1 => some (.kld p f)
  | 2 => some (.kmov p f)
  | 3 => some (.kbind p f)
  | 4 => some (.kfmt p f)
  | 5 => some (.kadd p f)
  | 6 => some (.ksub p f)
  | 7 => some (.kli p f)
  | 8 => some (.kclr p f)
  | _ => none

/-- The operation of a slot word at a position, or `none` where its code is unassigned in the class (R66, R92). -/
def decodeSlot (p : Pos) (w : Word) : Option Instr :=
  let code := (w.extractLsb' 58 6).toNat
  let f := Fields.ofWord w
  match p.cls with
  | .c => decodeC code p f
  | .a => decodeA code p f
  | .m => decodeM code p f
  | .v => decodeV code p f
  | .e => decodeE code p f
  | .k => decodeK code p f

/-- Class, opcode, slot and fields of a slot operation; `none` for an event. -/
def Instr.parts : Instr → Option (Cls × Nat × Pos × Fields)
  | .br p f => some (.c, 1, p, f)
  | .jmp p f => some (.c, 2, p, f)
  | .call p f => some (.c, 3, p, f)
  | .callc p f => some (.c, 4, p, f)
  | .ret p f => some (.c, 5, p, f)
  | .loop p f => some (.c, 6, p, f)
  | .loopd p f => some (.c, 7, p, f)
  | .loopx p f => some (.c, 8, p, f)
  | .fork p f => some (.c, 9, p, f)
  | .forkr p f => some (.c, 10, p, f)
  | .join p f => some (.c, 11, p, f)
  | .take p f => some (.c, 12, p, f)
  | .retire p f => some (.c, 13, p, f)
  | .retireT p f => some (.c, 13, p, f)
  | .yield p f => some (.c, 14, p, f)
  | .fget p f => some (.c, 15, p, f)
  | .fput p f => some (.c, 16, p, f)
  | .phase p f => some (.c, 17, p, f)
  | .binit p f => some (.c, 18, p, f)
  | .barrive p f => some (.c, 19, p, f)
  | .bwait p f => some (.c, 20, p, f)
  | .frd p f => some (.c, 21, p, f)
  | .lvlrd p f => some (.c, 22, p, f)
  | .emrd p f => some (.c, 23, p, f)
  | .srd p f => some (.c, 24, p, f)
  | .swr p f => some (.c, 25, p, f)
  | .ecall p f => some (.c, 26, p, f)
  | .trap p f => some (.c, 27, p, f)
  | .uret p f => some (.c, 28, p, f)
  | .dbrk p f => some (.c, 29, p, f)
  | .tkwait p f => some (.c, 30, p, f)
  | .cli p f => some (.c, 31, p, f)
  | .clui p f => some (.c, 32, p, f)
  | .cadd p f => some (.c, 33, p, f)
  | .csub p f => some (.c, 34, p, f)
  | .cmul p f => some (.c, 35, p, f)
  | .cand p f => some (.c, 36, p, f)
  | .cor p f => some (.c, 37, p, f)
  | .cxor p f => some (.c, 38, p, f)
  | .csll p f => some (.c, 39, p, f)
  | .csrl p f => some (.c, 40, p, f)
  | .csra p f => some (.c, 41, p, f)
  | .ccmp p f => some (.c, 42, p, f)
  | .cmov p f => some (.c, 43, p, f)
  | .cpset p f => some (.c, 44, p, f)
  | .cpget p f => some (.c, 45, p, f)
  | .add p f => some (.a, 1, p, f)
  | .sub p f => some (.a, 2, p, f)
  | .mul p f => some (.a, 3, p, f)
  | .mulh p f => some (.a, 4, p, f)
  | .div p f => some (.a, 5, p, f)
  | .rem p f => some (.a, 6, p, f)
  | .and p f => some (.a, 7, p, f)
  | .or p f => some (.a, 8, p, f)
  | .xor p f => some (.a, 9, p, f)
  | .sll p f => some (.a, 10, p, f)
  | .srl p f => some (.a, 11, p, f)
  | .sra p f => some (.a, 12, p, f)
  | .min p f => some (.a, 13, p, f)
  | .max p f => some (.a, 14, p, f)
  | .abs p f => some (.a, 15, p, f)
  | .clz p f => some (.a, 16, p, f)
  | .popc p f => some (.a, 17, p, f)
  | .ext p f => some (.a, 18, p, f)
  | .xtr p f => some (.a, 19, p, f)
  | .ins p f => some (.a, 20, p, f)
  | .li p f => some (.a, 21, p, f)
  | .lea p f => some (.a, 22, p, f)
  | .cmp p f => some (.a, 23, p, f)
  | .sel p f => some (.a, 24, p, f)
  | .pand p f => some (.a, 25, p, f)
  | .por p f => some (.a, 26, p, f)
  | .pxor p f => some (.a, 27, p, f)
  | .pset p f => some (.a, 28, p, f)
  | .pget p f => some (.a, 29, p, f)
  | .xfer p f => some (.a, 30, p, f)
  | .fadd p f => some (.a, 31, p, f)
  | .fsub p f => some (.a, 32, p, f)
  | .fmul p f => some (.a, 33, p, f)
  | .fma p f => some (.a, 34, p, f)
  | .fdiv p f => some (.a, 35, p, f)
  | .fmin p f => some (.a, 36, p, f)
  | .fmax p f => some (.a, 37, p, f)
  | .fcmp p f => some (.a, 38, p, f)
  | .fcvt p f => some (.a, 39, p, f)
  | .icvt p f => some (.a, 40, p, f)
  | .kld p f => some (.k, 1, p, f)
  | .kmov p f => some (.k, 2, p, f)
  | .kbind p f => some (.k, 3, p, f)
  | .kfmt p f => some (.k, 4, p, f)
  | .kadd p f => some (.k, 5, p, f)
  | .ksub p f => some (.k, 6, p, f)
  | .kli p f => some (.k, 7, p, f)
  | .kclr p f => some (.k, 8, p, f)
  | .ld p f => some (.m, 1, p, f)
  | .st p f => some (.m, 2, p, f)
  | .vld p f => some (.m, 3, p, f)
  | .vst p f => some (.m, 4, p, f)
  | .vlds p f => some (.m, 5, p, f)
  | .vsts p f => some (.m, 6, p, f)
  | .vldx p f => some (.m, 7, p, f)
  | .vstx p f => some (.m, 8, p, f)
  | .gath p f => some (.m, 9, p, f)
  | .scat p f => some (.m, 10, p, f)
  | .fld p f => some (.m, 11, p, f)
  | .fst p f => some (.m, 12, p, f)
  | .fldv p f => some (.m, 13, p, f)
  | .fstv p f => some (.m, 14, p, f)
  | .spill p f => some (.m, 15, p, f)
  | .fill p f => some (.m, 16, p, f)
  | .vspill p f => some (.m, 17, p, f)
  | .vfill p f => some (.m, 18, p, f)
  | .amo p f => some (.m, 19, p, f)
  | .amocas p f => some (.m, 20, p, f)
  | .probe p f => some (.m, 21, p, f)
  | .cwb p f => some (.m, 22, p, f)
  | .cinv p f => some (.m, 23, p, f)
  | .cwbi p f => some (.m, 24, p, f)
  | .qfence p f => some (.m, 25, p, f)
  | .vldb p f => some (.m, 26, p, f)
  | .tag p f => some (.m, 27, p, f)
  | .tagrd p f => some (.m, 28, p, f)
  | .vadd p f => some (.v, 1, p, f)
  | .vsub p f => some (.v, 2, p, f)
  | .vmul p f => some (.v, 3, p, f)
  | .vmulh p f => some (.v, 4, p, f)
  | .vfma p f => some (.v, 5, p, f)
  | .vfms p f => some (.v, 6, p, f)
  | .vfnma p f => some (.v, 7, p, f)
  | .vmin p f => some (.v, 8, p, f)
  | .vmax p f => some (.v, 9, p, f)
  | .vabs p f => some (.v, 10, p, f)
  | .vneg p f => some (.v, 11, p, f)
  | .vadds p f => some (.v, 12, p, f)
  | .vsubs p f => some (.v, 13, p, f)
  | .vand p f => some (.v, 14, p, f)
  | .vor p f => some (.v, 15, p, f)
  | .vxor p f => some (.v, 16, p, f)
  | .vsll p f => some (.v, 17, p, f)
  | .vsrl p f => some (.v, 18, p, f)
  | .vsra p f => some (.v, 19, p, f)
  | .vclz p f => some (.v, 20, p, f)
  | .vpopc p f => some (.v, 21, p, f)
  | .vcmp p f => some (.v, 22, p, f)
  | .vsel p f => some (.v, 23, p, f)
  | .vmov p f => some (.v, 24, p, f)
  | .vli p f => some (.v, 25, p, f)
  | .vext p f => some (.v, 26, p, f)
  | .vcvt p f => some (.v, 27, p, f)
  | .vrnd p f => some (.v, 28, p, f)
  | .vscale p f => some (.v, 29, p, f)
  | .vrcp p f => some (.v, 30, p, f)
  | .vrsqrt p f => some (.v, 31, p, f)
  | .vexp2 p f => some (.v, 32, p, f)
  | .vlog2 p f => some (.v, 33, p, f)
  | .vred p f => some (.v, 34, p, f)
  | .vscan p f => some (.v, 35, p, f)
  | .vperm p f => some (.v, 36, p, f)
  | .vbcast p f => some (.v, 37, p, f)
  | .vrot p f => some (.v, 38, p, f)
  | .vslide p f => some (.v, 39, p, f)
  | .viota p f => some (.v, 40, p, f)
  | .vpack p f => some (.v, 41, p, f)
  | .vunpack p f => some (.v, 42, p, f)
  | .vdot p f => some (.v, 43, p, f)
  | .vdotsu p f => some (.v, 44, p, f)
  | .vpset p f => some (.v, 45, p, f)
  | .vpget p f => some (.v, 46, p, f)
  | .vfirst p f => some (.v, 47, p, f)
  | .mcall p f => some (.e, 1, p, f)
  | .mpset p f => some (.e, 2, p, f)
  | .mload p f => some (.e, 3, p, f)
  | .smcopy p f => some (.e, 4, p, f)
  | .ncopy p f => some (.e, 5, p, f)
  | .egath p f => some (.e, 6, p, f)
  | .escat p f => some (.e, 7, p, f)
  | .mcast p f => some (.e, 8, p, f)
  | .mcastb p f => some (.e, 9, p, f)
  | .coll p f => some (.e, 10, p, f)
  | .tnld p f => some (.e, 11, p, f)
  | .tnst p f => some (.e, 12, p, f)
  | .tnpf p f => some (.e, 13, p, f)
  | .emit p f => some (.e, 14, p, f)
  | .estat p f => some (.e, 15, p, f)
  | .accld p f => some (.e, 16, p, f)
  | .accst p f => some (.e, 17, p, f)
  | .adrain p f => some (.e, 18, p, f)
  | .aclr p f => some (.e, 19, p, f)
  | .ecancel p f => some (.e, 20, p, f)
  | .ebar p f => some (.e, 21, p, f)
  | _ => none

/-! ### Bundles (R64, R65, R78) -/

/-- A bundle as fetched: its header, its repeat word when RPT is 1, and the slot words present, in encoding order. -/
structure Bundle where
  header : BitVec 32
  rpt : Option (BitVec 32)
  words : List (Pos × Word)
  deriving DecidableEq, Repr

/-- Why bytes are no bundle or a word no operation. -/
inductive DecodeError where
  | truncated
  | unassigned
  deriving DecidableEq, Repr

/-- PRES bit of a slot (R65). -/
def hdrPres (h : BitVec 32) (p : Pos) : Bool := h.getLsbD p.index
/-- LEND (R65). -/
def hdrLend (h : BitVec 32) : Bool := h.getLsbD 9
/-- SAFE (R65). -/
def hdrSafe (h : BitVec 32) : Bool := h.getLsbD 10
/-- RPT (R65). -/
def hdrRpt (h : BitVec 32) : Bool := h.getLsbD 11
/-- CP0 (R65). -/
def hdrCp0 (h : BitVec 32) : Nat := (h.extractLsb' 12 4).toNat
/-- CP1 (R65). -/
def hdrCp1 (h : BitVec 32) : Nat := (h.extractLsb' 16 4).toNat
/-- The presence mask (R65). -/
def hdrMask (h : BitVec 32) : BitVec 9 := h.extractLsb' 0 9

/-- Length of a bundle in bytes, from its header (R64). -/
def bundleLen (h : BitVec 32) : Nat :=
  4 + (if hdrRpt h then 4 else 0) + 8 * (Pos.all.filter (hdrPres h)).length

/-- Take one little-endian 64-bit slot word per listed slot. -/
def takeWords : List Pos → List Byte → Option (List (Pos × Word) × List Byte)
  | [], bs => some ([], bs)
  | p :: ps, bs =>
    if bs.length < 8 then none
    else
      match takeWords ps (bs.drop 8) with
      | none => none
      | some (ws, rest) => some ((p, BitVec.ofNat 64 (ofBytesLE (bs.take 8))) :: ws, rest)

/-- Read one bundle from bytes and return the bytes after it (R64). -/
def decodeBundle (bs : List Byte) : Except DecodeError (Bundle × List Byte) :=
  if bs.length < 4 then .error .truncated
  else
    let h := BitVec.ofNat 32 (ofBytesLE (bs.take 4))
    let b1 := bs.drop 4
    if hdrRpt h ∧ b1.length < 4 then .error .truncated
    else
      let rpt := if hdrRpt h then some (BitVec.ofNat 32 (ofBytesLE (b1.take 4))) else none
      let b2 := if hdrRpt h then b1.drop 4 else b1
      match takeWords (Pos.all.filter (hdrPres h)) b2 with
      | none => .error .truncated
      | some (ws, rest) => .ok (⟨h, rpt, ws⟩, rest)

/-- The operations of a bundle's slot words, or the first unassigned code (R92). -/
def decodeWords : List (Pos × Word) → Except DecodeError (List Instr)
  | [] => .ok []
  | (p, w) :: rest =>
    match decodeSlot p w, decodeWords rest with
    | some i, .ok is => .ok (i :: is)
    | _, _ => .error .unassigned

/-- Repeat word fields (R78). -/
def rptCnt (r : BitVec 32) : Nat := (r.extractLsb' 26 6).toNat
/-- mdst, msrc1 and msrc2 (R78). -/
def rptMask (r : BitVec 32) : Bool × Bool × Bool := (r.getLsbD 25, r.getLsbD 24, r.getLsbD 23)
/-- The step unit in slices (R78). -/
def rptUnit (r : BitVec 32) : Int := 2 ^ (r.extractLsb' 21 2).toNat
/-- The signed step of a slot (R78); slots C, E and K have none. -/
def rptStep (r : BitVec 32) (p : Pos) : Int :=
  match p with
  | .a0 => (r.extractLsb' 18 3).toInt
  | .a1 => (r.extractLsb' 15 3).toInt
  | .m0 => (r.extractLsb' 12 3).toInt
  | .m1 => (r.extractLsb' 9 3).toInt
  | .v0 => (r.extractLsb' 6 3).toInt
  | .v1 => (r.extractLsb' 3 3).toInt
  | _ => 0

/-! ### The encoder -/

/-- The slot word of a slot operation (R67, R91). -/
def encodeSlot (i : Instr) : Option Word :=
  match i.parts with
  | some (_, code, _, f) => some (f.toWord (BitVec.ofNat 6 code))
  | none => none

/-- The header of a bundle with these slots, both ports at `cp`, marks clear (R65). -/
def mkHeader (cp0 cp1 : BitVec 4) (rpt safe lend : Bool) (pres : BitVec 9) : BitVec 32 :=
  (0 : BitVec 12) ++ cp1 ++ cp0 ++ BitVec.ofBool rpt ++ BitVec.ofBool safe ++ BitVec.ofBool lend ++ pres

/-- The bytes of a bundle (R64). -/
def encodeBundle (b : Bundle) : List Byte :=
  toBytesLE 4 b.header.toNat ++ (match b.rpt with | some r => toBytesLE 4 r.toNat | none => [])
    ++ b.words.flatMap fun pw => toBytesLE 8 pw.2.toNat

/-- The words of a well-formed slot operation alone in its bundle: the header with both ports allotted to the slot,
and the slot word. -/
def encode (i : Instr) : Option (BitVec 32 × Word) :=
  match i.parts, encodeSlot i with
  | some (_, _, p, _), some w =>
    some (mkHeader (BitVec.ofNat 4 p.index) (BitVec.ofNat 4 p.index) false false false
      (BitVec.ofNat 9 (2 ^ p.index)), w)
  | _, _ => none

/-! ### Micro-ops (spec/12 R276, R277) -/

/-- The fields of a micro-op word. -/
def MicroOp.ofWord (w : Word) : MicroOp where
  f0 := w.extractLsb' 57 3
  f1 := w.extractLsb' 54 3
  f2 := w.extractLsb' 51 3
  f3 := w.extractLsb' 48 3
  f4 := w.extractLsb' 45 3
  f5 := w.extractLsb' 42 3
  zero := w.extractLsb' 39 3
  flags := w.extractLsb' 32 7
  imm := w.extractLsb' 0 32

/-- The step that executes a micro-op word on a core; ops 0xE and 0xF have none. -/
def uopOf (core : Nat) (w : Word) : Option Instr :=
  let u := MicroOp.ofWord w
  match (w.extractLsb' 60 4).toNat with
  | 0 => some (.uopEnd core u)
  | 1 => some (.uopNop core u)
  | 2 => some (.uopSeti core u)
  | 3 => some (.uopSetp core u)
  | 4 => some (.uopMad core u)
  | 5 => some (.uopLoop core u)
  | 6 => some (.uopEndl core u)
  | 7 => some (.uopLdw core u)
  | 8 => some (.uopMma core u)
  | 9 => some (.uopAclr core u)
  | 10 => some (.uopMsk core u)
  | 11 => some (.uopDrn core u)
  | 12 => some (.uopBwt core u)
  | 13 => some (.uopBar core u)
  | _ => none

/-- Core, op code and fields of a micro-op step (R276, R277); `none` for any other instruction. -/
def Instr.uopParts : Instr → Option (Nat × Nat × MicroOp)
  | .uopEnd core u => some (core, 0, u)
  | .uopNop core u => some (core, 1, u)
  | .uopSeti core u => some (core, 2, u)
  | .uopSetp core u => some (core, 3, u)
  | .uopMad core u => some (core, 4, u)
  | .uopLoop core u => some (core, 5, u)
  | .uopEndl core u => some (core, 6, u)
  | .uopLdw core u => some (core, 7, u)
  | .uopMma core u => some (core, 8, u)
  | .uopAclr core u => some (core, 9, u)
  | .uopMsk core u => some (core, 10, u)
  | .uopDrn core u => some (core, 11, u)
  | .uopBwt core u => some (core, 12, u)
  | .uopBar core u => some (core, 13, u)
  | _ => none

/-- The word of a micro-op from its op code and fields (R276). -/
def MicroOp.toWord (op : Nat) (u : MicroOp) : Word :=
  BitVec.ofNat 4 op ++ u.f0 ++ u.f1 ++ u.f2 ++ u.f3 ++ u.f4 ++ u.f5 ++ u.zero ++ u.flags ++ u.imm

/-- The word of a micro-op step. -/
def encodeUop (i : Instr) : Option Word :=
  match i.uopParts with
  | some (_, op, u) => some (u.toWord op)
  | none => none

/-! ### The table's words -/

/-- The operation a bundle of `nbits` bits stands for, the bits above zero up to the longest bundle (80 bytes): its
one slot operation, an empty bundle on core 0, or a whole bundle on core 0. -/
def decodeTableWord (nbits w : Nat) : Option Instr :=
  let bs := toBytesLE 80 (w % 2 ^ nbits)
  match decodeBundle bs with
  | .error _ => none
  | .ok (b, _) =>
    match b.words with
    | [] => some (.emptyBundle 0)
    | [(p, w)] => decodeSlot p w
    | ws =>
      match decodeWords ws with
      | .ok _ => some (.bundleIssue 0)
      | .error _ => none

end Sys2Proof
end

