-- ==== Sys2Proof/Machine/Formats.lean ====
section
/-!
DEFINITION. Number formats and exact arithmetic (spec/02 R45-R60): decoding into exact values, exact sums, products
and quotients, and the one rounding into a destination format. A finite value is a signed dyadic number m * 2^e.
Every rounding, tapered or IEEE, is the rule of R59: find the largest magnitude code whose value does not pass the
exact magnitude, then choose it or its successor by the mode.
-/

namespace Sys2Proof.Machine

/-- The ten data formats (R45). -/
inductive Fmt where
  | int4 | int8 | int16 | int32 | int64 | t6 | t8 | fp16 | bf16 | fp32
  deriving DecidableEq, Repr

/-- The format a code names (R45). -/
def Fmt.ofCode (c : BitVec 4) : Option Fmt :=
  match c.toNat with
  | 0 => some .int4
  | 1 => some .int8
  | 2 => some .int16
  | 3 => some .int32
  | 4 => some .int64
  | 5 => some .t6
  | 6 => some .t8
  | 7 => some .fp16
  | 8 => some .bf16
  | 9 => some .fp32
  | _ => none

/-- Width of a slice operand of the format in bits (R45, R46). -/
def Fmt.width : Fmt → Nat
  | .int4 => 4
  | .int8 | .t6 | .t8 => 8
  | .int16 | .fp16 | .bf16 => 16
  | .int32 | .fp32 => 32
  | .int64 => 64

/-- Bits of one element in memory: T6 packs to six bits, INT4 to four (R47). -/
def Fmt.memBits : Fmt → Nat
  | .t6 => 6
  | f => f.width

/-- A format whose elements are whole bytes in memory ("byte formats", spec/07 R157). -/
def Fmt.isByte : Fmt → Bool
  | .int4 | .t6 => false
  | _ => true

/-- The integer formats. -/
def Fmt.isInt : Fmt → Bool
  | .int4 | .int8 | .int16 | .int32 | .int64 => true
  | _ => false

/-- The tapered formats T6 and T8. -/
def Fmt.isTapered : Fmt → Bool
  | .t6 | .t8 => true
  | _ => false

/-- Rounding modes (R58). -/
inductive RMode where
  | rne | rz | ru | rd
  deriving DecidableEq, Repr

/-- The mode a two-bit field names (R58). -/
def RMode.ofBits (b : BitVec 2) : RMode :=
  match b.toNat with
  | 0 => .rne
  | 1 => .rz
  | 2 => .ru
  | _ => .rd

/-- A decoded operand (R56): NaN, an infinity, or (-1)^neg * m * 2^e. A zero keeps its sign. -/
inductive FVal where
  | nan
  | inf (neg : Bool)
  | fin (neg : Bool) (m : Nat) (e : Int)
  deriving DecidableEq, Repr

/-- Compare m1 * 2^e1 with m2 * 2^e2. -/
def cmpDyadic (m1 : Nat) (e1 : Int) (m2 : Nat) (e2 : Int) : Ordering :=
  if e1 ≥ e2 then compare (m1 * 2 ^ (e1 - e2).toNat) m2
  else compare m1 (m2 * 2 ^ (e2 - e1).toNat)

/-! ### Decoding -/

/-- Length of the run of bits equal to `r` in `m`, from bit `i - 1` downwards (R49). -/
def runLen (m : Nat) (r : Bool) : Nat → Nat
  | 0 => 0
  | i + 1 => if m.testBit i = r then runLen m r i + 1 else 0

/-- The magnitude of a nonzero tapered magnitude field of `n - 1` bits, as (mantissa, exponent) (R48, R49). -/
def taperedMag (n m : Nat) : Nat × Int :=
  let r := m.testBit (n - 2)
  let run := runLen m r (n - 1)
  let k : Int := if r then (run : Int) - 1 else -(run : Int)
  let tw := (n - 1) - run - 1
  if tw = 0 then (1, 2 * k)
  else
    let e : Int := if m.testBit (tw - 1) then 1 else 0
    let w := tw - 1
    (2 ^ w + m % 2 ^ w, 2 * k + e - w)

/-- Exponent bits and fraction bits of an IEEE format (R53); unused for the others. -/
def Fmt.ieeeBits : Fmt → Nat × Nat
  | .fp16 => (5, 10)
  | .bf16 => (8, 7)
  | .fp32 => (8, 23)
  | _ => (0, 0)

/-- The value of a magnitude code (the code without its sign bit). For an IEEE format the code after the largest
finite one has the value that code would have if the exponent went on, which is where rounding overflows. -/
def Fmt.magVal (f : Fmt) (c : Nat) : Nat × Int :=
  match f with
  | .t6 => if c = 0 then (0, 0) else taperedMag 6 c
  | .t8 => if c = 0 then (0, 0) else taperedMag 8 c
  | _ =>
    let (eb, mb) := f.ieeeBits
    let bias : Int := 2 ^ (eb - 1) - 1
    let ex := c / 2 ^ mb
    let fr := c % 2 ^ mb
    if ex = 0 then (fr, 1 - bias - mb) else (2 ^ mb + fr, (ex : Int) - bias - mb)

/-- The largest finite magnitude code (R54). -/
def Fmt.topMag : Fmt → Nat
  | .t6 => 0x1F
  | .t8 => 0x7F
  | .fp16 => 0x7BFF
  | .bf16 => 0x7F7F
  | .fp32 => 0x7F7FFFFF
  | _ => 0

/-- Number of bits of a code without its sign bit. -/
def Fmt.magBits : Fmt → Nat
  | .t6 => 5
  | .t8 => 7
  | .fp16 | .bf16 => 15
  | .fp32 => 31
  | _ => 0

/-- The NaN code the part produces (R54, R55). -/
def Fmt.nanCode : Fmt → Nat
  | .t6 => 0x20
  | .t8 => 0x80
  | .fp16 => 0x7E00
  | .bf16 => 0x7FC0
  | .fp32 => 0x7FC00000
  | _ => 0

/-- Decode a code of a float or tapered format (R49, R53, R55). An integer format decodes as a signed integer. -/
def Fmt.decode (f : Fmt) (code : Nat) : FVal :=
  if f.isInt then
    let w := f.width
    let u := code % 2 ^ w
    if u.testBit (w - 1) then .fin true (2 ^ w - u) 0 else .fin false u 0
  else
    let b := f.magBits
    let neg := code.testBit b
    let c := code % 2 ^ b
    if f.isTapered then
      if c = 0 then (if neg then .nan else .fin false 0 0)
      else let v := f.magVal c; .fin neg v.1 v.2
    else if c > f.topMag then
      (if c = f.topMag + 1 then .inf neg else .nan)
    else let v := f.magVal c; .fin neg v.1 v.2

/-- An exact integer as a decoded operand (R70). -/
def FVal.ofInt (x : Int) : FVal := .fin (x < 0) x.natAbs 0

/-! ### Rounding -/

/-- The largest code at most `top` whose value does not exceed the magnitude that `cmp` stands for:
`cmp m e` orders the exact magnitude against m * 2^e. Bits are tried from the highest down (R59). -/
def searchMag (f : Fmt) (top : Nat) (cmp : Nat → Int → Ordering) : Nat → Nat → Nat
  | 0, c => c
  | i + 1, c =>
    let c' := c + 2 ^ i
    let v := f.magVal c'
    if c' ≤ top ∧ cmp v.1 v.2 ≠ .lt then searchMag f top cmp i c' else searchMag f top cmp i c

/-- Round a nonzero exact magnitude, given by its comparison function, to a magnitude code under a mode and the
sign of the value (R58, R59). An IEEE format overflows where IEEE 754 says so, which is how R60's row for a value beyond the
largest finite one is read: DEDUCED, log entry 51. -/
def roundMag (f : Fmt) (mode : RMode) (neg : Bool) (cmp : Nat → Int → Ordering) : Nat :=
  let top := f.topMag
  let lo := searchMag f top cmp f.magBits 0
  let v := f.magVal lo
  if cmp v.1 v.2 = .eq then lo
  else if f.isTapered ∧ lo = top then top
  else
    let hi := lo + 1
    let u := f.magVal hi
    match mode with
    | .rz => lo
    | .ru => if neg then lo else hi
    | .rd => if neg then hi else lo
    | .rne =>
      let e := min v.2 u.2
      let twice := v.1 * 2 ^ (v.2 - e).toNat + u.1 * 2 ^ (u.2 - e).toNat
      match cmp twice (e - 1) with
      | .lt => lo
      | .gt => hi
      | .eq => if lo % 2 = 0 then lo else hi

/-- Sign and magnitude code to a code. A tapered zero is the code 0 whatever the sign (R58, R59). -/
def Fmt.join (f : Fmt) (neg : Bool) (c : Nat) : Nat :=
  if f.isTapered ∧ c = 0 then 0 else if neg then 2 ^ f.magBits + c else c

/-- Convert an exact value into a float or tapered format (R59, R60). -/
def Fmt.encode (f : Fmt) (mode : RMode) (v : FVal) : Nat :=
  match v with
  | .nan => f.nanCode
  | .inf neg => if f.isTapered then f.join neg f.topMag else f.join neg (f.topMag + 1)
  | .fin neg m e =>
    if m = 0 then f.join neg 0 else f.join neg (roundMag f mode neg (fun m2 e2 => cmpDyadic m e m2 e2))

/-- Round an exact value to an integer under a mode; NaN and infinities are handled by the caller (R60). -/
def roundInt (mode : RMode) (neg : Bool) (m : Nat) (e : Int) : Int :=
  let mag : Nat :=
    if e ≥ 0 then m * 2 ^ e.toNat
    else
      let d := 2 ^ (-e).toNat
      let q := m / d
      let r := m % d
      if r = 0 then q
      else match mode with
        | .rz => q
        | .ru => if neg then q else q + 1
        | .rd => if neg then q + 1 else q
        | .rne =>
          if 2 * r < d then q
          else if 2 * r > d then q + 1
          else if q % 2 = 0 then q else q + 1
  if neg then -(mag : Int) else (mag : Int)

/-- The range of a W-bit integer, signed or unsigned (R52). -/
def intRange (w : Nat) (uns : Bool) : Int × Int :=
  if uns then (0, 2 ^ w - 1) else (-(2 ^ (w - 1)), 2 ^ (w - 1) - 1)

/-- Clamp to a range. -/
def clampInt (x : Int) (r : Int × Int) : Int := max r.1 (min r.2 x)

/-- Convert an exact value to a W-bit integer, saturating, NaN to 0 (R60). -/
def toIntSat (w : Nat) (uns : Bool) (mode : RMode) : FVal → Int
  | .nan => 0
  | .inf neg => if neg then (intRange w uns).1 else (intRange w uns).2
  | .fin neg m e => clampInt (roundInt mode neg m e) (intRange w uns)

/-! ### Exact arithmetic -/

/-- Sign inversion, exact on zeros and infinities (R58). -/
def FVal.neg : FVal → FVal
  | .nan => .nan
  | .inf s => .inf (!s)
  | .fin s m e => .fin (!s) m e

/-- Exact signed mantissa at exponent `e0` of m * 2^e, for e0 at most e. -/
def signedAt (neg : Bool) (m : Nat) (e e0 : Int) : Int :=
  let x : Int := (m * 2 ^ (e - e0).toNat : Nat)
  if neg then -x else x

/-- Exact sum. A zero sum of terms of one sign keeps it; any other exact zero is +0, or -0 under RD (R58). -/
def FVal.add (mode : RMode) : FVal → FVal → FVal
  | .nan, _ => .nan
  | _, .nan => .nan
  | .inf s, .inf t => if s = t then .inf s else .nan
  | .inf s, .fin _ _ _ => .inf s
  | .fin _ _ _, .inf t => .inf t
  | .fin s m e, .fin t n g =>
    let e0 := min e g
    let x := signedAt s m e e0 + signedAt t n g e0
    if x = 0 then
      (if m = 0 ∧ n = 0 ∧ s = t then .fin s 0 0 else .fin (mode = .rd) 0 0)
    else .fin (x < 0) x.natAbs e0

/-- Exact product; infinity times zero is NaN. -/
def FVal.mul : FVal → FVal → FVal
  | .nan, _ => .nan
  | _, .nan => .nan
  | .inf s, .inf t => .inf (s != t)
  | .inf s, .fin t m _ => if m = 0 then .nan else .inf (s != t)
  | .fin s m _, .inf t => if m = 0 then .nan else .inf (s != t)
  | .fin s m e, .fin t n g => .fin (s != t) (m * n) (e + g)

/-- Multiply by 2^k, exactly (R57). -/
def FVal.scale (k : Int) : FVal → FVal
  | .fin s m e => .fin s m (e + k)
  | v => v

/-- Quotient rounded once into a format (spec/06 R145): IEEE 754 for infinities and zeros. -/
def divRound (f : Fmt) (mode : RMode) : FVal → FVal → Nat
  | .nan, _ => f.nanCode
  | _, .nan => f.nanCode
  | .inf _, .inf _ => f.nanCode
  | .inf s, .fin t _ _ => f.encode mode (.inf (s != t))
  | .fin s _ _, .inf t => f.encode mode (.fin (s != t) 0 0)
  | .fin s m e, .fin t n g =>
    if n = 0 then (if m = 0 then f.nanCode else f.encode mode (.inf (s != t)))
    else if m = 0 then f.encode mode (.fin (s != t) 0 0)
    else f.join (s != t) (roundMag f mode (s != t) (fun m2 e2 => cmpDyadic m e (m2 * n) (e2 + g)))

/-- The exact sum of many terms: NaN and infinities as spec/08 R196 gives, an exact zero is +0 (R58). -/
def sumExact (xs : List FVal) : FVal :=
  if xs.any (· = .nan) then .nan
  else
    let p := xs.any (· = .inf false)
    let n := xs.any (· = .inf true)
    if p && n then .nan
    else if p then .inf false
    else if n then .inf true
    else
      match xs.foldl (fun a x => FVal.add .rne a x) (.fin false 0 0) with
      | .fin s m e => if m = 0 then .fin false 0 0 else .fin s m e
      | v => v

/-! ### Order -/

/-- Order of two decoded values, neither of them NaN, with -0 equal to +0 (spec/06 R147). -/
def FVal.cmp : FVal → FVal → Ordering
  | .inf s, .inf t => if s = t then .eq else if s then .lt else .gt
  | .inf s, _ => if s then .lt else .gt
  | _, .inf t => if t then .gt else .lt
  | .fin s m e, .fin t n g =>
    let e0 := min e g
    compare (signedAt s m e e0) (signedAt t n g e0)
  | _, _ => .eq

/-- Sign of a value. -/
def FVal.isNeg : FVal → Bool
  | .nan => false
  | .inf s => s
  | .fin s _ _ => s

/-- Below in the order that puts -0 below +0 (spec/06 R146). -/
def FVal.below (a b : FVal) : Bool :=
  match FVal.cmp a b with
  | .lt => true
  | .gt => false
  | .eq => a.isNeg && !b.isNeg

/-- Lesser or greater of two values: one NaN gives the other, two give NaN (spec/06 R146). -/
def FVal.minmax (wantMax : Bool) (a b : FVal) : FVal :=
  if a = .nan then b
  else if b = .nan then a
  else if wantMax then (if FVal.below a b then b else a) else (if FVal.below b a then b else a)

/-! ### One chunk of a matrix sum -/

/-- The FP32 chunk step of R62 over the products' factor lists. -/
def chunkStepF (acc : Nat) (a b : List FVal) (k : Int) : Nat :=
  let accV := Fmt.fp32.decode acc
  if accV = .nan ∨ a.any (· = .nan) ∨ b.any (· = .nan) then Fmt.fp32.nanCode
  else
    let s := sumExact ((a.zip b).map fun (p : FVal × FVal) => (FVal.mul p.1 p.2).scale k)
    match FVal.add .rne accV s with
    | .nan => Fmt.fp32.nanCode
    | .fin sg m e => if m = 0 then 0 else Fmt.fp32.encode .rne (.fin sg m e)
    | v => Fmt.fp32.encode .rne v

/-- The INT32 chunk step of R63: saturating or wrapping, on a 32-bit word. -/
def chunkStepI (acc : Nat) (s : Int) (sat : Bool) : Nat :=
  let u : Nat := acc % 2 ^ 32
  let a : Int := if u.testBit 31 then (u : Int) - 2 ^ 32 else (u : Int)
  let v := if sat then clampInt (a + s) (intRange 32 false) else a + s
  (v % 2 ^ 32).toNat

/-! ### Reciprocal, reciprocal root, power and logarithm of two (spec/08 R194) -/

/-- Remove trailing zeros of a mantissa, at most `fuel` of them. -/
def stripZeros : Nat → Nat → Int → Nat × Int
  | 0, m, e => (m, e)
  | fuel + 1, m, e => if m % 2 = 0 ∧ m ≠ 0 then stripZeros fuel (m / 2) (e + 1) else (m, e)

/-- Order of 2^(±m * 2^e) against m2 * 2^e2, exactly. An integer power is a dyadic number, clamped when it lies
beyond every format's range. For a fractional power x below 1 the bounds 1 + x/2 < 2^x < 1 + x (and 1 - y < 2^(-y) <
1 - y/2) decide most comparisons; the others raise both sides to the power 2^(-e). -/
def cmpExp2 (neg : Bool) (m : Nat) (e : Int) (m2 : Nat) (e2 : Int) : Ordering :=
  let x := stripZeros 64 m e
  let d := stripZeros 64 m2 e2
  if d.1 = 0 then .gt
  else if x.1 = 0 then cmpDyadic 1 0 d.1 d.2
  else if x.2 ≥ 0 then
    let p : Int := ((min (x.1 * 2 ^ (min x.2 64).toNat) 4096 : Nat) : Int)
    cmpDyadic 1 (if neg then -p else p) d.1 d.2
  else
    let one : Nat := 2 ^ (1 - x.2).toNat
    let small := x.1 < 2 ^ (-x.2).toNat
    let lower := if neg then one - 2 * x.1 else one + x.1
    let upper := if neg then one - x.1 else one + 2 * x.1
    if small ∧ cmpDyadic d.1 d.2 lower (x.2 - 1) ≠ .gt then .gt
    else if small ∧ cmpDyadic d.1 d.2 upper (x.2 - 1) ≠ .lt then .lt
    else
      let q : Nat := 2 ^ (-x.2).toNat
      cmpDyadic 1 (if neg then -(x.1 : Int) else (x.1 : Int)) (d.1 ^ q) (d.2 * (q : Int))

/-- Order of |log2 a| against m2 * 2^e2, exactly, for a = m * 2^e other than 1, where `inv` says a is below 1.
The bounds (a - 1)/a < log2 a < 2(a - 1), and for a below 1 the bounds 1 - a < |log2 a| < 2(1 - a)/a, decide most
comparisons; the others raise both sides to the power 2^(-e2). -/
def cmpLog2 (inv : Bool) (m : Nat) (e : Int) (m2 : Nat) (e2 : Int) : Ordering :=
  let a := stripZeros 64 m e
  let d := stripZeros 64 m2 e2
  if d.1 = 0 then .gt
  else
    let e0 := min a.2 0
    let am : Nat := a.1 * 2 ^ (a.2 - e0).toNat
    let one : Nat := 2 ^ (-e0).toNat
    let diff := if inv then one - am else am - one
    let da := d.1 * am
    if cmpDyadic (if inv then d.1 else da) (if inv then d.2 else d.2 + e0) diff e0 ≠ .gt then .gt
    else if cmpDyadic (if inv then da else d.1) (if inv then d.2 + e0 else d.2) (2 * diff) e0 ≠ .lt then .lt
    else
      let q : Nat := if d.2 ≥ 0 then 1 else 2 ^ (-d.2).toNat
      let p : Int :=
        if d.2 ≥ 0 then ((min (d.1 * 2 ^ (min d.2 64).toNat) 4096 : Nat) : Int) else (d.1 : Int)
      if inv then cmpDyadic 1 (-p) (a.1 ^ q) (a.2 * (q : Int)) else cmpDyadic (a.1 ^ q) (a.2 * (q : Int)) 1 p

/-- Which function of R194. -/
inductive Approx where
  | rcp | rsqrt | exp2 | log2
  deriving DecidableEq, Repr

/-- The opcode in class V, which numbers the free choice. -/
def Approx.opcode : Approx → Nat
  | .rcp => 0x1E
  | .rsqrt => 0x1F
  | .exp2 => 0x20
  | .log2 => 0x21

/-- Round the exact result: FP16 and BF16 under RNE; FP32 to one of the two bracketing values, the choice free
(log entry 1). Below the smallest FP32 magnitude the result is rounded under RNE, as the table of R194 says. -/
def approxRound (f : Fmt) (op : Approx) (operand : Nat) (neg : Bool) (cmp : Nat → Int → Ordering) : Nat :=
  let rne := roundMag f .rne neg cmp
  if f = .fp32 then
    let lo := roundMag f .rz neg cmp
    let v := f.magVal lo
    let u := f.magVal (lo + 1)
    if cmp v.1 v.2 = .eq then f.join neg lo
    else if lo = 0 ∨ cmp u.1 u.2 ≠ .lt then f.join neg rne
    else f.join neg (if Config.approxUp op.opcode operand then lo + 1 else lo)
  else f.join neg rne

/-- The result code of one of the four functions on an exact operand (R194); `code` numbers the free choice. -/
def approxVal (f : Fmt) (op : Approx) (code : Nat) (v : FVal) : Nat :=
  match op, v with
  | _, .nan => f.nanCode
  | .rcp, .inf s => f.join s 0
  | .rcp, .fin s m e =>
    if m = 0 then f.encode .rne (.inf s)
    else approxRound f op code s (fun m2 e2 => cmpDyadic 1 0 (m * m2) (e + e2))
  | .rsqrt, .inf s => if s then f.nanCode else 0
  | .rsqrt, .fin s m e =>
    if m = 0 then f.encode .rne (.inf s)
    else if s then f.nanCode
    else approxRound f op code false (fun (m2 : Nat) (e2 : Int) => cmpDyadic 1 0 (m * m2 * m2) (e + 2 * e2))
  | .exp2, .inf s => if s then 0 else f.encode .rne (.inf false)
  | .exp2, .fin s m e => approxRound f op code false (fun m2 e2 => cmpExp2 s m e m2 e2)
  | .log2, .inf s => if s then f.nanCode else f.encode .rne (.inf false)
  | .log2, .fin s m e =>
    if m = 0 then f.encode .rne (.inf true)
    else if s then f.nanCode
    else match cmpDyadic m e 1 0 with
      | .eq => 0
      | .gt => approxRound f op code false (fun m2 e2 => cmpLog2 false m e m2 e2)
      | .lt => approxRound f op code true (fun m2 e2 => cmpLog2 true m e m2 e2)

/-- The result code of one of the four functions on an operand code (R194). -/
def approx (f : Fmt) (op : Approx) (code : Nat) : Nat := approxVal f op code (f.decode code)

end Sys2Proof.Machine
end

