-- ==== Sys2Proof/Machine/OpTable.lean ====
section
/-!
DEFINITION. The attributes of the slot operations, row by row, as the instruction chapters' tables give them
(spec/05 R106, spec/06 R134 and R152, spec/07 R158, spec/08 R184, spec/09 R210, spec/03 R93): accepted formats,
destination, source kinds, defined mod bits, latency, and the width rule of the operands.
-/

namespace Sys2Proof.Machine

open Sys2Proof

/-- What an operation's destination field names (spec/03 R72). `scalarData` and `vectorData` are the data slices that
a store reads through its dst field (spec/07 R157). -/
inductive DstKind where
  | none | slices | vec | sdata | vdata | common | token | pred | scale | mparam
  deriving DecidableEq, Repr

/-- Which width rule the operands of an operation follow (the check of row 13 of R89). -/
inductive WRule where
  | none | int | free | cmp | pred | any | xfer | fp | fcvt | icvt
  | mld | mst | mlds | msts | mldx | mstx | gath | scat | far2 | fst | fldv | nib | amo | tag
  | v | any1 | vcmp | vcvt | vscale | perm | vdot
  deriving DecidableEq, Repr

/-- One row of an opcode table. `fmts = none`: the operation takes no format and fmt is zero. `wait2`: src2 is a wait
operand when w is 1 and unused otherwise (spec/09 R205). -/
structure OpInfo where
  cls : Cls
  code : Nat
  fmts : Option (List Nat) := none
  dst : DstKind := .none
  k1 : List Kind := []
  k2 : List Kind := []
  wait2 : Bool := false
  modInt : BitVec 7 := 0
  modFp : BitVec 7 := 0
  lat : Nat := 0
  wr : WRule := .none
  wide : Bool := false
  deriving DecidableEq, Repr

/-- The rows of class C (spec/05 R106). -/
def controlInfo : Instr → Option OpInfo
  | .br _ _ => some { cls := .c, code := 1, wide := true }
  | .jmp _ _ => some { cls := .c, code := 2, k1 := [.common, .special] }
  | .call _ _ => some { cls := .c, code := 3, dst := .common, lat := 1, wide := true }
  | .callc _ _ => some { cls := .c, code := 4, dst := .common, k1 := [.common, .special], lat := 1 }
  | .ret _ _ => some { cls := .c, code := 5, k1 := [.common] }
  | .loop _ _ => some { cls := .c, code := 6, k1 := [.common], wide := true }
  | .loopd _ _ => some { cls := .c, code := 7, k1 := [.common] }
  | .loopx _ _ => some { cls := .c, code := 8, k1 := [.common, .imm], modInt := 0x7, modFp := 0x7 }
  | .fork _ _ => some { cls := .c, code := 9, dst := .pred, k1 := [.common], lat := 1 }
  | .forkr _ _ => some { cls := .c, code := 10, dst := .pred, k1 := [.common], lat := 1 }
  | .join _ _ => some { cls := .c, code := 11, k1 := [.common, .imm] }
  | .take _ _ => some { cls := .c, code := 12, dst := .common, lat := 1 }
  | .retire _ _ => some { cls := .c, code := 13 }
  | .retireT _ _ => some { cls := .c, code := 13, k1 := [.common, .imm], modInt := 0x1, modFp := 0x1 }
  | .yield _ _ => some { cls := .c, code := 14 }
  | .fget _ _ => some { cls := .c, code := 15, dst := .common, k1 := [.common], lat := 1 }
  | .fput _ _ => some { cls := .c, code := 16, k1 := [.common], k2 := [.common, .special, .imm] }
  | .phase _ _ => some { cls := .c, code := 17, dst := .pred, modInt := 0x3, modFp := 0x3, lat := 1 }
  | .binit _ _ => some { cls := .c, code := 18, k1 := [.common, .imm], k2 := [.common, .imm] }
  | .barrive _ _ => some { cls := .c, code := 19, k1 := [.common, .imm] }
  | .bwait _ _ => some { cls := .c, code := 20, k1 := [.common, .imm] }
  | .frd _ _ => some { cls := .c, code := 21, dst := .common, k1 := [.common, .special, .imm], lat := 1 }
  | .lvlrd _ _ => some { cls := .c, code := 22, dst := .common, lat := 1 }
  | .emrd _ _ => some { cls := .c, code := 23, dst := .common, lat := 1 }
  | .srd _ _ => some { cls := .c, code := 24, dst := .common, k1 := [.special], lat := 1 }
  | .swr _ _ => some { cls := .c, code := 25, k1 := [.special], k2 := [.common, .special, .imm], lat := 1 }
  | .ecall _ _ => some { cls := .c, code := 26, wide := true }
  | .trap _ _ => some { cls := .c, code := 27, wide := true }
  | .uret _ _ => some { cls := .c, code := 28 }
  | .dbrk _ _ => some { cls := .c, code := 29, k1 := [.imm] }
  | .tkwait _ _ => some { cls := .c, code := 30, k1 := [.common] }
  | .cli _ _ => some { cls := .c, code := 31, dst := .common, lat := 1, wide := true }
  | .clui _ _ => some { cls := .c, code := 32, dst := .common, k1 := [.common], lat := 1, wide := true }
  | .cadd _ _ => some { cls := .c, code := 33, dst := .common, k1 := [.common, .special, .imm], k2 := [.common, .special, .imm], lat := 1 }
  | .csub _ _ => some { cls := .c, code := 34, dst := .common, k1 := [.common, .special, .imm], k2 := [.common, .special, .imm], lat := 1 }
  | .cmul _ _ => some { cls := .c, code := 35, dst := .common, k1 := [.common, .special, .imm], k2 := [.common, .special, .imm], lat := 3 }
  | .cand _ _ => some { cls := .c, code := 36, dst := .common, k1 := [.common, .special, .imm], k2 := [.common, .special, .imm], lat := 1 }
  | .cor _ _ => some { cls := .c, code := 37, dst := .common, k1 := [.common, .special, .imm], k2 := [.common, .special, .imm], lat := 1 }
  | .cxor _ _ => some { cls := .c, code := 38, dst := .common, k1 := [.common, .special, .imm], k2 := [.common, .special, .imm], lat := 1 }
  | .csll _ _ => some { cls := .c, code := 39, dst := .common, k1 := [.common, .special, .imm], k2 := [.common, .special, .imm], lat := 1 }
  | .csrl _ _ => some { cls := .c, code := 40, dst := .common, k1 := [.common, .special, .imm], k2 := [.common, .special, .imm], lat := 1 }
  | .csra _ _ => some { cls := .c, code := 41, dst := .common, k1 := [.common, .special, .imm], k2 := [.common, .special, .imm], lat := 1 }
  | .ccmp _ _ => some { cls := .c, code := 42, dst := .pred, k1 := [.common, .special, .imm], k2 := [.common, .special, .imm], modInt := 0x7, modFp := 0x7, lat := 1 }
  | .cmov _ _ => some { cls := .c, code := 43, dst := .common, k1 := [.common, .special, .imm], lat := 1 }
  | .cpset _ _ => some { cls := .c, code := 44, dst := .pred, k1 := [.common, .special, .imm], lat := 1 }
  | .cpget _ _ => some { cls := .c, code := 45, dst := .common, modInt := 0x3f, modFp := 0x3f, lat := 1 }
  | _ => none

/-- The rows of class A (spec/06 R134). -/
def scalarInfo : Instr → Option OpInfo
  | .add _ _ => some { cls := .a, code := 1, dst := .slices, k1 := [.slices, .common, .special, .imm], k2 := [.slices, .common, .special, .imm], modInt := 0xd, modFp := 0xd, lat := 1, wr := .int }
  | .sub _ _ => some { cls := .a, code := 2, dst := .slices, k1 := [.slices, .common, .special, .imm], k2 := [.slices, .common, .special, .imm], modInt := 0xd, modFp := 0xd, lat := 1, wr := .int }
  | .mul _ _ => some { cls := .a, code := 3, dst := .slices, k1 := [.slices, .common, .special, .imm], k2 := [.slices, .common, .special, .imm], modInt := 0x1, modFp := 0x1, lat := 3, wr := .int }
  | .mulh _ _ => some { cls := .a, code := 4, dst := .slices, k1 := [.slices, .common, .special, .imm], k2 := [.slices, .common, .special, .imm], modInt := 0x3, modFp := 0x3, lat := 3, wr := .int }
  | .div _ _ => some { cls := .a, code := 5, dst := .slices, k1 := [.slices, .common, .special, .imm], k2 := [.slices, .common, .special, .imm], modInt := 0x3, modFp := 0x3, lat := 12, wr := .int }
  | .rem _ _ => some { cls := .a, code := 6, dst := .slices, k1 := [.slices, .common, .special, .imm], k2 := [.slices, .common, .special, .imm], modInt := 0x3, modFp := 0x3, lat := 12, wr := .int }
  | .and _ _ => some { cls := .a, code := 7, dst := .slices, k1 := [.slices, .common, .special, .imm], k2 := [.slices, .common, .special, .imm], modInt := 0x1, modFp := 0x1, lat := 1, wr := .int }
  | .or _ _ => some { cls := .a, code := 8, dst := .slices, k1 := [.slices, .common, .special, .imm], k2 := [.slices, .common, .special, .imm], modInt := 0x1, modFp := 0x1, lat := 1, wr := .int }
  | .xor _ _ => some { cls := .a, code := 9, dst := .slices, k1 := [.slices, .common, .special, .imm], k2 := [.slices, .common, .special, .imm], modInt := 0x1, modFp := 0x1, lat := 1, wr := .int }
  | .sll _ _ => some { cls := .a, code := 10, dst := .slices, k1 := [.slices, .common, .special, .imm], k2 := [.slices, .common, .special, .imm], modInt := 0x1, modFp := 0x1, lat := 1, wr := .int }
  | .srl _ _ => some { cls := .a, code := 11, dst := .slices, k1 := [.slices, .common, .special, .imm], k2 := [.slices, .common, .special, .imm], modInt := 0x1, modFp := 0x1, lat := 1, wr := .int }
  | .sra _ _ => some { cls := .a, code := 12, dst := .slices, k1 := [.slices, .common, .special, .imm], k2 := [.slices, .common, .special, .imm], modInt := 0x1, modFp := 0x1, lat := 1, wr := .int }
  | .min _ _ => some { cls := .a, code := 13, dst := .slices, k1 := [.slices, .common, .special, .imm], k2 := [.slices, .common, .special, .imm], modInt := 0x3, modFp := 0x3, lat := 1, wr := .int }
  | .max _ _ => some { cls := .a, code := 14, dst := .slices, k1 := [.slices, .common, .special, .imm], k2 := [.slices, .common, .special, .imm], modInt := 0x3, modFp := 0x3, lat := 1, wr := .int }
  | .abs _ _ => some { cls := .a, code := 15, dst := .slices, k1 := [.slices, .common, .special, .imm], modInt := 0x1, modFp := 0x1, lat := 1, wr := .int }
  | .clz _ _ => some { cls := .a, code := 16, dst := .slices, k1 := [.slices, .common, .special], lat := 1, wr := .free }
  | .popc _ _ => some { cls := .a, code := 17, dst := .slices, k1 := [.slices, .common, .special], lat := 1, wr := .free }
  | .ext _ _ => some { cls := .a, code := 18, dst := .slices, k1 := [.slices, .common, .special], modInt := 0x1, modFp := 0x1, lat := 1, wr := .free }
  | .xtr _ _ => some { cls := .a, code := 19, dst := .slices, k1 := [.slices, .common, .special], k2 := [.slices, .common, .special, .imm], modInt := 0x1, modFp := 0x1, lat := 1, wr := .free }
  | .ins _ _ => some { cls := .a, code := 20, dst := .slices, k1 := [.slices, .common, .special, .imm], k2 := [.slices, .common, .special, .imm], lat := 1, wr := .free }
  | .li _ _ => some { cls := .a, code := 21, dst := .slices, lat := 1, wide := true }
  | .lea _ _ => some { cls := .a, code := 22, dst := .slices, k1 := [.slices, .common, .special, .imm], k2 := [.slices, .common, .special, .imm], modInt := 0xf, modFp := 0xf, lat := 1, wr := .int }
  | .cmp _ _ => some { cls := .a, code := 23, dst := .pred, k1 := [.slices, .common, .special, .imm], k2 := [.slices, .common, .special, .imm], modInt := 0x7f, modFp := 0x7f, lat := 1, wr := .cmp }
  | .sel _ _ => some { cls := .a, code := 24, dst := .slices, k1 := [.slices, .common, .special, .imm], k2 := [.slices, .common, .special, .imm], modInt := 0x7f, modFp := 0x7f, lat := 1, wr := .int }
  | .pand _ _ => some { cls := .a, code := 25, dst := .pred, k1 := [.slices], k2 := [.slices], modInt := 0x7, modFp := 0x7, lat := 1, wr := .pred }
  | .por _ _ => some { cls := .a, code := 26, dst := .pred, k1 := [.slices], k2 := [.slices], modInt := 0x7, modFp := 0x7, lat := 1, wr := .pred }
  | .pxor _ _ => some { cls := .a, code := 27, dst := .pred, k1 := [.slices], k2 := [.slices], modInt := 0x7, modFp := 0x7, lat := 1, wr := .pred }
  | .pset _ _ => some { cls := .a, code := 28, dst := .pred, k1 := [.slices, .common, .special, .imm], lat := 1, wr := .any }
  | .pget _ _ => some { cls := .a, code := 29, dst := .slices, k1 := [.slices], lat := 1, wr := .pred }
  | .xfer _ _ => some { cls := .a, code := 30, dst := .slices, k1 := [.slices], modInt := 0x1, modFp := 0x1, lat := 2, wr := .xfer }
  | .fadd _ _ => some { cls := .a, code := 31, fmts := some [7, 9], dst := .slices, k1 := [.slices, .common, .special, .imm], k2 := [.slices, .common, .special, .imm], modInt := 0x3, modFp := 0x3, lat := 2, wr := .fp }
  | .fsub _ _ => some { cls := .a, code := 32, fmts := some [7, 9], dst := .slices, k1 := [.slices, .common, .special, .imm], k2 := [.slices, .common, .special, .imm], modInt := 0x3, modFp := 0x3, lat := 2, wr := .fp }
  | .fmul _ _ => some { cls := .a, code := 33, fmts := some [7, 9], dst := .slices, k1 := [.slices, .common, .special, .imm], k2 := [.slices, .common, .special, .imm], modInt := 0x3, modFp := 0x3, lat := 3, wr := .fp }
  | .fma _ _ => some { cls := .a, code := 34, fmts := some [7, 9], dst := .slices, k1 := [.slices, .common, .special, .imm], k2 := [.slices, .common, .special, .imm], modInt := 0x3, modFp := 0x3, lat := 4, wr := .fp }
  | .fdiv _ _ => some { cls := .a, code := 35, fmts := some [7, 9], dst := .slices, k1 := [.slices, .common, .special, .imm], k2 := [.slices, .common, .special, .imm], modInt := 0x3, modFp := 0x3, lat := 12, wr := .fp }
  | .fmin _ _ => some { cls := .a, code := 36, fmts := some [7, 9], dst := .slices, k1 := [.slices, .common, .special, .imm], k2 := [.slices, .common, .special, .imm], lat := 1, wr := .fp }
  | .fmax _ _ => some { cls := .a, code := 37, fmts := some [7, 9], dst := .slices, k1 := [.slices, .common, .special, .imm], k2 := [.slices, .common, .special, .imm], lat := 1, wr := .fp }
  | .fcmp _ _ => some { cls := .a, code := 38, fmts := some [7, 9], dst := .pred, k1 := [.slices, .common, .special, .imm], k2 := [.slices, .common, .special, .imm], modInt := 0x7, modFp := 0x7, lat := 1, wr := .fp }
  | .fcvt _ _ => some { cls := .a, code := 39, fmts := some [5, 6, 7, 8, 9], dst := .slices, k1 := [.slices, .common, .special, .imm], modInt := 0x3f, modFp := 0x3f, lat := 3, wr := .fcvt }
  | .icvt _ _ => some { cls := .a, code := 40, fmts := some [5, 6, 7, 8, 9], dst := .slices, k1 := [.slices, .common, .special, .imm], modInt := 0xf, modFp := 0xf, lat := 3, wr := .icvt }
  | _ => none

/-- The rows of class M (spec/07 R158). -/
def memoryInfo : Instr → Option OpInfo
  | .ld _ _ => some { cls := .m, code := 1, fmts := some [1, 2, 3, 4, 6, 7, 8, 9], dst := .slices, k1 := [.slices, .common, .special, .imm], k2 := [.slices, .common, .special, .imm], modInt := 0xf, modFp := 0xf, lat := 4, wr := .mld }
  | .st _ _ => some { cls := .m, code := 2, fmts := some [1, 2, 3, 4, 6, 7, 8, 9], dst := .sdata, k1 := [.slices, .common, .special, .imm], k2 := [.slices, .common, .special, .imm], modInt := 0xe, modFp := 0xe, wr := .mst }
  | .vld _ _ => some { cls := .m, code := 3, fmts := some [0, 1, 2, 3, 4, 5, 6, 7, 8, 9], dst := .vec, k1 := [.slices, .common, .special, .imm], k2 := [.slices, .common, .special, .imm], modInt := 0xf, modFp := 0xf, lat := 4, wr := .mld }
  | .vst _ _ => some { cls := .m, code := 4, fmts := some [0, 1, 2, 3, 4, 5, 6, 7, 8, 9], dst := .vdata, k1 := [.slices, .common, .special, .imm], k2 := [.slices, .common, .special, .imm], modInt := 0xe, modFp := 0xe, wr := .mst }
  | .vlds _ _ => some { cls := .m, code := 5, fmts := some [1, 2, 3, 4, 6, 7, 8, 9], dst := .vec, k1 := [.slices, .common, .special, .imm], k2 := [.slices, .common, .special, .imm], modInt := 0x1, modFp := 0x1, lat := 4, wr := .mlds }
  | .vsts _ _ => some { cls := .m, code := 6, fmts := some [1, 2, 3, 4, 6, 7, 8, 9], dst := .vdata, k1 := [.slices, .common, .special, .imm], k2 := [.slices, .common, .special, .imm], wr := .msts }
  | .vldx _ _ => some { cls := .m, code := 7, fmts := some [1, 2, 3, 4, 6, 7, 8, 9], dst := .vec, k1 := [.slices, .common, .special, .imm], k2 := [.slices], modInt := 0xf, modFp := 0xf, lat := 4, wr := .mldx }
  | .vstx _ _ => some { cls := .m, code := 8, fmts := some [1, 2, 3, 4, 6, 7, 8, 9], dst := .vdata, k1 := [.slices, .common, .special, .imm], k2 := [.slices], modInt := 0xe, modFp := 0xe, wr := .mstx }
  | .gath _ _ => some { cls := .m, code := 9, fmts := some [1, 2, 3, 4, 6, 7, 8, 9], dst := .vec, k1 := [.slices], modInt := 0x1, modFp := 0x1, lat := 4, wr := .gath }
  | .scat _ _ => some { cls := .m, code := 10, fmts := some [1, 2, 3, 4, 6, 7, 8, 9], dst := .vdata, k1 := [.slices], wr := .scat }
  | .fld _ _ => some { cls := .m, code := 11, fmts := some [1, 2, 3, 4, 6, 7, 8, 9], dst := .token, k1 := [.slices, .common, .special, .imm], k2 := [.slices, .common, .special, .imm], modInt := 0xf, modFp := 0xf, wr := .far2 }
  | .fst _ _ => some { cls := .m, code := 12, fmts := some [1, 2, 3, 4, 6, 7, 8, 9], dst := .token, k1 := [.slices, .common, .special, .imm], k2 := [.slices, .common, .special, .imm], modInt := 0x7, modFp := 0x7, wr := .fst }
  | .fldv _ _ => some { cls := .m, code := 13, dst := .token, k1 := [.slices, .common, .special, .imm], k2 := [.slices, .common, .special, .imm], modInt := 0x7f, modFp := 0x7f, wr := .fldv }
  | .fstv _ _ => some { cls := .m, code := 14, dst := .token, k1 := [.slices, .common, .special, .imm], k2 := [.slices, .common, .special, .imm], modInt := 0x7f, modFp := 0x7f, wr := .fldv }
  | .spill _ _ => some { cls := .m, code := 15, dst := .sdata, k1 := [.slices, .common, .special, .imm], wr := .nib }
  | .fill _ _ => some { cls := .m, code := 16, dst := .slices, k1 := [.slices, .common, .special, .imm], lat := 4, wr := .nib }
  | .vspill _ _ => some { cls := .m, code := 17, dst := .vdata, k1 := [.slices, .common, .special, .imm], wr := .nib }
  | .vfill _ _ => some { cls := .m, code := 18, dst := .vec, k1 := [.slices, .common, .special, .imm], lat := 4, wr := .nib }
  | .amo _ _ => some { cls := .m, code := 19, fmts := some [3, 4], dst := .token, k1 := [.slices, .common, .special, .imm], k2 := [.slices, .common, .special, .imm], modInt := 0x7f, modFp := 0x7f, wr := .amo }
  | .amocas _ _ => some { cls := .m, code := 20, fmts := some [3, 4], dst := .token, k1 := [.slices, .common, .special, .imm], k2 := [.slices, .common, .special, .imm], modInt := 0x67, modFp := 0x67, wr := .amo }
  | .probe _ _ => some { cls := .m, code := 21, dst := .token, k1 := [.slices, .common, .special, .imm], k2 := [.slices, .common, .special, .imm], modInt := 0x7, modFp := 0x7, wr := .far2 }
  | .cwb _ _ => some { cls := .m, code := 22, k1 := [.slices, .common, .special, .imm], k2 := [.slices, .common, .special, .imm], modInt := 0x6, modFp := 0x6, wr := .far2 }
  | .cinv _ _ => some { cls := .m, code := 23, k1 := [.slices, .common, .special, .imm], k2 := [.slices, .common, .special, .imm], modInt := 0x6, modFp := 0x6, wr := .far2 }
  | .cwbi _ _ => some { cls := .m, code := 24, k1 := [.slices, .common, .special, .imm], k2 := [.slices, .common, .special, .imm], modInt := 0x6, modFp := 0x6, wr := .far2 }
  | .qfence _ _ => some { cls := .m, code := 25, modInt := 0xf, modFp := 0xf }
  | .vldb _ _ => some { cls := .m, code := 26, fmts := some [1, 2, 3, 4, 6, 7, 8, 9], dst := .vec, k1 := [.slices, .common, .special, .imm], k2 := [.slices, .common, .special, .imm], modInt := 0xf, modFp := 0xf, lat := 4, wr := .mld }
  | .tag _ _ => some { cls := .m, code := 27, k1 := [.slices, .common, .special, .imm], wr := .tag }
  | .tagrd _ _ => some { cls := .m, code := 28, dst := .slices, k1 := [.slices, .common, .special, .imm], lat := 4, wr := .tag }
  | _ => none

/-- The rows of class V (spec/08 R184). -/
def vectorInfo : Instr → Option OpInfo
  | .vadd _ _ => some { cls := .v, code := 1, fmts := some [0, 5, 6, 7, 8, 9], dst := .vec, k1 := [.slices, .common, .special, .imm], k2 := [.slices, .common, .special, .imm], modInt := 0x1, modFp := 0x3, lat := 2, wr := .v }
  | .vsub _ _ => some { cls := .v, code := 2, fmts := some [0, 5, 6, 7, 8, 9], dst := .vec, k1 := [.slices, .common, .special, .imm], k2 := [.slices, .common, .special, .imm], modInt := 0x1, modFp := 0x3, lat := 2, wr := .v }
  | .vmul _ _ => some { cls := .v, code := 3, fmts := some [0, 5, 6, 7, 8, 9], dst := .vec, k1 := [.slices, .common, .special, .imm], k2 := [.slices, .common, .special, .imm], modInt := 0x1, modFp := 0x3, lat := 5, wr := .v }
  | .vmulh _ _ => some { cls := .v, code := 4, fmts := some [0], dst := .vec, k1 := [.slices, .common, .special, .imm], k2 := [.slices, .common, .special, .imm], modInt := 0x3, modFp := 0x3, lat := 5, wr := .v }
  | .vfma _ _ => some { cls := .v, code := 5, fmts := some [0, 5, 6, 7, 8, 9], dst := .vec, k1 := [.slices, .common, .special, .imm], k2 := [.slices, .common, .special, .imm], modInt := 0x1, modFp := 0x3, lat := 5, wr := .v }
  | .vfms _ _ => some { cls := .v, code := 6, fmts := some [0, 5, 6, 7, 8, 9], dst := .vec, k1 := [.slices, .common, .special, .imm], k2 := [.slices, .common, .special, .imm], modInt := 0x1, modFp := 0x3, lat := 5, wr := .v }
  | .vfnma _ _ => some { cls := .v, code := 7, fmts := some [0, 5, 6, 7, 8, 9], dst := .vec, k1 := [.slices, .common, .special, .imm], k2 := [.slices, .common, .special, .imm], modInt := 0x1, modFp := 0x3, lat := 5, wr := .v }
  | .vmin _ _ => some { cls := .v, code := 8, fmts := some [0, 5, 6, 7, 8, 9], dst := .vec, k1 := [.slices, .common, .special, .imm], k2 := [.slices, .common, .special, .imm], modInt := 0x3, lat := 2, wr := .v }
  | .vmax _ _ => some { cls := .v, code := 9, fmts := some [0, 5, 6, 7, 8, 9], dst := .vec, k1 := [.slices, .common, .special, .imm], k2 := [.slices, .common, .special, .imm], modInt := 0x3, lat := 2, wr := .v }
  | .vabs _ _ => some { cls := .v, code := 10, fmts := some [0, 5, 6, 7, 8, 9], dst := .vec, k1 := [.slices, .common, .special, .imm], modInt := 0x1, lat := 2, wr := .v }
  | .vneg _ _ => some { cls := .v, code := 11, fmts := some [0, 5, 6, 7, 8, 9], dst := .vec, k1 := [.slices, .common, .special, .imm], modInt := 0x1, lat := 2, wr := .v }
  | .vadds _ _ => some { cls := .v, code := 12, fmts := some [0], dst := .vec, k1 := [.slices, .common, .special, .imm], k2 := [.slices, .common, .special, .imm], modInt := 0x3, modFp := 0x3, lat := 2, wr := .v }
  | .vsubs _ _ => some { cls := .v, code := 13, fmts := some [0], dst := .vec, k1 := [.slices, .common, .special, .imm], k2 := [.slices, .common, .special, .imm], modInt := 0x3, modFp := 0x3, lat := 2, wr := .v }
  | .vand _ _ => some { cls := .v, code := 14, fmts := some [0], dst := .vec, k1 := [.slices, .common, .special, .imm], k2 := [.slices, .common, .special, .imm], modInt := 0x1, modFp := 0x1, lat := 2, wr := .v }
  | .vor _ _ => some { cls := .v, code := 15, fmts := some [0], dst := .vec, k1 := [.slices, .common, .special, .imm], k2 := [.slices, .common, .special, .imm], modInt := 0x1, modFp := 0x1, lat := 2, wr := .v }
  | .vxor _ _ => some { cls := .v, code := 16, fmts := some [0], dst := .vec, k1 := [.slices, .common, .special, .imm], k2 := [.slices, .common, .special, .imm], modInt := 0x1, modFp := 0x1, lat := 2, wr := .v }
  | .vsll _ _ => some { cls := .v, code := 17, fmts := some [0], dst := .vec, k1 := [.slices, .common, .special, .imm], k2 := [.slices, .common, .special, .imm], modInt := 0x1, modFp := 0x1, lat := 2, wr := .v }
  | .vsrl _ _ => some { cls := .v, code := 18, fmts := some [0], dst := .vec, k1 := [.slices, .common, .special, .imm], k2 := [.slices, .common, .special, .imm], modInt := 0x1, modFp := 0x1, lat := 2, wr := .v }
  | .vsra _ _ => some { cls := .v, code := 19, fmts := some [0], dst := .vec, k1 := [.slices, .common, .special, .imm], k2 := [.slices, .common, .special, .imm], modInt := 0x1, modFp := 0x1, lat := 2, wr := .v }
  | .vclz _ _ => some { cls := .v, code := 20, fmts := some [0], dst := .vec, k1 := [.slices, .common, .special], lat := 2, wr := .any1 }
  | .vpopc _ _ => some { cls := .v, code := 21, fmts := some [0], dst := .vec, k1 := [.slices, .common, .special], lat := 2, wr := .any1 }
  | .vcmp _ _ => some { cls := .v, code := 22, fmts := some [0, 5, 6, 7, 8, 9], dst := .pred, k1 := [.slices, .common, .special, .imm], k2 := [.slices, .common, .special, .imm], modInt := 0x7f, modFp := 0x7, lat := 2, wr := .vcmp }
  | .vsel _ _ => some { cls := .v, code := 23, fmts := some [0], dst := .vec, k1 := [.slices, .common, .special, .imm], k2 := [.slices, .common, .special, .imm], modInt := 0x7f, modFp := 0x7f, lat := 2, wr := .v }
  | .vmov _ _ => some { cls := .v, code := 24, fmts := some [0], dst := .vec, k1 := [.slices, .common, .special, .imm], modInt := 0x1, modFp := 0x1, lat := 2, wr := .v }
  | .vli _ _ => some { cls := .v, code := 25, fmts := some [0], dst := .vec, lat := 2, wide := true }
  | .vext _ _ => some { cls := .v, code := 26, fmts := some [0], dst := .vec, k1 := [.slices, .common, .special], k2 := [.slices, .common, .special, .imm], modInt := 0x1, modFp := 0x1, lat := 2, wr := .any1 }
  | .vcvt _ _ => some { cls := .v, code := 27, fmts := some [0, 5, 6, 7, 8, 9], dst := .vec, k1 := [.slices, .common, .special, .imm], modInt := 0x7f, modFp := 0x7f, lat := 3, wr := .vcvt }
  | .vrnd _ _ => some { cls := .v, code := 28, fmts := some [5, 6, 7, 8, 9], dst := .vec, k1 := [.slices, .common, .special, .imm], modInt := 0x3, modFp := 0x3, lat := 3, wr := .v }
  | .vscale _ _ => some { cls := .v, code := 29, fmts := some [5, 6, 7, 8, 9], dst := .vec, k1 := [.slices, .common, .special, .imm], k2 := [.slices, .common, .special, .imm], modInt := 0x3f, modFp := 0x3f, lat := 3, wr := .vscale }
  | .vrcp _ _ => some { cls := .v, code := 30, fmts := some [7, 8, 9], dst := .vec, k1 := [.slices, .common, .special, .imm], lat := 8, wr := .v }
  | .vrsqrt _ _ => some { cls := .v, code := 31, fmts := some [7, 8, 9], dst := .vec, k1 := [.slices, .common, .special, .imm], lat := 8, wr := .v }
  | .vexp2 _ _ => some { cls := .v, code := 32, fmts := some [7, 8, 9], dst := .vec, k1 := [.slices, .common, .special, .imm], lat := 8, wr := .v }
  | .vlog2 _ _ => some { cls := .v, code := 33, fmts := some [7, 8, 9], dst := .vec, k1 := [.slices, .common, .special, .imm], lat := 8, wr := .v }
  | .vred _ _ => some { cls := .v, code := 34, fmts := some [0, 5, 6, 7, 8, 9], dst := .vec, k1 := [.slices], modInt := 0x27, modFp := 0x1f, lat := 6, wr := .v }
  | .vscan _ _ => some { cls := .v, code := 35, fmts := some [0, 5, 6, 7, 8, 9], dst := .vec, k1 := [.slices], modInt := 0x27, modFp := 0x1f, lat := 6, wr := .v }
  | .vperm _ _ => some { cls := .v, code := 36, fmts := some [0], dst := .vec, k1 := [.slices], k2 := [.slices, .common, .special, .imm], lat := 3, wr := .perm }
  | .vbcast _ _ => some { cls := .v, code := 37, fmts := some [0], dst := .vec, k1 := [.slices], k2 := [.common, .special, .imm], lat := 3, wr := .perm }
  | .vrot _ _ => some { cls := .v, code := 38, fmts := some [0], dst := .vec, k1 := [.slices], k2 := [.common, .special, .imm], lat := 3, wr := .perm }
  | .vslide _ _ => some { cls := .v, code := 39, fmts := some [0], dst := .vec, k1 := [.slices], k2 := [.common, .special, .imm], modInt := 0x1, modFp := 0x1, lat := 3, wr := .perm }
  | .viota _ _ => some { cls := .v, code := 40, fmts := some [0], dst := .vec, k1 := [.slices, .common, .special, .imm], k2 := [.slices, .common, .special, .imm], modInt := 0x1, modFp := 0x1, lat := 2, wr := .v }
  | .vpack _ _ => some { cls := .v, code := 41, fmts := some [0], dst := .vec, k1 := [.slices], modInt := 0x1f, modFp := 0x1f, lat := 3, wr := .any1 }
  | .vunpack _ _ => some { cls := .v, code := 42, fmts := some [0], dst := .vec, k1 := [.slices], modInt := 0xf, modFp := 0xf, lat := 3, wr := .any1 }
  | .vdot _ _ => some { cls := .v, code := 43, fmts := some [0, 1, 5, 6], dst := .vec, k1 := [.slices], k2 := [.slices], modInt := 0x1, modFp := 0x1, lat := 5, wr := .vdot }
  | .vdotsu _ _ => some { cls := .v, code := 44, fmts := some [0, 1], dst := .vec, k1 := [.slices], k2 := [.slices], modInt := 0x1, modFp := 0x1, lat := 5, wr := .vdot }
  | .vpset _ _ => some { cls := .v, code := 45, fmts := some [0], dst := .pred, k1 := [.slices, .common, .special, .imm], lat := 2, wr := .any }
  | .vpget _ _ => some { cls := .v, code := 46, fmts := some [0], dst := .vec, k1 := [.slices], modInt := 0x1, modFp := 0x1, lat := 2, wr := .pred }
  | .vfirst _ _ => some { cls := .v, code := 47, fmts := some [0], dst := .vec, k1 := [.slices], lat := 2, wr := .pred }
  | _ => none

/-- The rows of class E (spec/09 R210). -/
def engineInfo : Instr → Option OpInfo
  | .mcall _ _ => some { cls := .e, code := 1, dst := .token, k1 := [.common, .special, .imm], wait2 := true, modInt := 0x7c, modFp := 0x7c }
  | .mpset _ _ => some { cls := .e, code := 2, dst := .mparam, k1 := [.common, .special, .imm], lat := 1 }
  | .mload _ _ => some { cls := .e, code := 3, dst := .token, k1 := [.common, .special, .imm], wait2 := true, modInt := 0x4, modFp := 0x4 }
  | .smcopy _ _ => some { cls := .e, code := 4, dst := .token, k1 := [.common, .special, .imm], wait2 := true, modInt := 0x4, modFp := 0x4 }
  | .ncopy _ _ => some { cls := .e, code := 5, dst := .token, k1 := [.common, .special, .imm], wait2 := true, modInt := 0x7c, modFp := 0x7c }
  | .egath _ _ => some { cls := .e, code := 6, dst := .token, k1 := [.common, .special, .imm], wait2 := true, modInt := 0x7c, modFp := 0x7c }
  | .escat _ _ => some { cls := .e, code := 7, dst := .token, k1 := [.common, .special, .imm], wait2 := true, modInt := 0x7c, modFp := 0x7c }
  | .mcast _ _ => some { cls := .e, code := 8, dst := .token, k1 := [.common, .special, .imm], wait2 := true, modInt := 0x7c, modFp := 0x7c }
  | .mcastb _ _ => some { cls := .e, code := 9, dst := .token, k1 := [.common, .special, .imm], wait2 := true, modInt := 0x7c, modFp := 0x7c }
  | .coll _ _ => some { cls := .e, code := 10, dst := .token, k1 := [.common, .special, .imm], wait2 := true, modInt := 0x7c, modFp := 0x7c }
  | .tnld _ _ => some { cls := .e, code := 11, dst := .token, k1 := [.common, .special, .imm], wait2 := true, modInt := 0x7c, modFp := 0x7c }
  | .tnst _ _ => some { cls := .e, code := 12, dst := .token, k1 := [.common, .special, .imm], wait2 := true, modInt := 0x7c, modFp := 0x7c }
  | .tnpf _ _ => some { cls := .e, code := 13, dst := .token, k1 := [.common, .special, .imm], wait2 := true, modInt := 0x7c, modFp := 0x7c }
  | .emit _ _ => some { cls := .e, code := 14, dst := .token, k1 := [.common, .special, .imm], wait2 := true, modInt := 0x3c, modFp := 0x3c }
  | .estat _ _ => some { cls := .e, code := 15, dst := .common, k1 := [.common, .special, .imm], lat := 1 }
  | .accld _ _ => some { cls := .e, code := 16, dst := .token, k1 := [.common, .special, .imm], wait2 := true, modInt := 0x4, modFp := 0x4 }
  | .accst _ _ => some { cls := .e, code := 17, dst := .token, k1 := [.common, .special, .imm], wait2 := true, modInt := 0x4, modFp := 0x4 }
  | .adrain _ _ => some { cls := .e, code := 18, dst := .token, k1 := [.common, .special, .imm], wait2 := true, modInt := 0x7, modFp := 0x7 }
  | .aclr _ _ => some { cls := .e, code := 19, k1 := [.common, .special, .imm], k2 := [.common, .special, .imm] }
  | .ecancel _ _ => some { cls := .e, code := 20, dst := .token, k1 := [.common, .special, .imm] }
  | .ebar _ _ => some { cls := .e, code := 21, dst := .token, k1 := [.common, .special, .imm], modInt := 0x58, modFp := 0x58 }
  | _ => none

/-- The rows of class K (spec/06 R152). -/
def scaleInfo : Instr → Option OpInfo
  | .kld _ _ => some { cls := .k, code := 1, dst := .scale, k1 := [.common, .special, .imm], k2 := [.common, .special, .imm], modInt := 0x3, modFp := 0x3, lat := 3 }
  | .kmov _ _ => some { cls := .k, code := 2, dst := .scale, modInt := 0xf, modFp := 0xf, lat := 1 }
  | .kbind _ _ => some { cls := .k, code := 3, k1 := [.common, .imm], lat := 1 }
  | .kfmt _ _ => some { cls := .k, code := 4, k1 := [.common, .imm], lat := 1 }
  | .kadd _ _ => some { cls := .k, code := 5, dst := .scale, k1 := [.common, .special, .imm], modInt := 0xf, modFp := 0xf, lat := 1 }
  | .ksub _ _ => some { cls := .k, code := 6, dst := .scale, k1 := [.common, .special, .imm], modInt := 0xf, modFp := 0xf, lat := 1 }
  | .kli _ _ => some { cls := .k, code := 7, dst := .scale, k1 := [.imm], lat := 1 }
  | .kclr _ _ => some { cls := .k, code := 8, lat := 1 }
  | _ => none

/-- The row of a slot operation; `none` for an event. -/
def opInfo (i : Instr) : Option OpInfo :=
  match i.parts with
  | some (.c, _, _, _) => controlInfo i
  | some (.a, _, _, _) => scalarInfo i
  | some (.m, _, _, _) => memoryInfo i
  | some (.v, _, _, _) => vectorInfo i
  | some (.e, _, _, _) => engineInfo i
  | some (.k, _, _, _) => scaleInfo i
  | none => none

/-- A control-transfer operation (spec/03 R82, R93). -/
def isTransfer : Instr → Bool
  | .br _ _ | .jmp _ _ | .call _ _ | .callc _ _ | .ret _ _ | .loopx _ _ | .take _ _ | .uret _ _ => true
  | _ => false

/-- An operation whose result takes twelve bundles (spec/06 R149). -/
def isLong : Instr → Bool
  | .div _ _ | .rem _ _ | .fdiv _ _ => true
  | _ => false

/-- An operation that stops the sequencer after its bundle (spec/05 R129). -/
def isStopOp : Instr → Bool
  | .yield _ _ | .ecall _ _ | .trap _ _ | .dbrk _ _ => true
  | _ => false

end Sys2Proof.Machine
end

