-- ==== Sys2Proof/Machine/State.lean ====
section
/-!
DEFINITION. The state of the whole part as plain data, and its reset value. Tables are lists: a table of registers,
contexts, cores or sessions lists only the entries that differ from their reset value or that exist. Memory of every
kind is one list of (address, byte) cells in a canonical form, its address ranges laid out in Machine/Ops.lean.
Fields whose docstring says "the model's own" are no state of the spec (log entries 2 and 10).
-/

namespace Sys2Proof.Machine

open Sys2Proof

/-- Why the machine stops with a fault: it never does. Every stop that the spec describes is a trap, a debug stop, a
user-level trap or a fatal context error, each of them a next state of the part (spec/11 R236, R237), so no meaning
raises a fault and none is listed. Safe. -/
inductive Fault where
  deriving DecidableEq, Repr

/-- Why an operation has no meaning in a state. -/
inductive Refusal where
  /-- An instruction that has no meaning in the model yet; only Dispatch.lean raises it. Safe. -/
  | notModelled (mnemonic : String)
  /-- An event that cannot occur in this state, because what it needs does not hold (a commit of a task that is not
  committable, a placement that does not fit). Raised by the event's meaning. Safe: the part makes no such step. -/
  | notEnabled (mnemonic : String)
  deriving DecidableEq, Repr

/-! ### A sequencer's context -/

/-- A loop-stack entry (spec/01 R12). -/
structure LoopEntry where
  count : BitVec 32
  start : BitVec 32
  index : BitVec 32
  deriving DecidableEq, Repr

/-- The files an in-flight result can land in (spec/01 R41). `special` numbers the special registers as R38 does and
mp`n` as 0x80 + n; `scale` numbers KB as 16 (spec/11 R249). -/
inductive FileId where
  | scal (bench : Bool)
  | vec (bench : Bool)
  | common
  | pred
  | scale
  | special
  deriving DecidableEq, Repr

/-- An exposed result in flight, or its replay-buffer entry (spec/01 R41, R42; spec/11 R249). For a vector file `wrap`
is the size of the rotating region that `start` was resolved in, 0 outside it; `lanes` has 64 values for a vector file
and one otherwise; `mask` is the lanes written, or the bits written of a predicate. A result of div, rem or fdiv that issued
in the bundle just before a stop has 12 bundles left (R22, spec/03 R465), where R41 and spec/06 R149 give at most 11: the entry
keeps 12, DESIGN CHOICE, log entry 54. -/
structure Flight where
  file : FileId
  start : Nat
  width : Nat
  wrap : Nat
  lanes : List Word
  mask : Mask
  remaining : Nat
  age : Nat
  slot : Nat
  rep : Nat
  deriving DecidableEq, Repr

/-- A running-task entry (spec/11 R249, spec/17 R352). `slotIx` is the speculation slot of an ordered task, `takePc` its
take's bundle address, `takeReg` the take's destination. `exec` numbers this execution of the task and `line` lists the
executions that it descends from; `gone` says that it has been aborted or discarded and that its sequencer is to be redirected
(spec/17 R369). -/
structure RunTask where
  ts : Word
  argp : Word
  seq : BitVec 32
  dom : Nat
  jslot : Nat
  depth : Nat
  range : Bool
  parent : Word
  ord : Bool
  slotIx : Nat
  takePc : PC
  takeReg : Nat
  exec : Nat := 0
  line : List Nat := []
  gone : Bool := false
  deriving DecidableEq, Repr

/-- The special registers that a C operation changes in the bundle it stands in, as they stood when the bundle issued,
for the reads of that bundle (spec/03 R77), with CFR, the number of the next command (earlier ones are those that a wait of
the bundle waits for, spec/05 R124, spec/07 R175), and the address of the next bundle in memory order. The model's own,
empty between bundles. -/
structure View where
  next : PC
  cfr : Word
  firstCid : Nat
  loops : List LoopEntry
  phase : Word
  tasks : List RunTask
  trapInfo : Word
  deriving DecidableEq, Repr

/-- Kernel header fields that outlive dispatch (spec/04 R102). -/
structure KHeader where
  aG : Nat := 1
  vG : Nat := 1
  banks : Nat := 0
  resBanks : Nat := 0
  barriers : Nat := 0
  stages : Nat := 1
  lead : Nat := 1
  ordered : Bool := false
  safeint : Nat := 4096
  safedist : Nat := 1
  waitmax : Nat := 0
  tensors : Nat := 0
  codeLen : Nat := 0
  dataLen : Nat := 0
  deriving DecidableEq, Repr

/-- Where a context stands (spec/11 R236). -/
inductive CtxStatus where
  /-- Resident on a core and issuing in its turn. -/
  | ready
  /-- Stopped by a trap for the supervisor (spec/11 R257). -/
  | trapped
  /-- In a debug stop (spec/23 R437). -/
  | debug
  /-- Asked to yield or executed yield and stopped; its save waits for its tokens (spec/11 R245). -/
  | yielding
  /-- Saved by the Gaffer, resident nowhere. -/
  | saved
  /-- Retired; it ends when its pending tokens have completed (spec/05 R116). -/
  | retired
  /-- Ended. -/
  | ended
  deriving DecidableEq, Repr

/-- A wait of a bundle that has issued: a bwait's episode on a barrier slot (spec/05 R122). -/
structure BarWait where
  slot : Nat
  episode : Nat
  deriving DecidableEq, Repr

/-- What an operation of slot C leaves to the end of its bundle: the sequencer ends (spec/05 R116), yields, or stops for a
record (spec/05 R129). It waits while a stop on a higher slot keeps the bundle from completing. -/
inductive Leave where
  | retire
  | yield
  | stop (cause : Nat) (info : Word)
  deriving DecidableEq, Repr

/-- One sequencer's context: everything R44 saves, and what the Gaffer keeps of it. `dead` marks a context that a fatal
error or an end command has ended (spec/11 R253). `nextPc` is where a skipped loop or a retire.t of the bundle being
issued goes on, true for retire.t; the model's own, none between bundles that have committed in full. `xferKind` and `xferPc`
are the trace kind and the bundle of the pending transfer (spec/23 R438); `atSafe` says that the last bundle that the
context completed is a safe point (spec/03 R86). `began` says of the bundle at the pc, once it has issued, whether it issued
in a delay shadow and at which loop depth (spec/03 R83, R85, R86); `leave` is what its slot C leaves to its end. `issuedOn`
gives for each core the step at which the context last issued a bundle there (spec/21 R415). `imgAt` is the vault address of
its save image, since it was saved, which holds its saveable banks while it is resident nowhere, and `mirror` that the image of a
context still on its core is kept consistent with its banks (spec/07 R461, spec/11 R257). `ranges` are the entries that the
Gaffer keeps for it and `live` the copy that its core holds, loaded at dispatch and at each resume (spec/15 R328). `stallTok` says
of the bundle at the pc that it stalls on a token (spec/16 R350), `stallTask` that it stalls under R363, R365 or on a token of the
innermost task, or that the context has resumed with that task aborted: the bundle is abandoned when the task has been aborted
(spec/17 R361, R369). `barPc` is the bundle whose bwait `barWait` is. `moved` says that an image has moved the pc of the stopped bundle (spec/11 R244). -/
structure Ctx where
  handle : Nat
  gkey : Nat
  gang : Nat
  seqid : Nat
  stage : Nat := 0
  part : Nat := 0
  vf : Nat := 0
  level : Nat := 0
  hdr : KHeader := {}
  ibase : Nat := 0
  core : Nat := 0
  res : Nat := 0
  aBase : Nat := 0
  vBase : Nat := 0
  bankList : List Nat := []
  status : CtxStatus := .ready
  issuedOn : List (Nat × Nat) := []
  pc : PC := 0
  loops : List LoopEntry := []
  rep : Nat := 0
  shl : Nat := 0
  pend : Bool := false
  target : PC := 0
  done : BitVec 9 := 0
  partBundle : Bool := false
  scal0 : BitVec 1024 := 0
  scal1 : BitVec 1024 := 0
  vec0 : Vector (BitVec 1024) 64 := Vector.replicate 64 0
  vec1 : Vector (BitVec 1024) 64 := Vector.replicate 64 0
  com : Vector Word 32 := Vector.replicate 32 0
  tokPend : BitVec 32 := 0
  tokErr : BitVec 32 := 0
  preds : Vector Word 48 := Vector.replicate 48 0
  scales : Vector (BitVec 8) 16 := Vector.replicate 16 0
  kb : BitVec 32 := 0x00966210
  mp : Vector Word 8 := Vector.replicate 8 0
  phase : Word := 0
  lead : Nat := 1
  trapVec : PC := 0
  trapInfo : Word := 0
  vrot0 : Word := 0
  vrot1 : Word := 0
  lost : Bool := false
  tasks : List RunTask := []
  flight : List Flight := []
  view : Option View := none
  nextPc : Option (PC × Bool) := none
  began : Option (Bool × Nat) := none
  leave : Option Leave := none
  xferKind : Nat := 1
  xferPc : PC := 0
  atSafe : Bool := false
  barWait : Option BarWait := none
  barPc : PC := 0
  yieldReq : Bool := false
  killCause : Option Nat := none
  dvfSel : Word := 0
  mgmt : Option (Nat × Word) := none
  bpSkip : Nat := 0
  ranges : List (Word × Word × Word × Word) := []
  live : List (Word × Word × Word × Word) := []
  imgAt : Option Nat := none
  mirror : Bool := false
  stallTok : Bool := false
  stallTask : Bool := false
  moved : Bool := false
  dead : Bool := false
  deriving DecidableEq, Repr

/-! ### Commands -/

/-- The queues of a core (spec/07 R167, spec/09 R207). `none` is for ebar and ecancel, which enter none. -/
inductive Queue where
  | off (n : Nat)
  | mq | xq | cq | tq
  | none
  deriving DecidableEq, Repr

/-- An asynchronous command from its issue to its completion. `args` are the operands and descriptor words it captured;
`waitCid` the command whose completion its wait operand waits for, `dep` that the wait ended in error (spec/09 R205);
`progress` the completed bytes or pages; `fault` the code and address of a probing fault it is held on, `faultW` that it met that fault writing, `entry` the
fault entry it waits on (spec/09 R221, spec/15 R338), `faultAt` the intermediate granule and the level of that fault; `snap` the
scratchpad bytes as they stood when the command began to move its bytes (spec/07 R169, spec/09 R207); `after` the commands it must follow (ebar, ecancel);
`count` the completed bytes of a held copy, the commands that an ecancel removed, or the cycles of its schedule that a ROM routine has run (spec/12 R263);
`cls` the traffic class of a micro-op's transfer (R279);
`ord` that an ordered task issued it, `task` that task's slot until the task is aborted or discarded (spec/17 R363), `exec` the
execution of the task that issued it, 0 outside tasks. -/
structure Cmd where
  cid : Nat
  instr : Instr
  ctx : Nat
  gkey : Nat
  core : Nat
  queue : Queue
  token : Option Nat
  args : List Word
  waitCid : Option Nat := none
  dep : Bool := false
  started : Bool := false
  progress : Nat := 0
  fault : Option (Nat × Nat) := none
  faultW : Bool := false
  faultAt : Nat × Nat := (0, 0)
  snap : List Host.Cell := []
  entry : Option Nat := none
  after : List Nat := []
  pc : PC := 0
  slot : Nat := 0
  rep : Nat := 0
  task : Option Nat := none
  ord : Bool := false
  exec : Nat := 0
  count : Nat := 0
  cls : Option Nat := none
  deriving DecidableEq, Repr

/-! ### Per core -/

/-- A deque entry (spec/17 R351). `line` lists the executions of tasks that it descends from, the forking one first, and
`sure` says that it has been the frontier of its domain and so is no longer speculative (spec/17 R357, R369). -/
structure DequeEntry where
  gkey : Nat
  entry : PC
  esz : Nat
  jslot : Nat
  dom : Nat
  argp : Word
  lo : Nat
  hi : Nat
  range : Bool
  ts : Word
  parent : Word
  seq : Nat
  ord : Bool
  line : List Nat := []
  sure : Bool := false
  deriving DecidableEq, Repr

/-- State of a speculation slot (spec/17 R359). -/
inductive SlotState where
  | free | running | finished | ready
  deriving DecidableEq, Repr

/-- A speculation slot (spec/17 R358): its task, the context running it, its read set of lines and its write buffer of
bytes. A byte of a paged range is named by its intermediate address, a byte of a vault by 2^60 plus its vault-space
address (R363); `homes` keeps where each buffered line lay when it was first written, and whether its page is NC;
`wlines` lists the lines that its stores have claimed since they issued (R365). `rerun` marks a re-execution after a deferred
fault (R371), `exec` numbers the execution. -/
structure SpecSlot where
  state : SlotState := .free
  task : Option DequeEntry := none
  ctx : Nat := 0
  takePc : PC := 0
  takeReg : Nat := 0
  depth : Nat := 0
  reads : List Nat := []
  writes : List Host.Cell := []
  homes : List (Nat × Nat × Bool) := []
  wlines : List Nat := []
  deferred : Option Nat := none
  rerun : Bool := false
  exec : Nat := 0
  deriving DecidableEq, Repr

/-- A weight buffer of the matrix engine: its elements by row then column (spec/12 R258, R278). An element is a tag and a
code of the B format: tag 0 the value +0, 1 a code, 2 a code of an unsigned integer, 3 a pruned position, whose product is +0
(spec/02 R61). -/
structure WeightBuf where
  rows : List (List (Nat × Nat)) := []
  validN : Nat := 0
  k0 : Nat := 0
  span : Nat := 0
  deriving DecidableEq, Repr

/-- A writable routine in a core's store (spec/09 R213). -/
structure Routine where
  index : Nat
  gkey : Nat
  ops : List Word
  deriving DecidableEq, Repr

/-- A row that a DRN has formed and not yet written: where it goes, its traffic class and its bytes (spec/12 R279, R282). -/
structure DrainRow where
  space : Nat
  addr : Nat
  cls : Nat
  bytes : List Byte
  deriving DecidableEq, Repr

/-- The routine that a core's matrix engine runs (spec/12 R275): `upc` the next micro-op, 2048 once it has ended;
`waiting` the barrier episode that coop or a BWT waits for; `drains` the rows of the DRNs that still run, in order (R282). -/
structure EngineRun where
  cid : Nat
  index : Nat
  upc : Nat
  ix : Vector (BitVec 32) 8 := Vector.replicate 8 0
  lc : Vector (BitVec 32) 4 := Vector.replicate 4 0
  wb0 : WeightBuf := {}
  wb1 : WeightBuf := {}
  drains : List DrainRow := []
  waiting : Option BarWait := none
  deriving DecidableEq, Repr

/-- Code of one image in a core's instruction store (spec/19 R385). -/
structure CodeSeg where
  gkey : Nat
  ibase : Nat
  len : Nat
  off : Nat
  deriving DecidableEq, Repr

/-- A core: its issuing sequencer, task deque (head first), speculation slots, matrix engine and code. `samp` is what the
reduction engine would sample now, as (address, slot, reason), `stalled` that the issue of a bundle stalls (spec/23 R439).
`winStall`, `winComp` and `winHeld` are the stalled and the COMPUTE cycles so far of the 10 µs window in progress and those for which
the clock was stopped, `doneStall`, `doneComp` and `doneHeld` those of the last complete window (R441, spec/25 R451). The counters that count cycles are kept relative to the core's cycle count (Machine/Claims.lean). -/
structure Core where
  cur : Option Nat := none
  deque : List DequeEntry := []
  slots : List SpecSlot := [{}, {}, {}, {}]
  lastGrid : Option Nat := none
  run : Option EngineRun := none
  store : List Routine := []
  code : List CodeSeg := []
  counters : Vector Word 8 := Vector.replicate 8 0
  stalled : Bool := false
  samp : Nat × Nat × Nat := (0, 15, 8)
  winStall : Nat := 0
  winComp : Nat := 0
  winHeld : Nat := 0
  doneStall : Nat := 0
  doneComp : Nat := 0
  doneHeld : Nat := 0
  deriving DecidableEq, Repr

/-! ### Records and fault entries -/

/-- A trap record (spec/11 R238). -/
structure TrapRec where
  pc : PC
  cause : Nat
  slot : Nat
  done : BitVec 9
  rep : Nat
  shl : Nat
  pend : Bool
  spec : Bool
  sev : Nat
  ctx : Nat
  async : Bool
  core : Nat
  res : Nat
  target : PC
  info : Word
  deriving DecidableEq, Repr

/-- A fault entry (spec/15 R337, R338) with its waiters in the order they arose; `rung` once it is in the ring, `unres` while
it is unresolved: a resolved entry that the ring has not taken yet still waits for it. -/
structure FaultEntry where
  cluster : Nat
  seq : Nat
  ia : Nat
  va : Word
  ctx : Nat
  code : Nat
  wr : Bool
  eng : Bool
  slot : Nat
  token : Nat
  core : Nat
  level : Nat
  waiters : List Nat
  rung : Bool
  unres : Bool := true
  deriving DecidableEq, Repr

/-! ### Grids and sessions -/

/-- A barrier slot (spec/05 R122). `episode` counts completed episodes, `waiters` the arrivals that wait. -/
structure Barrier where
  joinMode : Bool := true
  count : Nat := 0
  target : Nat := 0
  episode : Nat := 0
  waiters : Nat := 0
  deriving DecidableEq, Repr

/-- How far a gang has come (spec/19 R383, R388). -/
inductive GangStatus where
  | waiting | running | yielding | saved | ended
  deriving DecidableEq, Repr

/-- A gang of a grid. `turn` marks a gang that yielded at the end of its time slice until it is placed again (spec/19 R388).
`badColls` lists the collectives that have ended in error, with their code and the members that have yet to present theirs
(spec/09 R227, R231). -/
structure Gang where
  index : Nat
  status : GangStatus := .waiting
  members : List Nat := []
  bars : List Barrier := []
  barCore : Nat := 0
  placedAt : Nat := 0
  yieldAt : Option Nat := none
  yieldLate : Bool := false
  turn : Bool := false
  badColls : List (Nat × Nat × List Nat) := []
  deriving DecidableEq, Repr

/-- A launch descriptor or a template (spec/19 R379). -/
structure Desc where
  image : Nat := 0
  ibase : Nat := 0
  args : Nat := 0
  argLen : Nat := 0
  cmask : Word := 0
  gangs : Nat := 1
  members : Nat := 1
  sb : List Nat := []
  ranges : Nat := 0
  tensors : Nat := 0
  dom0 : Nat := 0
  domN : Nat := 0
  deadline : Nat := 0
  release : Nat := 0
  vf : Nat := 0
  slice : Nat := 0
  deriving DecidableEq, Repr

/-- What a grid is (spec/19 R378). -/
inductive GridKind where
  | launch | action | reasoning
  deriving DecidableEq, Repr

/-- Where a launch came from, for its status and completion (spec/19 R380, spec/22 R428). -/
inductive Source where
  | none
  | ring (statusAddr : Nat)
  | queue (q : Nat) (index : Nat) (statusAddr : Nat)
  deriving DecidableEq, Repr

/-- How far a grid has come. -/
inductive GridStatus where
  | pending | ready | ended | refused
  deriving DecidableEq, Repr

/-- A grid: a consumed launch or a released session job. `cause` is the first fatal error of the grid; `runNs` the time
during which at least one of its gangs was placed, counted up to `runFrom` while one is (spec/19 R395). `seenAt` is the time of
the event that queued it; of an action job, `sent` says that a chunk of it has departed, `mirrored` that its result has been
mirrored or needs no mirroring, `past` that its session has been closed since (spec/20 R411, R412), `late` that a time step has
passed its emission instant before its release (R408). -/
structure Grid where
  key : Nat
  part : Nat
  kind : GridKind
  status : GridStatus
  sub : Nat
  session : Nat := 0
  jobNo : Nat := 0
  desc : Desc
  hdr : KHeader
  source : Source := .none
  gangs : List Gang := []
  nextGang : Nat := 0
  deadline : Nat := 0
  release : Nat := 0
  emission : Nat := 0
  tokenAt : Nat := 0
  level : Option Nat := none
  slice : Nat := 0
  clamped : Bool := false
  cause : Option Nat := none
  emitted0 : Nat := 0
  runNs : Nat := 0
  runFrom : Option Nat := none
  missed : Bool := false
  setUp : Bool := false
  handles : List (List Word) := []
  rangeWords : List (Word × Word × Word × Word) := []
  complete : Bool := false
  seenAt : Nat := 0
  sent : Bool := false
  mirrored : Bool := false
  past : Bool := false
  late : Bool := false
  deriving DecidableEq, Repr

/-- A session of a partition's table (spec/19 R390): the sixteen words as last written, and what the Gaffer keeps.
`levels` are the slacks of the evaluations made at the present level, newest first (spec/19 R396); `minSlice` is the larger minimum time slice of its two templates as
admission found it (R392), `needs` the members, resident-reserved banks and binding of ordered domains of its templates
(R464), `forcedLevel` the level that op 3 forced (R394), `reserved` its vault reservation in 64 KiB units, `activeAt` the time from which it is ACTIVE. -/
structure Session where
  part : Nat
  index : Nat
  words : List Word := List.replicate 16 0
  state : Nat := 0
  laneCluster : Nat := 0
  laneCore : Nat := 0
  level : Nat := 0
  forced : Bool := false
  forcedLevel : Nat := 0
  hostForced : Bool := false
  misses : Nat := 0
  missSince : Bool := false
  slacks : List Int := []
  prevA : Option Nat := none
  prevR : Option Nat := none
  jobsA : Nat := 0
  jobsR : Nat := 0
  emitted : BitVec 32 := 0
  late : BitVec 24 := 0
  lastLevel : Nat := 0
  lastHold : Bool := false
  copyLevel : Word := 0
  copyEmit : Word := 0
  minSlice : Nat := 0
  needs : List (Nat × Nat × Bool) := []
  reserved : Nat := 0
  activeAt : Nat := 0
  deriving DecidableEq, Repr

/-- A session job that a token released, at the time `seenAt`, and that waits for its release instant (spec/20 R404); `late` once a
time step has passed the emission instant of one of a session at L3 (R408). -/
structure Job where
  id : Nat
  part : Nat
  session : Nat
  action : Bool
  release : Nat
  tokenAt : Nat
  number : Nat
  seenAt : Nat := 0
  late : Bool := false
  deriving DecidableEq, Repr

/-- A chunk queued for emission (spec/20 R410), since a time in ps; `late` once a time step has passed its instant, `job` the key of
the grid that emitted it, 0 for a hold chunk. -/
structure Chunk where
  part : Nat
  port : Nat
  session : Nat
  instant : Nat
  bytes : List Byte
  hold : Bool
  cid : Option Nat
  since : Nat := 0
  late : Bool := false
  job : Nat := 0
  deriving DecidableEq, Repr

/-- A hold chunk that is due at an emission instant, for a job since a time in ps; `late` once a time step has passed the
instant (spec/19 R397, R398, spec/20 R408). -/
structure HoldDue where
  part : Nat
  session : Nat
  instant : Nat
  job : Nat := 0
  since : Nat := 0
  late : Bool := false
  deriving DecidableEq, Repr

/-! ### Memory side -/

/-- A translation-cache entry of the walker share of a compute die: a leaf read by a walk (spec/15 R334). -/
structure Leaf where
  part : Nat
  die : Nat
  level : Nat
  base : Nat
  entry : Word
  deriving DecidableEq, Repr

/-- A run of the translation cache of a die's walker share: `len` pages of 512 KiB from an intermediate base, mapped to the
frames from a physical base, with the attributes of their entries (spec/15 R335). -/
structure Run where
  part : Nat
  die : Nat
  base : Nat
  frame : Nat
  len : Nat
  attrs : Word
  deriving DecidableEq, Repr

/-- A byte that a load may see in place of the byte that memory holds: the old one after a member-form store of `writer`, or
the new one of command `cid` while it runs (spec/07 R164, R169, spec/09 R207). -/
structure Loose where
  key : Nat
  byte : Byte
  writer : Nat
  cid : Option Nat
  deriving DecidableEq, Repr

/-- A line of a cluster cache, by partition and intermediate line address; `valid` and `dirty` are byte masks
(spec/13 R290). The list of lines holds the most recently used first. `key` is the line's home when it was filled,
`writers` the contexts whose writes made bytes dirty (spec/13 R305). -/
structure CacheLine where
  cluster : Nat
  part : Nat
  line : Nat
  data : List Byte
  valid : BitVec 64
  dirty : BitVec 64
  nc : Bool
  key : Nat
  writers : List (Nat × BitVec 64)
  deriving DecidableEq, Repr

/-- A line of a core's posted-write buffer, tagged by sequencer (spec/14 R310). -/
structure PostedLine where
  core : Nat
  ctx : Nat
  part : Nat
  line : Nat
  data : List Byte
  mask : BitVec 64
  nc : Bool
  key : Nat
  deriving DecidableEq, Repr

/-- A directory entry (spec/14 R322): holders with a writer mark; `ovf` when the holders are not known, `rep` that a writer
has been reported then; `home` numbers its slice and set. -/
structure DirEntry where
  part : Nat
  line : Nat
  holders : List (Nat × Bool)
  ovf : Bool
  home : Nat
  rep : Bool := false
  deriving DecidableEq, Repr

/-- A swap in progress (spec/15 R343). -/
structure Swap where
  part : Nat
  farIa : Nat
  nearIa : Nat
  farPte : Nat
  nearPte : Nat
  done : Nat
  deriving DecidableEq, Repr

/-- A frame that the clear engine sweeps: next line, and the lines already marked (spec/15 R345). -/
structure ClearFrame where
  part : Nat
  frame : Nat
  next : Nat
  marked : List Nat
  deriving DecidableEq, Repr

/-- A line of the memory-side cache: its home slice and set as one number, its way and its physical address, and whether it
holds writes that HBM4E lacks. The list of lines holds the most recently used of each set first (spec/13 R291-R293). -/
structure MscLine where
  home : Nat
  way : Nat
  line : Nat
  dirty : Bool := false
  deriving DecidableEq, Repr

/-- A request waiting at an HBM4E channel, in the queue of wheel position `pos` or in the unreserved queue of its class
(spec/13 R299). `ahead` names the charged tenants that it goes before (R301). -/
structure ChanReq where
  tenant : Option Nat
  cls : Nat
  pos : Option Nat
  bank : Nat
  row : Nat
  line : Nat
  ahead : List (Option Nat) := []
  deriving DecidableEq, Repr

/-- A channel that holds work or history: wheel position, waiting requests (oldest first), the row that each bank has
open, row activation counts as (bank, row, count), occupied banks with the time in ps from which each is, charged
tenants with the wheel positions left to go, and the number of each bank's present refresh window (spec/13 R298-R301). -/
structure Chan where
  stack : Nat
  ch : Nat
  pos : Nat := 0
  reqs : List ChanReq := []
  opened : List (Nat × Nat) := []
  rows : List (Nat × Nat × Nat) := []
  busy : List (Nat × Nat) := []
  charged : List (Nat × Nat) := []
  windows : List (Nat × Nat) := []
  deriving DecidableEq, Repr

/-! ### Base-die blocks -/

/-- A partition-wide record kept by the Gaffer, the Lehr and the partition controller; `imageBad` holds a partition in reset whose
supervisor images did not verify (spec/26 R456). -/
structure PartState where
  part : Nat
  resetting : Bool := false
  cursorCluster : Nat := 0
  cursorCore : Nat := 0
  nextSub : Nat := 1
  overrun : Bool := false
  draining : Bool := false
  imageBad : Bool := false
  invGran : Option (Nat × Nat) := none
  deriving DecidableEq, Repr

/-- A commit domain (spec/17 R353, R355, R373). `deadFrom` is the time from which its frontier task has neither run nor
finished while another of its tasks is stalled (R366). -/
structure Domain where
  part : Nat
  dom : Nat
  bound : Bool
  ordered : Bool
  gkey : Nat
  cfgGrid : BitVec 32
  nextSeq : Nat
  commits : Word
  conflicts : BitVec 32
  others : BitVec 32
  discards : Word
  deadFrom : Option Nat := none
  deriving DecidableEq, Repr

/-- A merge or split in progress (spec/22 R423). -/
structure PartCmd where
  op : Nat
  pair : Nat
  step : Nat
  began : Nat
  deriving DecidableEq, Repr

/-- A host queue pair (spec/22 R427-R429). -/
structure HostQueue where
  q : Nat
  base : Word := 0
  cfg : Word := 0
  state : Nat := 0
  ignored : Nat := 0
  last : Nat := 0
  ri : Nat := 0
  cwi : Nat := 0
  outstanding : Nat := 0
  deriving DecidableEq, Repr

/-- A resource claim (spec/22 R432), with the time of its grant while another claim of that instant can take it (R433). -/
structure Claim where
  res : Nat
  held : Bool
  owner : Nat
  pending : Option Nat
  since : Option Nat := none
  deriving DecidableEq, Repr

/-- An endpoint session entry and its counts (spec/20 R401, R409). `failAt` the time of a reset that the entry has yet to fail over from, `failHold` the emission instant of the
primary's last action job that had not emitted (R412), `failLate` that a time step has passed that instant (R408). -/
structure EpSession where
  session : Nat
  words : List Word := List.replicate 8 0
  released : BitVec 32 := 0
  discarded : BitVec 16 := 0
  full : BitVec 16 := 0
  generation : Nat := 0
  failAt : Option Nat := none
  failHold : Option Nat := none
  failLate : Bool := false
  deriving DecidableEq, Repr

/-- The debug, trace and reduction block of a cluster (spec/23 R434), beside its registers: the histogram table of the
window in progress as (address, slot, reason, count), and debug records that wait for the ring. -/
structure RedBlock where
  cluster : Nat
  hist : List (Nat × Nat × Nat × Nat) := []
  winIndex : Nat := 0
  winStart : Nat := 0
  samples : Nat := 0
  dropped : Nat := 0
  lostTrace : Nat := 0
  heldDebug : List TrapRec := []
  deriving DecidableEq, Repr

/-- A voltage and frequency island (spec/24 R443-R448). `stage` is the phase of a change in progress: 0 none, 1 rising,
2 clock stopped, 3 falling; `nextAt` the time in ps at which its next voltage step or the restart is due (R446), `forced` that
the change is a throttle's own (R448). -/
structure Island where
  f50 : Nat := 54
  v10 : Nat := 80
  req : Word := 0x5036
  toF : Nat := 54
  toV : Nat := 80
  stage : Nat := 0
  throttled : Bool := false
  result : Nat := 0
  code : Nat := 0
  tHi : Nat := 100
  nextAt : Nat := 0
  forced : Bool := false
  deriving DecidableEq, Repr

/-- A write of an island's register over MMIO, with its time in ps and the island as it stood before: a sequencer's write of
that instant is taken first (spec/24 R445). -/
structure DvfWrite where
  island : Nat
  since : Nat
  off : Nat
  value : Word
  before : Island
  deriving DecidableEq, Repr

/-- How far the boot sequence has come (spec/26 R456, R457). -/
inductive BootStage where
  | off | held | recovery | running
  deriving DecidableEq, Repr

/-- The lease, the links and the attestation state of the host interface (spec/22 R426, spec/26 R458). `attBusy` lists the
ports with a report in the making, with its buffer and its signed bytes; `takenAt` is the time at which port 1 took a free
lease, which a renewal of port 0 at that instant takes instead (R426). -/
structure HostIf where
  holder : Nat := 0
  valid : Bool := false
  epoch : BitVec 32 := 0
  exp : Nat := 0
  up0 : Bool := true
  up1 : Bool := true
  lapsedAt : Nat := 0
  takenAt : Option Nat := none
  attBusy : List (Nat × Nat × List Byte) := []
  deriving DecidableEq, Repr

/-- The time unit (spec/20 R406-R408). `delay` is the measured path delay in ns, `toRecv` the arrival less the departure of
the last sync, `lastSync` the time of the last usable sync; `sync` is a two-step sync that waits for its Follow_Up (port,
arrival), `req` a delay request (port, departure), `peerReq` a peer delay request (port, departure) and `peerResp` its two-step
response (port, arrival, the time at which the peer took the request). Log entry 45. -/
structure TimeUnit where
  rate : Int := 0
  lastOffset : Int := 0
  locked : Bool := false
  holdover : Bool := false
  good : Nat := 0
  delay : Int := 0
  toRecv : Int := 0
  lastSync : Nat := 0
  sync : Option (Nat × Nat) := none
  req : Option (Nat × Nat) := none
  peerReq : Option (Nat × Nat) := none
  peerResp : Option (Nat × Nat × Int) := none
  deriving DecidableEq, Repr

/-- A record of something that left the part: a chunk on a port to its peer, an interrupt, a negative acknowledgement of a
token or of a packet, or the report of a partition's reset with its class (outputs; the model's own log of what the outside
sees). -/
inductive Output where
  | chunk (port session depart : Nat) (peer : BitVec 128) (bytes : List Byte)
  | supIrq (cluster : Nat)
  | ownerIrq (part : Nat)
  | msix (port vector : Nat)
  | nack (session : Nat)
  | nackPacket (port : Nat)
  | partReset (part cls : Nat)
  | queueIrq (port queue : Nat)
  deriving DecidableEq, Repr

/-! ### The part -/

/-- The state of the part. `agenda` is the model's own: the steps of other agents and the inputs in the order in which
they come; while it is empty, core `cur` issues. `stepNo` counts steps and numbers the free values of time; `bootStep` is its value at the last
reset of the part. `resolving` lists the clusters whose supervisor waits for a resolve of action 3, with the grid (spec/16
R350), `runs` what the translation caches predict from (spec/15 R335), `loose` the bytes that loads may see in place of memory's.
`csqSeen` holds for each completion queue the write index at its last notice (spec/22 R431). `nowPs` is the time unit's count
in picoseconds. `winNo` is the number of the 10 µs window in progress, `winStep` the step in which it began, `winPrev` that in which the one
before it began (spec/23 R441); `dvfLast` lists the MMIO writes of islands of the present instant. -/
structure State where
  agenda : List Instr
  cur : Nat
  stepNo : Nat
  bootStep : Nat
  nowPs : Nat
  nextCtx : Nat
  nextCid : Nat
  nextKey : Nat
  nextExec : Nat
  mem : List Host.Cell
  emptyTags : List Nat
  poison : List Nat
  ctxs : List Ctx
  cores : List (Nat × Core)
  cmds : List Cmd
  grids : List Grid
  sessions : List Session
  jobs : List Job
  holds : List HoldDue
  chunks : List Chunk
  portFree : List (Nat × Nat)
  eps : List EpSession
  domains : List Domain
  parts : List PartState
  regs : List (RegAddr × Word)
  trapWait : List (Nat × TrapRec)
  faults : List FaultEntry
  faultSeq : List (Nat × Nat)
  resolving : List (Nat × Nat)
  leaves : List Leaf
  runs : List Run
  loose : List Loose
  lines : List CacheLine
  posted : List PostedLine
  dir : List DirEntry
  msc : List MscLine
  swaps : List Swap
  clear : List ClearFrame
  chans : List Chan
  partCmd : Option PartCmd
  queues : List HostQueue
  csqSeen : List (Nat × Nat)
  claims : List Claim
  reds : List RedBlock
  latches : List (Nat × Word)
  islands : List (Nat × Island)
  dvfLast : List DvfWrite
  winNo : Nat
  winStep : Nat
  winPrev : Nat
  boot : BootStage
  meas : List (BitVec 256)
  flashA : List Byte
  flashB : List Byte
  supImages : List (List Byte)
  hostIf : HostIf
  time : TimeUnit
  busRead : Word
  outputs : List Output
  deriving DecidableEq, Repr

/-- The part right after reset: no grid, no session, no context, every register at its reset value, memory listing
nothing, both host links up, the boot sequence not yet run. -/
def State.reset : State where
  agenda := []
  cur := 0
  stepNo := 0
  bootStep := 0
  nowPs := 0
  nextCtx := 1
  nextCid := 1
  nextKey := 1
  nextExec := 1
  mem := []
  emptyTags := []
  poison := []
  ctxs := []
  cores := []
  cmds := []
  grids := []
  sessions := []
  jobs := []
  holds := []
  chunks := []
  portFree := []
  eps := []
  domains := []
  parts := []
  regs := []
  trapWait := []
  faults := []
  faultSeq := []
  resolving := []
  leaves := []
  runs := []
  loose := []
  lines := []
  posted := []
  dir := []
  msc := []
  swaps := []
  clear := []
  chans := []
  partCmd := none
  queues := []
  csqSeen := []
  claims := []
  reds := []
  latches := []
  islands := []
  dvfLast := []
  winNo := 0
  winStep := 0
  winPrev := 0
  boot := .off
  meas := [0, 0, 0, 0]
  flashA := []
  flashB := []
  supImages := []
  hostIf := {}
  time := {}
  busRead := 0
  outputs := []

end Sys2Proof.Machine
end

