-- ==== Sys2Proof/Machine/Ops.lean ====
section
/-!
DEFINITION. The named operations that every meaning is written over: memory cells and their address spaces, the tables
of contexts, cores, commands and registers, slices and rotation, results in flight, and taking a trap.
-/

namespace Sys2Proof.Machine

open Sys2Proof

/-! ### Memory

One list of cells holds every memory of the part. A key is an address space's base plus the address in it. An unlisted
byte reads zero: the spec says so for a newly allocated bank (spec/13 R286) and for accumulators and side memory of
another grid (spec/12 R260); for HBM4E, vault, host and instruction memory it is the model's choice (log entry 3). -/

/-- First key of host-homed memory, by host physical address (spec/15 R332). HBM4E keys are physical addresses. -/
def hostBase : Nat := 2 ^ 46
/-- First key of vault memory, by vault-space address (spec/07 R156). -/
def vaultBase : Nat := 2 ^ 47
/-- First key of the accumulators, 64 KiB per core (spec/12 R258). -/
def accBase : Nat := 2 ^ 48
/-- First key of the sparsity side memories, 16 KiB per core (spec/12 R258). -/
def sideBase : Nat := 2 ^ 49
/-- First key of the instruction stores, 256 KiB per core (spec/19 R385). -/
def codeBase : Nat := 2 ^ 50
/-- First key of the scratchpad banks, 1 MiB of own-form offsets per context (spec/07 R154; they follow the context,
R461). -/
def spmBase : Nat := 2 ^ 52

/-- The byte at a key. An unlisted byte reads zero: DESIGN CHOICE, log entry 3. -/
def memGet : List Host.Cell → Nat → Byte
  | [], _ => 0
  | (a, b) :: m, k => if a = k then b else if k < a then 0 else memGet m k

/-- Write a byte, keeping the canonical form: writing the value an unlisted key reads as removes the entry. -/
def memSet : List Host.Cell → Nat → Byte → List Host.Cell
  | [], k, v => if v = 0 then [] else [(k, v)]
  | (a, b) :: m, k, v =>
    if k < a then (if v = 0 then (a, b) :: m else (k, v) :: (a, b) :: m)
    else if k = a then (if v = 0 then m else (a, v) :: m)
    else (a, b) :: memSet m k v

/-- Every entry of the list lies above `lo`, addresses rise strictly, and no entry is zero. -/
def memAbove : Option Nat → List Host.Cell → Bool
  | _, [] => true
  | lo, (a, b) :: m => (match lo with | none => true | some l => decide (l < a)) && decide (b ≠ 0) && memAbove (some a) m

/-- The canonical form of memory: strictly rising keys, no entry equal to what an unlisted key reads as. -/
def Memory.wf (m : List Host.Cell) : Bool := memAbove none m

/-- Write bytes at rising keys. -/
def memSetList (m : List Host.Cell) (k : Nat) : List Byte → List Host.Cell
  | [] => m
  | b :: bs => memSetList (memSet m k b) (k + 1) bs

/-- Read `n` bytes at rising keys. -/
def memGetList (m : List Host.Cell) (k : Nat) : Nat → List Byte
  | 0 => []
  | n + 1 => memGet m k :: memGetList m (k + 1) n

/-- Zero every byte whose key lies in [lo, hi). -/
def memClear (m : List Host.Cell) (lo hi : Nat) : List Host.Cell :=
  m.filter fun c => !(decide (lo ≤ c.1) && decide (c.1 < hi))

/-- Read `n` bytes of a space as a little-endian number (spec/02 R47). -/
def State.load (s : State) (key n : Nat) : Nat := ofBytesLE (memGetList s.mem key n)

/-- Write `n` bytes of a space, little-endian (spec/02 R47). -/
def State.store (s : State) (key n v : Nat) : State := { s with mem := memSetList s.mem key (toBytesLE n v) }

/-- Write bytes. -/
def State.storeBytes (s : State) (key : Nat) (bs : List Byte) : State := { s with mem := memSetList s.mem key bs }

/-! ### Tables -/

/-- The value listed under a number. -/
def tabGet? {α : Type} : List (Nat × α) → Nat → Option α
  | [], _ => none
  | (a, v) :: t, k => if a = k then some v else tabGet? t k

/-- List a value under a number, in place of the one listed before. -/
def tabSet {α : Type} : List (Nat × α) → Nat → α → List (Nat × α)
  | [], k, v => [(k, v)]
  | (a, w) :: t, k, v => if a = k then (k, v) :: t else if k < a then (k, v) :: (a, w) :: t else (a, w) :: tabSet t k v

/-- The first entry that satisfies `p`, or `d`. -/
def findD {α : Type} (l : List α) (p : α → Bool) (d : α) : α := (l.find? p).getD d

/-- Replace every entry that satisfies `p` by `v`, or append `v` when none does. -/
def putBy {α : Type} (l : List α) (p : α → Bool) (v : α) : List α :=
  if l.any p then l.map (fun x => if p x then v else x) else l ++ [v]

/-- A core, by number (spec/00 R4: cluster * 8 + core). -/
def State.core (s : State) (n : Nat) : Core := (tabGet? s.cores n).getD {}

/-- Write a core. -/
def State.setCore (s : State) (n : Nat) (c : Core) : State := { s with cores := tabSet s.cores n c }

/-- A context, by handle. -/
def State.ctx? (s : State) (h : Nat) : Option Ctx := s.ctxs.find? fun c => c.handle == h

/-- A context that stands for none. -/
def noCtx : Ctx := { handle := 0, gkey := 0, gang := 0, seqid := 0 }

/-- A context, by handle, or the empty one. -/
def State.ctx (s : State) (h : Nat) : Ctx := (s.ctx? h).getD noCtx

/-- Write a context. -/
def State.setCtx (s : State) (c : Ctx) : State :=
  { s with ctxs := putBy s.ctxs (fun x => x.handle == c.handle) c }

/-- The context that the core in turn is issuing. -/
def State.curCtx (s : State) : Ctx :=
  match (s.core s.cur).cur with
  | some h => s.ctx h
  | none => noCtx

/-- Apply a change to one context. -/
def State.modCtx (s : State) (h : Nat) (f : Ctx → Ctx) : State :=
  { s with ctxs := s.ctxs.map fun c => if c.handle == h then f c else c }

/-- A grid, by key. -/
def State.grid? (s : State) (k : Nat) : Option Grid := s.grids.find? fun g => g.key == k

/-- GRID of a launch or job: bits 31:0 of its submission number (spec/25 R450). -/
def Grid.id (g : Grid) : Nat := g.sub % 2 ^ 32

/-- GRID of a grid by its key. -/
def State.gridId (s : State) (k : Nat) : Nat := match s.grid? k with | some g => g.id | none => 0

/-- Write a grid. -/
def State.setGrid (s : State) (g : Grid) : State :=
  { s with grids := putBy s.grids (fun x => x.key == g.key) g }

/-- A gang of a grid. -/
def Grid.gang? (g : Grid) (i : Nat) : Option Gang := g.gangs.find? fun x => x.index == i

/-- Write a gang of a grid. -/
def Grid.setGang (g : Grid) (x : Gang) : Grid :=
  { g with gangs := putBy g.gangs (fun y => y.index == x.index) x }

/-- A command, by number. -/
def State.cmd? (s : State) (cid : Nat) : Option Cmd := s.cmds.find? fun c => c.cid == cid

/-- Write a command. -/
def State.setCmd (s : State) (c : Cmd) : State :=
  { s with cmds := putBy s.cmds (fun x => x.cid == c.cid) c }

/-- Remove a command. -/
def State.dropCmd (s : State) (cid : Nat) : State := { s with cmds := s.cmds.filter fun c => c.cid != cid }

/-- TSNOW in nanoseconds (spec/20 R406). -/
def State.now (s : State) : Nat := s.nowPs / 1000

/-- A partition's record. -/
def State.part (s : State) (p : Nat) : PartState := findD s.parts (fun x => x.part == p) { part := p }

/-- Write a partition's record. -/
def State.setPart (s : State) (p : PartState) : State :=
  { s with parts := putBy s.parts (fun x => x.part == p.part) p }

/-- What an access to the part comes to: nothing unless the part has booted, since only the lease and BAR2 respond in recovery
mode (spec/26 R457). -/
def State.whenUp (s t : State) : State := if s.boot = .running then t else s

/-- Record something that leaves the part. -/
def State.output (s : State) (o : Output) : State := { s with outputs := s.outputs ++ [o] }

/-- The cluster of a core (spec/00 R4). -/
def clusterOf (core : Nat) : Nat := core / 8

/-! ### Slices and rotation -/

/-- Replace bits lo+n-1 .. lo of a file. -/
def putBits (file : BitVec 1024) (lo n v : Nat) : BitVec 1024 :=
  let m : BitVec 1024 := BitVec.ofNat 1024 ((2 ^ n - 1) * 2 ^ lo)
  (file &&& ~~~m) ||| BitVec.ofNat 1024 ((v % 2 ^ n) * 2 ^ lo)

/-- `width` slices from `start`, wrapping inside the first `wrap` slices when `wrap` is not 0 (spec/01 R17, R28). -/
def readSlices (file : BitVec 1024) (start width wrap : Nat) : Nat :=
  if wrap = 0 then (file.toNat >>> (4 * start)) % 2 ^ (4 * width)
  else
    (List.range width).foldl
      (fun acc j => acc + (((file.toNat >>> (4 * ((start + j) % wrap))) % 16) <<< (4 * j))) 0

/-- Write `width` slices at `start` (spec/01 R17, R28). -/
def writeSlices (file : BitVec 1024) (start width wrap v : Nat) : BitVec 1024 :=
  if wrap = 0 then putBits file (4 * start) (4 * width) v
  else
    (List.range width).foldl
      (fun fl j => putBits fl (4 * ((start + j) % wrap)) 4 (v >>> (4 * j))) file

/-- The special register VROTn of a bench (spec/01 R26). -/
def Ctx.vrot (c : Ctx) (bench : Bool) : Word := if bench then c.vrot1 else c.vrot0

/-- Size S of the rotating region in slices (spec/01 R26, R27). -/
def rotSize (v : Word) : Nat := 16 * (v.extractLsb' 16 5).toNat
/-- Rotation step (spec/01 R26). -/
def rotStep (v : Word) : Nat := (v.extractLsb' 8 8).toNat
/-- Rotating base (spec/01 R26). -/
def rotBase (v : Word) : Nat := (v.extractLsb' 0 8).toNat

/-- A VROT value from its fields (spec/01 R26). -/
def mkRot (g step base : Nat) : Word := BitVec.ofNat 64 (g * 65536 + step * 256 + base)

/-- What a write of VROTn stores: S clamped to the window, step and base modulo S (spec/01 R27). -/
def clampRot (vG : Nat) (v : Word) : Word :=
  let g := min (v.extractLsb' 16 5).toNat vG
  if g = 0 then 0 else mkRot g (rotStep v % (16 * g)) (rotBase v % (16 * g))

/-- The base advance of a LEND completion (spec/01 R29). -/
def advanceRot (v : Word) : Word :=
  let sz := rotSize v
  if sz = 0 then v else mkRot (sz / 16) (rotStep v) ((rotBase v + sz - rotStep v) % sz)

/-- Where a vector operand that starts at `start` begins in the window, and the region it wraps in (spec/01 R28). -/
def resolveRot (v : Word) (start : Nat) : Nat × Nat :=
  let sz := rotSize v
  if sz ≠ 0 ∧ start < sz then ((start + rotBase v) % sz, sz) else (start, 0)

/-- The scalar window of a bench. -/
def Ctx.scal (c : Ctx) (bench : Bool) : BitVec 1024 := if bench then c.scal1 else c.scal0

/-- The vector window of a bench. -/
def Ctx.vec (c : Ctx) (bench : Bool) : Vector (BitVec 1024) 64 := if bench then c.vec1 else c.vec0

/-- The value of scalar slices (spec/01 R17, R23). -/
def Ctx.readScal (c : Ctx) (bench : Bool) (start width : Nat) : Nat := readSlices (c.scal bench) start width 0

/-- The value of one lane of vector slices, through the rotating base (spec/01 R17, R28). -/
def Ctx.readLane (c : Ctx) (bench : Bool) (lane start width : Nat) : Nat :=
  let r := resolveRot (c.vrot bench) start
  readSlices ((c.vec bench)[lane]?.getD 0) r.1 width r.2

/-! ### Results in flight (spec/01 R22-R25, R41-R43) -/

/-- `a` lands before `b` in the order of R24 for one bundle: the older issue first, then the earlier slot, then the
lower repetition. -/
def Flight.before (a b : Flight) : Bool :=
  decide (a.age > b.age) || (a.age == b.age && (decide (a.slot < b.slot) || (a.slot == b.slot && decide (a.rep ≤ b.rep))))

/-- Insert a result in the order of R24. -/
def insertFlight (x : Flight) : List Flight → List Flight
  | [] => [x]
  | y :: l => if y.before x then y :: insertFlight x l else x :: y :: l

/-- Clamp a 16-bit-or-wider value written to LEAD (spec/01 R38). -/
def clampLead (v : Word) : Nat := min v.toNat 15

/-- Land one result in its file (spec/01 R22-R24). A common register then holds an ordinary value, no completion of an
E command (spec/09 R205). A predicate takes the bits in the mask (spec/08 R183); p0 ignores a
write (R35); VROTn and LEAD clamp (R27, R38); TRAPVEC drops bits 1:0. -/
def landOne (c : Ctx) (x : Flight) : Ctx :=
  let v := x.lanes.headD 0
  match x.file with
  | .scal b =>
    let fl := writeSlices (c.scal b) x.start x.width x.wrap v.toNat
    if b then { c with scal1 := fl } else { c with scal0 := fl }
  | .vec b =>
    let fl := (c.vec b).mapIdx fun i lane =>
      if x.mask.getLsbD i then writeSlices lane x.start x.width x.wrap (x.lanes[i]?.getD 0).toNat else lane
    if b then { c with vec1 := fl } else { c with vec0 := fl }
  | .common => { c with com := c.com.setIfInBounds x.start v, tokErr := c.tokErr &&& ~~~(1#32 <<< x.start) }
  | .pred =>
    if x.start = 0 then c
    else
      let old := c.preds[x.start]?.getD 0
      { c with preds := c.preds.setIfInBounds x.start ((old &&& ~~~x.mask) ||| (v &&& x.mask)) }
  | .scale =>
    if x.start = 16 then { c with kb := v.truncate 32 &&& 0x00FFFFFF }
    else { c with scales := c.scales.setIfInBounds x.start (v.truncate 8) }
  | .special =>
    if x.start ≥ 0x80 then { c with mp := c.mp.setIfInBounds (x.start - 0x80) v }
    else if x.start = 0x11 then { c with lead := clampLead v }
    else if x.start = 0x20 then { c with trapVec := BitVec.ofNat 32 (v.toNat % 2 ^ 32 / 4 * 4) }
    else if x.start = 0x28 then { c with vrot0 := clampRot c.hdr.vG v }
    else if x.start = 0x29 then { c with vrot1 := clampRot c.hdr.vG v }
    else c

/-- Land every result due at the next bundle issued and drop it (spec/01 R22, R42). -/
def landDue (c : Ctx) : Ctx :=
  let due := c.flight.filter fun x => decide (x.remaining ≤ 1)
  let rest := c.flight.filter fun x => !decide (x.remaining ≤ 1)
  due.foldl landOne { c with flight := rest }

/-- Count one bundle issued: due results land, the others come one bundle nearer (spec/01 R15, R22). -/
def tickFlight (c : Ctx) : Ctx :=
  let c' := landDue c
  { c' with flight := c'.flight.map fun x => { x with remaining := x.remaining - 1, age := x.age + 1 } }

/-- Put a result in flight (`write_at`, spec/00 R9, spec/01 R22). -/
def Ctx.writeAt (c : Ctx) (x : Flight) : Ctx := { c with flight := insertFlight x c.flight }

/-! ### The special registers that a slot reads of its own bundle's start -/

/-- The loop stack that a slot's operands see (spec/03 R77). -/
def Ctx.seenLoops (c : Ctx) : List LoopEntry := match c.view with | some v => v.loops | none => c.loops
/-- The running tasks that a slot's operands see. -/
def Ctx.seenTasks (c : Ctx) : List RunTask := match c.view with | some v => v.tasks | none => c.tasks
/-- PHASE as a slot's operands see it. -/
def Ctx.seenPhase (c : Ctx) : Word := match c.view with | some v => v.phase | none => c.phase
/-- TRAPINFO as a slot's operands see it. -/
def Ctx.seenTrapInfo (c : Ctx) : Word := match c.view with | some v => v.trapInfo | none => c.trapInfo

/-! ### What a slot operation comes to -/

/-- The outcome of one slot of a bundle, before the bundle as a whole is decided: the effect it has, a stall with its
reason of spec/23 R439, a failed check of its own rule (illegal-bundle trap, row 0), the user-level trap FUTURE_EMPTY
with its address, an effect after which the sequencer stops for a record (spec/05 R129), a trap or a fatal context error
with its info. -/
inductive SlotRes where
  | ok (s : State)
  | stall (reason : Nat)
  | illegal
  | utrap (addr : Nat)
  | after (s : State) (cause : Nat) (info : Word)
  | trap (cause : Nat) (info : Word)
  | fatal (cause : Nat) (info : Word)

/-! ### Cause codes (spec/11 R237) -/

def causeIllegal : Nat := 0x01
def causeSliceBound : Nat := 0x02
def causeEcall : Nat := 0x03
def causeSwtrap : Nat := 0x04
def causeDebugBreak : Nat := 0x05
def causeDebugStop : Nat := 0x06
def causeHostAtomic : Nat := 0x07
def causeFutureEmpty : Nat := 0x08
def causeSpmRange : Nat := 0x10
def causeVaultRange : Nat := 0x11
def causeFarFault : Nat := 0x12
def causePoisonRead : Nat := 0x13
def causeEngineDesc : Nat := 0x14
def causeFetchRange : Nat := 0x15
def causeUtrapFatal : Nat := 0x16
def causeMemExhausted : Nat := 0x17
def causeCtxKilled : Nat := 0x18
def causePartReset : Nat := 0x19

/-! ### Taking a trap -/

/-- The trap record of a context that stops where it stands (spec/11 R238-R241).
shl and target beside a committed transfer: DEDUCED, log entry 15. -/
def mkRec (c : Ctx) (cause slot : Nat) (done : BitVec 9) (sev : Nat) (spec : Bool) (info : Word) : TrapRec where
  pc := c.pc
  cause := cause
  slot := slot
  done := done
  rep := c.rep
  shl := c.shl
  pend := c.pend
  spec := spec
  sev := sev
  ctx := c.handle
  async := false
  core := c.core
  res := c.res
  target := if c.pend then c.target else 0
  info := info

/-- No sequencer is issuing on a core any more, if it was this one (spec/01 R14, spec/21 R415). -/
def releaseCore (s : State) (c : Ctx) : State :=
  let k := s.core c.core
  if k.cur = some c.handle then s.setCore c.core { k with cur := none } else s

/-- TAKING A TRAP (spec/11 R236, R238, R240, R256), the one operation for every trap to the supervisor: the context
keeps its resumable position, its done mask and its results in flight (they are its replay buffer, R41), its record
waits for the cluster's trap ring, and the core is free to issue another sequencer. `part` says that the bundle at the pc
has issued and is partly committed, so that it is re-issued on resumption (R243). -/
def takeTrap (s : State) (h cause slot : Nat) (done : BitVec 9) (part spec : Bool) (info : Word) : State :=
  let c := s.ctx h
  let c' := { c with status := .trapped, done := done, partBundle := part, view := none,
                     imgAt := none, mirror := false }
  let s' := (s.setCtx c')
  let s'' := { s' with trapWait := s'.trapWait ++ [(clusterOf c.core, mkRec c cause slot done 0 spec info)] }
  releaseCore s'' c

/-- TAKING A DEBUG STOP (spec/11 R236, spec/23 R435): as a trap, to the debug unit of the cluster. `bpSkip` keeps the
stopped slot plus one, at or below which no breakpoint fires on the re-issue (R436). -/
def takeDebug (s : State) (h cause slot : Nat) (done : BitVec 9) (part : Bool) (info : Word) : State :=
  let c := s.ctx h
  let c' := { c with status := .debug, done := done, partBundle := part, view := none,
                     imgAt := none, mirror := false, bpSkip := if cause = causeDebugStop then slot + 1 else 0 }
  let r := findD s.reds (fun x => x.cluster == clusterOf c.core) { cluster := clusterOf c.core }
  let r' := { r with heldDebug := r.heldDebug ++ [mkRec c cause slot done 2 false info] }
  releaseCore { (s.setCtx c') with reds := putBy s.reds (fun x => x.cluster == r.cluster) r' } c

/-- TRAPINFO of a user-level trap (spec/05 R120). -/
def mkTrapInfo (cause addr : Nat) (pc : PC) : Word :=
  BitVec.ofNat 64 (2 ^ 63 + cause * 2 ^ 56 + (addr % 2 ^ 24) * 2 ^ 32 + pc.toNat)

/-- TAKING A USER-LEVEL TRAP (spec/05 R120): TRAPINFO is written and the next bundle is at TRAPVEC, with no delay
shadow. The caller has ruled out the fatal cases. -/
def takeUserTrap (s : State) (h cause addr : Nat) : State :=
  s.modCtx h fun c =>
    { c with trapInfo := mkTrapInfo cause addr c.pc, pc := c.trapVec, rep := 0, done := 0, partBundle := false,
             bpSkip := 0, view := none, began := none, leave := none }

/-- RETURN FROM A USER-LEVEL TRAP (spec/05 R121): active is cleared and a transfer to the trapping bundle is pending,
with two shadow bundles. -/
def returnUserTrap (s : State) (h : Nat) : State :=
  s.modCtx h fun c =>
    { c with trapInfo := c.trapInfo &&& ~~~(BitVec.ofNat 64 (2 ^ 63)), pend := true,
             target := BitVec.ofNat 32 (c.trapInfo.toNat % 2 ^ 32 / 4 * 4), shl := 2 }

end Sys2Proof.Machine
end

