-- ==== Sys2Proof/Machine/RegTable.lean ====
section
/-!
DEFINITION. The memory-mapped registers' reset values and storage, and the shape of the partitions (spec/00 R4, R5;
spec/22 R418, R421). A register that has a field of its own in State (islands, time unit, counters, lease) is not
stored here. A per-partition block is numbered by the lowest die of its partition (R421).
-/

namespace Sys2Proof.Machine

open Sys2Proof

/-! ### Partitions: 0 to 3 are Q0 to Q3, 4 is H0, 5 is H1, 6 is W (spec/22 R418, R427) -/

/-- Lowest die of a partition. -/
def partDie (p : Nat) : Nat := if p < 4 then p else if p = 5 then 2 else 0

/-- Number of dies of a partition. -/
def partDies (p : Nat) : Nat := if p < 4 then 1 else if p < 6 then 2 else 4

/-- A cluster belongs to a partition: 16 clusters on each die (spec/00 R4). -/
def partHas (p cluster : Nat) : Bool :=
  decide (16 * partDie p ≤ cluster) && decide (cluster < 16 * (partDie p + partDies p))

/-- A stack belongs to a partition: two stacks on each die (spec/13 R298). -/
def partHasStack (p stack : Nat) : Bool :=
  decide (2 * partDie p ≤ stack) && decide (stack < 2 * (partDie p + partDies p))

/-- The partition of a die under a value of PRT_CFG (R418). -/
def partOfDie (cfg d : Nat) : Nat :=
  if cfg.testBit 2 then 6
  else if d < 2 then (if cfg.testBit 0 then 4 else d)
  else (if cfg.testBit 1 then 5 else d)

/-- A partition exists under a value of PRT_CFG (R418). -/
def partPresent (cfg p : Nat) : Bool := partOfDie cfg (partDie p) == p

/-! ### Registers -/

/-- The value a register holds at reset, where it is not zero (spec/13 R294, R302; spec/19 R399; spec/22 R422, R427;
spec/23 R434). Registers without a stated reset value hold zero: DESIGN CHOICE, log entry 7. -/
def regReset (a : RegAddr) : Word :=
  match a.block with
  | .prtm => if a.off < 0x220 then 0x7FFF else 0
  | .mrv => if a.off < 0x1000 then 0x1FFF else if a.off = 0x1010 then 1024 else 0
  | .gaf =>
    if a.off = 0x008 then 0x0000040001800280
    else if a.off = 0x010 then 4096
    else if a.off = 0x018 then 512
    else if a.off = 0x020 then 4096
    else if a.off = 0x028 then 0x00000008000186A0
    else 0
  | .prt =>
    if a.off = 0x1018 then 0x000186A0
    else if a.off = 0x1020 then 0x00200400
    else if a.off = 0x1028 then 0x00220410
    else if a.off = 0x1030 then 0x00240420
    else if a.off = 0x1038 then 0x00260430
    else 0
  | .hif => if a.off = 0x008 then 0x00989680 else 0
  | .red => if a.off = 0x008 then 1000 else 0
  | _ => 0

/-- The stored value of a register. -/
def State.reg (s : State) (a : RegAddr) : Word :=
  match s.regs.find? fun x => x.1 == a with
  | some x => x.2
  | none => regReset a

/-- Store a value in a register. -/
def State.setReg (s : State) (a : RegAddr) (v : Word) : State :=
  { s with regs := putBy s.regs (fun x => x.1 == a) (a, v) }

/-- Add to a register that counts (each wraps). -/
def State.bumpReg (s : State) (a : RegAddr) (n : Nat) : State := s.setReg a (s.reg a + BitVec.ofNat 64 n)

/-- PRT_CFG (spec/22 R422). -/
def State.prtCfg (s : State) : Nat := (s.reg ⟨.prt, 0, 0x1000⟩).toNat

/-- The partition of a cluster now. -/
def State.partOfCluster (s : State) (cluster : Nat) : Nat := partOfDie s.prtCfg (cluster / 16)

/-- A register of a partition's block. -/
def partReg (b : Block) (p off : Nat) : RegAddr := ⟨b, partDie p, off⟩

/-- The entry count of a ring whose ring_log field is in bits 3:0 of a control register: 2^5 to 2^12, other values
clamped (spec/11 R257, spec/13 R294, spec/15 R340, spec/19 R399, spec/22 R427). -/
def ringSize (ctl : Word) : Nat := 2 ^ (max 5 (min 12 (ctl.extractLsb' 0 4).toNat))

/-- An island, by core number (spec/24 R444). -/
def State.island (s : State) (i : Nat) : Island := (tabGet? s.islands i).getD {}

/-- Write an island. -/
def State.setIsland (s : State) (i : Nat) (x : Island) : State := { s with islands := tabSet s.islands i x }

/-- An island's temperature in degrees as the part finds it (spec/24 R444, R448): at 110 it is throttled, and it stays so until it
has fallen below T_hi. A free value, log entry 42. -/
def State.islandTemp (s : State) (i : Nat) : Nat :=
  let t := Config.temperature s.stepNo i % 256
  if (s.island i).throttled then max t (s.island i).tHi else min t 109

/-- A core's clock is stopped for a change of its operating point: the core stands still, its engine commands pause, and
its off-core queues hold their requests (spec/24 R446, R447). -/
def State.clockStopped (s : State) (core : Nat) : Bool := (s.island core).stage == 2

end Sys2Proof.Machine
end

