-- ==== Sys2Proof/Machine/Operands.lean ====
section
/-!
DEFINITION. Reading operands and writing results: predicates and guards (spec/03 R74, spec/01 R35), special registers
(spec/01 R38-R40), sources of every kind (spec/03 R69-R71), and results put in flight (spec/01 R22; spec/06 R133;
spec/08 R182, R183).
-/

namespace Sys2Proof.Machine

open Sys2Proof

/-! ### Predicates and guards -/

/-- A predicate; p0 reads as all ones (spec/01 R35). -/
def Ctx.pred (c : Ctx) (n : Nat) : Mask := if n = 0 then BitVec.allOnes 64 else c.preds[n]?.getD 0

/-- The guard of an operation, lane by lane (spec/03 R74). -/
def guardMask (c : Ctx) (f : Fields) : Mask :=
  let q := c.pred f.pidx.toNat
  if f.pneg then ~~~q else q

/-- Whether a scalar, C, E or K operation is enabled (spec/03 R74). -/
def enabled (c : Ctx) (f : Fields) : Bool := (guardMask c f).getLsbD 0

/-! ### Tasks and frontiers (spec/17 R354, R357) -/

/-- The innermost running task that a slot's operands see; the list holds it first. -/
def Ctx.innerTask (c : Ctx) : Option RunTask := c.seenTasks.head?

/-- The uncommitted ordered tasks of a domain of a partition, as (ts, seq): queued ones and those in slots. -/
def State.uncommitted (s : State) (p dom : Nat) : List (Nat × Nat) :=
  let mine (e : DequeEntry) : Bool :=
    e.ord && e.dom == dom && (match s.grid? e.gkey with | some g => g.part == p | none => false)
  s.cores.flatMap fun k =>
    (k.2.deque.filter mine ++ (k.2.slots.filterMap fun x => if x.state = .free then none else x.task).filter mine).map
      fun e => (e.ts.toNat, e.seq)

/-- Order of tasks by (ts, seq) (spec/17 R357). -/
def taskBefore (a b : Nat × Nat) : Bool := decide (a.1 < b.1) || (a.1 == b.1 && decide (a.2 < b.2))

/-- The first of a list of tasks by (ts, seq). -/
def firstTask : List (Nat × Nat) → Option (Nat × Nat)
  | [] => none
  | x :: l => match firstTask l with
    | none => some x
    | some y => some (if taskBefore y x then y else x)

/-- The frontier task of a domain, as (ts, seq) (spec/17 R357). -/
def State.frontierTask (s : State) (p dom : Nat) : Option (Nat × Nat) := firstTask (s.uncommitted p dom)

/-- The frontier value of a domain; all ones when it holds no task (spec/05 R127, spec/17 R357). -/
def State.frontier (s : State) (p dom : Nat) : Word :=
  match s.frontierTask p dom with
  | some x => BitVec.ofNat 64 x.1
  | none => BitVec.allOnes 64

/-- The lowest domain bound to a grid, or 0 (spec/17 R354). -/
def State.lowestDomain (s : State) (gkey : Nat) : Nat :=
  match (s.domains.filter fun d => d.bound && d.gkey == gkey).map (·.dom) with
  | [] => 0
  | d :: ds => ds.foldl min d

/-- DOMAIN (spec/01 R38, spec/17 R354). -/
def State.domainOf (s : State) (c : Ctx) : Nat :=
  match c.innerTask with
  | some t => t.dom
  | none => s.lowestDomain c.gkey

/-! ### Management registers (spec/24 R444) -/

/-- The sequencer is a management sequencer: its GRID equals DVF_MGMT of its partition. -/
def State.isMgmt (s : State) (c : Ctx) : Bool :=
  let m := (s.reg (partReg .dvf c.part 0)).toNat % 2 ^ 32
  decide (m ≠ 0) && m == s.gridId c.gkey

/-- An island's present point in the layout of DVF_CUR. -/
def Island.cur (x : Island) : Word := BitVec.ofNat 64 (x.v10 * 256 + x.f50)

/-- DVF_STS of an island with a temperature. -/
def Island.sts (x : Island) (temp : Nat) : Word :=
  BitVec.ofNat 64 ((if x.stage ≠ 0 then 1 else 0) + (if x.throttled then 2 else 0) + x.result * 16 + x.code * 256
    + (temp % 256) * 2 ^ 24)

/-- A management register by its number, for a selected island (R444). -/
def State.mgmtRead (s : State) (part : Nat) (sel : Word) (n : Nat) : Word :=
  if n = 0x40 then sel
  else
    let i := sel.toNat % 512
    if partHas part (i / 8) then
      let x := s.island i
      if n = 0x41 then x.req
      else if n = 0x42 then x.cur
      else if n = 0x43 then x.sts (s.islandTemp i)
      else if n = 0x44 then BitVec.ofNat 64 x.tHi
      else if 0x48 ≤ n ∧ n < 0x50 then s.reg ⟨.red, i / 8, 0x300 + 8 * (n - 0x48)⟩
      else 0
    else 0

/-! ### Special registers (spec/01 R38, R39) -/

/-- What SRD of a number reads. -/
def State.special (s : State) (c : Ctx) (n : Nat) : Word :=
  if n < 6 then
    match c.seenLoops[n]? with
    | some l => l.index.setWidth 64
    | none => 0
  else if n = 0x08 then BitVec.ofNat 64 c.seqid
  else if n = 0x09 then BitVec.ofNat 64 c.gang
  else if n = 0x0A then BitVec.ofNat 64 (s.gridId c.gkey)
  else if n = 0x0B then BitVec.ofNat 64 c.stage
  else if n = 0x0C then BitVec.ofNat 64 (c.core % 512)
  else if n = 0x10 then c.seenPhase
  else if n = 0x11 then BitVec.ofNat 64 c.lead
  else if n = 0x12 then BitVec.ofNat 64 c.level
  else if n = 0x18 then (match c.view with | some v => v.cfr | none => s.frontier c.part (s.domainOf c))
  else if n = 0x19 then (match c.innerTask with | some t => t.ts | none => 0)
  else if n = 0x1A then BitVec.ofNat 64 (s.domainOf c)
  else if n = 0x1B then BitVec.ofNat 64 s.now
  else if n = 0x20 then c.trapVec.setWidth 64
  else if n = 0x21 then c.seenTrapInfo
  else if n = 0x28 then c.vrot0
  else if n = 0x29 then c.vrot1
  else if 0x40 ≤ n ∧ n < 0x80 then (if s.isMgmt c then s.mgmtRead c.part c.dvfSel n else 0)
  else 0

/-- The special registers that an SWR writes as exposed results (R38, R41). -/
def isWritableSpecial (n : Nat) : Bool := n == 0x11 || n == 0x20 || n == 0x28 || n == 0x29

/-- The read-only special registers (R38). -/
def isReadOnlySpecial (n : Nat) : Bool :=
  n < 6 || (0x08 ≤ n && n ≤ 0x0C) || n == 0x10 || n == 0x12 || (0x18 ≤ n && n ≤ 0x1B) || n == 0x21

/-! ### Sources -/

/-- A common register. -/
def Ctx.common (c : Ctx) (n : Nat) : Word := c.com[n]?.getD 0

/-- A 64-bit source of slots C, E and K (R71). -/
def src64 (s : State) (k : Kind) (o : Operand) : Word :=
  match k with
  | .common => s.curCtx.common o.reg
  | .special => s.special s.curCtx o.start.toNat
  | _ => BitVec.ofInt 64 o.imm

/-- The value of a scalar source at its own width; an immediate at width `w` (R69, R70). -/
def srcScal (s : State) (p : Pos) (k : Kind) (o : Operand) (w : Nat) : Nat :=
  match k with
  | .slices => s.curCtx.readScal p.bench o.start.toNat o.slices
  | .common => (s.curCtx.common o.reg).toNat % 2 ^ o.bits
  | .special => (s.special s.curCtx o.start.toNat).toNat % 2 ^ o.bits
  | .imm => (narrow w o.imm).toNat

/-- The value that a vector source supplies to a lane (spec/08 R179). -/
def srcLane (s : State) (p : Pos) (k : Kind) (o : Operand) (w lane : Nat) : Nat :=
  match k with
  | .slices => s.curCtx.readLane p.bench lane o.start.toNat o.slices
  | _ => srcScal s p k o w

/-- The width in bits of a source's value (R69, R70). -/
def srcWidth (k : Kind) (o : Operand) (w : Nat) : Nat := match k with | .imm => w | _ => o.bits

/-- Extension to `W` bits by the x bit (spec/06 R132); a wider value keeps its low bits. -/
def extTo (x : Bool) (w W v : Nat) : Nat :=
  if w < W ∧ x then (narrow W (signed w v)).toNat else v % 2 ^ W

/-- A scalar source extended to `W` bits. -/
def srcExt (s : State) (p : Pos) (k : Kind) (o : Operand) (x : Bool) (W : Nat) : Nat :=
  extTo x (srcWidth k o W) W (srcScal s p k o W)

/-- A vector source's lane extended to `W` bits (spec/08 R181). -/
def laneExt (s : State) (p : Pos) (k : Kind) (o : Operand) (x : Bool) (W lane : Nat) : Nat :=
  extTo x (srcWidth k o W) W (srcLane s p k o W lane)

/-- A scalar source decoded in a format; an immediate is the integer it encodes (R70, spec/02 R56). -/
def srcVal (s : State) (p : Pos) (k : Kind) (o : Operand) (fm : Fmt) : FVal :=
  match k with
  | .imm => .ofInt o.imm
  | _ => fm.decode (srcScal s p k o 64)

/-- A vector source's lane decoded in a format. -/
def laneVal (s : State) (p : Pos) (k : Kind) (o : Operand) (fm : Fmt) (lane : Nat) : FVal :=
  match k with
  | .imm => .ofInt o.imm
  | _ => fm.decode (srcLane s p k o 64 lane)

/-- The format of an operation's fmt field, once the checks have passed. -/
def fmtOf (f : Fields) : Fmt := (Fmt.ofCode f.fmt).getD .int4

/-! ### Results -/

/-- Change the context that the core in turn is issuing. -/
def State.modCur (s : State) (g : Ctx → Ctx) : State := s.modCtx s.curCtx.handle g

/-- An exposed result of the issuing bundle, not yet given to a file. -/
def mkFlight (s : State) (p : Pos) (file : FileId) (start width lat : Nat) (lanes : List Word) (mask : Mask) : Flight where
  file := file
  start := start
  width := width
  wrap := 0
  lanes := lanes
  mask := mask
  remaining := lat
  age := 0
  slot := p.index
  rep := s.curCtx.rep

/-- `write_at(scalar, dst, W, v, lat)` (spec/06 R133). -/
def putScal (s : State) (p : Pos) (o : Operand) (lat v : Nat) : State :=
  s.modCur fun c =>
    c.writeAt (mkFlight s p (.scal p.bench) o.start.toNat o.slices lat [BitVec.ofNat 64 v] (BitVec.allOnes 64))

/-- `write_at(vector, dst, width, v, lat)` in the lanes of the mask, the slices resolved now (spec/08 R182, spec/01
R22, R28). -/
def putVec (s : State) (p : Pos) (o : Operand) (lat : Nat) (mask : Mask) (v : Nat → Nat) : State :=
  s.modCur fun c =>
    let r := resolveRot (c.vrot p.bench) o.start.toNat
    c.writeAt { mkFlight s p (.vec p.bench) r.1 o.slices lat ((List.range 64).map fun i => BitVec.ofNat 64 (v i)) mask
                with wrap := r.2 }

/-- A write of a common register. -/
def putCommon (s : State) (p : Pos) (n lat : Nat) (v : Word) : State :=
  s.modCur fun c => c.writeAt (mkFlight s p .common n 16 lat [v] (BitVec.allOnes 64))

/-- A write of the bits in `mask` of a predicate (spec/08 R183). -/
def putPred (s : State) (p : Pos) (n lat : Nat) (v mask : Mask) : State :=
  s.modCur fun c => c.writeAt (mkFlight s p .pred n 16 lat [v] mask)

/-- All ones or zero. -/
def boolMask (b : Bool) : Mask := if b then BitVec.allOnes 64 else 0

/-- A write of a scale register. -/
def putScale (s : State) (p : Pos) (n lat : Nat) (v : Int) : State :=
  s.modCur fun c => c.writeAt (mkFlight s p .scale n 1 lat [narrow 8 v] (BitVec.allOnes 64))

/-- A write of some bits of KB, scale register 16 of the file: the result is the whole register (spec/06 R150, spec/11
R249). -/
def putKb (s : State) (p : Pos) (lat : Nat) (v mask : Word) : State :=
  s.modCur fun c =>
    c.writeAt (mkFlight s p .scale 16 1 lat [(c.kb.setWidth 64 &&& ~~~mask) ||| (v &&& mask)] (BitVec.allOnes 64))

/-- A write of a special register, or of mp`n` as 0x80 + n (spec/01 R41). -/
def putSpecial (s : State) (p : Pos) (n lat : Nat) (v : Word) : State :=
  s.modCur fun c => c.writeAt (mkFlight s p .special n 16 lat [v] (BitVec.allOnes 64))

/-! ### Common reads and token interlocks (spec/01 R32, spec/03 R75) -/

/-- The kind of source 1, where the operation takes one; a wide form fixes it (R73). -/
def kind1 (info : OpInfo) (f : Fields) : Option Kind :=
  if info.k1 = [] then none else if info.wide then some .common else some f.k1

/-- The kind of source 2, where the operation takes one as a value. -/
def kind2 (info : OpInfo) (f : Fields) : Option Kind :=
  if info.k2 = [] ∨ info.wide then none else some f.k2

/-- Whether an amocas reads its own token register (spec/07 R171). -/
def readsOwnToken (i : Instr) (f : Fields) : Bool :=
  match i with
  | .amocas _ _ => !f.mod.getLsbD 2
  | _ => false

/-- The common registers an operation reads, in order (R75). -/
def commonReads (i : Instr) (info : OpInfo) (f : Fields) : List Nat :=
  (if kind1 info f = some .common then [f.src1.reg] else []) ++
  (if kind2 info f = some .common then [f.src2.reg] else []) ++
  (if readsOwnToken i f then [f.dst.reg] else [])

/-- The common register an operation writes or names as its token (R76). -/
def commonWrite (info : OpInfo) (f : Fields) : Option Nat :=
  match info.dst with
  | .common | .token => some f.dst.reg
  | _ => none

/-- A register is a pending token. -/
def Ctx.pending (c : Ctx) (n : Nat) : Bool := c.tokPend.getLsbD n

/-- An operation meets a pending token as a source, a destination or its token (R32). -/
def tokenStall (c : Ctx) (i : Instr) (info : OpInfo) (f : Fields) : Bool :=
  ((commonReads i info f) ++ (commonWrite info f).toList).any c.pending

/-- An operation on 64 lanes, which its guard enables lane by lane (R74; spec/06 R144 for xfer's vector form). -/
def isVector (i : Instr) (info : OpInfo) (f : Fields) : Bool :=
  info.cls == .v || info.dst == .vec || info.dst == .vdata ||
  (match i with | .xfer _ _ => f.mod.getLsbD 0 | _ => false)

/-- What any slot operation does before its own meaning: disabled in every lane it has no effect (R74); a pending
token stalls it (R32), which is stall 1 of spec/23 R439. -/
def gated (i : Instr) (info : OpInfo) (f : Fields) (s : State) (run : State → SlotRes) : SlotRes :=
  let c := s.curCtx
  let off := if isVector i info f then guardMask c f = 0 else !enabled c f
  if off then .ok s
  else if tokenStall c i info f then .stall 1
  else run s

/-- A slot operation's meaning, given its row: what `gated` says, then `run`. An event has none. -/
def slotOp (i : Instr) (f : Fields) (s : State) (run : OpInfo → State → SlotRes) : SlotRes :=
  match opInfo i with
  | some info => gated i info f s (run info)
  | none => .illegal

end Sys2Proof.Machine
end

