-- ==== Sys2Proof/Machine/Flags.lean ====
section
/-!
DEFINITION. The integer results and the conditions of compares (spec/05 R108; spec/06 R135-R138, R140, R147), as
functions on W-bit words held as natural numbers below 2^W. The part keeps no status flags: a compare writes a
predicate, and nothing records overflow (R136, R185).
-/

namespace Sys2Proof.Machine

open Sys2Proof

/-- An exact integer taken modulo 2^W. -/
def wrapI (W : Nat) (x : Int) : Nat := (x % 2 ^ W).toNat

/-- A W-bit word read as signed or unsigned. -/
def readI (u : Bool) (W a : Nat) : Int := if u then ((a % 2 ^ W : Nat) : Int) else signed W a

/-- The sat field of add and sub: 0 wraps, 1 clamps signed, 2 clamps unsigned (R134, R135). -/
def addSat (sat W : Nat) (neg : Bool) (a b : Nat) : Nat :=
  let u := decide (sat = 2)
  let x := readI u W a
  let y := readI u W b
  let r := if neg then x - y else x + y
  if sat = 0 then wrapI W r else wrapI W (clampInt r (intRange W u))

/-- Low W bits of a product. -/
def mulLow (W a b : Nat) : Nat := (a * b) % 2 ^ W

/-- High W bits of the 2W-bit product. -/
def mulHigh (u : Bool) (W a b : Nat) : Nat := wrapI W ((readI u W a * readI u W b) / 2 ^ W)

/-- Truncating quotient (R136). -/
def divI (u : Bool) (W a b : Nat) : Nat :=
  if b % 2 ^ W = 0 then 2 ^ W - 1 else wrapI W ((readI u W a).tdiv (readI u W b))

/-- Truncating remainder (R136). -/
def remI (u : Bool) (W a b : Nat) : Nat :=
  if b % 2 ^ W = 0 then a % 2 ^ W else wrapI W ((readI u W a).tmod (readI u W b))

/-- Lesser or greater (R135). -/
def minmaxI (wantMax u : Bool) (W a b : Nat) : Nat :=
  let lt := decide (readI u W a < readI u W b)
  if wantMax then (if lt then b else a) else (if lt then a else b)

/-- Absolute value of a signed word, modulo 2^W (R135). -/
def absI (W a : Nat) : Nat := wrapI W ((signed W a).natAbs : Int)

/-- Left shift; 0 when n is W or more (R135). -/
def sllI (W a n : Nat) : Nat := if n ≥ W then 0 else (a * 2 ^ n) % 2 ^ W

/-- Logical right shift (R135). -/
def srlI (W a n : Nat) : Nat := if n ≥ W then 0 else a / 2 ^ n

/-- Arithmetic right shift; all sign bits when n is W or more (R135). -/
def sraI (W a n : Nat) : Nat := wrapI W (signed W a / 2 ^ (min n W))

/-- a + b * 2^sh (R135). -/
def leaI (W sh a b : Nat) : Nat := (a + b * 2 ^ sh) % 2 ^ W

/-- Leading zeros over w bits (R137). -/
def clzI (w a : Nat) : Nat := if a = 0 then w else w - 1 - Nat.log2 a

/-- Set bits over w bits (R137). -/
def popcI (w a : Nat) : Nat := (List.range w).countP fun i => a.testBit i

/-- Bits pos+W-1 .. pos of a w-bit word, filled above it by sign or zero (R138). -/
def xtrI (x : Bool) (w W a pos : Nat) : Nat := wrapI W (readI (!x) w a / 2 ^ (min pos 64))

/-- Bits pos+w-1 .. pos of d replaced by a (R138). -/
def insI (w W d a pos : Nat) : Nat :=
  if pos ≥ W then d
  else
    let m := ((2 ^ w - 1) * 2 ^ pos) % 2 ^ W
    (d &&& (2 ^ W - 1 - m)) ||| ((a * 2 ^ pos) % 2 ^ W)

/-- The conditions of ccmp, cmp and integer vcmp; codes 6 and 7 are illegal (R108, R140). -/
def intCond (code W a b : Nat) : Bool :=
  match code with
  | 0 => a % 2 ^ W == b % 2 ^ W
  | 1 => a % 2 ^ W != b % 2 ^ W
  | 2 => decide (signed W a < signed W b)
  | 3 => decide (signed W a ≥ signed W b)
  | 4 => decide (a % 2 ^ W < b % 2 ^ W)
  | 5 => decide (a % 2 ^ W ≥ b % 2 ^ W)
  | _ => false

/-- Whether a condition sign-extends narrower sources (R140). -/
def condSigned (code : Nat) : Bool := decide (code < 4)

/-- The conditions of fcmp and float vcmp; codes 6 and 7 are illegal (R147). -/
def fpCond (code : Nat) (a b : FVal) : Bool :=
  let un := decide (a = .nan) || decide (b = .nan)
  match code with
  | 0 => !un && FVal.cmp a b == .eq
  | 1 => un || FVal.cmp a b != .eq
  | 2 => !un && FVal.cmp a b == .lt
  | 3 => !un && FVal.cmp a b != .gt
  | 4 => un
  | 5 => !un
  | _ => false

/-- A value clamped to a signed 8-bit scale exponent (spec/06 R153). -/
def clampScale (x : Int) : Int := clampInt x (-128, 127)

end Sys2Proof.Machine
end

