-- ==== Sys2Proof/Machine/Checks.lean ====
section
/-!
DEFINITION. The checks of spec/03 R89 on a slot word and on a bundle, the operations' own static rules (row 0), and
the slice bounds of R21, R80 and R90. Rows are numbered as the table of R89 lists them, from 1.
-/

namespace Sys2Proof.Machine

open Sys2Proof

/-! ### Widths (row 13) -/

/-- A slice source of at most `n` slices, or a common or special source of exactly `n` (spec/06 R131, R132).
Common and special sources: DEDUCED, log entry 12. -/
def atMostW (k : Kind) (o : Operand) (n : Nat) : Bool :=
  match k with
  | .slices => decide (o.slices ≤ n)
  | .common | .special => o.slices == n
  | .imm => true

/-- A source of exactly `n` slices (spec/08 R181). Common and special sources: DEDUCED, log entries 12 and 13. -/
def exactW (k : Kind) (o : Operand) (n : Nat) : Bool := decide (k = .imm) || o.slices == n

/-- A slice source of any width, or a common or special source of exactly `n` slices. -/
def freeW (k : Kind) (o : Operand) (n : Nat) : Bool :=
  match k with
  | .common | .special => o.slices == n
  | _ => true

/-- A scratchpad address, index or nibble address: at most 8 slices, or wm1 = 7 (spec/07 R157). -/
def spmAddrW (k : Kind) (o : Operand) : Bool := atMostW k o 8

/-- A far or vault address, length or stride (spec/07 R157). -/
def farW (k : Kind) (o : Operand) : Bool := freeW k o 16

/-- Slices of a format (spec/02 R46). -/
def Fmt.slices (fm : Fmt) : Nat := fm.width / 4

/-- A load's destination or a store's data in a format: at least the element's width for an integer format, exactly it
for the others (spec/07 R157). -/
def dataW (fm : Fmt) (o : Operand) : Bool :=
  if fm.isInt then decide (fm.slices ≤ o.slices) else o.slices == fm.slices

/-- Row 13: the widths an operation allows. -/
def widthsOk (info : OpInfo) (f : Fields) : Bool :=
  let d := f.dst.slices
  let fm := fmtOf f
  let one (t : Kind → Operand → Bool) : Bool := info.k1 == [] || t f.k1 f.src1
  let two (t : Kind → Operand → Bool) : Bool := info.k2 == [] || t f.k2 f.src2
  match info.wr with
  | .none | .any | .pred => true
  | .int => one (atMostW · · d) && two (atMostW · · d)
  | .free => one (freeW · · d) && two (freeW · · d)
  | .cmp =>
    let n := (f.mod.extractLsb' 3 4).toNat + 1
    one (atMostW · · n) && two (atMostW · · n)
  | .xfer => f.src1.slices == d
  | .fp =>
    let n := fm.slices
    (info.dst == .pred || d == n) && one (exactW · · n) && two (exactW · · n)
  | .fcvt =>
    d == fm.slices &&
    (match Fmt.ofCode (f.mod.extractLsb' 2 4) with
     | some g => one (exactW · · g.slices)
     | none => true)
  | .icvt => if f.mod.getLsbD 2 then one (exactW · · fm.slices) else d == fm.slices
  | .mld | .mst => dataW fm f.dst && one spmAddrW && two spmAddrW
  | .mlds | .msts => dataW fm f.dst && one spmAddrW && two farW
  | .mldx | .mstx => dataW fm f.dst && one spmAddrW && decide (f.src2.slices ≤ 8)
  | .gath | .scat => dataW fm f.dst && f.src1.slices == 8
  | .far2 => one farW && two farW
  | .fst | .amo => one farW && two (exactW · · fm.slices)
  | .fldv => one spmAddrW && two farW
  | .nib | .tag => one spmAddrW
  | .v =>
    if f.fmt = 0 then one (atMostW · · d) && two (atMostW · · d)
    else d == fm.slices && one (exactW · · fm.slices) && two (exactW · · fm.slices)
  | .any1 => true
  | .vcmp =>
    let n := if f.fmt = 0 then (f.mod.extractLsb' 3 4).toNat + 1 else fm.slices
    if f.fmt = 0 then one (atMostW · · n) && two (atMostW · · n) else one (exactW · · n) && two (exactW · · n)
  | .vcvt =>
    (f.fmt = 0 || d == fm.slices) &&
    (match Fmt.ofCode (f.mod.extractLsb' 2 4) with
     | some g => g.isInt || one (exactW · · g.slices)
     | none => true)
  | .vscale =>
    let n := fm.slices
    d == n && one (exactW · · n) && two (fun k o => decide (k = .imm) || decide (o.slices ≤ 4))
  | .perm => f.src1.slices == d
  | .vdot =>
    d == 8 && f.src1.slices == f.src2.slices && (f.fmt = 0 || f.src1.slices % 2 == 0)

/-! ### The rows of R89 on one slot word -/

/-- An unused operand field and its kind bits (spec/05 R103, spec/06 R130). -/
def unusedOk (k : Kind) : Bool := decide (k = .slices)

/-- Row 9: a kind that the slot or operation does not accept. A wait operand must be of kind 01 (spec/09 R205). The kind bits of an
unused source that are not zero report this row and not row 14: DESIGN CHOICE, log entry 74. -/
def kindsOk (info : OpInfo) (f : Fields) : Bool :=
  if info.wide then true
  else
    (if info.k1 = [] then unusedOk f.k1 else info.k1.contains f.k1) &&
    (if info.wait2 ∧ f.mod.getLsbD 2 then decide (f.k2 = .common)
     else if info.k2 = [] then unusedOk f.k2
     else info.k2.contains f.k2)

/-- Row 10: a common operand or destination whose start bits 7:5 are not zero. -/
def commonStartOk (info : OpInfo) (f : Fields) : Bool :=
  (kind1 info f ≠ some .common || decide (f.src1.start.toNat < 32)) &&
  (kind2 info f ≠ some .common || decide (f.src2.start.toNat < 32)) &&
  (!(info.wait2 && f.mod.getLsbD 2) || decide (f.src2.start.toNat < 32)) &&
  (info.dst ≠ .common || decide (f.dst.start.toNat < 32))

/-- Row 11: wm1 is 15 in slots C, E and K (R71). -/
def wm15Ok (info : OpInfo) (f : Fields) : Bool :=
  let cek := info.cls == .c || info.cls == .e || info.cls == .k
  let ok (k : Option Kind) (o : Operand) : Bool :=
    match k with
    | some .common | some .special => o.wm1 == 15
    | _ => true
  !cek || (ok (kind1 info f) f.src1 && ok (kind2 info f) f.src2 &&
    (!(info.wait2 && f.mod.getLsbD 2) || f.src2.wm1 == 15) && (info.dst ≠ .common || f.dst.wm1 == 15))

/-- Row 12: the destination field lies in its range (R72). A token below c16 fails this row and row 16. -/
def dstOk (info : OpInfo) (f : Fields) : Bool :=
  let st := f.dst.start.toNat
  let w := f.dst.wm1.toNat
  match info.dst with
  | .none => st == 0 && w == 0
  | .slices | .vec | .sdata | .vdata | .common => true
  | .token => decide (16 ≤ st ∧ st < 32) && w == 15
  | .pred => decide (st < 48) && w == 0
  | .scale => decide (st < 16) && w == 0
  | .mparam => decide (st < 8) && w == 0

/-- Row 14: the operand fields that the operation does not use are zero. -/
def unusedZero (info : OpInfo) (f : Fields) : Bool :=
  (info.k1 ≠ [] || f.src1.toBits == 0) &&
  (info.wide || info.k2 ≠ [] || (info.wait2 && f.mod.getLsbD 2) || f.src2.toBits == 0)

/-- Row 15: mod bits that the operation leaves undefined are zero. -/
def modOk (info : OpInfo) (f : Fields) : Bool :=
  info.wide || (f.mod &&& ~~~(if f.fmt = 0 then info.modInt else info.modFp)) == 0

/-- Row 17: a write that names a loop index (R13). -/
def namesLoop (i : Instr) (f : Fields) : Bool :=
  match i with
  | .swr _ _ => decide (f.k1 = .special) && decide (f.src1.start.toNat < 6)
  | _ => false

/-- Row 16: a token named in c0 to c15, as a destination, by tkwait (spec/05 R125) or as a wait operand
(spec/09 R205). DEDUCED, log entry 14. -/
def tokenLow (i : Instr) (info : OpInfo) (f : Fields) : Bool :=
  (info.dst == .token && decide (f.dst.start.toNat < 16)) ||
  (info.wait2 && f.mod.getLsbD 2 && decide (f.src2.start.toNat < 16)) ||
  (match i with
   | .tkwait _ _ => decide (f.src1.start.toNat < 16)
   | _ => false)

/-- The lowest row of R89 that an operation's word fails, rows 6 to 17. -/
def wordRow (i : Instr) (info : OpInfo) (f : Fields) : Option Nat :=
  if info.fmts ≠ none ∧ !((info.fmts.getD []).contains f.fmt.toNat) then some 6
  else if info.fmts = none ∧ f.fmt ≠ 0 then (if f.fmt.toNat ≥ 10 then some 6 else some 7)
  else if f.pidx.toNat ≥ 48 then some 8
  else if !kindsOk info f then some 9
  else if !commonStartOk info f then some 10
  else if !wm15Ok info f then some 11
  else if !dstOk info f then some 12
  else if !widthsOk info f then some 13
  else if !unusedZero info f then some 14
  else if !modOk info f then some 15
  else if tokenLow i info f then some 16
  else if namesLoop i f then some 17
  else none

/-! ### The operations' own static rules (row 0) -/

/-- A source that names a predicate (spec/06 R142). -/
def predSrcOk (o : Operand) : Bool := decide (o.start.toNat < 48) && o.wm1 == 0

/-- The element width of vpack and vunpack is a whole number of slices within its limits (spec/08 R200). -/
def packOk (f : Fields) (packed other : Operand) (unpack : Bool) : Bool :=
  let lg := (f.mod.extractLsb' 0 3).toNat
  let g := 2 ^ lg
  decide (1 ≤ lg) && decide (lg ≤ 4) && packed.slices % g == 0 &&
    decide (packed.slices / g ≤ other.slices) && (unpack || f.mod.extractLsb' 3 2 ≠ 3)

/-- Sync and scope of an E command agree: the scope is 0 when sync is (spec/09 R204). -/
def syncOk (f : Fields) : Bool := f.mod.extractLsb' 5 2 ≠ 0 || f.mod.extractLsb' 3 2 == 0

/-- A wait operand is a token other than the command's own (spec/09 R205). -/
def waitOk (f : Fields) : Bool :=
  !f.mod.getLsbD 2 || f.src2.start ≠ f.dst.start

/-- The static rules of the operations themselves, each where its rule gives it. -/
def ownRuleOk (i : Instr) (info : OpInfo) (f : Fields) : Bool :=
  let cond := f.mod.extractLsb' 0 3
  match i with
  | .cpget _ _ => decide ((f.mod.extractLsb' 0 6).toNat < 48)
  | .ccmp _ _ | .cmp _ _ | .fcmp _ _ | .vcmp _ _ => decide (cond.toNat < 6)
  | .swr _ _ => !isReadOnlySpecial f.src1.start.toNat
  | .add _ _ | .sub _ _ => f.mod.extractLsb' 2 2 ≠ 3
  | .sel _ _ | .vsel _ _ => decide ((f.mod.extractLsb' 0 6).toNat < 48)
  | .pand _ _ | .por _ _ | .pxor _ _ => predSrcOk f.src1 && predSrcOk f.src2
  | .pget _ _ | .vpget _ _ | .vfirst _ _ => predSrcOk f.src1
  | .fcvt _ _ => decide (5 ≤ (f.mod.extractLsb' 2 4).toNat) && decide ((f.mod.extractLsb' 2 4).toNat ≤ 9)
  | .kld _ _ => decide (f.dst.start.toNat + (f.mod.extractLsb' 0 2).toNat ≤ 15)
  | .vcvt _ _ =>
    let sf := (f.mod.extractLsb' 2 4).toNat
    (sf == 0 || (decide (5 ≤ sf) && decide (sf ≤ 9))) && !(sf == 0 && f.fmt == 0)
  | .vred _ _ | .vscan _ _ =>
    f.fmt = 0 || (decide (cond.toNat ≤ 2) && (cond = 0 || f.mod.extractLsb' 3 2 == 0))
  | .vpack _ _ => packOk f f.dst f.src1 false
  | .vunpack _ _ => packOk f f.src1 f.dst true
  | .vdot _ _ | .vdotsu _ _ => f.fmt.toNat < 5 || !f.mod.getLsbD 0
  | _ => if info.cls = .e ∧ info.dst = .token then syncOk f && (!info.wait2 || waitOk f) else true

/-- What a slot word fails: the row of R89, 0 for an own rule. -/
def wordFail (i : Instr) (info : OpInfo) (f : Fields) : Option Nat :=
  match wordRow i info f with
  | some r => some r
  | none => if ownRuleOk i info f then none else some 0

/-! ### Slice bounds (R21, R80, R90) -/

/-- An operand of private slices as its word names it: field 0 dst, 1 src1, 2 src2; whether it lies in the vector
file, and in the bench it lies in. -/
structure SliceUse where
  field : Nat
  vector : Bool
  bench : Bool
  op : Operand
  deriving DecidableEq, Repr

/-- The operands of private slices of an operation, in the order dst, src1, src2 (spec/07 R157; spec/06 R144). A source of
kind 00 that names a predicate (spec/06 R142) is none of them, so a repeat prefix does not step it (R79). DESIGN CHOICE, log
entry 68. -/
def sliceUses (i : Instr) (info : OpInfo) (p : Pos) (f : Fields) : List SliceUse :=
  let b := p.bench
  let isX := match i with | .xfer _ _ => true | _ => false
  let xv := isX && f.mod.getLsbD 0
  let d : List SliceUse :=
    match info.dst with
    | .slices | .sdata => [⟨0, xv, b, f.dst⟩]
    | .vec | .vdata => [⟨0, true, b, f.dst⟩]
    | _ => []
  let v1 := info.cls == .v || info.wr == .gath || info.wr == .scat || xv
  let v2 := info.cls == .v || info.wr == .mldx || info.wr == .mstx
  let named := info.wr == .pred
  let u1 : List SliceUse :=
    if kind1 info f = some .slices ∧ !named then [⟨1, v1, if isX then !b else b, f.src1⟩] else []
  let u2 : List SliceUse :=
    if kind2 info f = some .slices ∧ !named then [⟨2, v2, b, f.src2⟩] else []
  d ++ u1 ++ u2

/-- The stepped start of an operand in a repetition (R79). -/
def stepStart (rpt : Option (BitVec 32)) (p : Pos) (rep : Nat) (u : SliceUse) : Int :=
  match rpt with
  | none => u.op.start.toNat
  | some r =>
    let m := rptMask r
    let on := match u.field with | 0 => m.1 | 1 => m.2.1 | _ => m.2.2
    if on then (u.op.start.toNat : Int) + rep * rptStep r p * rptUnit r else u.op.start.toNat

/-- The info word of a slice-bound trap for an operand (spec/11 R239), when it is out of bounds. -/
def sliceBad (c : Ctx) (u : SliceUse) (start : Int) : Option Word :=
  let win : Int := 16 * (if u.vector then c.hdr.vG else c.hdr.aG)
  let w := u.op.slices
  let info (rot : Bool) : Word :=
    BitVec.ofNat 64 ((start % 65536).toNat + u.op.wm1.toNat * 65536 + u.field * 2 ^ 20 + (if rot then 2 ^ 22 else 0))
  if start < 0 ∨ start + w > win then some (info false)
  else if u.vector then
    let sz := rotSize (c.vrot u.bench)
    if start < sz ∧ start + w > sz then some (info true) else none
  else none

/-- The first operand of a slot that is out of bounds in a repetition. -/
def sliceFail (c : Ctx) (rpt : Option (BitVec 32)) (i : Instr) (info : OpInfo) (p : Pos) (f : Fields) : Option Word :=
  (sliceUses i info p f).findSome? fun u => sliceBad c u (stepStart rpt p c.rep u)

/-- The fields of a word in a repetition, with its stepped starts (R79); the bounds have been checked. -/
def stepFields (rpt : Option (BitVec 32)) (i : Instr) (info : OpInfo) (p : Pos) (rep : Nat) (f : Fields) : Fields :=
  (sliceUses i info p f).foldl
    (fun g u =>
      let o : Operand := ⟨BitVec.ofInt 8 (stepStart rpt p rep u), u.op.wm1⟩
      match u.field with
      | 0 => { g with dst := o }
      | 1 => { g with src1 := o }
      | _ => { g with src2 := o }) f

/-- The exposed results that an operation puts in flight when its guard enables it (spec/01 R43, spec/06 R153). -/
def resultCount (c : Ctx) (i : Instr) (info : OpInfo) (f : Fields) : Nat :=
  if (if isVector i info f then guardMask c f = 0 else !enabled c f) then 0
  else match i with
    | .kld _ _ => (f.mod.extractLsb' 0 2).toNat + 1
    | .kclr _ _ => 16
    | .kbind _ _ | .kfmt _ _ => 1
    | .swr _ _ => if isWritableSpecial f.src1.start.toNat then 1 else 0
    | _ => match info.dst with
      | .slices | .vec | .common | .pred | .scale | .mparam => 1
      | _ => 0

/-- A slot operation with other fields. -/
def decodeAt (p : Pos) (code : Nat) (f : Fields) : Option Instr :=
  match p.cls with
  | .c => decodeC code p f
  | .a => decodeA code p f
  | .m => decodeM code p f
  | .v => decodeV code p f
  | .e => decodeE code p f
  | .k => decodeK code p f

end Sys2Proof.Machine
end

