-- ==== Sys2Proof/Machine/Scalar.lean ====
section
/-!
DEFINITION. The scalar operations of slots A0 and A1 (spec/06 R130-R149). Each result is put in flight at the latency
of R134; sources are read as they stand when the bundle issues.
-/

namespace Sys2Proof.Machine

open Sys2Proof

/-! ### Shapes of A operations -/

/-- A result of both sources extended to W by an x bit (R132, R135). -/
def alu2 (i : Instr) (p : Pos) (f : Fields) (s : State) (x : Bool) (g : Nat → Nat → Nat → Nat) : SlotRes :=
  slotOp i f s fun info s =>
    let W := f.dst.bits
    .ok (putScal s p f.dst info.lat (g W (srcExt s p f.k1 f.src1 x W) (srcExt s p f.k2 f.src2 x W)))

/-- A result of source 1 as it stands and its width in bits. -/
def alu1 (i : Instr) (p : Pos) (f : Fields) (s : State) (g : Nat → Nat → Nat → Nat) : SlotRes :=
  slotOp i f s fun info s =>
    let W := f.dst.bits
    .ok (putScal s p f.dst info.lat (g W (srcWidth f.k1 f.src1 W) (srcScal s p f.k1 f.src1 W)))

/-- A predicate written whole by a scalar condition. -/
def setPred (i : Instr) (p : Pos) (f : Fields) (s : State) (g : State → Mask) : SlotRes :=
  slotOp i f s fun info s => .ok (putPred s p f.dst.start.toNat info.lat (g s) (BitVec.allOnes 64))

/-- A float result of both decoded sources, rounded once under the mode of mod 1:0 (R145). -/
def fpu2 (i : Instr) (p : Pos) (f : Fields) (s : State) (g : Fmt → RMode → FVal → FVal → Nat) : SlotRes :=
  slotOp i f s fun info s =>
    let fm := fmtOf f
    .ok (putScal s p f.dst info.lat
      (g fm (RMode.ofBits (f.mod.extractLsb' 0 2)) (srcVal s p f.k1 f.src1 fm) (srcVal s p f.k2 f.src2 fm)))

/-- The x bit, mod bit 0. -/
def xBit (f : Fields) : Bool := f.mod.getLsbD 0
/-- The u bit, mod bit 1. -/
def uBit (f : Fields) : Bool := f.mod.getLsbD 1
/-- A rounding mode in mod 1:0. -/
def rmOf (f : Fields) : RMode := RMode.ofBits (f.mod.extractLsb' 0 2)
/-- A predicate that a source names (R142). -/
def namedPred (s : State) (o : Operand) : Mask := s.curCtx.pred o.start.toNat

/-! ### Meanings -/

/-- ADD (R135). -/
def semAdd (p : Pos) (f : Fields) (s : State) : SlotRes :=
  alu2 (.add p f) p f s (xBit f) fun W a b => addSat (f.mod.extractLsb' 2 2).toNat W false a b

/-- SUB (R135). -/
def semSub (p : Pos) (f : Fields) (s : State) : SlotRes :=
  alu2 (.sub p f) p f s (xBit f) fun W a b => addSat (f.mod.extractLsb' 2 2).toNat W true a b

/-- MUL (R135). -/
def semMul (p : Pos) (f : Fields) (s : State) : SlotRes :=
  alu2 (.mul p f) p f s (xBit f) mulLow

/-- MULH (R135). -/
def semMulh (p : Pos) (f : Fields) (s : State) : SlotRes :=
  alu2 (.mulh p f) p f s (xBit f) (mulHigh (uBit f))

/-- DIV (R136). -/
def semDiv (p : Pos) (f : Fields) (s : State) : SlotRes :=
  alu2 (.div p f) p f s (xBit f) (divI (uBit f))

/-- REM (R136). -/
def semRem (p : Pos) (f : Fields) (s : State) : SlotRes :=
  alu2 (.rem p f) p f s (xBit f) (remI (uBit f))

/-- AND (R135). -/
def semAnd (p : Pos) (f : Fields) (s : State) : SlotRes :=
  alu2 (.and p f) p f s (xBit f) fun _ a b => a &&& b

/-- OR (R135). -/
def semOr (p : Pos) (f : Fields) (s : State) : SlotRes :=
  alu2 (.or p f) p f s (xBit f) fun _ a b => a ||| b

/-- XOR (R135). -/
def semXor (p : Pos) (f : Fields) (s : State) : SlotRes :=
  alu2 (.xor p f) p f s (xBit f) fun _ a b => a ^^^ b

/-- SLL (R135). -/
def semSll (p : Pos) (f : Fields) (s : State) : SlotRes :=
  alu2 (.sll p f) p f s (xBit f) sllI

/-- SRL (R135). -/
def semSrl (p : Pos) (f : Fields) (s : State) : SlotRes :=
  alu2 (.srl p f) p f s (xBit f) srlI

/-- SRA (R135). -/
def semSra (p : Pos) (f : Fields) (s : State) : SlotRes :=
  alu2 (.sra p f) p f s (xBit f) sraI

/-- MIN (R135). -/
def semMin (p : Pos) (f : Fields) (s : State) : SlotRes :=
  alu2 (.min p f) p f s (xBit f) (minmaxI false (uBit f))

/-- MAX (R135). -/
def semMax (p : Pos) (f : Fields) (s : State) : SlotRes :=
  alu2 (.max p f) p f s (xBit f) (minmaxI true (uBit f))

/-- ABS (R135). -/
def semAbs (p : Pos) (f : Fields) (s : State) : SlotRes :=
  alu1 (.abs p f) p f s fun W w a => absI W (extTo (xBit f) w W a)

/-- CLZ (R137). -/
def semClz (p : Pos) (f : Fields) (s : State) : SlotRes :=
  alu1 (.clz p f) p f s fun W w a => clzI w a % 2 ^ W

/-- POPC (R137). -/
def semPopc (p : Pos) (f : Fields) (s : State) : SlotRes :=
  alu1 (.popc p f) p f s fun W w a => popcI w a % 2 ^ W

/-- EXT (R138). -/
def semExt (p : Pos) (f : Fields) (s : State) : SlotRes :=
  alu1 (.ext p f) p f s fun W w a => extTo (xBit f) w W a

/-- XTR (R138). Its position, as every slice source narrower than W, is extended by the x bit (R132), and its W bits are then
read as an unsigned value. -/
def semXtr (p : Pos) (f : Fields) (s : State) : SlotRes :=
  alu1 (.xtr p f) p f s fun W w a => xtrI (xBit f) w W a (srcExt s p f.k2 f.src2 (xBit f) W)

/-- INS (R138): the destination is read as it stands at issue. It has no x bit, and its position is
zero-extended: DEDUCED, log entry 17. -/
def semIns (p : Pos) (f : Fields) (s : State) : SlotRes :=
  alu1 (.ins p f) p f s fun W w a =>
    insI w W (s.curCtx.readScal p.bench f.dst.start.toNat f.dst.slices) a (srcExt s p f.k2 f.src2 false W)

/-- LI (R139). -/
def semLi (p : Pos) (f : Fields) (s : State) : SlotRes :=
  slotOp (.li p f) f s fun info s => .ok (putScal s p f.dst info.lat (wrapI f.dst.bits f.wide))

/-- LEA (R135). -/
def semLea (p : Pos) (f : Fields) (s : State) : SlotRes :=
  alu2 (.lea p f) p f s (xBit f) fun W a b => leaI W (f.mod.extractLsb' 1 3).toNat a b

/-- CMP (R140): narrower slices are sign-extended for the signed conditions and for eq and ne. -/
def semCmp (p : Pos) (f : Fields) (s : State) : SlotRes :=
  setPred (.cmp p f) p f s fun s =>
    let W := 4 * ((f.mod.extractLsb' 3 4).toNat + 1)
    let code := (f.mod.extractLsb' 0 3).toNat
    let x := condSigned code
    boolMask (intCond code W (srcExt s p f.k1 f.src1 x W) (srcExt s p f.k2 f.src2 x W))

/-- SEL (R141): bit 0 of predicate S chooses. -/
def semSel (p : Pos) (f : Fields) (s : State) : SlotRes :=
  alu2 (.sel p f) p f s (f.mod.getLsbD 6) fun _ a b =>
    if (s.curCtx.pred (f.mod.extractLsb' 0 6).toNat).getLsbD 0 then a else b

/-- PAND (R142). -/
def semPand (p : Pos) (f : Fields) (s : State) : SlotRes :=
  setPred (.pand p f) p f s fun s =>
    let x := namedPred s f.src1
    let y := namedPred s f.src2
    let z := (if f.mod.getLsbD 0 then ~~~x else x) &&& (if f.mod.getLsbD 1 then ~~~y else y)
    if f.mod.getLsbD 2 then ~~~z else z

/-- POR (R142). -/
def semPor (p : Pos) (f : Fields) (s : State) : SlotRes :=
  setPred (.por p f) p f s fun s =>
    let x := namedPred s f.src1
    let y := namedPred s f.src2
    let z := (if f.mod.getLsbD 0 then ~~~x else x) ||| (if f.mod.getLsbD 1 then ~~~y else y)
    if f.mod.getLsbD 2 then ~~~z else z

/-- PXOR (R142). -/
def semPxor (p : Pos) (f : Fields) (s : State) : SlotRes :=
  setPred (.pxor p f) p f s fun s =>
    let x := namedPred s f.src1
    let y := namedPred s f.src2
    let z := (if f.mod.getLsbD 0 then ~~~x else x) ^^^ (if f.mod.getLsbD 1 then ~~~y else y)
    if f.mod.getLsbD 2 then ~~~z else z

/-- PSET (R143): the source zero-extended from its own width; an immediate sign-extended to 64 bits. -/
def semPset (p : Pos) (f : Fields) (s : State) : SlotRes :=
  setPred (.pset p f) p f s fun s => BitVec.ofNat 64 (srcScal s p f.k1 f.src1 64)

/-- PGET (R143). -/
def semPget (p : Pos) (f : Fields) (s : State) : SlotRes :=
  slotOp (.pget p f) f s fun info s =>
    .ok (putScal s p f.dst info.lat ((namedPred s f.src1).toNat % 2 ^ f.dst.bits))

/-- XFER (R144): the other bench's scalar file, or its vector file lane by lane. -/
def semXfer (p : Pos) (f : Fields) (s : State) : SlotRes :=
  slotOp (.xfer p f) f s fun info s =>
    let c := s.curCtx
    if f.mod.getLsbD 0 then
      .ok (putVec s p f.dst info.lat (guardMask c f) fun i => c.readLane (!p.bench) i f.src1.start.toNat f.src1.slices)
    else .ok (putScal s p f.dst info.lat (c.readScal (!p.bench) f.src1.start.toNat f.src1.slices))

/-- FADD (R145). -/
def semFadd (p : Pos) (f : Fields) (s : State) : SlotRes :=
  fpu2 (.fadd p f) p f s fun fm rm a b => fm.encode rm (FVal.add rm a b)

/-- FSUB (R145). -/
def semFsub (p : Pos) (f : Fields) (s : State) : SlotRes :=
  fpu2 (.fsub p f) p f s fun fm rm a b => fm.encode rm (FVal.add rm a b.neg)

/-- FMUL (R145). -/
def semFmul (p : Pos) (f : Fields) (s : State) : SlotRes :=
  fpu2 (.fmul p f) p f s fun fm rm a b => fm.encode rm (FVal.mul a b)

/-- FMA (R145): the destination as it stood at issue is added, with one rounding. -/
def semFma (p : Pos) (f : Fields) (s : State) : SlotRes :=
  fpu2 (.fma p f) p f s fun fm rm a b =>
    fm.encode rm (FVal.add rm (FVal.mul a b)
      (fm.decode (s.curCtx.readScal p.bench f.dst.start.toNat f.dst.slices)))

/-- FDIV (R145). -/
def semFdiv (p : Pos) (f : Fields) (s : State) : SlotRes :=
  fpu2 (.fdiv p f) p f s fun fm rm a b => divRound fm rm a b

/-- FMIN (R146). -/
def semFmin (p : Pos) (f : Fields) (s : State) : SlotRes :=
  fpu2 (.fmin p f) p f s fun fm _ a b => fm.encode .rne (FVal.minmax false a b)

/-- FMAX (R146). -/
def semFmax (p : Pos) (f : Fields) (s : State) : SlotRes :=
  fpu2 (.fmax p f) p f s fun fm _ a b => fm.encode .rne (FVal.minmax true a b)

/-- FCMP (R147). -/
def semFcmp (p : Pos) (f : Fields) (s : State) : SlotRes :=
  setPred (.fcmp p f) p f s fun s =>
    boolMask (fpCond (f.mod.extractLsb' 0 3).toNat (srcVal s p f.k1 f.src1 (fmtOf f)) (srcVal s p f.k2 f.src2 (fmtOf f)))

/-- FCVT (R148). -/
def semFcvt (p : Pos) (f : Fields) (s : State) : SlotRes :=
  slotOp (.fcvt p f) f s fun info s =>
    let sf := (Fmt.ofCode (f.mod.extractLsb' 2 4)).getD .fp32
    .ok (putScal s p f.dst info.lat ((fmtOf f).encode (rmOf f) (srcVal s p f.k1 f.src1 sf)))

/-- ICVT (R148): dir 0 from an integer of the source's width, dir 1 to an integer of W bits. -/
def semIcvt (p : Pos) (f : Fields) (s : State) : SlotRes :=
  slotOp (.icvt p f) f s fun info s =>
    let u := f.mod.getLsbD 3
    let v : Nat :=
      if f.mod.getLsbD 2 then
        wrapI f.dst.bits (toIntSat f.dst.bits u (rmOf f) (srcVal s p f.k1 f.src1 (fmtOf f)))
      else
        (fmtOf f).encode (rmOf f) (match f.k1 with
          | .imm => .ofInt f.src1.imm
          | _ => .ofInt (readI u f.src1.bits (srcScal s p f.k1 f.src1 64)))
    .ok (putScal s p f.dst info.lat v)

end Sys2Proof.Machine
end

