-- ==== Sys2Proof/Machine/Vector.lean ====
section
/-!
DEFINITION. The vector operations of slots V0 and V1 (spec/08 R179-R203). Each result lands lane by lane in the lanes
that the guard enables, at the latency of R184.
-/

namespace Sys2Proof.Machine

open Sys2Proof

/-! ### Shapes of V operations -/

/-- A result lane by lane, written in the enabled lanes (R182). -/
def vecOp (i : Instr) (p : Pos) (f : Fields) (s : State) (g : State → Nat → Nat) : SlotRes :=
  slotOp i f s fun info s => .ok (putVec s p f.dst info.lat (guardMask s.curCtx f) (g s))

/-- An integer result of both sources extended to W (R181, R185). -/
def vint2 (s : State) (p : Pos) (f : Fields) (x : Bool) (g : Nat → Nat → Nat → Nat) (lane : Nat) : Nat :=
  let W := f.dst.bits
  g W (laneExt s p f.k1 f.src1 x W lane) (laneExt s p f.k2 f.src2 x W lane)

/-- A float or tapered result of both decoded sources (R186). -/
def vfp2 (s : State) (p : Pos) (f : Fields) (g : Fmt → RMode → FVal → FVal → Nat) (lane : Nat) : Nat :=
  let fm := fmtOf f
  g fm (rmOf f) (laneVal s p f.k1 f.src1 fm lane) (laneVal s p f.k2 f.src2 fm lane)

/-- An operation with an integer and a float form (R180). -/
def vec2 (i : Instr) (p : Pos) (f : Fields) (s : State) (gi : Nat → Nat → Nat → Nat)
    (gf : Fmt → RMode → FVal → FVal → Nat) : SlotRes :=
  vecOp i p f s fun s lane => if f.fmt = 0 then vint2 s p f (xBit f) gi lane else vfp2 s p f gf lane

/-- An integer operation. -/
def veci (i : Instr) (p : Pos) (f : Fields) (s : State) (x : Bool) (g : Nat → Nat → Nat → Nat) : SlotRes :=
  vecOp i p f s fun s lane => vint2 s p f x g lane

/-- The destination lane as it stood at issue (R182). -/
def dstLane (s : State) (p : Pos) (f : Fields) (lane : Nat) : Nat :=
  s.curCtx.readLane p.bench lane f.dst.start.toNat f.dst.slices

/-- A multiply and add with signs: `sp` negates the product, `sd` the destination (R185, R186). -/
def vmac (i : Instr) (p : Pos) (f : Fields) (s : State) (sp sd : Bool) : SlotRes :=
  vecOp i p f s fun s lane =>
    let d := dstLane s p f lane
    if f.fmt = 0 then
      vint2 s p f (xBit f) (fun W a b =>
        wrapI W ((if sp then -1 else 1) * ((a : Int) * b) + (if sd then -1 else 1) * (d : Int))) lane
    else
      vfp2 s p f (fun fm rm a b =>
        let m := FVal.mul a b
        let dv := fm.decode d
        fm.encode rm (FVal.add rm (if sp then m.neg else m) (if sd then dv.neg else dv))) lane

/-- A mask from a condition on lanes. -/
def laneMask (g : Nat → Bool) : Mask :=
  BitVec.ofNat 64 ((List.range 64).foldl (fun a i => if g i then a + 2 ^ i else a) 0)

/-- A predicate written in its enabled lanes (R183). -/
def vecPred (i : Instr) (p : Pos) (f : Fields) (s : State) (g : State → Nat → Bool) : SlotRes :=
  slotOp i f s fun info s =>
    .ok (putPred s p f.dst.start.toNat info.lat (laneMask (g s)) (guardMask s.curCtx f))

/-- One of the four approximations in each lane (R194). An immediate is the exact integer it encodes, rounded into no
format: it is taken as the nearest code, which every integer of twelve bits that the format can hold is exactly. -/
def vecApprox (i : Instr) (p : Pos) (f : Fields) (s : State) (op : Approx) : SlotRes :=
  vecOp i p f s fun s lane =>
    let fm := fmtOf f
    match f.k1 with
    | .imm => approxVal fm op (fm.encode .rne (.ofInt f.src1.imm)) (.ofInt f.src1.imm)
    | _ => approx fm op (srcLane s p f.k1 f.src1 64 lane)

/-! ### Reductions (R196) -/

/-- Combine integer lanes under an op code of R170's encoding. -/
def combineI (op W : Nat) (l : List Nat) : Nat :=
  match l with
  | [] => 0
  | a :: r =>
    match op with
    | 0 => (l.foldl (· + ·) 0) % 2 ^ W
    | 1 => r.foldl (minmaxI false false W) a
    | 2 => r.foldl (minmaxI true false W) a
    | 3 => r.foldl (minmaxI false true W) a
    | 4 => r.foldl (minmaxI true true W) a
    | 5 => r.foldl (· &&& ·) a
    | 6 => r.foldl (· ||| ·) a
    | _ => r.foldl (· ^^^ ·) a

/-- Combine float or tapered values: an exact sum rounded once, or the minimum or maximum (R196). -/
def combineF (op : Nat) (fm : Fmt) (rm : RMode) (l : List FVal) : Nat :=
  match l with
  | [] => 0
  | a :: r =>
    match op with
    | 0 => fm.encode rm (sumExact l)
    | 1 => fm.encode .rne (r.foldl (FVal.minmax false) a)
    | _ => fm.encode .rne (r.foldl (FVal.minmax true) a)

/-- The combination of the enabled lanes in a list of lanes. -/
def reduceLanes (s : State) (p : Pos) (f : Fields) (lanes : List Nat) : Nat :=
  let op := (f.mod.extractLsb' 0 3).toNat
  let on := lanes.filter fun i => (guardMask s.curCtx f).getLsbD i
  if f.fmt = 0 then
    let W := f.dst.bits
    combineI op W (on.map fun i => laneExt s p f.k1 f.src1 (f.mod.getLsbD 5) W i)
  else
    combineF op (fmtOf f) (RMode.ofBits (f.mod.extractLsb' 3 2)) (on.map fun i => laneVal s p f.k1 f.src1 (fmtOf f) i)

/-! ### Pack, unpack and dot products -/

/-- A source value reduced to e bits under a sat field (R198). -/
def packElem (sat w e v : Nat) : Nat :=
  match sat with
  | 0 => v % 2 ^ e
  | 1 => wrapI e (clampInt (signed w v) (intRange e false))
  | _ => min v (2 ^ e - 1)

/-- The elements of a packed dot-product operand (R201). -/
def dotElems (fmt w v : Nat) : List Nat :=
  if fmt = 0 then (List.range w).map fun t => v / 2 ^ (4 * t) % 16
  else (List.range (w / 2)).map fun t => v / 2 ^ (8 * t) % 256

/-- The lane result of vdot and vdotsu (R202). -/
def dotLane (f : Fields) (uns : Bool) (d a b : Nat) : Nat :=
  let fc := f.fmt.toNat
  let w := f.src1.slices
  let ea := dotElems fc w a
  let eb := dotElems fc w b
  if fc < 5 then
    let e := if fc = 0 then 4 else 8
    let sum : Int := (ea.zip eb).foldl (fun acc q => acc + readI false e q.1 * readI uns e q.2) 0
    chunkStepI d sum (f.mod.getLsbD 0)
  else chunkStepF d (ea.map (fmtOf f).decode) (eb.map (fmtOf f).decode) 0

/-- A count or index of a permutation (R197). -/
def permArg (s : State) (p : Pos) (f : Fields) (lane : Nat) : Nat := srcLane s p f.k2 f.src2 f.dst.bits lane

/-- A lane of source 1 as bits. -/
def lane1 (s : State) (p : Pos) (f : Fields) (lane : Nat) : Nat := srcLane s p f.k1 f.src1 f.dst.bits lane

/-! ### Meanings -/

/-- VADD (R185, R186). -/
def semVadd (p : Pos) (f : Fields) (s : State) : SlotRes :=
  vec2 (.vadd p f) p f s (addSat 0 · false · ·) fun fm rm a b => fm.encode rm (FVal.add rm a b)

/-- VSUB (R185, R186). -/
def semVsub (p : Pos) (f : Fields) (s : State) : SlotRes :=
  vec2 (.vsub p f) p f s (addSat 0 · true · ·) fun fm rm a b => fm.encode rm (FVal.add rm a b.neg)

/-- VMUL (R185, R186). -/
def semVmul (p : Pos) (f : Fields) (s : State) : SlotRes :=
  vec2 (.vmul p f) p f s mulLow fun fm rm a b => fm.encode rm (FVal.mul a b)

/-- VMULH (R185). -/
def semVmulh (p : Pos) (f : Fields) (s : State) : SlotRes :=
  veci (.vmulh p f) p f s (xBit f) (mulHigh (uBit f))

/-- VFMA (R185, R186). -/
def semVfma (p : Pos) (f : Fields) (s : State) : SlotRes :=
  vmac (.vfma p f) p f s false false

/-- VFMS (R185, R186). -/
def semVfms (p : Pos) (f : Fields) (s : State) : SlotRes :=
  vmac (.vfms p f) p f s false true

/-- VFNMA (R185, R186). -/
def semVfnma (p : Pos) (f : Fields) (s : State) : SlotRes :=
  vmac (.vfnma p f) p f s true false

/-- VMIN (R185, R187). -/
def semVmin (p : Pos) (f : Fields) (s : State) : SlotRes :=
  vec2 (.vmin p f) p f s (minmaxI false (uBit f)) fun fm _ a b => fm.encode .rne (FVal.minmax false a b)

/-- VMAX (R185, R187). -/
def semVmax (p : Pos) (f : Fields) (s : State) : SlotRes :=
  vec2 (.vmax p f) p f s (minmaxI true (uBit f)) fun fm _ a b => fm.encode .rne (FVal.minmax true a b)

/-- VABS (R185, R187: the sign is cleared). -/
def semVabs (p : Pos) (f : Fields) (s : State) : SlotRes :=
  vecOp (.vabs p f) p f s fun s lane =>
    let W := f.dst.bits
    if f.fmt = 0 then absI W (laneExt s p f.k1 f.src1 (xBit f) W lane)
    else
      match laneVal s p f.k1 f.src1 (fmtOf f) lane with
      | .fin _ m e => (fmtOf f).encode .rne (.fin false m e)
      | .inf _ => (fmtOf f).encode .rne (.inf false)
      | .nan => (fmtOf f).nanCode

/-- VNEG (R185, R187: the sign is inverted). -/
def semVneg (p : Pos) (f : Fields) (s : State) : SlotRes :=
  vecOp (.vneg p f) p f s fun s lane =>
    let W := f.dst.bits
    if f.fmt = 0 then wrapI W (-(laneExt s p f.k1 f.src1 (xBit f) W lane : Int))
    else (fmtOf f).encode .rne (laneVal s p f.k1 f.src1 (fmtOf f) lane).neg

/-- VADDS (R185). -/
def semVadds (p : Pos) (f : Fields) (s : State) : SlotRes :=
  veci (.vadds p f) p f s (xBit f) fun W a b => addSat (if uBit f then 2 else 1) W false a b

/-- VSUBS (R185). -/
def semVsubs (p : Pos) (f : Fields) (s : State) : SlotRes :=
  veci (.vsubs p f) p f s (xBit f) fun W a b => addSat (if uBit f then 2 else 1) W true a b

/-- VAND (R185). -/
def semVand (p : Pos) (f : Fields) (s : State) : SlotRes :=
  veci (.vand p f) p f s (xBit f) fun _ a b => a &&& b

/-- VOR (R185). -/
def semVor (p : Pos) (f : Fields) (s : State) : SlotRes :=
  veci (.vor p f) p f s (xBit f) fun _ a b => a ||| b

/-- VXOR (R185). -/
def semVxor (p : Pos) (f : Fields) (s : State) : SlotRes :=
  veci (.vxor p f) p f s (xBit f) fun _ a b => a ^^^ b

/-- VSLL (R185). -/
def semVsll (p : Pos) (f : Fields) (s : State) : SlotRes :=
  veci (.vsll p f) p f s (xBit f) sllI

/-- VSRL (R185). -/
def semVsrl (p : Pos) (f : Fields) (s : State) : SlotRes :=
  veci (.vsrl p f) p f s (xBit f) srlI

/-- VSRA (R185). -/
def semVsra (p : Pos) (f : Fields) (s : State) : SlotRes :=
  veci (.vsra p f) p f s (xBit f) sraI

/-- VCLZ (R185, R137). -/
def semVclz (p : Pos) (f : Fields) (s : State) : SlotRes :=
  vecOp (.vclz p f) p f s fun s lane => clzI f.src1.bits (srcLane s p f.k1 f.src1 64 lane) % 2 ^ f.dst.bits

/-- VPOPC (R185, R137). -/
def semVpopc (p : Pos) (f : Fields) (s : State) : SlotRes :=
  vecOp (.vpopc p f) p f s fun s lane => popcI f.src1.bits (srcLane s p f.k1 f.src1 64 lane) % 2 ^ f.dst.bits

/-- VCMP (R191). -/
def semVcmp (p : Pos) (f : Fields) (s : State) : SlotRes :=
  vecPred (.vcmp p f) p f s fun s lane =>
    let code := (f.mod.extractLsb' 0 3).toNat
    if f.fmt = 0 then
      let W := 4 * ((f.mod.extractLsb' 3 4).toNat + 1)
      let x := condSigned code
      intCond code W (laneExt s p f.k1 f.src1 x W lane) (laneExt s p f.k2 f.src2 x W lane)
    else fpCond code (laneVal s p f.k1 f.src1 (fmtOf f) lane) (laneVal s p f.k2 f.src2 (fmtOf f) lane)

/-- VSEL (R192). -/
def semVsel (p : Pos) (f : Fields) (s : State) : SlotRes :=
  vecOp (.vsel p f) p f s fun s lane =>
    let q := s.curCtx.pred (f.mod.extractLsb' 0 6).toNat
    vint2 s p f (f.mod.getLsbD 6) (fun _ a b => if q.getLsbD lane then a else b) lane

/-- VMOV (R185). -/
def semVmov (p : Pos) (f : Fields) (s : State) : SlotRes :=
  vecOp (.vmov p f) p f s fun s lane => laneExt s p f.k1 f.src1 (xBit f) f.dst.bits lane

/-- VLI (R185). -/
def semVli (p : Pos) (f : Fields) (s : State) : SlotRes :=
  vecOp (.vli p f) p f s fun _ _ => wrapI f.dst.bits f.wide

/-- VEXT (R185, R138). -/
def semVext (p : Pos) (f : Fields) (s : State) : SlotRes :=
  vecOp (.vext p f) p f s fun s lane =>
    xtrI (xBit f) f.src1.bits f.dst.bits (srcLane s p f.k1 f.src1 64 lane) (permArg s p f lane)

/-- VCVT (R190). -/
def semVcvt (p : Pos) (f : Fields) (s : State) : SlotRes :=
  vecOp (.vcvt p f) p f s fun s lane =>
    let sc := f.mod.extractLsb' 2 4
    let u := f.mod.getLsbD 6
    let v : FVal :=
      if sc = 0 then
        (match f.k1 with
         | .imm => .ofInt f.src1.imm
         | _ => .ofInt (readI u f.src1.bits (srcLane s p f.k1 f.src1 64 lane)))
      else laneVal s p f.k1 f.src1 ((Fmt.ofCode sc).getD .fp32) lane
    if f.fmt = 0 then wrapI f.dst.bits (toIntSat f.dst.bits u (rmOf f) v) else (fmtOf f).encode (rmOf f) v

/-- VRND (R189: a value that rounds to zero keeps its sign, as IEEE 754 has it).
The sign of a zero result: DEDUCED, log entry 18. -/
def semVrnd (p : Pos) (f : Fields) (s : State) : SlotRes :=
  vecOp (.vrnd p f) p f s fun s lane =>
    match laneVal s p f.k1 f.src1 (fmtOf f) lane with
    | .fin neg m e => (fmtOf f).encode (rmOf f) (.fin neg (roundInt (rmOf f) neg m e).natAbs 0)
    | v => (fmtOf f).encode .rne v

/-- VSCALE (R188: the exponent is read signed at its own width). -/
def semVscale (p : Pos) (f : Fields) (s : State) : SlotRes :=
  vecOp (.vscale p f) p f s fun s lane =>
    let e : Int := match f.k2 with
      | .imm => f.src2.imm
      | _ => readI false f.src2.bits (srcLane s p f.k2 f.src2 16 lane)
    let k : Int := (s.curCtx.scales[(f.mod.extractLsb' 2 4).toNat]?.getD 0).toInt
    (fmtOf f).encode (rmOf f) ((laneVal s p f.k1 f.src1 (fmtOf f) lane).scale (e + k))

/-- VRCP (R194). -/
def semVrcp (p : Pos) (f : Fields) (s : State) : SlotRes :=
  vecApprox (.vrcp p f) p f s .rcp

/-- VRSQRT (R194). -/
def semVrsqrt (p : Pos) (f : Fields) (s : State) : SlotRes :=
  vecApprox (.vrsqrt p f) p f s .rsqrt

/-- VEXP2 (R194). -/
def semVexp2 (p : Pos) (f : Fields) (s : State) : SlotRes :=
  vecApprox (.vexp2 p f) p f s .exp2

/-- VLOG2 (R194). -/
def semVlog2 (p : Pos) (f : Fields) (s : State) : SlotRes :=
  vecApprox (.vlog2 p f) p f s .log2

/-- VRED (R196). -/
def semVred (p : Pos) (f : Fields) (s : State) : SlotRes :=
  slotOp (.vred p f) f s fun info s =>
    let v := reduceLanes s p f (List.range 64)
    .ok (putVec s p f.dst info.lat (guardMask s.curCtx f) fun _ => v)

/-- VSCAN (R196). -/
def semVscan (p : Pos) (f : Fields) (s : State) : SlotRes :=
  vecOp (.vscan p f) p f s fun s lane => reduceLanes s p f (List.range (lane + 1))

/-- VPERM (R197). -/
def semVperm (p : Pos) (f : Fields) (s : State) : SlotRes :=
  vecOp (.vperm p f) p f s fun s lane => lane1 s p f (permArg s p f lane % 64)

/-- VBCAST (R197). -/
def semVbcast (p : Pos) (f : Fields) (s : State) : SlotRes :=
  vecOp (.vbcast p f) p f s fun s lane => lane1 s p f (permArg s p f lane % 64)

/-- VROT (R197). -/
def semVrot (p : Pos) (f : Fields) (s : State) : SlotRes :=
  vecOp (.vrot p f) p f s fun s lane => lane1 s p f ((lane + permArg s p f lane) % 64)

/-- VSLIDE (R197: dir 0 is up). -/
def semVslide (p : Pos) (f : Fields) (s : State) : SlotRes :=
  vecOp (.vslide p f) p f s fun s lane =>
    let n := permArg s p f lane
    if f.mod.getLsbD 0 then (if lane + n ≤ 63 then lane1 s p f (lane + n) else 0)
    else (if n ≤ lane then lane1 s p f (lane - n) else 0)

/-- VIOTA (R185). -/
def semViota (p : Pos) (f : Fields) (s : State) : SlotRes :=
  vecOp (.viota p f) p f s fun s lane => vint2 s p f (xBit f) (fun W a b => (a + lane * b) % 2 ^ W) lane

/-- VPACK (R198: destination lanes from 64/g on keep their slices). -/
def semVpack (p : Pos) (f : Fields) (s : State) : SlotRes :=
  slotOp (.vpack p f) f s fun info s =>
    let g := 2 ^ (f.mod.extractLsb' 0 3).toNat
    let e := f.dst.bits / g
    let w := f.src1.bits
    let keep : Mask := BitVec.ofNat 64 (2 ^ (64 / g) - 1)
    .ok (putVec s p f.dst info.lat (guardMask s.curCtx f &&& keep) fun j =>
      (List.range g).foldl
        (fun acc t =>
          acc + packElem (f.mod.extractLsb' 3 2).toNat w e (srcLane s p f.k1 f.src1 w (g * j + t)) * 2 ^ (e * t)) 0)

/-- VUNPACK (R199). -/
def semVunpack (p : Pos) (f : Fields) (s : State) : SlotRes :=
  slotOp (.vunpack p f) f s fun info s =>
    let g := 2 ^ (f.mod.extractLsb' 0 3).toNat
    let e := f.src1.bits / g
    .ok (putVec s p f.dst info.lat (guardMask s.curCtx f) fun i =>
      extTo (f.mod.getLsbD 3) e f.dst.bits
        (srcLane s p f.k1 f.src1 64 (i / g) / 2 ^ (e * (i % g)) % 2 ^ e))

/-- VDOT (R201, R202). -/
def semVdot (p : Pos) (f : Fields) (s : State) : SlotRes :=
  vecOp (.vdot p f) p f s fun s lane =>
    dotLane f false (dstLane s p f lane) (srcLane s p f.k1 f.src1 64 lane) (srcLane s p f.k2 f.src2 64 lane)

/-- VDOTSU (R201, R202). -/
def semVdotsu (p : Pos) (f : Fields) (s : State) : SlotRes :=
  vecOp (.vdotsu p f) p f s fun s lane =>
    dotLane f true (dstLane s p f lane) (srcLane s p f.k1 f.src1 64 lane) (srcLane s p f.k2 f.src2 64 lane)

/-- VPSET (R193). -/
def semVpset (p : Pos) (f : Fields) (s : State) : SlotRes :=
  vecPred (.vpset p f) p f s fun s lane => srcLane s p f.k1 f.src1 64 lane != 0

/-- VPGET (R193). -/
def semVpget (p : Pos) (f : Fields) (s : State) : SlotRes :=
  vecOp (.vpget p f) p f s fun s lane =>
    extTo (xBit f) 1 f.dst.bits (if (namedPred s f.src1).getLsbD lane then 1 else 0)

/-- VFIRST (R193). -/
def semVfirst (p : Pos) (f : Fields) (s : State) : SlotRes :=
  vecOp (.vfirst p f) p f s fun s _ =>
    ((List.range 64).find? (namedPred s f.src1).getLsbD).getD 64 % 2 ^ f.dst.bits

end Sys2Proof.Machine
end

