-- ==== Sys2Proof/Machine/Mem.lean ====
section
/-!
DEFINITION. Memory with error-correcting codes (spec/13 R303-R306), rings of records in vaults (spec/11 R256, spec/13
R306), and the scratchpad with its addresses and tags (spec/07 R154, R155, R461).
-/

namespace Sys2Proof.Machine

open Sys2Proof

/-! ### ECC words and poison -/

/-- Bytes of an ECC word at a key: 8 in the scratchpad, 32 in a vault and in HBM4E (spec/13 R303). -/
def eccSize (key : Nat) : Nat := if key ≥ spmBase then 8 else 32

/-- First key of the ECC word at a key. -/
def eccBase (key : Nat) : Nat := key / eccSize key * eccSize key

/-- The first byte of [key, key + n) that lies in a poisoned word (spec/13 R304). -/
def State.poisonAt (s : State) (key n : Nat) : Option Nat :=
  if s.poison = [] then none
  else (List.range n).findSome? fun j => if s.poison.contains (eccBase (key + j)) then some (key + j) else none

/-- The lowest of a record's ring addresses: base and control register offsets of a partition's error ring. -/
def errReg (part off : Nat) : RegAddr := partReg .prtm part off

/-- Write a 32-byte record into a ring in a vault: its base, control, write and read index registers. `none` when the
ring is disabled or full (spec/11 R256, spec/13 R306, spec/15 R338, spec/23 R435). A record covers whole ECC words, and so
clears their poison (spec/13 R304). -/
def ringPush (s : State) (base ctl wr rd : RegAddr) (en : Bool) (rec : Nat → List Byte) : Option State :=
  let n := ringSize (s.reg ctl)
  let w := (s.reg wr).toNat
  if !en ∨ w - (s.reg rd).toNat ≥ n then none
  else
    let rb := rec w
    let a := vaultBase + (s.reg base).toNat + rb.length * (w % n)
    let s1 := s.storeBytes a rb
    some ({ s1 with poison := s1.poison.filter fun p => !(a ≤ p && p + 32 ≤ a + rb.length) }.setReg wr
      (BitVec.ofNat 64 (w + 1)))

/-- The partition that holds a key: by stack, by vault, or by the core of a scratchpad's context. -/
def State.partOfKey (s : State) (key : Nat) : Nat :=
  if key ≥ spmBase then (s.ctx ((key - spmBase) / 2 ^ 20)).part
  else if key ≥ vaultBase then s.partOfCluster ((key - vaultBase) / 2 ^ 27)
  else partOfDie s.prtCfg (key / 2 ^ 36 % 8 / 2)

/-- The store and unit numbers of an error record for a key, and the address of its ECC word (spec/13 R306). -/
def State.errPlace (s : State) (key : Nat) : Nat × Nat × Nat :=
  let w := eccBase key
  if key ≥ spmBase then (0, (s.ctx ((key - spmBase) / 2 ^ 20)).core, (w - spmBase) % 2 ^ 20)
  else if key ≥ vaultBase then (1, (key - vaultBase) / 2 ^ 27, w - vaultBase)
  else (4, key / 2 ^ 36 % 8 * 32 + ((key / 2 ^ 8) ^^^ (key / 2 ^ 17)) % 32, w)

/-- An error record enters its partition's ring, or is dropped and counted (spec/13 R306). DEDUCED, log entry 41. -/
def errRecord (s : State) (part kind store unit addr ctx mask : Nat) : State :=
  let ctl := s.reg (errReg part 0x248)
  let rec' (w : Nat) : List Byte :=
    toBytesLE 4 (kind + store * 2 ^ 8 + unit * 2 ^ 16) ++ toBytesLE 4 w ++ toBytesLE 8 addr ++ toBytesLE 4 ctx ++
      toBytesLE 4 mask ++ toBytesLE 8 s.now
  match ringPush s (errReg part 0x240) (errReg part 0x248) (errReg part 0x250) (errReg part 0x258)
    (ctl.getLsbD 8) rec' with
  | some s' => if ctl.getLsbD 9 then s'.output (.ownerIrq part) else s'
  | none =>
    let d := (ctl.extractLsb' 32 16).toNat
    s.setReg (errReg part 0x248)
      (BitVec.ofNat 64 (ctl.toNat % 2 ^ 32 + (min (d + 1) 0xFFFF) * 2 ^ 32 + ctl.toNat / 2 ^ 48 * 2 ^ 48))

/-- The cells of one write that fall in an ECC word. -/
def cellsIn (cells : List Host.Cell) (w : Nat) : List Host.Cell := cells.filter fun c => eccBase c.1 == w

/-- A write covers a byte as a whole: `bits` lists, as masks, the bits written of the bytes of which a write may change a part
(spec/07 R160, R166). -/
def coversByte (bits : List Host.Cell) (k : Nat) : Bool :=
  match bits.filter fun b => b.1 == k with
  | [] => true
  | l => l.foldl (fun a b => a ||| b.2) 0 == 0xFF

/-- A write covers all the bytes of an ECC word (spec/13 R304). -/
def coversWord (cells bits : List Host.Cell) (w : Nat) : Bool :=
  ((((cellsIn cells w).map (·.1)).eraseDups).filter (coversByte bits)).length == eccSize w

/-- One poisoned word meets a write: a write of all its bytes clears the poison, another is dropped, recorded and
marked on its writer (spec/13 R304, R305). -/
def poisonedWrite (s : State) (writer w : Nat) (cells bits : List Host.Cell) : State :=
  let mine := cellsIn cells w
  if mine = [] then s
  else if coversWord cells bits w then { s with poison := s.poison.filter (· ≠ w) }
  else
    let mask := mine.foldl (fun a c => a ||| 2 ^ (c.1 - w)) 0
    let pl := s.errPlace w
    (errRecord s (s.partOfKey w) 3 pl.1 pl.2.1 pl.2.2 writer mask).modCtx writer fun c => { c with lost := true }

/-- Bytes that replay entries take in a save image (spec/11 R249). -/
def flightBytes (l : List Flight) : Nat := (l.map fun x => 16 + 8 * x.lanes.length).sum

/-- Offset of the banks in a save image (spec/11 R247). -/
def imgBanks (aG vG flight : Nat) : Nat :=
  0x440 + (16 * aG + 63) / 64 * 64 + 1024 * vG + (flight + 63) / 64 * 64

/-- First key of a context's banks on its core. -/
def Ctx.bankBase (c : Ctx) : Nat := spmBase + c.handle * 2 ^ 20

/-- An offset is in a context's saveable banks, the resident-reserved ones being the first (R154, spec/11 R247). -/
def Ctx.saves (c : Ctx) (off : Nat) : Bool := decide (c.hdr.resBanks ≤ off / 2 ^ 14) && decide (off / 2 ^ 14 < c.hdr.banks)

/-- The key of a saveable byte in an image at a vault address (spec/11 R247). -/
def imgKey (c : Ctx) (a off : Nat) : Nat :=
  vaultBase + a + imgBanks c.hdr.aG c.hdr.vG (flightBytes c.flight) + (off - c.hdr.resBanks * 2 ^ 14)

/-- The bytes of a write that reach a save image too: those in the saveable banks of a stopped context that has an image and
is still on its core (R461). -/
def mirrorCells (s : State) (cells : List Host.Cell) : List Host.Cell :=
  cells.filterMap fun b =>
    if b.1 < spmBase then none
    else
      let c := s.ctx ((b.1 - spmBase) / 2 ^ 20)
      match c.imgAt with
      | some a => if c.mirror && c.saves (b.1 % 2 ^ 20) then some (imgKey c a (b.1 % 2 ^ 20), b.2) else none
      | none => none

/-- Write cells at home for a writer, later cells over earlier ones (spec/13 R304, R305), and their copies in save images
(R461). -/
def writeCells (s : State) (writer : Nat) (cells : List Host.Cell) (bits : List Host.Cell := []) : State :=
  let all := if s.ctxs.any (·.mirror) then cells ++ mirrorCells s cells else cells
  let s1 := if s.poison = [] then s else s.poison.foldl (fun t w => poisonedWrite t writer w all bits) s
  let ok := if s.poison = [] then all else all.filter fun c => !s1.poison.contains (eccBase c.1)
  { s1 with mem := ok.foldl (fun m c => memSet m c.1 c.2) s1.mem }

/-- The words that copies of poisoned bytes fall in are poisoned too: a copy from one store to another carries the poison
along, to the words of the other store (spec/13 R304). DEDUCED, log entry 71. -/
def copyPoison (s : State) (src dst n : Nat) : State :=
  let gone := s.poison.filter fun w => src < w + eccSize w && w < src + n
  let new := gone.flatMap fun w => ((List.range (eccSize w)).filter fun j => src ≤ w + j && w + j < src + n).map fun j =>
    eccBase (dst + (w + j - src))
  { s with poison := (s.poison ++ new).eraseDups }

/-- Write the merged cells of several writers at home: a poisoned word that they cover together is good again, and into
another each writer's write is dropped, recorded and reported (spec/13 R305). -/
def mergeCells (s : State) (ws : List (Nat × List Host.Cell)) : State :=
  let cells := ws.flatMap (·.2)
  let s1 := s.poison.foldl (fun t w =>
    if coversWord cells [] w then { t with poison := t.poison.filter (· ≠ w) }
    else ws.foldl (fun u p => poisonedWrite u p.1 w p.2 []) t) s
  let ok := cells.filter fun c => !s1.poison.contains (eccBase c.1)
  { s1 with mem := ok.foldl (fun m c => memSet m c.1 c.2) s1.mem }

/-- Cells of bytes at rising keys. -/
def cellsAt : Nat → List Byte → List Host.Cell
  | _, [] => []
  | k, b :: bs => (k, b) :: cellsAt (k + 1) bs

/-- Write bytes at rising keys for a writer. -/
def writeBytes (s : State) (writer key : Nat) (bs : List Byte) : State := writeCells s writer (cellsAt key bs)

/-- Read bytes, or the key of poisoned data (spec/13 R304). -/
def readBytes (s : State) (key n : Nat) : Except Nat (List Byte) :=
  match s.poisonAt key n with
  | some k => .error k
  | none => .ok (memGetList s.mem key n)

/-! ### The scratchpad -/

/-- The member of a context's gang with a SEQID, unless it has ended (R154, R461). -/
def State.member (s : State) (c : Ctx) (m : Nat) : Option Ctx :=
  s.ctxs.find? fun x => x.gkey == c.gkey && x.gang == c.gang && x.seqid == m && x.status != .ended

/-- A scratchpad address is of the member form and its byte lies on a core whose clock is stopped: a request to it waits there
(spec/24 R447); the saveable banks of a saved member are in its image (R461). -/
def State.memberStopped (s : State) (c : Ctx) (a : Nat) : Bool :=
  decide (a / 2 ^ 30 % 4 = 2) && match s.member c (a / 2 ^ 24 % 64) with
    | some x => s.clockStopped x.core && (x.status != .saved || !x.saves (a % 2 ^ 20))
    | none => false

/-- An own-form offset of a context, as a key on its core (R154). -/
def coreKey (c : Ctx) (off : Nat) : Option Nat :=
  if off / 2 ^ 14 < c.hdr.banks then some (c.bankBase + off) else none

/-- An own-form offset of a context, as a key (R154): on its core, or for the saveable banks of a context that is resident
nowhere in its save image (R461). -/
def ownKey (c : Ctx) (off : Nat) : Option Nat :=
  match c.status, c.imgAt with
  | .saved, some a => if c.saves off then some (imgKey c a off) else coreKey c off
  | _, _ => coreKey c off

/-- A scratchpad address of a context, through what a member's own offset stands for; `none` is out of range (R154). -/
def spmKeyBy (key : Ctx → Nat → Option Nat) (s : State) (c : Ctx) (a : Nat) : Option Nat :=
  let form := a / 2 ^ 30 % 4
  if form = 0 then (if a / 2 ^ 20 % 2 ^ 10 = 0 then key c (a % 2 ^ 20) else none)
  else if form = 2 then
    if a / 2 ^ 20 % 16 = 0 then
      match s.member c (a / 2 ^ 24 % 64) with
      | some x => key x (a % 2 ^ 20)
      | none => none
    else none
  else none

/-- A scratchpad address of a context, as a key; `none` is out of range (R154, R461). -/
def spmKey (s : State) (c : Ctx) (a : Nat) : Option Nat := spmKeyBy ownKey s c a

/-- The key by which the tag of a word in range is kept: that of the bank on the core, while the context is saved too. The
image holds no tags: DEDUCED, log entry 58. -/
def tagKey (s : State) (c : Ctx) (a : Nat) : Nat := (spmKeyBy coreKey s c (a % 2 ^ 32)).getD 0

/-- The keys of a run of bytes from a scratchpad address: the bytes of a saved member may lie in two places (R461).
Info of an access out of range is its start address: DEDUCED, log entry 20. -/
def spmRange (s : State) (c : Ctx) (a : Nat) : Nat → Option (List Nat)
  | 0 => some []
  | n + 1 => match spmKey s c (a % 2 ^ 32), spmRange s c (a + 1) n with
    | some k, some ks => some (k :: ks)
    | _, _ => none

/-- The address is of the own form (R154). -/
def ownForm (a : Nat) : Bool := decide (a < 2 ^ 20)

/-- What reading scratchpad bytes comes to. -/
inductive MemRes where
  | ok (bs : List Byte)
  | range
  | poison (addr : Nat)

/-- The byte that an own-form load of a context sees at a key: of a byte that another sequencer's member-form store or a running
command writes, the old or the new one (R164, R169, spec/09 R207). -/
def seenByte (s : State) (c : Ctx) (key : Nat) : Byte :=
  match s.loose.find? fun l => l.key == key && (l.cid.isSome || l.writer != c.handle) with
  | some l => if Config.seesOther s.stepNo key then l.byte else memGet s.mem key
  | none => memGet s.mem key

/-- The bytes at some keys, or the place in the list of the first that is poisoned (spec/13 R304). -/
def readKeys (s : State) (byte : Nat → Byte) (ks : List Nat) : Except Nat (List Byte) :=
  if s.poison = [] then .ok (ks.map byte)
  else match ks.findIdx? fun k => s.poison.contains (eccBase k) with
    | some j => .error j
    | none => .ok (ks.map byte)

/-- Bytes that are written have no older value left, but for those of commands that still run (R164, R169). -/
def dropOlder (s : State) (cells : List Host.Cell) : State :=
  if s.loose = [] then s
  else { s with loose := s.loose.filter fun l => l.cid.isSome || !(cells.any fun d => d.1 == l.key) }

/-- A sequencer's store to scratchpad bytes, whose `bits` are as those of `writeCells`: of a byte in another member's banks,
loads of that member may see the old value until the writer orders it; a byte that is stored has no older value left (R164). -/
def spmWrite (s : State) (c : Ctx) (cells : List Host.Cell) (bits : List Host.Cell := []) : State :=
  let t := dropOlder (writeCells s c.handle cells bits) cells
  let away := ((cells.map (·.1)).filter fun k => k ≥ spmBase && !(c.bankBase ≤ k && k < c.bankBase + 2 ^ 20)).eraseDups
  if away = [] then t
  else { t with loose := t.loose ++ away.map fun k => { key := k, byte := memGet s.mem k, writer := c.handle, cid := none } }

/-- A command's bytes reach scratchpad (spec/07 R169, spec/09 R207). -/
def cmdStore (s : State) (writer : Nat) (cells : List Host.Cell) (bits : List Host.Cell := []) : State :=
  dropOlder (writeCells s writer cells bits) cells

/-- A barrier, a phase or the end of a sequencer orders its member-form stores (R164). -/
def orderStores (s : State) (h : Nat) : State :=
  { s with loose := s.loose.filter fun l => l.cid.isSome || l.writer != h }

/-- A command's bytes are in memory, or it writes none (R164, spec/09 R207). -/
def orderCmd (s : State) (cid : Nat) : State := { s with loose := s.loose.filter fun l => l.cid != some cid }

/-- Read scratchpad bytes of a context (R159, R176). -/
def spmRead (s : State) (c : Ctx) (a n : Nat) : MemRes :=
  match spmRange s c a n with
  | none => .range
  | some ks =>
    match readKeys s (if ownForm a then seenByte s c else memGet s.mem) ks with
    | .ok bs => .ok bs
    | .error j => .poison (a + j)

/-- The tag of a 64-bit word is full (R155); the list holds the empty words' keys. -/
def tagFull (s : State) (key : Nat) : Bool := !s.emptyTags.contains (key / 8)

/-- Mark a word empty or full. -/
def setTag (s : State) (key : Nat) (full : Bool) : State :=
  { s with emptyTags := if full then s.emptyTags.filter (· ≠ key / 8)
                        else if s.emptyTags.contains (key / 8) then s.emptyTags else (key / 8) :: s.emptyTags }

/-- Free the banks behind some keys: they keep nothing that a later holder can read (spec/13 R286). -/
def freeKeys (s : State) (lo hi : Nat) : State :=
  { s with mem := memClear s.mem lo hi,
           emptyTags := s.emptyTags.filter fun t => !(lo ≤ 8 * t && 8 * t < hi),
           poison := s.poison.filter fun t => !(lo ≤ t && t < hi),
           loose := s.loose.filter fun l => !(lo ≤ l.key && l.key < hi) }

/-- Free a context's banks. -/
def freeBanks (s : State) (h : Nat) : State := freeKeys s (spmBase + h * 2 ^ 20) (spmBase + h * 2 ^ 20 + 2 ^ 20)

end Sys2Proof.Machine
end

