-- ==== Sys2Proof/Machine/Spad.lean ====
section
/-!
DEFINITION. The scratchpad operations of slots M0 and M1 (spec/07 R157-R166) and the scale operations of slot K
(spec/06 R150-R153).
-/

namespace Sys2Proof.Machine

open Sys2Proof

/-! ### Addresses and elements -/

/-- A scratchpad address: val(src1) + val(src2) * 2^sh, modulo 2^32, with sh in mod 3:1 (R157). -/
def spmSum (s : State) (p : Pos) (f : Fields) : Nat :=
  (srcScal s p f.k1 f.src1 32 + srcScal s p f.k2 f.src2 32 * 2 ^ (f.mod.extractLsb' 1 3).toNat) % 2 ^ 32

/-- An address aligned down to an element of `n` bytes. -/
def alignDown (a n : Nat) : Nat := a / n * n

/-- Bytes of an element of a byte format. -/
def Fmt.bytes (fm : Fmt) : Nat := fm.width / 8

/-- Where element `i` of a packed run lies: its first byte from the run's start, its bytes, and its first bit there
(spec/02 R47). -/
def Fmt.span (fm : Fmt) (i : Nat) : Nat × Nat × Nat :=
  let b := fm.memBits * i
  (b / 8, (b + fm.memBits - 1) / 8 - b / 8 + 1, b % 8)

/-- A loaded element as the destination takes it: extended by x for an integer format (R157, R159). -/
def loadVal (fm : Fmt) (x : Bool) (W v : Nat) : Nat := if fm.isInt then extTo x fm.width W v else v

/-- The fate of a scratchpad access that fails (R176). -/
def MemRes.fate (addr : Nat) : MemRes → SlotRes
  | .poison a => .fatal causePoisonRead (BitVec.ofNat 64 a)
  | _ => .fatal causeSpmRange (BitVec.ofNat 64 addr)

/-- The bytes of a successful read, as a little-endian number. -/
def MemRes.num : MemRes → Nat
  | .ok bs => ofBytesLE bs
  | _ => 0

/-- A read succeeded. -/
def MemRes.isOk : MemRes → Bool
  | .ok _ => true
  | _ => false

/-! ### Scalar accesses -/

/-- Read an element of a scratchpad address and use it. -/
def withElem (s : State) (addr n : Nat) (k : Nat → SlotRes) : SlotRes :=
  match spmRead s s.curCtx addr n with
  | .ok bs => k (ofBytesLE bs)
  | r => r.fate addr

/-- Store bytes at a scratchpad address. -/
def spmStore (s : State) (addr : Nat) (bs : List Byte) : SlotRes :=
  match spmRange s s.curCtx addr bs.length with
  | some ks => .ok (spmWrite s s.curCtx (ks.zip bs))
  | none => .fatal causeSpmRange (BitVec.ofNat 64 addr)

/-- LD (R159). -/
def semLd (p : Pos) (f : Fields) (s : State) : SlotRes :=
  slotOp (.ld p f) f s fun info s =>
    let fm := fmtOf f
    let a := alignDown (spmSum s p f) fm.bytes
    withElem s a fm.bytes fun v => .ok (putScal s p f.dst info.lat (loadVal fm (xBit f) f.dst.bits v))

/-- ST (R159): the data are the slices that dst names. -/
def semSt (p : Pos) (f : Fields) (s : State) : SlotRes :=
  slotOp (.st p f) f s fun _ s =>
    let fm := fmtOf f
    spmStore s (alignDown (spmSum s p f) fm.bytes)
      (toBytesLE fm.bytes (s.curCtx.readScal p.bench f.dst.start.toNat f.dst.slices))

/-- VLDB (R159): one element into every enabled lane. -/
def semVldb (p : Pos) (f : Fields) (s : State) : SlotRes :=
  slotOp (.vldb p f) f s fun info s =>
    let fm := fmtOf f
    withElem s (alignDown (spmSum s p f) fm.bytes) fm.bytes fun v =>
      .ok (putVec s p f.dst info.lat (guardMask s.curCtx f) fun _ => loadVal fm (xBit f) f.dst.bits v)

/-! ### Vector accesses -/

/-- Read `n` bytes for each enabled lane. -/
def readLanes (s : State) (mask : Mask) (addr : Nat → Nat) (n : Nat → Nat) : List MemRes :=
  (List.range 64).map fun i => if mask.getLsbD i then spmRead s s.curCtx (addr i % 2 ^ 32) (n i) else .ok []

/-- The fate of the lowest lane whose access fails. -/
def lanesFate (rs : List MemRes) (addr : Nat → Nat) : Option SlotRes :=
  (List.range 64).findSome? fun i =>
    let r := (rs[i]?).getD .range
    if r.isOk then none else some (r.fate (addr i % 2 ^ 32))

/-- A vector load: `val` makes a lane's value from the bytes read for it. -/
def vecLoad (s : State) (p : Pos) (f : Fields) (lat : Nat) (addr : Nat → Nat) (n : Nat → Nat)
    (val : Nat → Nat → Nat) : SlotRes :=
  let mask := guardMask s.curCtx f
  let rs := readLanes s mask addr n
  match lanesFate rs addr with
  | some r => r
  | none => .ok (putVec s p f.dst lat mask fun i => val i ((rs[i]?).getD .range).num)

/-- A vector store of whole bytes, lane 0 first, so that a higher lane wins (R162). -/
def vecStore (s : State) (f : Fields) (addr : Nat → Nat) (bytes : Nat → List Byte) : SlotRes :=
  let c := s.curCtx
  let mask := guardMask c f
  let lanes := (List.range 64).filter fun i => mask.getLsbD i
  match lanes.find? fun i => (spmRange s c (addr i) (bytes i).length).isNone with
  | some i => .fatal causeSpmRange (BitVec.ofNat 64 (addr i % 2 ^ 32))
  | none =>
    .ok (spmWrite s c (lanes.flatMap fun i =>
      ((spmRange s c (addr i) (bytes i).length).getD []).zip (bytes i)))

/-- A lane of the data slices that dst names. -/
def dataLane (s : State) (p : Pos) (f : Fields) (i : Nat) : Nat :=
  s.curCtx.readLane p.bench i f.dst.start.toNat f.dst.slices

/-- VLD (R160): 64 consecutive elements. -/
def semVld (p : Pos) (f : Fields) (s : State) : SlotRes :=
  slotOp (.vld p f) f s fun info s =>
    let fm := fmtOf f
    let base := if fm.isByte then alignDown (spmSum s p f) fm.bytes else spmSum s p f
    vecLoad s p f info.lat (fun i => base + (fm.span i).1) (fun i => (fm.span i).2.1)
      fun i v => loadVal fm (xBit f) f.dst.bits (v / 2 ^ (fm.span i).2.2 % 2 ^ fm.memBits)

/-- The bits that the enabled lanes write of a packed block of sub-byte elements, byte by byte, as masks under the byte's key
(R160). -/
def packedBits (key : Nat → Nat) (fm : Fmt) (mask : Mask) : List Host.Cell :=
  let on := (List.range 64).filter fun i => mask.getLsbD i
  let sel := on.foldl (fun a i => a ||| ((2 ^ fm.memBits - 1) * 2 ^ (fm.memBits * i))) 0
  (List.range (8 * fm.memBits)).filterMap fun j =>
    let m := sel / 2 ^ (8 * j) % 256
    if m = 0 then none else some (key j, BitVec.ofNat 8 m)

/-- Cells of a packed block of sub-byte elements: the enabled lanes' bits change, the other bits of a shared byte stay
(R160). -/
def packedCells (s : State) (key : Nat → Nat) (fm : Fmt) (mask : Mask) (v : Nat → Nat) : List Host.Cell :=
  let on := (List.range 64).filter fun i => mask.getLsbD i
  let bits := on.foldl (fun a i => a ||| ((v i % 2 ^ fm.memBits) * 2 ^ (fm.memBits * i))) 0
  let sel := on.foldl (fun a i => a ||| ((2 ^ fm.memBits - 1) * 2 ^ (fm.memBits * i))) 0
  (List.range (8 * fm.memBits)).filterMap fun j =>
    let m := sel / 2 ^ (8 * j) % 256
    if m = 0 then none
    else some (key j, BitVec.ofNat 8 (((memGet s.mem (key j)).toNat &&& (255 - m)) ||| (bits / 2 ^ (8 * j) % 256)))

/-- The key of a byte of a run whose touched bytes are in range. -/
def runKey (s : State) (c : Ctx) (base j : Nat) : Nat := (spmKey s c ((base + j) % 2 ^ 32)).getD 0

/-- VST (R160). -/
def semVst (p : Pos) (f : Fields) (s : State) : SlotRes :=
  slotOp (.vst p f) f s fun _ s =>
    let fm := fmtOf f
    let c := s.curCtx
    if fm.isByte then
      let base := alignDown (spmSum s p f) fm.bytes
      vecStore s f (fun i => base + i * fm.bytes) fun i => toBytesLE fm.bytes (dataLane s p f i)
    else
      let base := spmSum s p f
      let lanes := (List.range 64).filter fun i => (guardMask c f).getLsbD i
      match lanes.find? fun i => (spmRange s c (base + (fm.span i).1) (fm.span i).2.1).isNone with
      | some i => .fatal causeSpmRange (BitVec.ofNat 64 ((base + (fm.span i).1) % 2 ^ 32))
      | none =>
        .ok (spmWrite s c (packedCells s (runKey s c base) fm (guardMask c f) (dataLane s p f))
          (packedBits (runKey s c base) fm (guardMask c f)))

/-- The element addresses of vlds and vsts: the stride is read signed at its own width (R157, R161). -/
def strideAddr (s : State) (p : Pos) (f : Fields) (i : Nat) : Nat :=
  let st : Int := match f.k2 with
    | .imm => f.src2.imm
    | _ => readI false f.src2.bits (srcScal s p f.k2 f.src2 64)
  alignDown (wrapI 32 ((srcScal s p f.k1 f.src1 32 : Int) + i * st)) (fmtOf f).bytes

/-- VLDS (R161). -/
def semVlds (p : Pos) (f : Fields) (s : State) : SlotRes :=
  slotOp (.vlds p f) f s fun info s =>
    let fm := fmtOf f
    vecLoad s p f info.lat (strideAddr s p f) (fun _ => fm.bytes) fun _ v => loadVal fm (xBit f) f.dst.bits v

/-- VSTS (R161). -/
def semVsts (p : Pos) (f : Fields) (s : State) : SlotRes :=
  slotOp (.vsts p f) f s fun _ s =>
    vecStore s f (strideAddr s p f) fun i => toBytesLE (fmtOf f).bytes (dataLane s p f i)

/-- The element addresses of vldx and vstx (R161). -/
def indexAddr (s : State) (p : Pos) (f : Fields) (i : Nat) : Nat :=
  alignDown ((srcScal s p f.k1 f.src1 32 + srcLane s p f.k2 f.src2 32 i * 2 ^ (f.mod.extractLsb' 1 3).toNat) % 2 ^ 32)
    (fmtOf f).bytes

/-- The lowest enabled lane of vldx or vstx whose address is not of the own form, which is out of range (R161). It is the one
that SPM_RANGE names, before a lower lane that is past the banks: DEDUCED, log entry 20. -/
def notOwn (s : State) (p : Pos) (f : Fields) : Option Nat :=
  ((List.range 64).find? fun i => (guardMask s.curCtx f).getLsbD i && !ownForm (indexAddr s p f i)).map
    (indexAddr s p f)

/-- VLDX (R161). -/
def semVldx (p : Pos) (f : Fields) (s : State) : SlotRes :=
  slotOp (.vldx p f) f s fun info s =>
    let fm := fmtOf f
    match notOwn s p f with
    | some a => .fatal causeSpmRange (BitVec.ofNat 64 a)
    | none => vecLoad s p f info.lat (indexAddr s p f) (fun _ => fm.bytes) fun _ v => loadVal fm (xBit f) f.dst.bits v

/-- VSTX (R161). -/
def semVstx (p : Pos) (f : Fields) (s : State) : SlotRes :=
  slotOp (.vstx p f) f s fun _ s =>
    match notOwn s p f with
    | some a => .fatal causeSpmRange (BitVec.ofNat 64 a)
    | none => vecStore s f (indexAddr s p f) fun i => toBytesLE (fmtOf f).bytes (dataLane s p f i)

/-- The lane addresses of gath and scat (R161). -/
def gatherAddr (s : State) (p : Pos) (f : Fields) (i : Nat) : Nat :=
  alignDown (srcLane s p f.k1 f.src1 32 i % 2 ^ 32) (fmtOf f).bytes

/-- GATH (R161). -/
def semGath (p : Pos) (f : Fields) (s : State) : SlotRes :=
  slotOp (.gath p f) f s fun info s =>
    let fm := fmtOf f
    vecLoad s p f info.lat (gatherAddr s p f) (fun _ => fm.bytes) fun _ v => loadVal fm (xBit f) f.dst.bits v

/-- SCAT (R161). -/
def semScat (p : Pos) (f : Fields) (s : State) : SlotRes :=
  slotOp (.scat p f) f s fun _ s =>
    vecStore s f (gatherAddr s p f) fun i => toBytesLE (fmtOf f).bytes (dataLane s p f i)

/-! ### Spill and fill (R166) -/

/-- The nibble address. -/
def nibAddr (s : State) (p : Pos) (f : Fields) : Nat := srcScal s p f.k1 f.src1 33 % 2 ^ 33

/-- Read `w` nibbles from nibble address `n`. -/
def readNibs (s : State) (n w : Nat) : MemRes :=
  if !ownForm ((n + w - 1) / 2) then .range
  else
    match spmRead s s.curCtx (n / 2) ((n + w - 1) / 2 - n / 2 + 1) with
    | .ok bs => .ok (toBytesLE 8 (ofBytesLE bs / 2 ^ (4 * (n % 2)) % 2 ^ (4 * w)))
    | r => r

/-- The cells that writing nibbles `n` to `n + w - 1` over memory changes; the other nibble of a shared byte stays. -/
def nibCells (m : List Host.Cell) (ks : List Nat) (n w v : Nat) : List Host.Cell :=
  let old := ofBytesLE (ks.map (memGet m))
  let lo := 4 * (n % 2)
  let keep := (2 ^ (8 * ks.length) - 1) - (2 ^ (4 * w) - 1) * 2 ^ lo
  ks.zip (toBytesLE ks.length ((old &&& keep) ||| (v % 2 ^ (4 * w)) * 2 ^ lo))

/-- The bits that writing nibbles `n` to `n + w - 1` changes, as masks. -/
def nibBits (ks : List Nat) (n w : Nat) : List Host.Cell :=
  ks.zip (toBytesLE ks.length ((2 ^ (4 * w) - 1) * 2 ^ (4 * (n % 2))))

/-- The keys of the bytes of a run of nibbles, when all lie in the own banks. -/
def nibKeys (s : State) (n w : Nat) : Option (List Nat) :=
  if ownForm ((n + w - 1) / 2) then spmRange s s.curCtx (n / 2) ((n + w - 1) / 2 - n / 2 + 1) else none

/-- The byte address a nibble fault names. -/
def nibFault (n : Nat) : SlotRes := .fatal causeSpmRange (BitVec.ofNat 64 (n / 2 % 2 ^ 32))

/-- SPILL (R166). -/
def semSpill (p : Pos) (f : Fields) (s : State) : SlotRes :=
  slotOp (.spill p f) f s fun _ s =>
    let n := nibAddr s p f
    let w := f.dst.slices
    match nibKeys s n w with
    | none => nibFault n
    | some ks =>
      .ok (spmWrite s s.curCtx (nibCells s.mem ks n w (s.curCtx.readScal p.bench f.dst.start.toNat w)) (nibBits ks n w))

/-- FILL (R166). -/
def semFill (p : Pos) (f : Fields) (s : State) : SlotRes :=
  slotOp (.fill p f) f s fun info s =>
    let n := nibAddr s p f
    match readNibs s n f.dst.slices with
    | .ok bs => .ok (putScal s p f.dst info.lat (ofBytesLE bs))
    | r => r.fate (n / 2 % 2 ^ 32)

/-- VSPILL (R166): lane 0 first; lanes that share a byte write their own nibbles. -/
def semVspill (p : Pos) (f : Fields) (s : State) : SlotRes :=
  slotOp (.vspill p f) f s fun _ s =>
    let n := nibAddr s p f
    let w := f.dst.slices
    let lanes := (List.range 64).filter fun i => (guardMask s.curCtx f).getLsbD i
    match lanes.find? fun i => (nibKeys s (n + i * w) w).isNone with
    | some i => nibFault (n + i * w)
    | none =>
      let keys (i : Nat) : List Nat := (nibKeys s (n + i * w) w).getD []
      let step (mc : List Host.Cell × List Host.Cell) (i : Nat) : List Host.Cell × List Host.Cell :=
        let cs := nibCells mc.1 (keys i) (n + i * w) w (dataLane s p f i)
        (cs.foldl (fun m c => memSet m c.1 c.2) mc.1, mc.2 ++ cs)
      .ok (spmWrite s s.curCtx (lanes.foldl step (s.mem, [])).2
        (lanes.flatMap fun i => nibBits (keys i) (n + i * w) w))

/-- VFILL (R166). -/
def semVfill (p : Pos) (f : Fields) (s : State) : SlotRes :=
  slotOp (.vfill p f) f s fun info s =>
    let n := nibAddr s p f
    let w := f.dst.slices
    let mask := guardMask s.curCtx f
    let rs := (List.range 64).map fun i => if mask.getLsbD i then readNibs s (n + i * w) w else .ok []
    match lanesFate rs fun i => (n + i * w) / 2 with
    | some r => r
    | none => .ok (putVec s p f.dst info.lat mask fun i => ((rs[i]?).getD .range).num)

/-! ### Tags (R165) -/

/-- TAG (R165). -/
def semTag (p : Pos) (f : Fields) (s : State) : SlotRes :=
  slotOp (.tag p f) f s fun _ s =>
    let a := alignDown (srcScal s p f.k1 f.src1 32) 8
    match spmRange s s.curCtx a 8 with
    | some _ => .ok (setTag s (tagKey s s.curCtx a) false)
    | none => .fatal causeSpmRange (BitVec.ofNat 64 a)

/-- TAGRD (R165). -/
def semTagrd (p : Pos) (f : Fields) (s : State) : SlotRes :=
  slotOp (.tagrd p f) f s fun info s =>
    let a := alignDown (srcScal s p f.k1 f.src1 32) 8
    match spmRange s s.curCtx a 8 with
    | some _ => .ok (putScal s p f.dst info.lat (if tagFull s (tagKey s s.curCtx a) then 1 else 0))
    | none => .fatal causeSpmRange (BitVec.ofNat 64 a)

/-! ### Slot K (spec/06 R152, R153) -/

/-- A scale register that mod 3:0 names. -/
def scaleSrc (s : State) (f : Fields) : Int := (s.curCtx.scales[(f.mod.extractLsb' 0 4).toNat]?.getD 0).toInt

/-- KLD (R153): n scale registers from consecutive bytes. -/
def semKld (p : Pos) (f : Fields) (s : State) : SlotRes :=
  slotOp (.kld p f) f s fun info s =>
    let a := (src64 s f.k1 f.src1 + src64 s f.k2 f.src2).toNat % 2 ^ 32
    let n := (f.mod.extractLsb' 0 2).toNat + 1
    match spmRead s s.curCtx a n with
    | .ok bs =>
      .ok ((List.range n).foldl
        (fun t j => putScale t p (f.dst.start.toNat + j) info.lat ((bs[j]?.getD 0).toInt)) s)
    | r => r.fate a

/-- KMOV (R153). -/
def semKmov (p : Pos) (f : Fields) (s : State) : SlotRes :=
  slotOp (.kmov p f) f s fun info s => .ok (putScale s p f.dst.start.toNat info.lat (scaleSrc s f))

/-- KADD (R153). -/
def semKadd (p : Pos) (f : Fields) (s : State) : SlotRes :=
  slotOp (.kadd p f) f s fun info s =>
    .ok (putScale s p f.dst.start.toNat info.lat (clampScale (scaleSrc s f + (src64 s f.k1 f.src1).toInt)))

/-- KSUB (R153). -/
def semKsub (p : Pos) (f : Fields) (s : State) : SlotRes :=
  slotOp (.ksub p f) f s fun info s =>
    .ok (putScale s p f.dst.start.toNat info.lat (clampScale (scaleSrc s f - (src64 s f.k1 f.src1).toInt)))

/-- KLI (R153). -/
def semKli (p : Pos) (f : Fields) (s : State) : SlotRes :=
  slotOp (.kli p f) f s fun info s => .ok (putScale s p f.dst.start.toNat info.lat (clampScale f.src1.imm))

/-- KBIND (R153): ia, ib and io from bits 3:0, 7:4 and 11:8. -/
def semKbind (p : Pos) (f : Fields) (s : State) : SlotRes :=
  slotOp (.kbind p f) f s fun info s => .ok (putKb s p info.lat (src64 s f.k1 f.src1 &&& 0xFFF) 0xFFF)

/-- KFMT (R153): fa, fb and fo from bits 3:0, 7:4 and 11:8; a code above 9 is illegal, of an immediate too only when the
operation is enabled (spec/03 R74). DEDUCED, log entry 62. -/
def semKfmt (p : Pos) (f : Fields) (s : State) : SlotRes :=
  slotOp (.kfmt p f) f s fun info s =>
    let v := (src64 s f.k1 f.src1).toNat % 4096
    if v % 16 > 9 ∨ v / 16 % 16 > 9 ∨ v / 256 > 9 then .illegal
    else .ok (putKb s p info.lat (BitVec.ofNat 64 (v * 4096)) 0xFFF000)

/-- KCLR (R153): sixteen results. -/
def semKclr (p : Pos) (f : Fields) (s : State) : SlotRes :=
  slotOp (.kclr p f) f s fun info s =>
    .ok ((List.range 16).foldl (fun t j => putScale t p j info.lat 0) s)

end Sys2Proof.Machine
end

