-- ==== Sys2Proof/Machine/Msc.lean ====
section
/-!
DEFINITION. The memory-side cache's placement of lines and the HBM4E channels' queues (spec/13 R291-R293, R299). A line
of the memory-side cache never differs from its home's bytes in `mem`, so the cache is its tags, ways and ages alone; what
misses joins a channel queue.
-/

namespace Sys2Proof.Machine

open Sys2Proof

/-- Who makes a request of the memory side: its tenant tag and virtual function, when it has them, and its traffic class,
0 ACT, 1 REA, 2 BLK, 3 SYS (R292, R299). -/
structure Requester where
  tenant : Option Nat := none
  vf : Option Nat := none
  cls : Nat := 3
  deriving DecidableEq, Repr

/-- A supervisor core, a page walk, the swap and clear engines and the Gaffer (R292). -/
def sysReq : Requester := {}

/-- The requester that a context is: the class of its grid, unless the request names one (R293, R299). -/
def ctxReq (s : State) (h : Nat) (cls : Option Nat) : Requester :=
  match s.ctx? h with
  | none => { cls := cls.getD 3 }
  | some c =>
    match s.grid? c.gkey with
    | none => { vf := some c.vf, tenant := some (0x1000 + c.vf), cls := cls.getD 1 }
    | some g =>
      { vf := some c.vf
        tenant := some (if g.kind = .launch then 0x1000 + c.vf else g.session)
        cls := cls.getD (if g.kind = .action then 0 else 1) }

/-- How a request uses a line (R293). -/
inductive Use where
  | read | write | atomic
  deriving DecidableEq, Repr

/-- Home slice and set of a key in a partition, as one number (R291). -/
def homeSet (part key : Nat) : Nat :=
  let n := 16 * partDies part
  let slice := 16 * partDie part + ((key / 2 ^ 6) ^^^ (key / 2 ^ 12) ^^^ (key / 2 ^ 18)) % n
  slice * 8192 + key / 2 ^ 12 % 8192

/-! ### Channels (R298, R299) -/

/-- The stack of a physical HBM4E address (spec/22 R419). -/
def stackOf (key : Nat) : Nat := key / 2 ^ 36 % 8
/-- The channel of a physical HBM4E address in its stack (spec/22 R419). -/
def chanOf (key : Nat) : Nat := ((key / 2 ^ 8) ^^^ (key / 2 ^ 17)) % 32

/-- A channel. -/
def State.chan (s : State) (stack ch : Nat) : Chan :=
  findD s.chans (fun x => x.stack == stack && x.ch == ch) { stack := stack, ch := ch }

/-- Write a channel. -/
def State.setChan (s : State) (c : Chan) : State :=
  { s with chans := putBy s.chans (fun x => x.stack == c.stack && x.ch == c.ch) c }

/-- The tenant of a wheel position; 0x1FFF is no tenant (R302). -/
def wheelTenant (s : State) (stack ch p : Nat) : Nat := ((s.reg ⟨.mrv, stack, 128 * ch + 4 * p⟩).toNat) % 2 ^ 13

/-- The first position of a channel's wheel that a tenant holds (R299). -/
def posOf (s : State) (stack ch : Nat) (t : Option Nat) : Option Nat :=
  match t with
  | none => none
  | some t => if t = 0x1FFF then none else (List.range 32).find? fun p => wheelTenant s stack ch p == t

/-- A request for a line joins its channel's queue (R299). -/
def chanPush (s : State) (rq : Requester) (key : Nat) : State :=
  let line := key / 64 * 64
  let c := s.chan (stackOf key) (chanOf key)
  s.setChan { c with reqs := c.reqs ++
    [{ tenant := rq.tenant, cls := rq.cls, pos := posOf s c.stack c.ch rq.tenant, bank := Config.hbmBank line % 32,
       row := Config.hbmRow line % 2 ^ 18, line := line }] }

/-! ### The memory-side cache (R291-R293) -/

/-- The policy code of a class for a use: 0 allocate, 1 stream, 2 low priority (R293). -/
def mscPolicy (s : State) (part cls : Nat) (u : Use) : Nat :=
  let v := (s.reg (partReg .prtm part (0x220 + 8 * cls))).toNat
  match u with
  | .read => v % 4
  | .write => v / 4 % 4
  | .atomic => v / 16 % 4

/-- The ways that a requester may allocate in, as a mask (R292). -/
def mscWays (s : State) (part : Nat) (rq : Requester) : Nat :=
  let t := (s.reg (partReg .prtm part (0x200 + 8 * rq.cls))).toNat
  match rq.vf with
  | none => t
  | some f => t &&& (s.reg (partReg .prtm part (8 * f))).toNat

/-- Insert a line just after the last line of its set in the ways of a mask: the least recent of those ways. -/
def mscPutLast (l : List MscLine) (ways : Nat) (x : MscLine) : List MscLine :=
  let after' := (l.reverse.span fun y => !(y.home == x.home && ways.testBit y.way))
  after'.2.reverse ++ x :: after'.1.reverse

/-- A request reaches the memory-side cache: a hit ages the line by the policy; a miss joins its channel's queue and fills
an allowed way, the least recently used line of those ways leaving, to HBM4E when it holds writes that HBM4E lacks (R292,
R293). An atomic that misses and keeps no copy is a read and a write. Host-homed lines and vaults pass it by.
Lines are tags alone, and a line that leaves is written for the requester that takes its way: DEDUCED, log entry 38. -/
def mscTouch (s : State) (part : Nat) (rq : Requester) (u : Use) (key : Nat) : State :=
  if key ≥ hostBase then s
  else
    let line := key / 64 * 64
    let pol := mscPolicy s part rq.cls u
    match s.msc.find? fun x => x.line == line with
    | some x =>
      let y : MscLine := { x with dirty := x.dirty || wr }
      if pol = 0 then { s with msc := y :: s.msc.filter fun z => z.line != line }
      else { s with msc := s.msc.map fun z => if z.line = line then y else z }
    | none =>
      let s1 := chanPush s rq key
      let ways := mscWays s part rq
      let pass := if u = .atomic then chanPush s1 rq key else s1
      if pol = 1 ∨ pol = 3 then pass
      else
        let home := homeSet part key
        let x (w : Nat) : MscLine := { home := home, way := w, line := line, dirty := wr }
        let set' := s1.msc.filter fun x => x.home == home
        let fresh := (List.range 15).find? fun w => ways.testBit w && set'.all fun x => x.way != w
        let victim := (set'.filter fun x => ways.testBit x.way).getLast?
        match fresh, victim with
        | some w, _ => put s1 pol ways (x w) none
        | none, some v => put (if v.dirty then chanPush s1 rq v.line else s1) pol ways (x v.way) (some v.line)
        | none, none => pass
where
  wr : Bool := decide (u ≠ .read)
  put (s1 : State) (pol ways : Nat) (x : MscLine) (out : Option Nat) : State :=
    let l := s1.msc.filter fun y => some y.line != out
    { s1 with msc := if pol = 0 then x :: l else mscPutLast l ways x }

end Sys2Proof.Machine
end

