-- ==== Sys2Proof/Machine/Xlat.lean ====
section
/-!
DEFINITION. Address translation (spec/15): range registers, the page-table walk, the translation caches and the
predicted accesses, the swap and clear engines' effect on where and what an access meets, and home reads and writes.
-/

namespace Sys2Proof.Machine

open Sys2Proof

/-! ### Range registers (R328, R329) -/

/-- What an access asks of a page (R333); `both` is a probe with .w. -/
inductive Acc where
  | read | write | both | atomic
  deriving DecidableEq, Repr

/-- An access reads, and writes. -/
def Acc.rd : Acc → Bool
  | .write => false
  | _ => true
/-- An access writes. -/
def Acc.wr : Acc → Bool
  | .read => false
  | _ => true

/-- A range entry that covers a virtual address: where the address maps, and the entry's bits. -/
structure RangeHit where
  addr : Nat
  vault : Bool
  r : Bool
  w : Bool
  tiered : Bool
  deriving DecidableEq, Repr

/-- The lowest-numbered range entry, of those that the core holds, that covers a virtual address (R328, R329). -/
def rangeHit (c : Ctx) (va : Nat) : Option RangeHit :=
  c.live.findSome? fun e =>
    let vb := e.1.toNat
    let size := e.2.1.toNat
    let w3 := e.2.2.2
    if size ≠ 0 ∧ vb ≤ va ∧ va < vb + size then
      some { addr := e.2.2.1.toNat + (va - vb), vault := w3.getLsbD 0, r := w3.getLsbD 2, w := w3.getLsbD 3,
             tiered := w3.getLsbD 4 }
    else none

/-! ### Home reads and writes under the clear engine (R345) -/

/-- The pending frame that holds an HBM4E key whose line is not yet cleared. -/
def pendingLine (s : State) (key : Nat) : Option ClearFrame :=
  if s.clear = [] ∨ key ≥ hostBase then none
  else s.clear.find? fun f =>
    f.frame == key / 2 ^ 19 * 2 ^ 19 && decide (f.next ≤ key % 2 ^ 19 / 64) && !f.marked.contains (key % 2 ^ 19 / 64)

/-- Write zeros over a line and clear any poison in it. -/
def zeroLine (s : State) (key : Nat) : State :=
  let k := key / 64 * 64
  { s with mem := memClear s.mem k (k + 64), poison := s.poison.filter fun w => !(k ≤ w && w < k + 64) }

/-- The sweep of a frame ends: every line not yet marked is zero, and the frame is pending no more (R345). -/
def finishFrame (s : State) (f : ClearFrame) : State :=
  let s1 := (List.range 8192).foldl
    (fun t i => if i < f.next ∨ f.marked.contains i then t else zeroLine t (f.frame + 64 * i)) s
  { s1 with clear := s1.clear.filter fun g => !(g.part == f.part && g.frame == f.frame) }

/-- Touch bitmaps in use in a partition (R341, R345). -/
def bitmapsUsed (s : State) (part : Nat) : Nat := (s.clear.filter fun f => f.part == part && !f.marked.isEmpty).length

/-- A line of a pending frame is written with zeros and marked before an access that writes it; a touch that finds all
4096 bitmaps in use waits until the sweep has finished a touched frame (R345). -/
def touchLine (s : State) (key : Nat) : State :=
  match pendingLine s key with
  | none => s
  | some f =>
    let s0 :=
      if f.marked = [] ∧ bitmapsUsed s f.part ≥ 4096 then
        match s.clear.find? fun g => g.part == f.part && !g.marked.isEmpty with
        | some g => finishFrame s g
        | none => s
      else s
    let s1 := zeroLine s0 key
    { s1 with clear := s1.clear.map fun g =>
        if g.frame = f.frame ∧ g.part = f.part then { g with marked := key % 2 ^ 19 / 64 :: g.marked } else g }

/-- Read bytes of one line at home; a line not yet cleared reads zero. -/
def homeRead (s : State) (key n : Nat) : Except Nat (List Byte) :=
  match pendingLine s key with
  | some _ => .ok (List.replicate n 0)
  | none => readBytes s key n

/-- Write cells of one line at home. -/
def homeWrite (s : State) (writer : Nat) (cells : List Host.Cell) (bits : List Host.Cell := []) : State :=
  match cells with
  | [] => s
  | c :: _ => writeCells (touchLine s c.1) writer cells bits

/-- Bytes that no sequencer writes (the Gaffer, the endpoint, the engines of the translation blocks) reach home. -/
def agentWrite (s : State) (key : Nat) (bs : List Byte) : State :=
  let s1 := if s.clear = [] then s
    else (List.range ((key % 64 + bs.length + 63) / 64)).foldl (fun t j => touchLine t (key / 64 * 64 + 64 * j)) s
  writeBytes s1 0 key bs

/-- A word of `n` bytes that no sequencer writes. -/
def agentStore (s : State) (key n v : Nat) : State := agentWrite s key (toBytesLE n v)

/-! ### The walk (R331-R333) -/

/-- Lowest intermediate-address bit of a level's index. -/
def lvlShift (l : Nat) : Nat := match l with | 0 => 36 | 1 => 27 | 2 => 23 | _ => 19
/-- Entries of a level's table. -/
def lvlCount (l : Nat) : Nat := match l with | 0 => 4096 | 1 => 512 | _ => 16

/-- A physical HBM4E address lies in the partition's stacks (spec/22 R419). -/
def inPart (p a : Nat) : Bool := decide (a < 2 ^ 39) && partHasStack p (a / 2 ^ 36)

/-- Field addr of an entry. -/
def pteAddr (e : Word) : Nat := (e.extractLsb' 0 46).toNat
/-- Field h of an entry. -/
def pteH (e : Word) : Bool := e.getLsbD 58
/-- Field nc of an entry. -/
def pteNc (e : Word) : Bool := e.getLsbD 59
/-- Field vf of an entry. -/
def pteVf (e : Word) : Nat := (e.extractLsb' 50 6).toNat

/-- The result of a walk: the leaf entry with its level and own address, a fault code with the level, or poison in the entry
at a key. -/
inductive WalkRes where
  | leaf (level : Nat) (e : Word) (at' : Nat)
  | fault (code level : Nat)
  | poison (key : Nat)
  deriving DecidableEq, Repr

/-- An entry as a walk reads it at its home (R333, R345); `none` is poisoned data (spec/13 R304). -/
def pteAt (s : State) (a : Nat) : Option Word :=
  match homeRead s a 8 with
  | .ok bs => some (BitVec.ofNat 64 (ofBytesLE bs))
  | .error _ => none

/-- Walk from a table at a level (R331, R333). A table outside the partition's memory is a bad entry. -/
def walkFrom (s : State) (part ia : Nat) : Nat → Nat → Nat → WalkRes
  | 0, level, _ => .fault 2 level
  | fuel + 1, level, table =>
    let a := table + 8 * (ia / 2 ^ lvlShift level % lvlCount level)
    match pteAt s a with
    | none => .poison a
    | some e =>
      if !e.getLsbD 63 then .fault 1 level
      else if e.extractLsb' 46 4 ≠ 0 then .fault 2 level
      else if e.getLsbD 62 then
        if level = 0 ∨ pteAddr e % 2 ^ lvlShift level ≠ 0 ∨ (!pteH e ∧ !inPart part (pteAddr e)) then .fault 2 level
        else .leaf level e a
      else if level ≥ 3 ∨ e.extractLsb' 50 12 ≠ 0 ∨ pteAddr e % (8 * lvlCount (level + 1)) ≠ 0 ∨
          !inPart part (pteAddr e) then .fault 2 level
      else walkFrom s part ia fuel (level + 1) (pteAddr e)

/-- The entries that a walk reads (R333). -/
def walkReads (s : State) (part ia : Nat) : Nat → Nat → Nat → List Nat
  | 0, _, _ => []
  | fuel + 1, level, table =>
    let a := table + 8 * (ia / 2 ^ lvlShift level % lvlCount level)
    let e : Word := (pteAt s a).getD 0
    if !e.getLsbD 63 ∨ e.getLsbD 62 ∨ e.extractLsb' 46 4 ≠ 0 ∨ level ≥ 3 ∨ e.extractLsb' 50 12 ≠ 0 ∨
        pteAddr e % (8 * lvlCount (level + 1)) ≠ 0 ∨ !inPart part (pteAddr e) then [a]
    else a :: walkReads s part ia fuel (level + 1) (pteAddr e)

/-- A walk of an intermediate address of a partition (R331, R341). R331 puts every table inside the partition's memory and names no
check of the root: a root outside is walked as it stands, DESIGN CHOICE, log entry 72. -/
def walk (s : State) (part ia : Nat) : WalkRes :=
  let root := s.reg (partReg .xltp part 0)
  if !root.getLsbD 63 then .fault 1 0
  else walkFrom s part ia 4 0 ((root.extractLsb' 15 31).toNat * 2 ^ 15)

/-- A walk's reads, each one access at its entry's home in class SYS (R333). -/
def touchWalk (s : State) (part ia : Nat) : State :=
  let root := s.reg (partReg .xltp part 0)
  if root.getLsbD 63 then
    (walkReads s part ia 4 0 ((root.extractLsb' 15 31).toNat * 2 ^ 15)).foldl (fun t a => mscTouch t part sysReq .read a) s
  else s

/-- A translation-cache entry that covers an address (R334). -/
def State.leafFor (s : State) (part die ia : Nat) : Option Leaf :=
  s.leaves.find? fun l => l.part == part && l.die == die && l.base == ia / 2 ^ lvlShift l.level * 2 ^ lvlShift l.level

/-- The attributes of an entry: all but its frame. -/
def pteAttrs (e : Word) : Word := e >>> 46

/-- The frame that an address's page is predicted to map to: the one after a run that ends just below it, whose pages are not
host-homed (R335). -/
def predicted (s : State) (part die ia : Nat) : Option Nat :=
  ((s.runs.find? fun r =>
    r.part == part && r.die == die && r.base + r.len * 2 ^ 19 == ia / 2 ^ 19 * 2 ^ 19 && !r.attrs.getLsbD 12).filter
    fun _ => !Config.runEvicted s.stepNo ia).map fun r => r.frame + r.len * 2 ^ 19

/-- A completed level-3 walk extends the run that ends just below its page, when the frame and the attributes follow on, or
begins one (R335). -/
def addRun (s : State) (part die ia : Nat) (e : Word) : State :=
  let pg := ia / 2 ^ 19 * 2 ^ 19
  let mine (r : Run) : Bool := r.part == part && r.die == die && r.attrs == pteAttrs e
  let ends (r : Run) : Bool :=
    mine r && r.base + r.len * 2 ^ 19 == pg && r.frame + r.len * 2 ^ 19 == pteAddr e
  if s.runs.any fun r => mine r && decide (r.base ≤ pg) && decide (pg < r.base + r.len * 2 ^ 19) &&
      r.frame + (pg - r.base) == pteAddr e then s
  else if s.runs.any ends then { s with runs := s.runs.map fun r => if ends r then { r with len := r.len + 1 } else r }
  else { s with runs := s.runs ++
    [{ part := part, die := die, base := pg, frame := pteAddr e, len := 1, attrs := pteAttrs e }] }

/-- The home key of an intermediate address under a leaf. -/
def homeKey (level ia : Nat) (e : Word) : Nat :=
  (if pteH e then hostBase else 0) + pteAddr e + ia % 2 ^ lvlShift level

/-- The leaf that an access of a die's walker share uses: a cached one, or the one its walk finds, which is then
cached; a wrong prediction, or one of a leaf that denies the access, is squashed and counted (R334, R335). The walk's reads
are of class SYS (R333); a squashed access has reached its channel for its requester (R335). When a leaf is evicted is a free
value, log entry 72. -/
def lookupLeaf (s : State) (part die ia : Nat) (rq : Requester := sysReq) (deny : Word → Bool := fun _ => false) :
    State × WalkRes :=
  match (s.leafFor part die ia).filter fun _ => !Config.leafEvicted s.stepNo ia with
  | some l => (s, .leaf l.level l.entry 0)
  | none =>
    let r := walk s part ia
    let s0 := touchWalk s part ia
    let s1 := match predicted s part die ia with
      | none => s0
      | some fr =>
        let bad := match r with
          | .leaf lv e _ => decide (homeKey lv (ia / 2 ^ 19 * 2 ^ 19) e ≠ fr) || deny e
          | _ => true
        if bad then (chanPush s0 rq (fr + ia % 2 ^ 19)).bumpReg (partReg .xltp part 0x18) 1 else s0
    match r with
    | .leaf lv e _ =>
      let s2 := if lv = 3 then addRun s1 part die ia e else s1
      ({ s2 with leaves := { part := part, die := die, level := lv,
                             base := ia / 2 ^ lvlShift lv * 2 ^ lvlShift lv, entry := e } ::
                           s2.leaves.filter fun l => some l != s.leafFor part die ia }, r)
    | _ => (s1, r)

/-- The host links' port behind which a host address lies is down (spec/22 R425). -/
def hostDown (s : State) (frame : Nat) : Bool := if Config.hostPort frame then !s.hostIf.up1 else !s.hostIf.up0

/-- The entry that a line uses while a swap moves its page: its own attributes with the frame and home of the page that
the line is in at the moment (R343, R344); an error is the key of a
poisoned entry. -/
def swapEntry (s : State) (part ia : Nat) (e : Word) : Except Nat Word :=
  let pg := ia / 2 ^ 19 * 2 ^ 19
  match s.swaps.find? fun w => w.part == part && (pg == w.farIa || pg == w.nearIa) with
  | none => .ok e
  | some w =>
    let m : Word := 0x04003FFFFFFFFFFF
    let a := if pg = w.farIa then w.farPte else w.nearPte
    let b := if pg = w.farIa then w.nearPte else w.farPte
    match pteAt s a, pteAt s b with
    | some own, some other => .ok (if ia % 2 ^ 19 / 64 < w.done then (own &&& ~~~m) ||| (other &&& m) else own)
    | none, _ => .error a
    | _, none => .error b

/-- The access check of a leaf against a requester (R333). -/
def leafFault (s : State) (vf : Nat) (acc : Acc) (r w : Bool) (e : Word) : Option Nat :=
  if !e.getLsbD 56 ∧ pteVf e ≠ vf then some 3
  else if acc.rd ∧ !(e.getLsbD 61 && r) then some 4
  else if acc.wr ∧ !(e.getLsbD 60 && w) then some 5
  else if acc = .atomic ∧ pteH e then some 7
  else if pteH e ∧ hostDown s (pteAddr e) then some 8
  else none

/-- Where an access reaches memory: a vault, or a line's home with its intermediate address. -/
structure Place where
  key : Nat
  vault : Bool
  ia : Nat
  nc : Bool
  deriving DecidableEq, Repr

/-- What a far address resolves to: a place, a fault, or poison in a table entry of its walk, at a key. -/
inductive FarRes where
  | place (pl : Place)
  | fault (code level ia : Nat)
  | poison (key : Nat)
  deriving DecidableEq, Repr

/-- Translate a far virtual address of a context for an access (R329, R333, R334). -/
def resolveFar (s : State) (c : Ctx) (va : Nat) (acc : Acc) : State × FarRes :=
  match rangeHit c va with
  | none => (s, .fault 6 0 0)
  | some h =>
    if h.vault then
      (s, if acc.rd ∧ !h.r then .fault 4 0 0 else if acc.wr ∧ !h.w then .fault 5 0 0
          else .place { key := vaultBase + h.addr, vault := true, ia := h.addr, nc := false })
    else
      let ia := h.addr % 2 ^ 48
      let denies (e : Word) : Bool := match swapEntry s c.part ia e with
        | .ok x => (leafFault s c.vf acc h.r h.w x).isSome
        | .error _ => true
      let q := lookupLeaf s c.part (c.core / 128) ia (ctxReq s c.handle none) denies
      match q.2 with
      | .fault code lv => (q.1, .fault code lv ia)
      | .poison k => (q.1, .poison k)
      | .leaf lv e0 _ =>
        match swapEntry q.1 c.part ia e0 with
        | .error k => (q.1, .poison k)
        | .ok e =>
          match leafFault q.1 c.vf acc h.r h.w e with
          | some code => (q.1, .fault code lv ia)
          | none => (q.1, .place { key := homeKey lv ia e, vault := false, ia := ia, nc := pteNc e })

/-- The home key of an intermediate line without permission checks, for write-backs and engine effects on lines; the
key recorded when the line was filled stands in when its page is no longer mapped. The walk is as any other (R333-R335). -/
def lineHome (s : State) (part die line recorded : Nat) : State × Nat :=
  match lookupLeaf s part die line with
  | (t, .leaf lv e0 _) => (t, homeKey lv line (match swapEntry s part line e0 with | .ok e => e | .error _ => e0))
  | (t, _) => (t, recorded)

/-! ### Vault addresses (spec/07 R156, R176; spec/13 R288) -/

/-- A vault-space address lies in a partition's allotment. -/
def vaultOk (part a : Nat) : Bool := decide (a < 2 ^ 33) && partHas part (a / 2 ^ 27)

end Sys2Proof.Machine
end

