-- ==== Sys2Proof/Machine/Cache.lean ====
section
/-!
DEFINITION. Coherence (spec/14): posted-write buffers, cluster caches, the directory's actions, releases and acquires.
A release at die scope or wider brings every dirty coherent byte of its cluster home and invalidates every other copy
there and then, so an acquire finds the released values without any action of its own: a read after it misses or meets
a copy no older than what was released. A cluster cache may drop a line at any time by an event (EVC, WB).
-/

namespace Sys2Proof.Machine

open Sys2Proof

/-! ### The directory (R322-R325) -/

/-- The entry of a line, which is named by its intermediate address, as the copies are: two intermediate lines that map to one
frame have an entry each. DEDUCED, log entry 63. -/
def State.dirEntry (s : State) (part line : Nat) : Option DirEntry :=
  s.dir.find? fun d => d.part == part && d.line == line

/-- Remove the entry of a line. -/
def dirFree (s : State) (part line : Nat) : State :=
  { s with dir := s.dir.filter fun d => !(d.part == part && d.line == line) }

/-- Write an entry, most recently used first. -/
def dirPut (s : State) (d : DirEntry) : State :=
  { dirFree s d.part d.line with dir := d :: (dirFree s d.part d.line).dir }

/-- A copy of a line in a cluster's cache. -/
def State.copyOf (s : State) (cluster part line : Nat) : Option CacheLine :=
  s.lines.find? fun x => x.cluster == cluster && x.part == part && x.line == line

/-- Every copy of a coherent line outside a cluster loses its clean bytes: sharers drop it, writers keep their dirty
bytes (R324). -/
def keepDirty (s : State) (part line : Nat) (except' : Option Nat) : State :=
  { s with lines := s.lines.filterMap fun x =>
      if x.part = part ∧ x.line = line ∧ !x.nc ∧ some x.cluster ≠ except' then
        (if x.dirty = 0 then none else some { x with valid := x.dirty })
      else some x }

/-- The clusters that hold dirty bytes of a line, but for one. -/
def dirtyHolders (s : State) (part line : Nat) (except' : Option Nat) : List Nat :=
  (s.lines.filter fun x =>
    x.part == part && x.line == line && !x.nc && x.dirty != 0 && some x.cluster != except').map (·.cluster)

/-- Write a cached line's dirty bytes home; a poisoned word takes them only when they cover it, and else each writer's write is
dropped (spec/13 R304, R305). -/
def mergeHome (s0 : State) (x : CacheLine) : State :=
  let (s1, key) := lineHome s0 x.part (x.cluster / 16) x.line x.key
  let s := mscTouch s1 x.part (ctxReq s1 ((x.writers.getLast?.map (·.1)).getD 0) none) .write key
  let cells (m : BitVec 64) : List Host.Cell :=
    (List.range 64).filterMap fun j => if (m &&& x.dirty).getLsbD j then some (key + j, x.data[j]?.getD 0) else none
  if s.poison = [] then homeWrite s 0 (cells (BitVec.allOnes 64))
  else mergeCells (touchLine s key) (x.writers.map fun w => (w.1, cells w.2))

/-- The entry of a line after its other copies were reported: holders and whether they are writers (R324). -/
def dirRebuild (s : State) (part line home : Nat) (sharer : Option Nat) : State :=
  let hs := (dirtyHolders s part line none).map (·, true) ++ (sharer.toList.map (·, false))
  if hs = [] then dirFree s part line
  else dirPut s { part := part, line := line, holders := if hs.length > 4 then [] else hs,
                  ovf := decide (hs.length > 4), home := home, rep := decide (hs.length > 4) && hs.any (·.2) }

/-- After a WB or HW has performed at home: sharers elsewhere are invalidated, writers keep their dirty bytes, and the
entry follows; an OVF entry broadcasts (R324). -/
def dirAfterWrite (s : State) (part line : Nat) (from' : Option Nat) (stays : Bool) : State :=
  match s.dirEntry part line with
  | none => s
  | some d =>
    let s1 := if d.ovf then s.bumpReg (partReg .prtm part 0x278) 1 else s
    let s2 := keepDirty s1 part line from'
    let sharer := if stays then from' else none
    dirRebuild s2 part line d.home sharer

/-- Drop every copy of a victim's line, its dirty bytes going home first; an OVF victim is a broadcast (R325, R326). -/
def backInvalidate (s : State) (d : DirEntry) : State :=
  let copies := s.lines.filter fun x => x.part == d.part && x.line == d.line && !x.nc
  let s1 := copies.foldl (fun t x => if x.dirty = 0 then t else mergeHome t x) s
  let s2 := { s1 with lines := s1.lines.filter fun x => !(x.part == d.part && x.line == d.line && !x.nc) }
  let s3 := (dirFree s2 d.part d.line).bumpReg (partReg .prtm d.part 0x260) 1
  if d.ovf then s3.bumpReg (partReg .prtm d.part 0x278) 1 else s3

/-- The victim of a set: the least recently used SHR entry, else an OVF entry with no writer reported, else the least
recently used one (R325). A writer is reported by the holders known when the entry overflows and by a broadcast, not by a WN
that meets an OVF entry, for which R324 gives no action. Every event of a line is a use of its entry, and of several OVF entries
with no writer reported the least recently used one goes: DEDUCED, log entry 63. -/
def chooseVictim (es : List DirEntry) : Option DirEntry :=
  let old := es.reverse
  let shr (d : DirEntry) : Bool := !d.ovf && d.holders.all fun h => !h.2
  match old.find? shr with
  | some d => some d
  | none =>
    match old.find? fun d => d.ovf && !d.rep with
    | some d => some d
    | none => old.head?

/-- Make room for an entry in a set of four (R322, R325). -/
def dirRoom (s : State) (home : Nat) : State :=
  let es := s.dir.filter fun d => d.home == home
  if es.length < 4 then s
  else match chooseVictim es with
    | some d => backInvalidate s d
    | none => s

/-- Add a holder, as a sharer or a writer; a fifth holder makes the entry OVF (R324). -/
def dirAdd (s : State) (part line key cluster : Nat) (writer : Bool) : State :=
  match s.dirEntry part line with
  | none =>
    let home := homeSet part key
    dirPut (dirRoom s home) { part := part, line := line, holders := [(cluster, writer)], ovf := false, home := home }
  | some d =>
    if d.ovf then dirPut s d
    else
      let was := d.holders.any fun h => h.1 == cluster && h.2
      let hs := d.holders.filter (fun h => h.1 != cluster) ++ [(cluster, writer || was)]
      if hs.length > 4 then
        (dirPut s { d with holders := [], ovf := true, rep := hs.any (·.2) }).bumpReg (partReg .prtm part 0x268) 1
      else dirPut s { d with holders := hs }

/-- EVC(c): a holder drops its clean copy (R324). -/
def dirDrop (s : State) (part line cluster : Nat) : State :=
  match s.dirEntry part line with
  | none => s
  | some d =>
    if d.ovf then s
    else
      let hs := d.holders.filter fun h => h.1 != cluster
      if hs = [] then dirFree s part line else dirPut s { d with holders := hs }

/-- HW: an atomic or an engine write has performed at home (R324). -/
def dirHomeWrite (s : State) (part line : Nat) : State := dirAfterWrite s part line none false

/-! ### Cluster caches (spec/13 R290) -/

/-- Drop a line from a cluster's cache. -/
def dropLine (s : State) (cluster part line : Nat) : State :=
  { s with lines := s.lines.filter fun x => !(x.cluster == cluster && x.part == part && x.line == line) }

/-- WB(c): a line's dirty bytes go home, and the line stays clean or leaves (R323, R324). -/
def writeBack (s : State) (x : CacheLine) (evict : Bool) : State :=
  let s1 := mergeHome s x
  let s2 :=
    if evict then dropLine s1 x.cluster x.part x.line
    else { s1 with lines := s1.lines.map fun y =>
        if y.cluster = x.cluster ∧ y.part = x.part ∧ y.line = x.line then { y with dirty := 0, writers := [] } else y }
  if x.nc then s2 else dirAfterWrite s2 x.part x.line (some x.cluster) (!evict)

/-- A line leaves a cluster's cache (R323). -/
def evictLine (s : State) (x : CacheLine) : State :=
  if x.dirty ≠ 0 then writeBack s x true
  else
    let s1 := dropLine s x.cluster x.part x.line
    if x.nc then s1 else dirDrop s1 x.part x.line x.cluster

/-- Make room in a set of 16 ways, the least recently used line leaving (spec/13 R290). -/
def cacheRoom (s : State) (cluster line : Nat) : State :=
  let set' := s.lines.filter fun x => x.cluster == cluster && x.line / 64 % 4096 == line / 64 % 4096
  if set'.length < 16 then s
  else match set'.getLast? with
    | some x => evictLine s x
    | none => s

/-- Put a line into a cluster's cache as its most recently used. -/
def cachePut (s : State) (x : CacheLine) : State :=
  let s1 := dropLine s x.cluster x.part x.line
  { s1 with lines := x :: s1.lines }

/-- Merge bytes by a mask. -/
def mergeBytes (old new : List Byte) (mask : BitVec 64) : List Byte :=
  (List.range 64).map fun j => if mask.getLsbD j then new[j]?.getD 0 else old[j]?.getD 0

/-- Fetch a line's home bytes into a cluster's cache under any dirty bytes it holds (RD, R324). Bytes of a poisoned word
stay invalid, so a later read meets the poison; a line that waits to be cleared reads zero, poisoned or not (spec/15 R345). -/
def fetchLine (s0 : State) (cluster part : Nat) (pl : Place) (rq : Requester) : State :=
  let line := pl.ia / 64 * 64
  let key := pl.key / 64 * 64
  let s := mscTouch s0 part rq .read key
  let s1 := if (s.copyOf cluster part line).isSome then s else cacheRoom s cluster line
  let s2 := if pl.nc then s1 else dirAdd s1 part line key cluster false
  let old := (s2.copyOf cluster part line).getD
    { cluster := cluster, part := part, line := line, data := List.replicate 64 0, valid := 0, dirty := 0, nc := pl.nc,
      key := key, writers := [] }
  let clear := (pendingLine s2 key).isSome
  let home := if clear then List.replicate 64 0 else memGetList s2.mem key 64
  let good : BitVec 64 := laneMask fun j => clear || (s2.poisonAt (key + j) 1).isNone
  cachePut s2 { old with data := mergeBytes home old.data old.dirty, valid := good ||| old.dirty, key := key }

/-- A posted line moves into the cluster's cache; the first dirty byte there is WN (R310, R323). -/
def drainLine (s : State) (x : PostedLine) : State :=
  let cl := clusterOf x.core
  let s1 := if (s.copyOf cl x.part x.line).isSome then s else cacheRoom s cl x.line
  let old := (s1.copyOf cl x.part x.line).getD
    { cluster := cl, part := x.part, line := x.line, data := List.replicate 64 0, valid := 0, dirty := 0, nc := x.nc,
      key := x.key, writers := [] }
  let s2 := if x.nc ∨ old.dirty ≠ 0 then s1 else dirAdd s1 x.part x.line x.key cl true
  cachePut s2 { old with data := mergeBytes old.data x.data x.mask, valid := old.valid ||| x.mask,
                         dirty := old.dirty ||| x.mask, writers := old.writers ++ [(x.ctx, x.mask)] }

/-- A far ordinary write enters the core's posted-write buffer; a 1025th line moves the oldest out (R310). -/
def postWrite (s : State) (c : Ctx) (pl : Place) (bs : List Byte) : State :=
  let line := pl.ia / 64 * 64
  let off := pl.ia % 64
  let mask : BitVec 64 := BitVec.ofNat 64 ((2 ^ bs.length - 1) * 2 ^ off)
  let data := List.replicate off 0 ++ bs
  let mine (x : PostedLine) : Bool := x.core == c.core && x.ctx == c.handle && x.part == c.part && x.line == line
  match s.posted.find? mine with
  | some x =>
    let y := { x with data := mergeBytes x.data data mask, mask := x.mask ||| mask }
    { s with posted := s.posted.map fun z => if mine z then y else z }
  | none =>
    let here := s.posted.filter fun x => x.core == c.core
    let s1 :=
      if here.length < 1024 then s
      else match here.head? with
        | some o =>
          ({ drainLine s o with posted := s.posted.filter fun z => z != o }).bumpReg (partReg .prtm o.part 0x270) 1
        | none => s
    { s1 with posted := s1.posted ++
        [{ core := c.core, ctx := c.handle, part := c.part, line := line, data := mergeBytes [] data mask, mask := mask,
           nc := pl.nc, key := pl.key / 64 * 64 }] }

/-- Read bytes of one line as a sequencer reads them: its own posted bytes, then its cluster's copy, then home (R312).
The error is the key of poisoned data. -/
def coherentRead (s : State) (c : Ctx) (pl : Place) (n : Nat) : State × Except Nat (List Byte) :=
  let cl := clusterOf c.core
  let line := pl.ia / 64 * 64
  let off := pl.ia % 64
  let need : BitVec 64 := BitVec.ofNat 64 ((2 ^ n - 1) * 2 ^ off)
  let own := s.posted.find? fun x => x.ctx == c.handle && x.part == c.part && x.line == line
  let ownMask : BitVec 64 := match own with | some x => x.mask | none => 0
  let have' : BitVec 64 := match s.copyOf cl c.part line with | some x => x.valid | none => 0
  let s1 := if need &&& ~~~(ownMask ||| have') ≠ 0 then fetchLine s cl c.part pl (ctxReq s c.handle none)
    else match s.copyOf cl c.part line with
      | some x => if need &&& ~~~ownMask = 0 then s else cachePut s x
      | none => s
  let copy := s1.copyOf cl c.part line
  let valid : BitVec 64 := match copy with | some x => x.valid | none => 0
  let missing := need &&& ~~~(ownMask ||| valid)
  match (List.range 64).find? missing.getLsbD with
  | some j => (s1, .error (pl.key / 64 * 64 + j))
  | none =>
    (s1, .ok ((List.range n).map fun i =>
      let j := off + i
      if ownMask.getLsbD j then (match own with | some x => x.data[j]?.getD 0 | none => 0)
      else (match copy with | some x => x.data[j]?.getD 0 | none => 0)))

/-! ### Releases (R310, R314) -/

/-- The scopes of mod fields and phases (spec/05 R124): 0 cluster, 1 die, 2 partition, 3 package. A release at cluster
scope moves the sequencer's posted lines into the cluster cache; a wider one also brings every dirty coherent byte of
the cluster cache home. -/
def phaseRelease (s : State) (c : Ctx) (scope : Nat) : State :=
  let mine := s.posted.filter fun x => x.ctx == c.handle
  let s1 := mine.foldl drainLine { s with posted := s.posted.filter fun x => x.ctx != c.handle }
  if scope = 0 then s1
  else (s1.lines.filter fun x => x.cluster == clusterOf c.core && !x.nc && x.dirty != 0).foldl
    (fun t x => writeBack t x false) s1

/-- An acquire changes no state: every copy that a release made stale is already gone, and NC lines are left to
software (R313, R321). -/
def phaseAcquire (s : State) (_c : Ctx) (_scope : Nat) : State := s

/-- An engine write of cells of one line performs at home, and stale copies of the line are invalidated (R318, R324). -/
def engineCells (s : State) (writer part : Nat) (pl : Place) (cells : List Host.Cell) (bits : List Host.Cell := []) : State :=
  let s1 := homeWrite s writer cells bits
  if pl.vault ∨ pl.nc then s1 else dirHomeWrite s1 part (pl.ia / 64 * 64)

/-- An engine write or an atomic's write of bytes of one line. -/
def engineWrite (s : State) (writer part : Nat) (pl : Place) (bs : List Byte) : State :=
  engineCells s writer part pl (cellsAt pl.key bs)

end Sys2Proof.Machine
end

