-- ==== Sys2Proof/Machine/Lehr.lean ====
section
/-!
DEFINITION. Barrier slots (spec/05 R122), task deques, and the Lehr: speculation slots, commit, abort and discard of
ordered tasks (spec/05 R113-R118, spec/17).
-/

namespace Sys2Proof.Machine

open Sys2Proof

/-! ### Barrier slots -/

/-- Change a gang of a grid. -/
def State.modGang (s : State) (k g : Nat) (f : Gang → Gang) : State :=
  match s.grid? k with
  | none => s
  | some gr =>
    match gr.gang? g with
    | none => s
    | some x => s.setGrid (gr.setGang (f x))

/-- A declared barrier slot of a gang. -/
def State.bar? (s : State) (k g b : Nat) : Option Barrier :=
  match s.grid? k with
  | none => none
  | some gr => match gr.gang? g with
    | none => none
    | some x => x.bars[b]?

/-- Change a barrier slot. -/
def State.modBar (s : State) (k g b : Nat) (f : Barrier → Barrier) : State :=
  s.modGang k g fun x => { x with bars := x.bars.modify b f }

/-- One arrival on a slot in barrier mode: at the target the episode completes and its waiters leave (R122). -/
def Barrier.arrive (x : Barrier) (waits : Bool) : Barrier :=
  if x.count + 1 ≥ x.target then { x with count := 0, episode := x.episode + 1, waiters := 0 }
  else { x with count := x.count + 1, waiters := x.waiters + (if waits then 1 else 0) }

/-- One arrival on a gang's slot. -/
def State.arrive (s : State) (k g b : Nat) : State := s.modBar k g b (·.arrive false)

/-- A wait for an episode is over. A barrier that is gone is passed: DEDUCED, log entry 46. -/
def State.barPassed (s : State) (k g : Nat) (w : BarWait) : Bool :=
  match s.bar? k g w.slot with
  | some x => decide (x.episode ≠ w.episode)
  | none => true

/-- Count a join-mode slot up. -/
def State.countUp (s : State) (k g b : Nat) : State := s.modBar k g b fun x => { x with count := x.count + 1 }

/-- Count a join-mode slot down. -/
def State.countDown (s : State) (k g b : Nat) : State := s.modBar k g b fun x => { x with count := x.count - 1 }

/-! ### Parent identity (R352) -/

/-- The parent identity that a forking context gives. -/
def parentId (c : Ctx) : Word :=
  match c.innerTask with
  | some t =>
    if t.ord then BitVec.ofNat 64 (2 ^ 63 + c.gang * 2 ^ 32 + t.seq.toNat) else BitVec.ofNat 64 (c.gang * 2 ^ 32)
  | none => BitVec.ofNat 64 (c.gang * 2 ^ 32)

/-- The gang in a parent identity. -/
def parentGang (w : Word) : Nat := (w.extractLsb' 32 16).toNat

/-! ### Slots -/

/-- A speculation slot. -/
def State.slot (s : State) (core ix : Nat) : SpecSlot := ((s.core core).slots[ix]?).getD {}

/-- Change a speculation slot. -/
def State.modSlot (s : State) (core ix : Nat) (f : SpecSlot → SpecSlot) : State :=
  let k := s.core core
  s.setCore core { k with slots := k.slots.modify ix f }

/-- Every slot that holds a task, with its core and number. -/
def State.heldSlots (s : State) : List (Nat × Nat × SpecSlot) :=
  s.cores.flatMap fun k => (k.2.slots.mapIdx fun i x => (k.1, i, x)).filter fun y => y.2.2.state != .free

/-- The task of a slot is this one. -/
def SpecSlot.isTask (x : SpecSlot) (gkey dom seq : Nat) : Bool :=
  match x.task with
  | some e => x.state != .free && e.gkey == gkey && e.dom == dom && e.seq == seq
  | none => false

/-- The commands of a slot's task are no longer counted for it. -/
def detachCmds (s : State) (core ix : Nat) : State :=
  { s with cmds := s.cmds.map fun c => if c.core = core ∧ c.task = some ix then { c with task := none } else c }

/-- The running sequencer of an aborted or discarded execution is to be redirected (R369). -/
def markRedirect (s : State) (x : SpecSlot) : State :=
  if x.state = .running then
    s.modCtx x.ctx fun c => { c with tasks := c.tasks.map fun t => if t.exec = x.exec then { t with gone := true } else t }
  else s

/-- The innermost running task has been aborted or discarded. -/
def Ctx.redirecting (c : Ctx) : Bool := match c.tasks.head? with | some t => t.gone | none => false

/-- The domain record of a partition. -/
def State.dom? (s : State) (part dom : Nat) : Option Domain := s.domains.find? fun d => d.part == part && d.dom == dom

/-- Change a domain record. -/
def State.modDom (s : State) (part dom : Nat) (f : Domain → Domain) : State :=
  { s with domains := s.domains.map fun d => if d.part = part ∧ d.dom = dom then f d else d }

/-- A domain is bound as ordered to a grid (R353). -/
def State.orderedFor (s : State) (part dom gkey : Nat) : Bool :=
  match s.dom? part dom with
  | some d => d.bound && d.ordered && d.gkey == gkey
  | none => false

/-- The partition of a grid. -/
def State.gridPart (s : State) (gkey : Nat) : Nat := match s.grid? gkey with | some g => g.part | none => 0

/-! ### Discard (R370) -/

/-- The counts of a task that is discarded (R370, R373). -/
def countDiscard (s : State) (e : DequeEntry) : State :=
  let s1 := s.countDown e.gkey (parentGang e.parent) e.jslot
  if e.ord then s1.modDom (s.gridPart e.gkey) e.dom fun d => { d with discards := d.discards + 1 } else s1

/-- Empty a slot. -/
def freeSlot (s : State) (core ix : Nat) : State := detachCmds (s.modSlot core ix fun _ => {}) core ix

/-- Discard every queued entry and every slot's task that satisfies `p`. -/
def discardWhere (s : State) (p : DequeEntry → Bool) : State :=
  let queued := s.cores.flatMap fun k => k.2.deque.filter p
  let inSlots := s.heldSlots.filter fun y => match y.2.2.task with | some e => p e | none => false
  let s1 := { s with cores := s.cores.map fun k => (k.1, { k.2 with deque := k.2.deque.filter fun e => !p e }) }
  let s2 := inSlots.foldl (fun t y => freeSlot (markRedirect t y.2.2) y.1 y.2.1) s1
  let gone := queued ++ inSlots.filterMap fun y => y.2.2.task
  gone.foldl countDiscard s2

/-- The free tasks that sequencers run and that descend from an execution are discarded: each is counted down, and its
sequencer is to be redirected (R370). One that has taken another task since is redirected once that task is done: DEDUCED,
log entry 43. -/
def discardRunning (s : State) (exec : Nat) : State :=
  let hit (t : RunTask) : Bool := !t.ord && !t.gone && t.line.contains exec
  let out := s.ctxs.flatMap fun c => (c.tasks.filter hit).map fun t => (c.gkey, t)
  let s1 : State := { s with ctxs := s.ctxs.map fun c => { c with
    tasks := c.tasks.map fun t => if hit t then { t with gone := true } else t } }
  out.foldl (fun u y => u.countDown y.1 (parentGang y.2.parent) y.2.jslot) s1

/-- Discard the children of an execution of a task, and theirs (R369). -/
def discardKids (s : State) (exec : Nat) : State :=
  discardRunning (discardWhere s fun e => e.line.contains exec) exec

/-! ### Abort (R369) -/

/-- Abort the task of a slot: it stays there, READY. -/
def abortSlot (s : State) (core ix : Nat) (rerun conflict : Bool) : State :=
  let x := s.slot core ix
  match x.task with
  | none => s
  | some e =>
    let s1 := discardKids s x.exec
    let s2 := markRedirect s1 x
    let s3 := s2.modSlot core ix fun y =>
      { y with state := .ready, reads := [], writes := [], homes := [], wlines := [], deferred := none, rerun := rerun,
               exec := 0 }
    (detachCmds s3 core ix).modDom (s.gridPart e.gkey) e.dom fun d =>
      if conflict then { d with conflicts := d.conflicts + 1 } else { d with others := d.others + 1 }

/-- The slot of a domain's frontier task, when a slot holds it. -/
def State.frontierSlot (s : State) (part dom : Nat) : Option (Nat × Nat × SpecSlot) :=
  match s.frontierTask part dom, s.dom? part dom with
  | some t, some d => s.heldSlots.find? fun y =>
      match y.2.2.task with
      | some e => e.ord && e.gkey == d.gkey && e.dom == dom && e.ts.toNat == t.1 && e.seq == t.2
      | none => false
  | _, _ => none

/-- A frontier task with a recorded fault runs again (R371). -/
def settleDomain (s : State) (part dom : Nat) : State :=
  match s.frontierSlot part dom with
  | some (core, ix, x) =>
    if x.deferred.isSome ∧ (x.state = .running ∨ x.state = .finished) then abortSlot s core ix true false else s
  | none => s

/-- The same for every bound domain. -/
def settleDomains (s : State) : State :=
  (s.domains.filter fun d => d.bound).foldl (fun t d => settleDomain t d.part d.dom) s

/-- An abort discards tasks, which may bring other tasks to their frontiers: every such task is settled. -/
def settleAll (s : State) : State := (List.range s.domains.length).foldl (fun t _ => settleDomains t) s

/-! ### What an ordered task is -/

/-- A task is the frontier of its domain. -/
def State.isFrontier (s : State) (part : Nat) (e : DequeEntry) : Bool :=
  e.ord && s.frontierTask part e.dom == some (e.ts.toNat, e.seq)

/-- A task is non-speculative: it is the frontier, or has been (R357). -/
def State.nonSpec (s : State) (part : Nat) (e : DequeEntry) : Bool := e.sure || s.isFrontier part e

/-- The innermost running task is ordered and speculative (R357). A task whose abort waits for its sequencer's next boundary
counts as speculative. -/
def State.isSpec (s : State) (c : Ctx) : Bool :=
  match c.tasks.head? with
  | some t =>
    t.ord && (t.gone || !((match (s.slot c.core t.slotIx).task with | some e => e.sure && e.seq == t.seq.toNat | none => false) ||
      s.frontierTask c.part t.dom == some (t.ts.toNat, t.seq.toNat)))
  | none => false

/-- The innermost running task is ordered. -/
def Ctx.inOrdered (c : Ctx) : Bool := match c.tasks.head? with | some t => t.ord | none => false

/-- The slot of the innermost running task: its number and contents, while the context still runs it. -/
def State.mySlot (s : State) (c : Ctx) : Option (Nat × SpecSlot) :=
  match c.tasks.head? with
  | some t =>
    let x := s.slot c.core t.slotIx
    if t.ord ∧ !t.gone ∧ x.state = .running ∧ x.ctx = c.handle then some (t.slotIx, x) else none
  | none => none

/-- A fault recorded for a speculative task, the first one only (R177, R371). -/
def deferFault (s : State) (c : Ctx) (cause : Nat) : State :=
  match s.mySlot c with
  | some (ix, _) => s.modSlot c.core ix fun x => { x with deferred := some (x.deferred.getD cause) }
  | none => s

/-- The context re-runs a task whose first run deferred a fault (R371). -/
def State.reruns (s : State) (c : Ctx) : Bool := match s.mySlot c with | some (_, x) => x.rerun | none => false

/-! ### Commit (R367) -/

/-- Lines of a write buffer. -/
def bufLines (cells : List Host.Cell) : List Nat := (cells.map fun c => c.1 / 64 * 64).eraseDups

/-- Where a buffered line goes: its home key, and whether coherence covers it, after a walk as any other (spec/15 R333-R335). -/
def bufHome (s : State) (part die line : Nat) (x : SpecSlot) : State × Nat × Bool :=
  if line ≥ 2 ^ 60 then (s, vaultBase + (line - 2 ^ 60), false)
  else
    let old := ((x.homes.find? fun h => h.1 == line).map (·.2)).getD (0, true)
    match lookupLeaf s part die line with
    | (t, .leaf lv e0 _) =>
      let e := match swapEntry s part line e0 with | .ok e => e | .error _ => e0
      (t, homeKey lv line e, !pteNc e)
    | (t, _) => (t, old.1, !old.2)

/-- The clean bytes of a mask leave every cached copy of an NC line, so that a task's later read meets them at home (R364). -/
def dropClean (s : State) (part line : Nat) (mask : BitVec 64) : State :=
  { s with lines := s.lines.map fun y =>
      if y.part = part ∧ y.line = line ∧ y.nc then { y with valid := y.valid &&& ~~~mask ||| y.dirty } else y }

/-- Publish one line of a write buffer at partition scope: the bytes reach home and every stale copy goes. -/
def publishLine (s : State) (part core : Nat) (x : SpecSlot) (line : Nat) : State :=
  let (s0, h) := bufHome s part (core / 128) line x
  let cells := (x.writes.filter fun c => c.1 / 64 * 64 == line).map fun c => (h.1 + c.1 % 64, c.2)
  let s1 := homeWrite (mscTouch s0 part (ctxReq s0 x.ctx none) .write h.1) x.ctx cells
  if h.2 then dirHomeWrite s1 part line
  else dropClean s1 part line (laneMask fun j => x.writes.any fun c => c.1 == line + j)

/-- Abort every other task of a domain whose read set meets some lines; a task that has been the frontier keeps none (R365). -/
def abortReaders (s : State) (gkey dom seq : Nat) (lines : List Nat) : State :=
  s.heldSlots.foldl (fun t y =>
    let z := t.slot y.1 y.2.1
    match z.task with
    | some e =>
      if e.gkey = gkey ∧ e.dom = dom ∧ e.seq ≠ seq ∧ !e.sure ∧ z.reads.any lines.contains then abortSlot t y.1 y.2.1 false true
      else t
    | none => t) s

/-- A finished task's far commands have all completed (R359). -/
def State.slotQuiet (s : State) (core ix : Nat) : Bool := !s.cmds.any fun c => c.core == core && c.task == some ix

/-- Commit the frontier task in a slot. -/
def commitSlot (s : State) (part dom core ix : Nat) (x : SpecSlot) (e : DequeEntry) : State :=
  let lines := bufLines x.writes
  let s1 := abortReaders s e.gkey dom e.seq lines
  let s2 := lines.foldl (fun t l => publishLine t part core x l) s1
  let s3 := s2.countDown e.gkey (parentGang e.parent) e.jslot
  let s4 := (freeSlot s3 core ix).modDom part dom fun d => { d with commits := d.commits + 1 }
  settleAll s4

/-! ### Fork (R114, R355, R356) -/

/-- The creation sequence number that a fork or split in a domain takes: 1 when the domain is empty (R355). -/
def State.nextSeqOf (s : State) (part dom : Nat) : Nat :=
  if s.uncommitted part dom = [] then 1 else match s.dom? part dom with | some d => d.nextSeq | none => 1

/-- The frontier task of a domain stays non-speculative though a push goes before it (R357). -/
def markSure (s : State) (part dom : Nat) : State :=
  match s.frontierTask part dom with
  | none => s
  | some t =>
    let mark (e : DequeEntry) : DequeEntry :=
      if e.ord ∧ e.dom = dom ∧ s.gridPart e.gkey = part ∧ (e.ts.toNat, e.seq) = t then { e with sure := true } else e
    { s with cores := s.cores.map fun k => (k.1, { k.2 with
        deque := k.2.deque.map mark
        slots := k.2.slots.map fun x => if x.state = .free then x else { x with task := x.task.map mark } }) }

/-- Push an entry at the head of a core's deque. -/
def pushDeque (s : State) (core : Nat) (e : DequeEntry) : State :=
  let k := s.core core
  s.setCore core { k with deque := e :: k.deque }

/-- A task descriptor's words (R113). -/
structure TaskDesc where
  w0 : Word
  argp : Word
  w2 : Word
  ts : Word
  deriving DecidableEq, Repr

/-- Push the task of a descriptor for a context; `none` when it is refused. A child that a task forks after its own
abort is discarded with it at once. DEDUCED, log entry 43. -/
def forkTask (s : State) (c : Ctx) (range : Bool) (d : TaskDesc) : Option State :=
  let dom := (d.w0.extractLsb' 32 12).toNat
  let jslot := (d.w0.extractLsb' 44 9).toNat
  let lo := (d.w2.extractLsb' 0 32).toNat
  let hi := (d.w2.extractLsb' 32 32).toNat
  let ord := s.orderedFor c.part dom c.gkey
  let seq := s.nextSeqOf c.part dom
  if range ∧ lo ≥ hi then none
  else if (s.core c.core).deque.length ≥ 64 then none
  else if ord ∧ seq ≥ 2 ^ 32 then none
  else if c.redirecting then some s
  else
    let ts : Word := match c.innerTask with
      | some t => if ord ∧ t.ord ∧ d.ts.toNat < t.ts.toNat then t.ts else d.ts
      | none => d.ts
    let e : DequeEntry :=
      { gkey := c.gkey, entry := BitVec.ofNat 32 (d.w0.toNat % 2 ^ 32 / 4 * 4), esz := (d.w0.extractLsb' 53 4).toNat,
        jslot := jslot, dom := dom, argp := d.argp, lo := lo, hi := hi, range := range, ts := ts,
        parent := parentId c, seq := if ord then seq else 0, ord := ord,
        line := match c.innerTask with | some t => t.exec :: t.line | none => [] }
    let s1 := (pushDeque (if ord then markSure s c.part dom else s) c.core e).countUp c.gkey c.gang jslot
    some (if ord then s1.modDom c.part dom fun x => { x with nextSeq := seq + 1 } else s1)

/-! ### Take (R115, R360) -/

/-- Insert a task's delivery into a context (R115): the loop entry of a range task, the running-task record, and the
pending transfer to its entry, with its two shadow bundles (R82). -/
def deliver (s : State) (c : Ctx) (takeReg ix : Nat) (e : DequeEntry) : State :=
  let t : RunTask :=
    { ts := e.ts, argp := e.argp, seq := BitVec.ofNat 32 e.seq, dom := e.dom, jslot := e.jslot, depth := c.loops.length,
      range := e.range, parent := e.parent, ord := e.ord, slotIx := ix, takePc := c.pc,
      takeReg := takeReg, exec := s.nextExec, line := e.line }
  { s with nextExec := s.nextExec + 1 }.modCtx c.handle fun c =>
    { c with
      loops := if e.range then
          { count := BitVec.ofNat 32 (e.hi - e.lo), start := e.entry, index := 0 } :: c.loops else c.loops
      tasks := t :: c.tasks
      pend := true, target := e.entry, shl := 2 }

/-- The value that take delivers (R115). -/
def takeValue (e : DequeEntry) : Word :=
  if e.range then e.argp + BitVec.ofNat 64 (e.lo * 2 ^ e.esz) else e.argp

/-- Put an ordered task into a slot, RUNNING. -/
def occupy (s : State) (c : Ctx) (takeReg ix : Nat) (e : DequeEntry) (rerun : Bool) : State :=
  s.modSlot c.core ix fun _ =>
    { state := .running, task := some e, ctx := c.handle, takePc := c.pc, takeReg := takeReg, depth := c.loops.length,
      rerun := rerun, exec := s.nextExec }

/-- The READY task of a grid on a core that is first by (ts, seq), with its slot (R360 rule 2). -/
def readyTask (s : State) (core gkey : Nat) : Option (Nat × DequeEntry × Bool) :=
  let cand := ((s.core core).slots.mapIdx fun i x => (i, x)).filterMap fun y =>
    match y.2.task with
    | some e => if y.2.state = .ready ∧ e.gkey = gkey then some (y.1, e, y.2.rerun) else none
    | none => none
  match firstTask (cand.map fun y => (y.2.1.ts.toNat, y.2.1.seq)) with
  | none => none
  | some t => cand.find? fun y => (y.2.1.ts.toNat, y.2.1.seq) == t

/-- The first entry of a list that satisfies `p`, and the list without it. -/
def popFirst (p : DequeEntry → Bool) : List DequeEntry → Option (DequeEntry × List DequeEntry)
  | [] => none
  | e :: l => if p e then some (e, l) else (popFirst p l).map fun r => (r.1, e :: r.2)

/-- The entry that R115 selects, taken out of its deque, with the state that results: from the core's own deque, or by
a steal that splits a range of two or more iterations. The second component says that it was stolen. -/
def selectTask (s : State) (c : Ctx) : Option (DequeEntry × Bool × State) :=
  let mine (e : DequeEntry) : Bool := e.gkey == c.gkey
  let own := s.core c.core
  match popFirst mine own.deque with
  | some (e, rest) => some (e, false, s.setCore c.core { own with deque := rest })
  | none =>
    let cl := c.core / 8
    let gangCores := (s.ctxs.filter fun x => x.gkey == c.gkey && x.gang == c.gang).map (·.core)
    let order := ((List.range 7).map fun i => cl * 8 + (c.core + 1 + i) % 8).filter gangCores.contains
    match order.find? fun k => (s.core k).deque.any mine with
    | none => none
    | some v =>
      let vk := s.core v
      match popFirst mine vk.deque.reverse with
      | none => none
      | some (e, rest) =>
        let seq := s.nextSeqOf c.part e.dom
        if e.range ∧ e.hi - e.lo ≥ 2 ∧ !(e.ord && decide (seq ≥ 2 ^ 32)) then
          let mid := e.lo + (e.hi - e.lo) / 2
          let kept := { e with hi := mid }
          let half := { e with lo := mid, seq := if e.ord then seq else 0, sure := false }
          let n := vk.deque.reverse.findIdx mine
          let s1 := s.setCore v { vk with deque := (vk.deque.reverse.set n kept).reverse }
          let s2 := s1.countUp e.gkey (parentGang e.parent) e.jslot
          some (half, true, if e.ord then s2.modDom c.part e.dom fun d => { d with nextSeq := seq + 1 } else s2)
        else some (e, true, s.setCore v { vk with deque := rest.reverse })

/-- The slot of a core whose task is last by (ts, seq) among tasks that are not frontiers (R360 rule 4). -/
def lastSlot (s : State) (part core : Nat) : Option (Nat × DequeEntry) :=
  let cand := ((s.core core).slots.mapIdx fun i x => (i, x)).filterMap fun y =>
    match y.2.task with
    | some e => if y.2.state ≠ .free ∧ !s.nonSpec part e then some (y.1, e) else none
    | none => none
  cand.foldl (fun a y => match a with
    | none => some y
    | some b => if taskBefore (b.2.ts.toNat, b.2.seq) (y.2.ts.toNat, y.2.seq) then some y else some b) none

/-- TAKE's choice (R360): the delivered task with the state after its delivery, or `none`. -/
def takeTask (s : State) (c : Ctx) (takeReg : Nat) : Option (DequeEntry × State) :=
  if c.tasks.length ≥ 4 ∨ c.inOrdered then none
  else
    match readyTask s c.core c.gkey with
    | some (ix, e, rerun) =>
      some (e, deliver (occupy s c takeReg ix e rerun) c takeReg ix e)
    | none =>
      match selectTask s c with
      | none => none
      | some (e, _, s1) =>
        if !e.ord then some (e, deliver s1 c takeReg 0 e)
        else
          match (s1.core c.core).slots.findIdx? fun x => x.state == .free with
          | some ix => some (e, deliver (occupy s1 c takeReg ix e false) c takeReg ix e)
          | none =>
            if !s.isFrontier c.part e then none
            else match lastSlot s c.part c.core with
              | none => none
              | some (ix, old) =>
                let s2 := abortSlot s1 c.core ix false false
                let s3 := settleAll (pushDeque (freeSlot s2 c.core ix) c.core old)
                some (e, deliver (occupy s3 c takeReg ix e false) c takeReg ix e)

/-! ### Retire (R116) -/

/-- A task completes: a free one is counted down, an ordered one waits for its commit. A task that was aborted or
discarded meanwhile has no slot any more and nothing completes. -/
def completeTask (s : State) (c : Ctx) (t : RunTask) : State :=
  if t.gone then s
  else if t.ord then
    let x := s.slot c.core t.slotIx
    if x.state = .running ∧ x.ctx = c.handle then
      s.modSlot c.core t.slotIx fun y => { y with state := .finished }
    else s
  else s.countDown c.gkey (parentGang t.parent) t.jslot

end Sys2Proof.Machine
end

