-- ==== Sys2Proof/Machine/Levels.lean ====
section
/-!
DEFINITION. The Gaffer's sessions and their degradation levels (spec/19 R387, R390, R392, R395-R398), and when a session
job is complete (spec/21 R414).
-/

namespace Sys2Proof.Machine

open Sys2Proof

/-! ### Sessions -/

/-- A session of a partition. -/
def State.session? (s : State) (part i : Nat) : Option Session := s.sessions.find? fun x => x.part == part && x.index == i

/-- A session, or a free one. -/
def State.session (s : State) (part i : Nat) : Session := (s.session? part i).getD { part := part, index := i }

/-- Write a session. -/
def State.setSession (s : State) (x : Session) : State :=
  { s with sessions := putBy s.sessions (fun y => y.part == x.part && y.index == x.index) x }

/-- A register of a partition's Gaffer block. -/
def gafReg (part off : Nat) : RegAddr := partReg .gaf part off

/-- A field of a session word. -/
def Session.field (x : Session) (word lsb w : Nat) : Nat := ((x.words[word]?).getD 0).toNat / 2 ^ lsb % 2 ^ w

/-- Cores of a session's lane (R391). -/
def Session.width (x : Session) : Nat := 2 ^ x.field 0 16 2

/-- The first core of a lane, as a core number. -/
def Session.laneBase (x : Session) : Nat := x.laneCluster * 8 + x.laneCore

/-- A session holds its lane (ACTIVE, CLOSING or SUSPENDED). -/
def Session.holds (x : Session) : Bool := x.state != 0

/-- Two sessions have one lane; lanes are equal or disjoint (R391). -/
def Session.sameLane (x y : Session) : Bool :=
  x.part == y.part && y.holds && x.laneBase == y.laneBase && x.width == y.width

/-- Throttle events that a job may trigger. -/
def Session.th (x : Session) : Nat := x.field 0 48 4

/-! ### Keys (R387) -/

/-- The deadline of a grid for ordering: a launch without one is last. -/
def Grid.keyDeadline (g : Grid) : Nat := if g.deadline = 0 then 2 ^ 64 - 1 else g.deadline

/-- Rank of a class. -/
def GridKind.rank : GridKind → Nat
  | .action => 0
  | .reasoning => 1
  | .launch => 2

/-- Key order: deadline, release, class, submission number. -/
def Grid.before (a b : Grid) : Bool :=
  if a.keyDeadline ≠ b.keyDeadline then decide (a.keyDeadline < b.keyDeadline)
  else if a.release ≠ b.release then decide (a.release < b.release)
  else if a.kind.rank ≠ b.kind.rank then decide (a.kind.rank < b.kind.rank)
  else decide (a.sub < b.sub)

/-- A grid is a session job. -/
def Grid.isJob (g : Grid) : Bool := g.kind != .launch

/-- The session of a job. -/
def State.jobSession (s : State) (g : Grid) : Option Session := if g.isJob then s.session? g.part g.session else none

/-! ### Slack (R392, R395) -/

/-- S_L of a lane: its sessions' largest minimum slice, and GAF_BLOCK. -/
def laneS (s : State) (x : Session) : Nat :=
  ((s.sessions.filter x.sameLane).map (·.minSlice)).foldl max (s.reg (gafReg x.part 0x10)).toNat

/-- E of a stream with worst-case bound `c`. -/
def streamE (s : State) (x : Session) (c : Nat) : Nat :=
  c + laneS s x + 648 * x.th + (s.reg (gafReg x.part 0x18)).toNat

/-- Time during which a grid has been placed. -/
def State.ranNs (s : State) (g : Grid) : Nat := g.runNs + (match g.runFrom with | some t => s.now - t | none => 0)

/-- What a job still costs at an assumption, to session `me` (R395). -/
def jobRem (s : State) (me : Session) (k : Nat) (g : Grid) : Nat :=
  match s.jobSession g with
  | none => 0
  | some x =>
    let c := if g.kind = .reasoning then x.field 6 0 32
      else if k ≥ 2 ∧ x.index = me.index then x.field 4 32 32 else x.field 4 0 32
    streamE s x c - s.ranNs g

/-- A job still counts as pending or running. -/
def Grid.openJob (g : Grid) : Bool := g.isJob && (g.status == .ready || g.status == .pending) && !g.complete

/-- The most urgent of some grids. -/
def mostUrgent : List Grid → Option Grid
  | [] => none
  | g :: l => match mostUrgent l with
    | none => some g
    | some h => some (if h.before g then h else g)

/-- A session's most urgent pending action job. -/
def State.urgentAction (s : State) (x : Session) : Option Grid :=
  mostUrgent (s.grids.filter fun g => g.openJob && g.kind == .action && g.part == x.part && g.session == x.index)

/-- A session's slack at an assumption. -/
def slack (s : State) (x : Session) (k : Nat) : Int :=
  match s.urgentAction x with
  | none => 2 ^ 31 - 1
  | some j =>
    let counted := s.grids.filter fun g =>
      g.openJob && g.part == x.part && !(j.before g) && !(k ≥ 1 && g.kind == .reasoning) &&
      (match s.jobSession g with | some y => x.sameLane y && y.level != 3 | none => false)
    (j.deadline : Int) - (s.now + (counted.map (jobRem s x k)).sum : Nat)

/-- The assumption at which a level's slack is read. -/
def assumption (level : Nat) : Nat := min level 2

/-- Clamp to 32 signed bits (spec/05 R127). -/
def clampSlack (v : Int) : Int := max (-(2 ^ 31 - 1)) (min (2 ^ 31 - 1) v)

/-- The copies that lvlrd and emrd read (spec/05 R127). -/
def refreshCopies (s : State) (x : Session) : Session :=
  let v := clampSlack (slack s x (assumption x.level))
  { x with
    copyLevel := BitVec.ofNat 64 (x.level + (if v < 0 then 4 else 0) + (v % 2 ^ 32).toNat * 2 ^ 32)
    copyEmit := BitVec.ofNat 64 (x.emitted.toNat + x.late.toNat * 2 ^ 32 + x.lastLevel * 2 ^ 56
      + (if x.lastHold then 2 ^ 58 else 0)) }

/-- Refresh a session's copies. -/
def State.refresh (s : State) (part i : Nat) : State :=
  match s.session? part i with
  | some x => s.setSession (refreshCopies s x)
  | none => s

/-- A session enters a level: one other than its present one is a level change, which refreshes its copies (spec/05 R127). -/
def enterLevel (s : State) (x : Session) (l : Nat) : State :=
  if l = x.level then s.setSession x
  else (s.setSession { x with level := l, slacks := [] }).refresh x.part x.index

/-- LEVEL_EVALUATION (R396): at most one step; a force of the lapsed host (spec/22 R430), else one of op 3, gives the level. -/
def evalLevel (s : State) (part i : Nat) : State :=
  match s.session? part i with
  | none => s
  | some x =>
    let below := slack s x (assumption (x.level - 1))
    let hyst := s.reg (gafReg part 0x28)
    let n := max 1 (hyst.extractLsb' 32 8).toNat
    let seen := (below :: x.slacks).take n
    let x1 := { x with slacks := seen, missSince := false }
    if x.hostForced ∧ x.state ≠ 3 then enterLevel (s.setSession x1) x1 3
    else if x.forced then enterLevel (s.setSession x1) x1 x.forcedLevel
    else if x.missSince then enterLevel (s.setSession x1) x1 (min (x.level + 1) 3)
    else if x.level < 3 ∧ slack s x (assumption x.level) < 0 then enterLevel (s.setSession x1) x1 (x.level + 1)
    else if x.level > 0 ∧ seen.length ≥ n ∧ (seen.all fun v => decide (v ≥ (hyst.extractLsb' 0 32).toNat)) then
      enterLevel (s.setSession x1) x1 (x.level - 1)
    else s.setSession x1

/-! ### Completion of a job (spec/21 R414) -/

/-- A command is an emit. -/
def Cmd.isEmit (x : Cmd) : Bool := match x.instr with | .emit _ _ => true | _ => false

/-- The tokens of a context that are pending belong to emit commands. -/
def emitOnly (s : State) (c : Ctx) : Bool :=
  (List.range 32).all fun t =>
    !c.tokPend.getLsbD t || s.cmds.any fun x => x.ctx == c.handle && x.token == some t && x.isEmit

/-- Every gang of a grid has been placed, and every sequencer has issued retire with only emit tokens pending. -/
def jobDone (s : State) (g : Grid) : Bool :=
  decide (g.nextGang ≥ g.desc.gangs) &&
  (s.ctxs.all fun c => c.gkey != g.key || c.status == .ended || (c.status == .retired && emitOnly s c))

/-- A session job that stands for a waiting one in the order of keys; it takes the next submission number (R387). -/
def Job.asGrid (s : State) (j : Job) : Grid :=
  let x := s.session j.part j.session
  { key := 0, part := j.part, kind := if j.action then .action else .reasoning, status := .pending, sub := (s.part j.part).nextSub,
    desc := {}, hdr := {}, deadline := j.release + (if j.action then x.field 3 32 32 else x.field 5 32 32), release := j.release,
    seenAt := j.seenAt }

/-- No earlier token of a job's session waits for a release that is due (spec/20 R405). -/
def State.headJob (s : State) (j : Job) : Bool :=
  !s.jobs.any fun y => y.part == j.part && y.session == j.session && decide (y.id < j.id) && decide (y.release ≤ s.now)

/-- The instant, in ps, at which a release reaches the Gaffer. -/
def Grid.eventAt (g : Grid) : Nat := max (g.release * 1000) g.seenAt

/-- The instant at which a job's deadline miss reaches it. -/
def Grid.missAt (g : Grid) : Nat := max (g.deadline * 1000) g.eventAt

/-- A job's absolute deadline has come and it has not completed (R398); an action job that a session at L3 keeps from its cores is
none (R397). DEDUCED, log entry 48. -/
def missDue (s : State) (g : Grid) : Bool :=
  let atL3 := g.kind == .action && g.nextGang == 0 && (s.session g.part g.session).level == 3
  g.openJob && g.status == .ready && !g.missed && !atL3 && g.cause.isNone && decide (g.deadline ≤ s.now)

/-- The releases and deadline misses of a partition that are due, each with its instant and the keys of what it is of (R387). -/
def gafEvents (s : State) (part : Nat) : List (Nat × Grid) :=
  ((s.jobs.filter fun j => j.part == part && s.headJob j && decide (j.release ≤ s.now)).map fun j =>
    ((j.asGrid s).eventAt, j.asGrid s)) ++
  ((s.grids.filter fun h => h.part == part && h.kind == .launch && h.status == .pending && decide (h.release ≤ s.now)).map fun h =>
    (h.eventAt, h)) ++
  ((s.grids.filter fun h => h.part == part && missDue s h).map fun h => (h.missAt, h))

/-- An event that has reached the Gaffer at an instant goes before another of that instant, of a grid, by its key (R387). -/
def otherFirst (s : State) (g : Grid) (at' : Nat) : Bool := (gafEvents s g.part).any fun e => e.1 == at' && e.2.before g

/-- A session job that has become complete is counted so, and an action job's completion evaluates its session's level (R396,
R414), after the events of this instant that go before it (R387). -/
def noteComplete (s : State) (gkey : Nat) : State :=
  match s.grid? gkey with
  | none => s
  | some g =>
    if g.openJob ∧ g.status = .ready ∧ g.cause = none ∧ jobDone s g ∧ !otherFirst s g s.nowPs then
      let s1 := s.setGrid { g with complete := true }
      if g.kind = .action then evalLevel s1 g.part g.session else s1
    else s

/-- The completions of a partition's jobs that another event of their instant went before are taken (R387). -/
def noteDone (s : State) (part : Nat) : State :=
  ((s.grids.filter fun g => g.part == part && g.openJob).map (·.key)).foldl noteComplete s

end Sys2Proof.Machine
end

