-- ==== Sys2Proof/Machine/Island.lean ====
section
/-!
DEFINITION. Islands: operating points, requests, the three phases of a change, thermal throttling, and the management
registers as a sequencer reaches them (spec/24).
-/

namespace Sys2Proof.Machine

open Sys2Proof

/-- The least voltage of a frequency, in 10 mV (R443). -/
def vmin (f50 : Nat) : Nat := if f50 ≤ 54 then 55 + (5 * (f50 - 24) + 5) / 6 else 80 + (5 * (f50 - 54) + 2) / 3

/-- A sequencer on a core has an outstanding yield request (R445, R447). -/
def State.yieldOutstanding (s : State) (core : Nat) : Bool :=
  s.ctxs.any fun c => c.core == core && c.yieldReq && (c.status == .ready || c.status == .yielding)

/-- The code of a request to an island, in the order of R445. -/
def requestCode (s : State) (i : Nat) (f v : Nat) : Nat :=
  let x := s.island i
  if x.stage ≠ 0 ∨ (f ≠ x.f50 ∧ s.yieldOutstanding i) then 1
  else if f < 24 ∨ f > 60 ∨ v > 90 then 2
  else if v < 55 ∨ v < vmin f then 3
  else if f > x.f50 ∧ (s.islandTemp i ≥ x.tHi ∨ x.throttled) then 4
  else 0

/-- The first phase of a change from an island's present point (R446). A change to the present point has none, and its busy bit
clears by the next event of the island, at the same instant: DESIGN CHOICE, log entry 42. -/
def firstStage (x : Island) (f v : Nat) : Nat := if v > x.v10 then 1 else if f ≠ x.f50 then 2 else 3

/-- The time in ps that a phase takes to its next event: a voltage step, or the clock's stop (R446). -/
def phaseTime (stage : Nat) : Nat := if stage = 2 then 400000 else if stage = 0 then 0 else 100000

/-- A write of DVF_REQ (R445). -/
def requestPoint (s : State) (i : Nat) (w : Word) : State :=
  let f := (w.extractLsb' 0 6).toNat
  let v := (w.extractLsb' 8 7).toNat
  let x := s.island i
  let code := requestCode s i f v
  if code ≠ 0 then s.setIsland i { x with result := 1, code := code }
  else s.setIsland i { x with req := BitVec.ofNat 64 (v * 256 + f), toF := f, toV := v, stage := firstStage x f v, forced := false,
                              nextAt := if f = x.f50 ∧ v = x.v10 then s.nowPs else s.nowPs + phaseTime (firstStage x f v),
                              result := 0, code := 0 }

/-- A write of DVF_THERM (R444). -/
def setThigh (s : State) (i : Nat) (v : Word) : State := s.setIsland i { s.island i with tHi := min (v.toNat % 256) 105 }

/-- A write of an island's register, by its MMIO offset. -/
def islandWrite (s : State) (i off : Nat) (v : Word) : State := if off = 0x10 then requestPoint s i v else setThigh s i v

/-- A write of an island's register over MMIO, noted for the rest of its instant. -/
def busWrite (s : State) (i off : Nat) (v : Word) : State :=
  let t := islandWrite s i off v
  { t with dvfLast := (s.dvfLast.filter fun d => d.since == s.nowPs) ++ [⟨i, s.nowPs, off, v, s.island i⟩] }

/-- A sequencer's write of an island's register: it goes before the MMIO writes that the island has taken at the same instant
(R445). -/
def seqWrite (s : State) (i off : Nat) (v : Word) : State :=
  let late := s.dvfLast.filter fun d => d.island == i && d.since == s.nowPs
  match late with
  | [] => islandWrite s i off v
  | d :: _ =>
    let t := islandWrite ({ s with dvfLast := s.dvfLast.filter fun d => !late.contains d }.setIsland i d.before) i off v
    late.foldl (fun t d => busWrite t i d.off d.value) t

/-- DVF_REQUEST (R445), on any path. DEDUCED, log entry 42. -/
def execDvfRequest (island : Nat) (value : Word) (s : State) : Host.Outcome State Fault Refusal :=
  if island < 512 then .next (s.whenUp (requestPoint s island value)) else .refused (.notEnabled "DVF_REQUEST")

/-- A phase begins when the one before it ends. -/
def Island.goOn (x : Island) (stage : Nat) : Island := { x with stage := stage, nextAt := x.nextAt + phaseTime stage }

/-- One step of a voltage change (R446). -/
def stepVoltage (x : Island) : Island :=
  if x.stage = 1 then
    let v := x.v10 + 1
    { x with v10 := v }.goOn (if v < x.toV then 1 else if x.toF ≠ x.f50 then 2 else 0)
  else
    let v := if x.toV < x.v10 then x.v10 - 1 else x.v10
    { x with v10 := v }.goOn (if v > x.toV then 3 else 0)

/-- VOLTAGE_STEP (R446). -/
def execVoltageStep (island : Nat) (s : State) : Host.Outcome State Fault Refusal :=
  let x := s.island island
  if (x.stage = 1 ∨ x.stage = 3) ∧ x.nextAt ≤ s.nowPs then .next (s.setIsland island (stepVoltage x)) else .refused (.notEnabled "VOLTAGE_STEP")

/-- CLOCK_RESTART (R446): the clock runs again at the new frequency. -/
def execClockRestart (island : Nat) (s : State) : Host.Outcome State Fault Refusal :=
  let x := s.island island
  if x.stage = 2 ∧ x.nextAt ≤ s.nowPs then
    .next (s.setIsland island ({ x with f50 := x.toF }.goOn (if x.toV < x.v10 then 3 else 0)))
  else .refused (.notEnabled "CLOCK_RESTART")

/-- THERMAL_THROTTLE (R448): at 110 degrees the island goes to (24, 55) by phases 2 and 3; a clock that stands stopped
stays so until it restarts at the floor, 400 ns after the throttle began. A throttle's own move goes on. DEDUCED, log entry 42. -/
def execThermalThrottle (island : Nat) (s : State) : Host.Outcome State Fault Refusal :=
  if island < 512 then
    let x := s.island island
    let stage := if x.stage = 2 ∨ x.f50 ≠ 24 then 2 else if x.v10 > 55 then 3 else 0
    if x.stage ≠ 0 ∧ x.forced then .next s
    else .next (s.setIsland island
      { x with throttled := true, toF := 24, toV := 55, stage := stage, forced := true, nextAt := s.nowPs + phaseTime stage,
               result := if x.stage ≠ 0 then 1 else x.result, code := if x.stage ≠ 0 then 4 else x.code })
  else .refused (.notEnabled "THERMAL_THROTTLE")

/-- THROTTLE_CLEAR (R448): the temperature has fallen below the island's T_hi. -/
def execThrottleClear (island celsius : Nat) (s : State) : Host.Outcome State Fault Refusal :=
  let x := s.island island
  if x.throttled ∧ celsius < x.tHi then .next (s.setIsland island { x with throttled := false })
  else .refused (.notEnabled "THROTTLE_CLEAR")

/-- SWR of a number from 0x40 to 0x7F by a management sequencer (R444). -/
def mgmtWrite (s : State) (c : Ctx) (n : Nat) (v : Word) : State :=
  let i := c.dvfSel.toNat % 512
  if n = 0x40 then s.modCtx c.handle fun c => { c with dvfSel := BitVec.ofNat 64 (v.toNat % 512) }
  else if !partHas c.part (i / 8) then s
  else if n = 0x41 then seqWrite s i 0x10 v
  else if n = 0x44 then seqWrite s i 0x28 v
  else s

/-- The management write that a sequencer has in flight is performed: when its next bundle issues (spec/25 R452), or when it
stops (spec/01 R41). -/
def landMgmt (s : State) (h : Nat) : State :=
  let c := { s.ctx h with mgmt := none }
  match (s.ctx h).mgmt with
  | some (n, v) => mgmtWrite (s.setCtx c) c n v
  | none => s

end Sys2Proof.Machine
end

