-- ==== Sys2Proof/Machine/Stops.lean ====
section
/-!
DEFINITION. Trace records (spec/23 R438), completion of tokens and commands (spec/01 R32, spec/09 R205, R206), fatal
context errors and the end of a context (spec/11 R242, R253), user-level traps with their fatal cases (spec/05 R120),
and how one slot's outcome settles when its word executes by itself.
-/

namespace Sys2Proof.Machine

open Sys2Proof

/-! ### Trace records -/

/-- A register of a cluster's debug, trace and reduction block. -/
def redReg (cluster off : Nat) : RegAddr := ⟨.red, cluster, off⟩

/-- A cluster's block. -/
def State.red (s : State) (cluster : Nat) : RedBlock := findD s.reds (fun x => x.cluster == cluster) { cluster := cluster }

/-- Write a cluster's block. -/
def State.setRed (s : State) (r : RedBlock) : State := { s with reds := putBy s.reds (fun x => x.cluster == r.cluster) r }

/-- Write one 16-byte record into a cluster's trace ring, or lose it. -/
def tracePut (s : State) (cl : Nat) (rec : List Byte) : Option State :=
  ringPush s (redReg cl 0x20) (redReg cl 0x28) (redReg cl 0x30) (redReg cl 0x38) true fun _ => rec

/-- A trace record's bytes. -/
def traceBytes (s : State) (core kind slot addr info : Nat) : List Byte :=
  toBytesLE 8 (s.now % 2 ^ 40 + kind % 256 * 2 ^ 40 + core % 8 * 2 ^ 48 + slot % 16 * 2 ^ 51) ++
    toBytesLE 4 addr ++ toBytesLE 4 info

/-- Count one lost record (RED_TR_CTL bits 47:32, saturating). -/
def traceLost (s : State) (cl : Nat) : State :=
  let ctl := (s.reg (redReg cl 0x28)).toNat
  let n := min (ctl / 2 ^ 32 % 2 ^ 16 + 1) 0xFFFF
  let r := s.red cl
  (s.setReg (redReg cl 0x28) (BitVec.ofNat 64 (ctl % 2 ^ 32 + n * 2 ^ 32))).setRed { r with lostTrace := r.lostTrace + 1 }

/-- A core writes a trace record while tracing is on; after a loss, a loss marker comes first (R438). -/
def traceRec (s : State) (core kind slot addr info : Nat) : State :=
  let cl := clusterOf core
  if !(s.reg (redReg cl 0)).getLsbD 1 then s
  else
    let r := s.red cl
    let s0 := if r.lostTrace = 0 then some s
      else (tracePut s cl (traceBytes s core 10 0 0 r.lostTrace)).map fun t => t.setRed { r with lostTrace := 0 }
    match s0 with
    | none => traceLost s cl
    | some s1 => match tracePut s1 cl (traceBytes s core kind slot addr info) with
      | some s2 => s2
      | none => traceLost s1 cl

/-- The context stops issuing on its core. -/
def traceStop (s : State) (c : Ctx) : State := traceRec s c.core 7 15 c.pc.toNat c.handle

/-! ### Tokens and commands -/

/-- A token completes: its value is written and its pending bit clears in one step (R32); `err` marks a completion of an
E command with an ecode other than OK. -/
def completeToken (s : State) (h tok : Nat) (v : Word) (err : Bool) : State :=
  s.modCtx h fun c =>
    { c with com := c.com.setIfInBounds tok v, tokPend := c.tokPend &&& ~~~(1#32 <<< tok),
             tokErr := if err then c.tokErr ||| (1#32 <<< tok) else c.tokErr &&& ~~~(1#32 <<< tok) }

/-- Name a register as the token of a command (R32). -/
def setPending (s : State) (h tok : Nat) : State :=
  s.modCtx h fun c => { c with tokPend := c.tokPend ||| (1#32 <<< tok) }

/-- A completion value of an E command (R206). -/
def ecv (ecode detail count : Nat) : Word :=
  BitVec.ofNat 64 (ecode % 256 * 2 ^ 56 + detail % 256 * 2 ^ 48 + count % 2 ^ 48)

def ecOk : Nat := 0
def ecDep : Nat := 1
def ecCancelled : Nat := 2
def ecRefused : Nat := 3
def ecLate : Nat := 4
def ecMismatch : Nat := 5
def ecNoRoutine : Nat := 6
def ecHeld : Nat := 7

/-- A command is an E command (its completion carries an ecode, R205). -/
def Cmd.isE (c : Cmd) : Bool := match c.queue with | .off _ => false | _ => true

/-- A command leaves its queue and its token completes; commands that waited for it learn whether it ended in error
(R205), and commands that follow it come one nearer (R231). Its bytes are in place, and loads see them from now on (R207). A
session job may thereby be complete (spec/21 R414). -/
def finishCmd (s : State) (c : Cmd) (v : Word) : State :=
  let err := c.isE && decide ((v.extractLsb' 56 8).toNat ≠ 0)
  let s1 := match c.token with
    | some t => completeToken s c.ctx t v err
    | none => s
  noteComplete { s1 with
    loose := s1.loose.filter fun l => l.cid != some c.cid
    cmds := (s1.cmds.filter fun x => x.cid != c.cid).map fun x =>
      { x with after := x.after.filter (· ≠ c.cid),
               waitCid := if x.waitCid = some c.cid then none else x.waitCid,
               dep := x.dep || (x.waitCid == some c.cid && err) } } c.gkey

/-- The token value of a command that ends in a fatal fate (R462). -/
def failValue (c : Cmd) (detail count : Nat) : Word := if c.isE then ecv ecRefused detail count else 0

/-! ### Fatal context errors (R253) -/

/-- The record of a fatal error of an operation whose bundle has committed (R242). -/
def asyncRec (c : Ctx) (cause : Nat) (pc : PC) (slot rep : Nat) (spec : Bool) (info : Word) : TrapRec where
  pc := pc
  cause := cause
  slot := slot
  done := 0
  rep := rep
  shl := 0
  pend := false
  spec := spec
  sev := 1
  ctx := c.handle
  async := true
  core := c.core
  res := c.res
  target := 0
  info := info

/-- Withdraw the commands that wait on faults, among some: their tokens never complete, no command waits for them any more,
and an entry that loses every waiter stays unresolved (spec/15 R339, spec/16 R349, spec/09 R462). -/
def withdraw (s : State) (among : Cmd → Bool) : State :=
  let out := s.cmds.filter fun x => among x && x.fault.isSome
  let gone (cid : Nat) : Bool := out.any fun x => x.cid == cid
  { s with
    ctxs := s.ctxs.map fun c => { c with
      tokPend := (out.filter fun x => x.ctx == c.handle).foldl
        (fun m x => m &&& ~~~(1#32 <<< (x.token.getD 32))) c.tokPend }
    faults := s.faults.map fun e => { e with waiters := e.waiters.filter fun cid => !gone cid }
    cmds := (s.cmds.filter fun x => !gone x.cid).map fun x =>
      { x with after := x.after.filter fun cid => !gone cid
               waitCid := x.waitCid.filter fun cid => !gone cid } }

/-- The context issues nothing more, its in-flight results are gone, its waiters are withdrawn (spec/16 R349), and its record
waits for the trap ring (actions 2 and 3). A context that has stopped before does not stop issuing again (spec/23 R438). -/
def endContext (s0 : State) (c : Ctx) (rec : TrapRec) : State :=
  let s := withdraw (orderStores (landMgmt s0 c.handle) c.handle) fun x => x.ctx == c.handle
  let s1 := s.modCtx c.handle fun c =>
    { c with status := .retired, dead := true, flight := [], view := none, barWait := none, yieldReq := false,
             killCause := none, leave := none }
  let s2 := traceRec s1 c.core 5 rec.slot rec.pc.toNat rec.cause
  let s3 := { s2 with trapWait := s2.trapWait ++ [(clusterOf c.core, rec)] }
  releaseCore (if c.status = .ready then traceStop s3 c else s3) (s3.ctx c.handle)

/-- A grid's unstarted engine commands complete CANCELLED (action 5). -/
def cancelGrid (s : State) (gkey : Nat) : State :=
  (s.cmds.filter fun x => x.gkey == gkey && x.isE && !x.started && x.queue != .none).foldl
    (fun t x => match t.cmd? x.cid with
      | some y => finishCmd t y (ecv ecCancelled 0 0)
      | none => t) s

/-- A grid's speculative tasks abort (action 6). -/
def abortGrid (s : State) (gkey : Nat) : State :=
  s.heldSlots.foldl (fun t y =>
    let z := t.slot y.1 y.2.1
    match z.task with
    | some e =>
      if e.gkey = gkey ∧ (z.state = .running ∨ z.state = .finished) ∧ !t.nonSpec (t.gridPart gkey) e then
        abortSlot t y.1 y.2.1 false false
      else t
    | none => t) s

/-- A FATAL CONTEXT ERROR (R253), the one operation for every one of them, once the tokens of the failing operation
have completed: the context ends with its record, every other sequencer of the grid will end at its next bundle
boundary, the grid's waiting engine commands are cancelled and its speculative tasks abort. Action 7 is the end of the
grid. A context that has already been ended raises no second error. -/
def fatalEnd (s : State) (c : Ctx) (rec : TrapRec) : State :=
  if c.dead ∨ c.status = .ended then s
  else
    let first := match s.grid? c.gkey with
      | some g => g.cause.getD rec.cause
      | none => rec.cause
    let s1 := endContext s c rec
    let s2 := match s1.grid? c.gkey with
      | some g => s1.setGrid { g with cause := some first }
      | none => s1
    let s3 := { s2 with ctxs := s2.ctxs.map fun x =>
        if x.gkey = c.gkey ∧ x.handle ≠ c.handle ∧ x.status ≠ .retired ∧ x.status ≠ .ended then
          { x with killCause := some first } else x }
    abortGrid (cancelGrid s3 c.gkey) c.gkey

/-- The causes that a speculative task defers (R177): the fates of spec/07 R176, among them the illegal-bundle trap of a load
over the limit of results, which a slot's outcome carries only there. -/
def deferrable (cause : Nat) : Bool := cause == causeIllegal || cause == causeHostAtomic || (0x10 ≤ cause && cause ≤ 0x13)

/-- The spec bit of a record: a fate of R176 in a run that follows a deferred fault (R238, spec/17 R371). -/
def specBit (cause : Nat) (rerun : Bool) : Bool := rerun && deferrable cause && cause != causeIllegal

/-- A fatal error raised in the bundle being issued (R240). -/
def fatalNow (s : State) (h cause slot : Nat) (done : BitVec 9) (info : Word) : State :=
  let c := s.ctx h
  fatalEnd s c (mkRec c cause slot done 1 (specBit cause (s.reruns c)) info)

/-- The task that issued a command re-runs after a deferred fault (R371); it may have retired since. -/
def State.cmdReruns (s : State) (x : Cmd) : Bool := match x.task with | some ix => (s.slot x.core ix).rerun | none => false

/-- A fatal error of a command, after its token (R242, R462). -/
def fatalCmd (s : State) (x : Cmd) (cause : Nat) (info : Word) : State :=
  let c := s.ctx x.ctx
  fatalEnd s c (asyncRec c cause x.pc x.slot x.rep (specBit cause (s.cmdReruns x)) info)

/-- A context ends with CTX_KILLED (R242, R253 action 4): it names the bundle at which it stopped. -/
def killContext (s : State) (h : Nat) (info : Nat) : State :=
  let c := s.ctx h
  endContext s c (mkRec c causeCtxKilled 15 0 1 false (BitVec.ofNat 64 info))

/-! ### Traps, debug stops, user-level traps -/

/-- A trap to the supervisor with its trace record and a given spec bit. -/
def stopTrapAs (s0 : State) (h cause slot : Nat) (done : BitVec 9) (part spec : Bool) (info : Word) : State :=
  let s := landMgmt s0 h
  let c := s.ctx h
  let s1 := traceStop (traceRec s c.core 5 slot c.pc.toNat cause) c
  takeTrap s1 h cause slot done part spec info

/-- A trap to the supervisor with its trace record. -/
def stopTrap (s : State) (h cause slot : Nat) (done : BitVec 9) (part : Bool) (info : Word) : State :=
  stopTrapAs s h cause slot done part (specBit cause (s.reruns (s.ctx h))) info

/-- A trap record's bytes (R238). -/
def recBytes (r : TrapRec) (seq : Nat) : List Byte :=
  let w := r.cause % 128 * 2 ^ 25 + r.slot % 16 * 2 ^ 21 + r.done.toNat * 2 ^ 12 + r.rep % 64 * 2 ^ 6 + r.shl % 4 * 2 ^ 4
    + (if r.pend then 8 else 0) + (if r.spec then 4 else 0) + r.sev % 4
  toBytesLE 4 r.pc.toNat ++ toBytesLE 4 w ++ toBytesLE 4 r.ctx ++
    toBytesLE 4 ((if r.async then 2 ^ 16 else 0) + r.core % 512 * 2 ^ 7 + r.res % 8 * 2 ^ 4) ++
    toBytesLE 4 r.target.toNat ++ toBytesLE 4 seq ++ toBytesLE 8 r.info.toNat

/-- Debug records that wait enter a cluster's debug ring in order while it takes them (spec/23 R435). -/
def ringDebug (s : State) (cl : Nat) : State :=
  (s.red cl).heldDebug.foldl (fun t r =>
    if (t.red cl).heldDebug.head? ≠ some r then t
    else
      let ctl := t.reg (redReg cl 0x48)
      match ringPush t (redReg cl 0x40) (redReg cl 0x48) (redReg cl 0x50) (redReg cl 0x58) (ctl.getLsbD 8) (recBytes r) with
      | some u =>
        let v := u.setRed { u.red cl with heldDebug := (u.red cl).heldDebug.tail }
        if ctl.getLsbD 9 then v.output (.ownerIrq (v.partOfCluster cl)) else v
      | none => t) s

/-- A debug stop with its trace record. -/
def stopDebug (s0 : State) (h cause slot : Nat) (done : BitVec 9) (part : Bool) (info : Word) : State :=
  let s := landMgmt s0 h
  let c := s.ctx h
  ringDebug (takeDebug (traceStop (traceRec s c.core 5 slot c.pc.toNat cause) c) h cause slot done part info) (clusterOf c.core)

/-- A stop of R129: dbrk goes to the debug unit, ecall and trap to the supervisor. -/
def stopOwn (s : State) (h cause : Nat) (done : BitVec 9) (info : Word) : State :=
  if cause = causeDebugBreak then stopDebug s h cause 0 done false info else stopTrap s h cause 0 done false info

/-- The same at the end of the bundle that left it (R129). -/
def stopAfter (s : State) (h cause : Nat) (done : BitVec 9) (info : Word) : State :=
  stopOwn (s.modCtx h fun c => { c with leave := none }) h cause done info

/-- What slot C has left to the end of its bundle takes place: the sequencer ends once its tokens have completed (spec/05
R116), its results in flight discarded, or it yields (R129). A stop is `stopAfter`'s. -/
def leaveCtx (s : State) (h : Nat) : State :=
  let c := s.ctx h
  match c.leave with
  | some .retire => noteComplete ((orderStores s h).setCtx { c with status := .retired, flight := [], barWait := none, leave := none }) c.gkey
  | some .yield => s.setCtx { c with status := .yielding, leave := none }
  | _ => s

/-- FUTURE_EMPTY (R120): to the handler, or the fatal error UTRAP_FATAL while a trap is active, without a handler, or in
a delay shadow. -/
def userTrap (s : State) (h addr : Nat) : State :=
  let c := s.ctx h
  if c.trapInfo.getLsbD 63 ∨ c.trapVec = 0 ∨ c.shl ≠ 0 then fatalNow s h causeUtrapFatal 15 0 c.trapInfo
  else takeUserTrap (traceRec s c.core 4 0 c.pc.toNat c.trapVec.toNat) h causeFutureEmpty addr

/-- An illegal-bundle trap's info (spec/11 R239). -/
def illegalInfo (row slot : Nat) : Word := BitVec.ofNat 64 (row + slot * 256)

/-- Poisoned data that a slot consumed is recorded before its fate (spec/13 R306). -/
def poisonNote (s : State) (c : Ctx) (cause : Nat) (info : Word) : State :=
  if cause = causePoisonRead then
    match spmKey s c (info.toNat % 2 ^ 32) with
    | some k =>
      let pl := s.errPlace k
      errRecord s c.part 4 pl.1 pl.2.1 pl.2.2 c.handle 0
    | none => s
  else s

/-- What a fault of a slot comes to: recorded in the speculation slot and without effect in a speculative task (R177),
else a trap or a fatal context error with the done mask of R240. -/
def faultSlot (s : State) (c : Ctx) (fatal : Bool) (cause slot : Nat) (done : BitVec 9) (part : Bool) (info : Word) : State :=
  if fatal then fatalNow (poisonNote s c cause info) c.handle cause slot done info
  else stopTrap s c.handle cause slot done part info

/-- How one slot's outcome settles when its word executes by itself in a context: a bundle of that slot alone, short of the
bundle's end, to which the context may leave something (`Ctx.leave`). -/
def settleSlot (s : State) (p : Pos) (r : SlotRes) : State :=
  let c := s.curCtx
  match r with
  | .ok s' => s'
  | .stall _ => s
  | .illegal => stopTrap s c.handle causeIllegal 15 0 false (illegalInfo 0 p.index)
  | .utrap a => userTrap s c.handle a
  | .after s' cause info => stopOwn s' c.handle cause (1#9 <<< p.index) info
  | .trap cause info =>
    if deferrable cause && s.isSpec c then deferFault s c cause else faultSlot s c false cause p.index 0 true info
  | .fatal cause info =>
    if deferrable cause && s.isSpec c then deferFault s c cause else faultSlot s c true cause p.index 0 true info

/-- A slot operation executed by itself: the checks of its word (R89) and its slice bounds (R90), then its meaning. -/
def runSlot (i : Instr) (p : Pos) (f : Fields) (r : SlotRes) (s : State) : Host.Outcome State Fault Refusal :=
  let c := s.curCtx
  match opInfo i with
  | none => .next (stopTrap s c.handle causeIllegal 15 0 false (illegalInfo 5 p.index))
  | some info =>
    match wordRow i info f with
    | some row => .next (stopTrap s c.handle causeIllegal 15 0 false (illegalInfo row p.index))
    | none =>
      if !ownRuleOk i info f then .next (stopTrap s c.handle causeIllegal 15 0 false (illegalInfo 0 p.index))
      else match sliceFail c none i info p f with
        | some w => .next (stopTrap s c.handle causeSliceBound p.index 0 false w)
        | none => .next (settleSlot s p r)

end Sys2Proof.Machine
end

