-- ==== Sys2Proof/Machine/Far.lean ====
section
/-!
DEFINITION. The off-core commands of slots M0 and M1 (spec/07 R167-R175): what each does when it issues, and what it does
when it performs at the head of its queue (OFFCORE_COMMAND_PERFORM), with the fault entries of spec/15 R336-R339.
Translation takes place when a command performs; only HOST_ATOMIC is decided at issue (R172, R242).
-/

namespace Sys2Proof.Machine

open Sys2Proof

/-! ### Issue -/

/-- The off-core queue a command names (R158). -/
def farQueue (i : Instr) (f : Fields) : Nat :=
  match i with
  | .amo _ _ | .amocas _ _ => (f.mod.extractLsb' 0 2).toNat
  | _ => (f.mod.extractLsb' 1 2).toNat

/-- Entries in use of a queue of a core. -/
def State.queueLen (s : State) (core : Nat) (q : Queue) : Nat :=
  (s.cmds.filter fun x => x.core == core && x.queue == q).length

/-- Add a command that has issued: its token becomes pending (R32). -/
def pushCmd (s : State) (c : Ctx) (x : Cmd) : State :=
  let s1 := match x.token with
    | some t => setPending s c.handle t
    | none => s
  { s1 with cmds := s1.cmds ++ [x], nextCid := s1.nextCid + 1 }

/-- The command that a slot issues now. -/
def mkCmd (s : State) (c : Ctx) (i : Instr) (p : Pos) (q : Queue) (token : Option Nat) (args : List Word) : Cmd where
  cid := s.nextCid
  instr := i
  ctx := c.handle
  gkey := c.gkey
  core := c.core
  queue := q
  token := token
  args := args
  pc := c.pc
  slot := p.index
  rep := c.rep
  task := (s.mySlot c).map (·.1)
  ord := c.inOrdered
  exec := match c.tasks.head? with | some t => t.exec | none => 0

/-- The 64-byte lines of [va, va + n) as the Lehr tracks them (spec/17 R363). -/
def farLines (c : Ctx) (va n : Nat) : List Nat :=
  let first := va / 64 * 64
  ((List.range ((va + n - first + 63) / 64)).filterMap fun j =>
    match rangeHit c ((first + 64 * j) % 2 ^ 64) with
    | some h => some ((if h.vault then 2 ^ 60 + h.addr else h.addr) / 64 * 64)
    | none => none).eraseDups

/-- The lines of a far or vault access. -/
def spaceLines (c : Ctx) (vault : Bool) (va n : Nat) : List Nat :=
  if vault then
    let first := va / 64 * 64
    (List.range ((va + n - first + 63) / 64)).map fun j => 2 ^ 60 + first + 64 * j
  else farLines c va n

/-- Track the lines that an access of an ordered task reads and writes (spec/17 R363, R365): a stall while it is
speculative and a limit is passed, row 0 at the frontier for the write buffer. -/
def track (s : State) (c : Ctx) (reads writes : List Nat) (k : State → SlotRes) : SlotRes :=
  match s.mySlot c with
  | none => k s
  | some (ix, x) =>
    let sp := s.isSpec c
    let rs := if sp then (x.reads ++ reads).eraseDups else x.reads
    let ws := (x.wlines ++ writes).eraseDups
    if sp ∧ (rs.length > 256 ∨ ws.length > 256) then .stall 7
    else if ws.length > 256 then .illegal
    else k (s.modSlot c.core ix fun y => { y with reads := rs, wlines := ws })

/-- Bytes that fldv and fstv move: 1 to 16 lines (R158). -/
def lineBytes (f : Fields) : Nat := 64 * ((f.mod.extractLsb' 3 4).toNat + 1)

/-! ### Performing: shared accesses -/

/-- The issuing context of a command, on the core whose queue holds it. -/
def State.cmdCtx (s : State) (x : Cmd) : Ctx := { s.ctx x.ctx with core := x.core }

/-- A command whose fate is deferred leaves its token register as it was (spec/18 R377). -/
def keepToken (s : State) (x : Cmd) : State :=
  finishCmd s x (match x.token with | some t => (s.ctx x.ctx).com[t]?.getD 0 | none => 0)

/-- A command ends in a fatal fate (R176, R462): its token completes first. In a speculative task the fault is recorded
in the task's slot instead (R177), and the command has no effect; of an aborted execution nothing remains. -/
def failCmd (s : State) (x : Cmd) (cause detail count : Nat) (info : Word) : State :=
  let fatal := fatalCmd (finishCmd s x (failValue x detail count)) x cause info
  if x.ord then
    match x.task with
    | none => keepToken s x
    | some ix =>
      match (s.slot x.core ix).task with
      | some e =>
        if s.nonSpec (s.ctx x.ctx).part e then fatal
        else (keepToken s x).modSlot x.core ix fun y => { y with deferred := some (y.deferred.getD cause) }
      | none => keepToken s x
  else fatal

/-- Poisoned data met by a command: an error record, then the fate (spec/13 R304, R306). -/
def failPoison (s : State) (x : Cmd) (key count : Nat) (info : Word) : State :=
  let pl := s.errPlace key
  failCmd (errRecord s (s.partOfKey key) 4 pl.1 pl.2.1 pl.2.2 x.ctx 0) x causePoisonRead 0 count info

/-- What a far or vault byte run that has no place comes to: the fate of a fault, or of poison in a table entry of its walk. -/
def FarRes.isPlace : FarRes → Bool
  | .place _ => true
  | _ => false

/-- Where a far or vault byte run goes, or the fault it meets. -/
def spaceTarget (s : State) (c : Ctx) (vault : Bool) (a n : Nat) (acc : Acc) : State × FarRes :=
  if vault then
    (s, if vaultOk c.part a ∧ vaultOk c.part (a + n - 1) then
          .place { key := vaultBase + a, vault := true, ia := a, nc := false } else .fault 0 0 a)
  else resolveFar s c a acc

/-- The fate of a far or vault address that has no place (R176): a fault, or poison in a table entry of its walk, which is data
that the access consumed: DEDUCED, log entry 72. -/
def failSpace (s : State) (x : Cmd) (vault : Bool) (a : Nat) (r : FarRes) (count : Nat) : State :=
  match r with
  | .poison k => failPoison s x k count (BitVec.ofNat 64 a)
  | .fault code _ _ => if vault then failCmd s x causeVaultRange 0 count (BitVec.ofNat 64 a)
    else failCmd s x causeFarFault code count (BitVec.ofNat 64 a)
  | .place _ => s

/-- The number by which the Lehr names a byte of a place. -/
def Place.byteId (pl : Place) : Nat := if pl.vault then 2 ^ 60 + pl.ia else pl.ia

/-- Read bytes of one line for a sequencer's command: at a vault as it stands, else coherently (spec/14 R312). -/
def readPlace (s : State) (c : Ctx) (pl : Place) (n : Nat) : State × Except Nat (List Byte) :=
  if pl.vault then (s, readBytes s pl.key n) else coherentRead s c pl n

/-- Read bytes of one line for an ordered task: its own buffered bytes first (spec/17 R363). -/
def readTask (s : State) (c : Ctx) (buf : List Host.Cell) (pl : Place) : Nat → State × Except Nat (List Byte)
  | 0 => (s, .ok [])
  | n + 1 =>
    match buf.find? fun b => b.1 == pl.byteId with
    | some b =>
      let r := readTask s c buf { pl with key := pl.key + 1, ia := pl.ia + 1 } n
      (r.1, r.2.map (b.2 :: ·))
    | none =>
      match readPlace s c pl 1 with
      | (s1, .error e) => (s1, .error e)
      | (s1, .ok bs) =>
        let r := readTask s1 c buf { pl with key := pl.key + 1, ia := pl.ia + 1 } n
        (r.1, r.2.map (bs ++ ·))

/-- Read bytes of one line for a command. -/
def cmdRead (s : State) (x : Cmd) (pl : Place) (n : Nat) : State × Except Nat (List Byte) :=
  match x.task with
  | some ix => readTask s (s.cmdCtx x) (s.slot x.core ix).writes pl n
  | none => readPlace s (s.cmdCtx x) pl n

/-- Put bytes into a slot's write buffer, over what it holds. -/
def bufferBytes (s : State) (core ix : Nat) (pl : Place) (bs : List Byte) : State :=
  let new := cellsAt pl.byteId bs
  let line := pl.byteId / 64 * 64
  s.modSlot core ix fun y =>
    { y with writes := (y.writes.filter fun b => !new.any fun d => d.1 == b.1) ++ new,
             homes := if y.homes.any (fun h => h.1 == line) then y.homes
                      else y.homes ++ [(line, pl.key / 64 * 64, pl.nc || pl.vault)] }

/-- Write bytes of one line for an M-slot command: buffered for an ordered task, nowhere for an aborted one, at the
vault, or into the posted-write buffer (R168, spec/14 R310, spec/17 R363). -/
def cmdWrite (s : State) (x : Cmd) (pl : Place) (bs : List Byte) : State :=
  match x.task with
  | some ix => bufferBytes s x.core ix pl bs
  | none =>
    if x.ord then s
    else if pl.vault then writeBytes s x.ctx pl.key bs
    else postWrite s (s.cmdCtx x) pl bs

/-- A word argument of a command. -/
def Cmd.arg (x : Cmd) (n : Nat) : Nat := ((x.args[n]?).getD 0).toNat

/-! ### Performing: each command -/

/-- FLD performs (R168). -/
def performFld (s : State) (x : Cmd) (f : Fields) : State :=
  let fm := fmtOf f
  let vault := f.mod.getLsbD 0
  let a := x.arg 0
  match spaceTarget s (s.cmdCtx x) vault a fm.bytes .read with
  | (s1, .place pl) =>
    match cmdRead s1 x pl fm.bytes with
    | (s2, .error k) => failPoison s2 x k 0 (BitVec.ofNat 64 (a + (k - pl.key)))
    | (s2, .ok bs) =>
      finishCmd s2 x (BitVec.ofNat 64 (loadVal fm (f.mod.getLsbD 3) 64 (ofBytesLE bs)))
  | (s1, r) => failSpace s1 x vault a r 0

/-- FST performs (R168). -/
def performFst (s : State) (x : Cmd) (f : Fields) : State :=
  let fm := fmtOf f
  let vault := f.mod.getLsbD 0
  let a := x.arg 0
  match spaceTarget s (s.cmdCtx x) vault a fm.bytes .write with
  | (s1, .place pl) => finishCmd (cmdWrite s1 x pl (toBytesLE fm.bytes (x.arg 1))) x 0
  | (s1, r) => failSpace s1 x vault a r 0

/-- Read lines from a far or vault address: the bytes, or the command's end. -/
def readLines (s : State) (x : Cmd) (vault : Bool) (a : Nat) : Nat → State × Option (List Byte)
  | 0 => (s, some [])
  | n + 1 =>
    match spaceTarget s (s.cmdCtx x) vault a 64 .read with
    | (s1, .place pl) =>
      (match cmdRead s1 x pl 64 with
      | (s2, .error k) => (failPoison s2 x k 0 (BitVec.ofNat 64 (a + (k - pl.key))), none)
      | (s2, .ok bs) =>
        match readLines s2 x vault (a + 64) n with
        | (s3, some rest) => (s3, some (bs ++ rest))
        | (s3, none) => (s3, none))
    | (s1, r) => (failSpace s1 x vault a r 0, none)

/-- Write lines to a far or vault address; `none` when the command has ended in a fault. -/
def writeLines (s : State) (x : Cmd) (vault : Bool) (a : Nat) (bs : List Byte) : Nat → State × Bool
  | 0 => (s, true)
  | n + 1 =>
    match spaceTarget s (s.cmdCtx x) vault a 64 .write with
    | (s1, .place pl) => writeLines (cmdWrite s1 x pl (bs.take 64)) x vault (a + 64) (bs.drop 64) n
    | (s1, r) => (failSpace s1 x vault a r 0, false)

/-- An own-form run of scratchpad bytes of a command's context (R169). -/
def ownRange (s : State) (c : Ctx) (a n : Nat) : Option (List Nat) := if ownForm a then spmRange s c a n else none

/-- The bytes that are going to stand at some keys may be seen there by a load from now on (R164, R169, spec/09 R207). -/
def loosen (s : State) (cid : Nat) (cells : List Host.Cell) : State :=
  { s with loose := s.loose ++ (cells.filter fun d => memGet s.mem d.1 ≠ d.2).map fun d =>
      { key := d.1, byte := d.2, writer := 0, cid := some cid } }

/-- A source byte that a mover copies: the one that stands there now, or the one that stood there when it began (R169,
spec/09 R207). -/
def movedByte (s : State) (snap : List Host.Cell) (key : Nat) : Byte :=
  if Config.seesOther s.stepNo key then memGet snap key else memGet s.mem key

/-- FLDV performs (R169), in two steps: it reads its far bytes, which a load may see at their new places from then on, and then
writes them and completes. A fault leaves every byte: DEDUCED, log entry 26. -/
def performFldv (s : State) (x : Cmd) (f : Fields) : State :=
  let c := s.cmdCtx x
  let n := lineBytes f
  match ownRange s c (x.arg 0) n with
  | none => failCmd s x causeSpmRange 0 0 (BitVec.ofNat 64 (x.arg 0))
  | some ks =>
    if x.started then finishCmd (cmdStore s x.ctx x.snap) x (BitVec.ofNat 64 n)
    else match readLines s x (f.mod.getLsbD 0) (x.arg 1) (n / 64) with
      | (s1, none) => s1
      | (s1, some bs) =>
        let cells := ks.zip bs
        loosen (s1.setCmd { x with started := true, snap := cells }) x.cid cells

/-- FSTV performs (R169), in two steps: it begins to read its scratchpad bytes, and then writes each as it was or as it is and
completes. Lines before a faulting one are written: DEDUCED, log entry 26. -/
def performFstv (s : State) (x : Cmd) (f : Fields) : State :=
  let c := s.cmdCtx x
  let n := lineBytes f
  match ownRange s c (x.arg 0) n with
  | none => failCmd s x causeSpmRange 0 0 (BitVec.ofNat 64 (x.arg 0))
  | some ks =>
    match readKeys s (memGet s.mem) ks with
    | .error j => failPoison s x ((ks[j]?).getD 0) 0 (BitVec.ofNat 64 (x.arg 0 + j))
    | .ok bs =>
      if !x.started then s.setCmd { x with started := true, snap := (ks.zip bs).filter fun d => d.2 ≠ 0 }
      else
        match writeLines s x (f.mod.getLsbD 0) (x.arg 1) (ks.map (movedByte s x.snap)) (n / 64) with
        | (s1, false) => s1
        | (s1, true) => finishCmd s1 x (BitVec.ofNat 64 n)

/-- The new value of an amo (R170). -/
def amoValue (op w old b : Nat) : Nat :=
  match op with
  | 0 => (old + b) % 2 ^ w
  | 1 => if signed w old ≤ signed w b then old else b
  | 2 => if signed w old ≥ signed w b then old else b
  | 3 => min old b
  | 4 => max old b
  | 5 => old &&& b
  | 6 => old ||| b
  | _ => old ^^^ b

/-- An atomic at its home (R172, spec/14 R317): `new` gives the value written, if any, from the old one. -/
def performAtomic (s : State) (x : Cmd) (f : Fields) (new : Nat → Option Nat) : State :=
  let n := (fmtOf f).bytes
  let a := x.arg 0
  match resolveFar s (s.cmdCtx x) a .atomic with
  | (s1, .fault code v i) => failSpace s1 x false a (.fault code v i) 0
  | (s1, .poison k) => failSpace s1 x false a (.poison k) 0
  | (s1, .place pl) =>
    let sm := mscTouch s1 (s.ctx x.ctx).part (ctxReq s x.ctx none) .atomic pl.key
    let s2 := if pl.vault then sm else touchLine sm pl.key
    match readBytes s2 pl.key n with
    | .error k => failPoison s2 x k 0 (BitVec.ofNat 64 (a + (k - pl.key)))
    | .ok bs =>
      let old := ofBytesLE bs
      let s3 := match new old with
        | some v => engineWrite s2 x.ctx (s.ctx x.ctx).part pl (toBytesLE n v)
        | none => if pl.vault ∨ pl.nc then s2 else dirHomeWrite s2 (s.ctx x.ctx).part (pl.ia / 64 * 64)
      finishCmd s3 x (BitVec.ofNat 64 old)

/-- PROBE performs (R173): page by page from its progress; a missing page holds it until its fault entry is resolved
(spec/15 R336). Poison in a table entry of its walk is recorded, and completes the probe with BAD_PTE, as a probe raises no fault
against the context. DEDUCED, log entries 44 and 72. -/
def performProbe (s : State) (x : Cmd) (w : Bool) : Nat → State
  | 0 => s
  | fuel + 1 =>
    let va := (x.arg 0 + x.progress) % 2 ^ 64
    if x.progress ≥ x.arg 1 then finishCmd s x 0
    else
      match resolveFar s (s.cmdCtx x) va (if w then .both else .read) with
      | (s1, .place _) =>
        performProbe s1 { x with progress := x.progress + (2 ^ 19 - va % 2 ^ 19) } w fuel
      | (s1, .poison k) =>
        let pl := s1.errPlace k
        finishCmd (errRecord s1 (s1.partOfKey k) 4 pl.1 pl.2.1 pl.2.2 x.ctx 0) x
          (BitVec.ofNat 64 (va / 2 ^ 19 * 2 ^ 19 + 2))
      | (s1, .fault code lv ia) =>
        if code = 1 ∨ code = 5 then s1.setCmd { x with fault := some (code, va), faultAt := (ia / 2 ^ 19 * 2 ^ 19, lv) }
        else finishCmd s1 x (BitVec.ofNat 64 (va / 2 ^ 19 * 2 ^ 19 + code))

/-- The cached NC line under a virtual address of a command's context (R174). -/
def ncLine (s : State) (x : Cmd) (va : Nat) : Option CacheLine :=
  let c := s.cmdCtx x
  match rangeHit c va with
  | none => none
  | some h =>
    if h.vault then none
    else (s.copyOf (clusterOf c.core) c.part (h.addr / 64 * 64)).filter (·.nc)

/-- One line of cwb (write back, keep), cinv (drop) or cwbi (write back, drop). -/
def maintLine (wb drop : Bool) (s : State) (l : CacheLine) : State :=
  if wb ∧ l.dirty ≠ 0 then writeBack s l drop
  else if drop then dropLine s l.cluster l.part l.line
  else s

/-- CWB, CINV and CWBI perform (R174). -/
def performMaint (s : State) (x : Cmd) (wb drop : Bool) : State :=
  let a := x.arg 0
  let first := a / 64 * 64
  let n := if x.arg 1 = 0 then 0 else (a + x.arg 1 - first + 63) / 64
  let s1 := (List.range n).foldl (fun t j => match ncLine t x ((first + 64 * j) % 2 ^ 64) with
    | some l => maintLine wb drop t l
    | none => t) s
  finishCmd s1 x 0

/-- A command's turn on its queue: no earlier command of the sequencer is on it, it waits on no fault entry, and
its core's clock runs (spec/24 R447). A command without a token may still stand in a queue of the core that its sequencer has
left: it has no order with the sequencer's commands on the queues of another core, DEDUCED, log entry 64. -/
def State.offReady (s : State) (x : Cmd) : Bool :=
  !s.clockStopped x.core && x.fault.isNone && (match x.queue with | .off _ => true | _ => false) &&
    (match s.cmds.find? fun y => y.ctx == x.ctx && y.core == x.core && y.queue == x.queue with
     | some y => y.cid == x.cid
     | none => false)

/-- An off-core command performs. -/
def performOff (s : State) (x : Cmd) : State :=
  match x.instr with
  | .fld _ f => performFld s x f
  | .fst _ f => performFst s x f
  | .fldv _ f => performFldv s x f
  | .fstv _ f => performFstv s x f
  | .amo _ f =>
    performAtomic s x f fun old => some (amoValue (f.mod.extractLsb' 2 3).toNat (fmtOf f).width old (x.arg 1))
  | .amocas _ f =>
    performAtomic s x f fun old =>
      if f.mod.getLsbD 2 ∨ old = x.arg 2 % 2 ^ (fmtOf f).width then some (x.arg 1) else none
  | .probe _ f => performProbe s x (f.mod.getLsbD 0) 8194
  | .cwb _ _ => performMaint s x true false
  | .cinv _ _ => performMaint s x false true
  | .cwbi _ _ => performMaint s x true true
  | _ => s

/-- OFFCORE_COMMAND_PERFORM (R167): the command performs and completes its token; fldv and fstv take a step to begin and one to
complete (R169). -/
def execOffcoreCommandPerform (cid : Nat) (s : State) : Host.Outcome State Fault Refusal :=
  match s.cmd? cid with
  | some x => if s.offReady x then .next (performOff s x) else .refused (.notEnabled "OFFCORE_COMMAND_PERFORM")
  | none => .refused (.notEnabled "OFFCORE_COMMAND_PERFORM")

/-! ### Issue: each operation -/

/-- A command performs to its end: fldv and fstv take two steps (R169). -/
def performAll (s : State) (x : Cmd) : State :=
  let t := performOff s x
  match t.cmd? x.cid with
  | some y => performOff t y
  | none => t

/-- The fault that a speculative task's command would meet if it performed now, after the sequencer's commands that stand before it
on its queue (R167), which its slot then records (R177). -/
def specFate (s : State) (c : Ctx) (x : Cmd) : Option Nat :=
  match x.task with
  | some ix =>
    if s.isSpec c then
      let t := (s.cmds.filter fun y => y.ctx == x.ctx && y.core == x.core && y.queue == x.queue).foldl performAll s
      ((performAll (t.modSlot c.core ix fun y => { y with deferred := none }) x).slot c.core ix).deferred
    else none
  | none => none

/-- A command enters its off-core queue, or the core stalls while it is full (R167). A command of a speculative task whose
fate is deferred has no effect and sets no token pending (R177, spec/18 R377).
Translation happens when the command performs; a fate that arises only then leaves the register as it was, and the token, pending
until then, is no more: DEDUCED, log entry 25. -/
def farIssue (s : State) (i : Instr) (p : Pos) (f : Fields) (token : Bool) (args : List Word)
    (reads writes : List Nat) : SlotRes :=
  let c := s.curCtx
  let q := Queue.off (farQueue i f)
  let x := mkCmd s c i p q (if token then some f.dst.reg else none) args
  match specFate s c x with
  | some cause => .fatal cause 0
  | none =>
    if s.queueLen c.core q ≥ 16 then .stall 3
    else track s c reads writes fun s' => .ok (pushCmd s' c x)

/-- A command that a speculative task may not issue stalls it until the frontier (spec/17 R363). -/
def atFrontier (s : State) (r : SlotRes) : SlotRes := if s.isSpec s.curCtx then .stall 7 else r

/-- A 64-bit far or vault address, length or stride operand (R157). -/
def farOp (s : State) (p : Pos) (k : Kind) (o : Operand) : Nat := srcScal s p k o 64

/-- The data operand of fst, amo and amocas. -/
def farData (s : State) (p : Pos) (f : Fields) : Nat := srcScal s p f.k2 f.src2 (fmtOf f).width

/-- FLD at issue (R168). -/
def semFld (p : Pos) (f : Fields) (s : State) : SlotRes :=
  slotOp (.fld p f) f s fun _ s =>
    let b := (fmtOf f).bytes
    let a := alignDown ((farOp s p f.k1 f.src1 + farOp s p f.k2 f.src2) % 2 ^ 64) b
    farIssue s (.fld p f) p f true [BitVec.ofNat 64 a] (spaceLines s.curCtx (f.mod.getLsbD 0) a b) []

/-- FST at issue (R168). -/
def semFst (p : Pos) (f : Fields) (s : State) : SlotRes :=
  slotOp (.fst p f) f s fun _ s =>
    let b := (fmtOf f).bytes
    let a := alignDown (farOp s p f.k1 f.src1) b
    farIssue s (.fst p f) p f true [BitVec.ofNat 64 a, BitVec.ofNat 64 (farData s p f)] []
      (spaceLines s.curCtx (f.mod.getLsbD 0) a b)

/-- FLDV at issue (R169): the scratchpad address and the far address, both aligned to a line. -/
def semFldv (p : Pos) (f : Fields) (s : State) : SlotRes :=
  slotOp (.fldv p f) f s fun _ s =>
    let sa := alignDown (srcScal s p f.k1 f.src1 32) 64
    let fa := alignDown (farOp s p f.k2 f.src2) 64
    farIssue s (.fldv p f) p f true [BitVec.ofNat 64 sa, BitVec.ofNat 64 fa]
      (spaceLines s.curCtx (f.mod.getLsbD 0) fa (lineBytes f)) []

/-- FSTV at issue (R169): the far address is source 2 and the scratchpad address source 1, as in fldv. -/
def semFstv (p : Pos) (f : Fields) (s : State) : SlotRes :=
  slotOp (.fstv p f) f s fun _ s =>
    let sa := alignDown (srcScal s p f.k1 f.src1 32) 64
    let fa := alignDown (farOp s p f.k2 f.src2) 64
    farIssue s (.fstv p f) p f true [BitVec.ofNat 64 sa, BitVec.ofNat 64 fa] []
      (spaceLines s.curCtx (f.mod.getLsbD 0) fa (lineBytes f))

/-- An atomic at issue: through a tiered range entry it traps (R172). In a speculative task it stalls, tiered or not
(R177, spec/17 R363). -/
def atomicIssue (s : State) (i : Instr) (p : Pos) (f : Fields) (extra : List Word) : SlotRes :=
  let a := alignDown (farOp s p f.k1 f.src1) (fmtOf f).bytes
  atFrontier s
    (match rangeHit s.curCtx a with
     | some h =>
       if h.tiered then .trap causeHostAtomic (BitVec.ofNat 64 a)
       else farIssue s i p f true ([BitVec.ofNat 64 a, BitVec.ofNat 64 (farData s p f)] ++ extra) [] []
     | none => farIssue s i p f true ([BitVec.ofNat 64 a, BitVec.ofNat 64 (farData s p f)] ++ extra) [] [])

/-- AMO at issue (R170, R172). -/
def semAmo (p : Pos) (f : Fields) (s : State) : SlotRes :=
  slotOp (.amo p f) f s fun _ s => atomicIssue s (.amo p f) p f []

/-- AMOCAS at issue (R171): it reads its own token register as the compare value. -/
def semAmocas (p : Pos) (f : Fields) (s : State) : SlotRes :=
  slotOp (.amocas p f) f s fun _ s => atomicIssue s (.amocas p f) p f [s.curCtx.common f.dst.reg]

/-- PROBE at issue (R173). -/
def semProbe (p : Pos) (f : Fields) (s : State) : SlotRes :=
  slotOp (.probe p f) f s fun _ s =>
    atFrontier s (farIssue s (.probe p f) p f true
      [BitVec.ofNat 64 (farOp s p f.k1 f.src1), BitVec.ofNat 64 (min (farOp s p f.k2 f.src2) (2 ^ 32 - 1))] [] [])

/-- CWB, CINV and CWBI at issue (R174). -/
def maintIssue (i : Instr) (p : Pos) (f : Fields) (s : State) : SlotRes :=
  slotOp i f s fun _ s =>
    atFrontier s (farIssue s i p f false
      [BitVec.ofNat 64 (farOp s p f.k1 f.src1), BitVec.ofNat 64 (min (farOp s p f.k2 f.src2) 0x100000)] [] [])

/-- CWB at issue (R174). -/
def semCwb (p : Pos) (f : Fields) (s : State) : SlotRes := maintIssue (.cwb p f) p f s
/-- CINV at issue (R174). -/
def semCinv (p : Pos) (f : Fields) (s : State) : SlotRes := maintIssue (.cinv p f) p f s
/-- CWBI at issue (R174). -/
def semCwbi (p : Pos) (f : Fields) (s : State) : SlotRes := maintIssue (.cwbi p f) p f s

/-- Earlier off-core commands of a sequencer on some queues have not performed: those of the bundle being issued do not
count. -/
def State.offWaits (s : State) (c : Ctx) (on : Nat → Bool) : Bool :=
  let first := match c.view with | some v => v.firstCid | none => s.nextCid
  s.cmds.any fun x => x.ctx == c.handle && decide (x.cid < first) && (match x.queue with | .off q => on q | _ => false)

/-- QFENCE (R175): the core stalls until the sequencer's commands on the masked queues have performed.
DEDUCED, log entry 44. -/
def semQfence (p : Pos) (f : Fields) (s : State) : SlotRes :=
  slotOp (.qfence p f) f s fun _ s =>
    if s.offWaits s.curCtx fun q => f.mod.getLsbD q then .stall 1 else .ok s

/-- The far bytes that an operation's command touches, for the watches of spec/23 R435: first byte, length, reads,
writes. -/
def watchRange (i : Instr) (s : State) : Option (Nat × Nat × Bool × Bool) :=
  match i with
  | .fld p f =>
    if f.mod.getLsbD 0 then none
    else
      let b := (fmtOf f).bytes
      some (alignDown ((farOp s p f.k1 f.src1 + farOp s p f.k2 f.src2) % 2 ^ 64) b, b, true, false)
  | .fst p f =>
    if f.mod.getLsbD 0 then none
    else some (alignDown (farOp s p f.k1 f.src1) (fmtOf f).bytes, (fmtOf f).bytes, false, true)
  | .fldv p f =>
    if f.mod.getLsbD 0 then none else some (alignDown (farOp s p f.k2 f.src2) 64, lineBytes f, true, false)
  | .fstv p f =>
    if f.mod.getLsbD 0 then none else some (alignDown (farOp s p f.k2 f.src2) 64, lineBytes f, false, true)
  | .amo p f | .amocas p f =>
    some (alignDown (farOp s p f.k1 f.src1) (fmtOf f).bytes, (fmtOf f).bytes, true, true)
  | _ => none

/-! ### Fault entries (spec/15 R336-R340) -/

/-- A register of a cluster's translation block. -/
def xltcReg (cluster off : Nat) : RegAddr := ⟨.xltc, cluster, off⟩

/-- A command needs write permission for its far side. -/
def Cmd.needsWrite (x : Cmd) : Bool :=
  decide ((x.fault.map (·.1)) = some 5) || x.faultW ||
  (match x.instr with
   | .probe _ f => f.mod.getLsbD 0
   | _ => false)

/-- A fault entry's bytes (R337). -/
def faultBytes (e : FaultEntry) (eng : Bool) : List Byte :=
  toBytesLE 8 e.ia ++ toBytesLE 8 e.va.toNat ++ toBytesLE 4 e.ctx ++
    toBytesLE 4 (e.code + (if e.wr then 2 ^ 8 else 0) + (if eng then 2 ^ 9 else 0) + e.slot * 2 ^ 10 + e.token * 2 ^ 14
      + e.core % 512 * 2 ^ 19) ++ toBytesLE 8 (e.seq % 2 ^ 32 + e.level * 2 ^ 32)

/-- Entries of a cluster that wait enter its fault ring in the order of their creation while it takes them (R338); a resolved
one has then done its part. -/
def ringFaults (s : State) (cluster : Nat) : State :=
  s.faults.foldl (fun (t : State) (e : FaultEntry) =>
    if e.cluster ≠ cluster ∨ e.rung ∨ (t.faults.find? fun d => d.cluster == cluster && !d.rung) ≠ some e then t
    else
      let ctl := t.reg (xltcReg cluster 8)
      match ringPush t (xltcReg cluster 0) (xltcReg cluster 8) (xltcReg cluster 0x10) (xltcReg cluster 0x18)
          (ctl.getLsbD 8) (fun _ => faultBytes e e.eng) with
      | some u =>
        let v := if ctl.getLsbD 9 then u.output (.supIrq cluster) else u
        { v with faults := v.faults.filterMap fun (d : FaultEntry) =>
            if d = e then (if d.unres then some { d with rung := true } else none) else some d }
      | none => t) s

/-- FAULT_ENTRY_CREATE (R336-R338): a held command joins an unresolved entry that covers it, or makes a new one. -/
def execFaultEntryCreate (cid : Nat) (s : State) : Host.Outcome State Fault Refusal :=
  match s.cmd? cid with
  | none => .refused (.notEnabled "FAULT_ENTRY_CREATE")
  | some x =>
    match x.fault, x.entry with
    | some (code, va), none =>
      let cl := clusterOf x.core
      let g := x.faultAt
      let wr := x.needsWrite
      let open' := s.faults.filter fun e => e.cluster == cl && e.unres
      match open'.find? fun e => e.ia == g.1 && (!wr || e.wr) with
      | some e =>
        let s1 := s.setCmd { x with entry := some e.seq }
        let s2 : State := { s1 with faults := s1.faults.map fun d =>
          if d.cluster = cl ∧ d.seq = e.seq then { d with waiters := d.waiters ++ [cid] } else d }
        let st := s2.reg (xltcReg cl 0x28)
        .next (s2.setReg (xltcReg cl 0x28) (st + BitVec.ofNat 64 (2 ^ 32)))
      | none =>
        if open'.length ≥ 32 then .refused (.notEnabled "FAULT_ENTRY_CREATE")
        else
          let seq := (tabGet? s.faultSeq cl).getD 0
          let e : FaultEntry :=
            { cluster := cl, seq := seq, ia := g.1, va := BitVec.ofNat 64 va, ctx := x.ctx, code := code, wr := wr,
              eng := x.isE, slot := x.slot, token := x.token.getD 0, core := x.core, level := g.2, waiters := [cid],
              rung := false }
          let s1 := s.setCmd { x with entry := some seq }
          .next (ringFaults { s1 with faults := s1.faults ++ [e],
                                      faultSeq := tabSet s1.faultSeq cl ((seq + 1) % 2 ^ 32) } cl)
    | _, _ => .refused (.notEnabled "FAULT_ENTRY_CREATE")

/-- An unresolved entry by its number. -/
def State.faultEntry? (s : State) (cluster seq : Nat) : Option FaultEntry :=
  s.faults.find? fun e => e.cluster == cluster && e.seq == seq && e.unres

/-- An entry is resolved: it leaves the list, once the ring has taken it (R338). -/
def dropFault (s : State) (cluster seq : Nat) : State :=
  { s with faults := s.faults.filterMap fun e =>
      if e.cluster = cluster ∧ e.seq = seq ∧ e.unres then (if e.rung then none else some { e with unres := false, waiters := [] })
      else some e }

/-- Action 2 (R339): every waiter completes as refused, with the code. -/
def refuseFault (s : State) (e : FaultEntry) (code : Nat) : State :=
  e.waiters.foldl (fun t cid => match t.cmd? cid with
    | some x =>
      let va := match x.fault with | some (_, a) => a | none => 0
      if x.isE then finishCmd t x (ecv ecRefused code x.count)
      else finishCmd t x (BitVec.ofNat 64 (va / 2 ^ 19 * 2 ^ 19 + code))
    | none => t) (dropFault s e.cluster e.seq)

/-- A context stands at a bundle boundary: no repetition and no slot of the bundle at its pc has committed. -/
def Ctx.atStart (c : Ctx) : Bool := c.rep == 0 && !c.partBundle && c.done == 0

/-- A sequencer of a failed grid ends: it stands at a bundle boundary, is stalled on a token, which brings it there at once, or is
stopped and so can reach none (spec/16 R350). DEDUCED, log entry 53. -/
def Ctx.endsNow (c : Ctx) : Bool := c.atStart || c.stallTok || c.status != .ready

/-- Every sequencer of a failed grid that ends at once does (spec/16 R350). -/
def endGrid (s : State) (gkey : Nat) : State :=
  (s.ctxs.filter fun c => c.gkey == gkey && c.endsNow && c.status != .retired &&
      c.status != .ended).foldl
    (fun t c => match c.killCause with
      | some k => killContext t c.handle k
      | none => t) s

/-- The write of action 3 of a cluster's supervisor completes once the sequencers of a grid have ended (spec/16 R350); grids
whose sequencers have are no longer noted. -/
def resolvingFor (s : State) (cluster gkey : Nat) : State :=
  { s with resolving := (cluster, gkey) :: s.resolving.filter fun y =>
      s.ctxs.any fun c => c.gkey == y.2 && c.status != .retired && c.status != .ended }

/-- Action 3 (R339): the first waiter of each grid ends its context with MEM_EXHAUSTED; its grid's waiters are withdrawn and
its other sequencers end (spec/16 R350). -/
def exhaustFault (s : State) (e : FaultEntry) : State :=
  e.waiters.foldl (fun t cid => match t.cmd? cid with
    | some x =>
      let va := match x.fault with | some (_, a) => a | none => 0
      resolvingFor (endGrid (fatalCmd (withdraw t fun y => y.gkey == x.gkey) x causeMemExhausted
        (BitVec.ofNat 64 (va / 2 ^ 19 * 2 ^ 19))) x.gkey) e.cluster x.gkey
    | none => t) (dropFault s e.cluster e.seq)

/-- The supervisor of a cluster waits for a write of action 3 to complete: a sequencer of a grid that it ends has not ended
yet (spec/16 R350). -/
def State.supWaits (s : State) (cluster : Nat) : Bool :=
  s.resolving.any fun y => y.1 == cluster && s.ctxs.any fun c => c.gkey == y.2 && c.status != .retired && c.status != .ended

/-- A resolve names no unresolved entry: it is flagged (R339, R340). -/
def noMatch (s : State) (cluster : Nat) : State :=
  s.setReg (xltcReg cluster 0x28) (s.reg (xltcReg cluster 0x28) ||| 0x100)

/-- A resolve that names an entry clears the flag. -/
def matched (s : State) (cluster : Nat) : State :=
  s.setReg (xltcReg cluster 0x28) (s.reg (xltcReg cluster 0x28) &&& ~~~0x100)

/-- A register access of a cluster's supervisor, which waits while a write of action 3 has not completed (spec/16 R350), and which
nothing answers in recovery mode (spec/26 R457). -/
def supAccess (name : String) (cluster : Nat) (s t : State) : Host.Outcome State Fault Refusal :=
  if s.supWaits cluster then .refused (.notEnabled name) else .next (s.whenUp t)

/-- FQ_REFUSE (R339 action 2). -/
def execFqRefuse (cluster seq code : Nat) (s : State) : Host.Outcome State Fault Refusal :=
  supAccess "FQ_REFUSE" cluster s (match s.faultEntry? cluster seq with
    | some e => refuseFault (matched s cluster) e (code % 256)
    | none => noMatch s cluster)

/-- FQ_EXHAUSTED (R339 action 3). -/
def execFqExhausted (cluster seq : Nat) (s : State) : Host.Outcome State Fault Refusal :=
  supAccess "FQ_EXHAUSTED" cluster s (match s.faultEntry? cluster seq with
    | some e => exhaustFault (matched s cluster) e
    | none => noMatch s cluster)

end Sys2Proof.Machine
end

