-- ==== Sys2Proof/Machine/Control.lean ====
section
/-!
DEFINITION. The 45 operations of slot C (spec/05): transfers and the loop stack, tasks, futures, barriers, phases,
waits, scheduler reads, special registers, common-file arithmetic, and the operations that leave the code path.
-/

namespace Sys2Proof.Machine

open Sys2Proof

/-! ### Code addresses -/

/-- The code of a context's grid in its core's instruction store (spec/19 R385). -/
def State.codeOf (s : State) (c : Ctx) : Option CodeSeg := (s.core c.core).code.find? fun g => g.gkey == c.gkey

/-- A run of code bytes at a bundle address, when it lies in the context's instruction region (R385). -/
def fetchBytes (s : State) (c : Ctx) (a n : Nat) : Option (List Byte) :=
  match s.codeOf c with
  | none => none
  | some g =>
    if g.ibase ≤ a ∧ a + n ≤ g.ibase + g.len then
      some (memGetList s.mem (codeBase + c.core * 2 ^ 18 + g.off + (a - g.ibase)) n)
    else none

/-- The address after a bundle, by the header that stands at its address (spec/03 R64); where the header lies outside the
instruction region the spec gives no length, and 4 is added: DESIGN CHOICE, log entry 67. -/
def afterBundle (s : State) (c : Ctx) (a : PC) : PC :=
  match fetchBytes s c a.toNat 4 with
  | some bs => a + BitVec.ofNat 32 (bundleLen (BitVec.ofNat 32 (ofBytesLE bs)))
  | none => a + 4

/-- The next bundle in memory order after the one being issued; a word executed by itself stands in a bundle of its own,
12 bytes long. -/
def Ctx.nextAddr (c : Ctx) : PC := match c.view with | some v => v.next | none => c.pc + 12

/-- The address after the two shadow bundles of a transfer (R105), by their header lengths alone: a loop, loopd or retire.t in the
shadow does not move it. DESIGN CHOICE, log entry 66. -/
def fallthrough (s : State) (c : Ctx) (next : PC) : PC := afterBundle s c (afterBundle s c next)

/-- Bits 31:2 of a source as a bundle address (R104). -/
def codeAddr (w : Word) : PC := BitVec.ofNat 32 (w.toNat % 2 ^ 32 / 4 * 4)

/-- An offset in bundles of 4 bytes from the bundle being issued (R104). -/
def Ctx.rel (c : Ctx) (off : Int) : PC := c.pc + BitVec.ofInt 32 (4 * off)

/-! ### Shapes of C operations -/

/-- Source 1 of a C operation. -/
def cSrc1 (s : State) (f : Fields) : Word := src64 s f.k1 f.src1
/-- Source 2 of a C operation. -/
def cSrc2 (s : State) (f : Fields) : Word := src64 s f.k2 f.src2

/-- A common result of both sources. -/
def alu64 (i : Instr) (p : Pos) (f : Fields) (s : State) (g : Word → Word → Word) : SlotRes :=
  slotOp i f s fun info s => .ok (putCommon s p f.dst.reg info.lat (g (cSrc1 s f) (cSrc2 s f)))

/-- A common result that does not depend on two sources. -/
def get64 (i : Instr) (p : Pos) (f : Fields) (s : State) (g : State → Word) : SlotRes :=
  slotOp i f s fun info s => .ok (putCommon s p f.dst.reg info.lat (g s))

/-- A transfer is pending to a target, with two shadow bundles (R109, spec/03 R82). -/
def setTransfer (s : State) (t : PC) : State := s.modCur fun c => { c with pend := true, target := t, shl := 2 }

/-- A transfer operation that transfers no control still has its two shadow bundles (spec/03 R82, R84). -/
def noTransfer (s : State) : State := s.modCur fun c => { c with pend := false, target := 0, shl := 2 }

/-- A control-transfer operation: disabled, it leaves only its shadow (spec/03 R84). -/
def transferOp (i : Instr) (f : Fields) (s : State) (run : OpInfo → State → SlotRes) : SlotRes :=
  if !enabled s.curCtx f then .ok (noTransfer s) else slotOp i f s run

/-- A label operand: a common register's address, or an immediate offset (R112, R116). -/
def labelOf (s : State) (f : Fields) : PC :=
  match f.k1 with
  | .common => codeAddr (cSrc1 s f)
  | _ => s.curCtx.rel f.src1.imm

/-! ### Transfers and the loop stack -/

/-- BR (R109). -/
def semBr (p : Pos) (f : Fields) (s : State) : SlotRes :=
  transferOp (.br p f) f s fun _ s => .ok (setTransfer s (s.curCtx.rel f.wide))

/-- JMP (R109). -/
def semJmp (p : Pos) (f : Fields) (s : State) : SlotRes :=
  transferOp (.jmp p f) f s fun _ s => .ok (setTransfer s (codeAddr (cSrc1 s f)))

/-- A link to fallthrough (R105, R109). -/
def putLink (s : State) (p : Pos) (f : Fields) (lat : Nat) : State :=
  putCommon s p f.dst.reg lat ((fallthrough s s.curCtx s.curCtx.nextAddr).setWidth 64)

/-- CALL (R109). -/
def semCall (p : Pos) (f : Fields) (s : State) : SlotRes :=
  transferOp (.call p f) f s fun info s => .ok (setTransfer (putLink s p f info.lat) (s.curCtx.rel f.wide))

/-- CALLC (R109): src1 is read before the link is written. -/
def semCallc (p : Pos) (f : Fields) (s : State) : SlotRes :=
  transferOp (.callc p f) f s fun info s => .ok (setTransfer (putLink s p f info.lat) (codeAddr (cSrc1 s f)))

/-- RET (R109). -/
def semRet (p : Pos) (f : Fields) (s : State) : SlotRes :=
  transferOp (.ret p f) f s fun _ s => .ok (setTransfer s (codeAddr (cSrc1 s f)))

/-- Memory order goes on elsewhere; `hard` when the next bundle issued is the one there (retire.t). -/
def setNext (s : State) (t : PC) (hard : Bool) : State := s.modCur fun c => { c with nextPc := some (t, hard) }

/-- LOOP (R110). -/
def semLoop (p : Pos) (f : Fields) (s : State) : SlotRes :=
  slotOp (.loop p f) f s fun _ s =>
    let c := s.curCtx
    let n := (c.common f.src1.reg).toInt
    if c.loops.length ≥ 6 then .illegal
    else if n ≤ 0 then .ok (setNext s (c.rel f.wide) false)
    else .ok (s.modCur fun c =>
      { c with loops := ⟨BitVec.ofNat 32 (min n.toNat (2 ^ 32 - 1)), c.nextAddr, 0⟩ :: c.loops })

/-- A C operation's scratchpad address (spec/07 R154). DEDUCED, log entry 44. -/
def cSpm (w : Word) (align : Nat) : Nat := alignDown (w.toNat % 2 ^ 32) align

/-- Read `n` 64-bit words of a descriptor from a scratchpad address. -/
def withWords (s : State) (addr n : Nat) (k : List Word → SlotRes) : SlotRes :=
  match spmRead s s.curCtx addr (8 * n) with
  | .ok bs => k ((List.range n).map fun i => BitVec.ofNat 64 (ofBytesLE ((bs.drop (8 * i)).take 8)))
  | r => r.fate addr

/-- The loop entry of a descriptor word (R111). -/
def nestEntry (c : Ctx) (w : Word) : LoopEntry where
  count := w.extractLsb' 0 32
  start := c.pc + ((w.extractLsb' 32 32) &&& ~~~3)
  index := 0

/-- LOOPD (R111): a nest of 1 to 6 levels in one commit. -/
def semLoopd (p : Pos) (f : Fields) (s : State) : SlotRes :=
  slotOp (.loopd p f) f s fun _ s =>
    let c := s.curCtx
    let a := cSpm (cSrc1 s f) 8
    withWords s a 1 fun w =>
      let w0 := w.headD 0
      let m := (w0.extractLsb' 0 3).toNat
      if m = 0 ∨ m = 7 ∨ c.loops.length + m > 6 then .illegal
      else withWords s (a + 8) m fun ws =>
        if ws.any fun x => x.extractLsb' 0 32 == 0 then
          .ok (setNext s (c.pc + ((w0.extractLsb' 32 32) &&& ~~~3)) false)
        else .ok (s.modCur fun c => { c with loops := (ws.map (nestEntry c)).reverse ++ c.loops })

/-- LOOPX (R112): n entries leave at issue; the transfer follows. -/
def semLoopx (p : Pos) (f : Fields) (s : State) : SlotRes :=
  transferOp (.loopx p f) f s fun _ s =>
    let n := (f.mod.extractLsb' 0 3).toNat + 1
    if n > s.curCtx.loops.length then .illegal
    else .ok (setTransfer (s.modCur fun c => { c with loops := c.loops.drop n }) (labelOf s f))

/-! ### Tasks -/

/-- FORK and FORKR (R113, R114): the descriptor, the slot check, then the push. -/
def forkOp (i : Instr) (p : Pos) (f : Fields) (s : State) (range : Bool) : SlotRes :=
  slotOp i f s fun info s =>
    let c := s.curCtx
    withWords s (cSpm (cSrc1 s f) 32) 4 fun ws =>
      let d : TaskDesc := ⟨ws[0]?.getD 0, ws[1]?.getD 0, ws[2]?.getD 0, ws[3]?.getD 0⟩
      let put (t : State) (b : Bool) : SlotRes :=
        .ok (putPred t p f.dst.start.toNat info.lat (boolMask b) (BitVec.allOnes 64))
      match s.bar? c.gkey c.gang (d.w0.extractLsb' 44 9).toNat with
      | some b =>
        if !b.joinMode then .illegal
        else match forkTask s c range d with
          | some t => put t true
          | none => put s false
      | none => .illegal

/-- FORK (R114). -/
def semFork (p : Pos) (f : Fields) (s : State) : SlotRes := forkOp (.fork p f) p f s false
/-- FORKR (R114). -/
def semForkr (p : Pos) (f : Fields) (s : State) : SlotRes := forkOp (.forkr p f) p f s true

/-- A declared barrier slot that a C operation names (R122). -/
def withBar (s : State) (b : Word) (k : Barrier → SlotRes) : SlotRes :=
  match s.bar? s.curCtx.gkey s.curCtx.gang b.toNat with
  | some x => k x
  | none => .illegal

/-- JOIN (R117, R362). -/
def semJoin (p : Pos) (f : Fields) (s : State) : SlotRes :=
  slotOp (.join p f) f s fun _ s =>
    withBar s (cSrc1 s f) fun x =>
      if !x.joinMode ∨ s.curCtx.inOrdered then .illegal
      else if x.count ≠ 0 then .stall 4
      else .ok s

/-- TAKE (R115, R360). -/
def semTake (p : Pos) (f : Fields) (s : State) : SlotRes :=
  transferOp (.take p f) f s fun info s =>
    let c := s.curCtx
    if c.loops.length ≥ 6 then .illegal
    else match takeTask s c f.dst.reg with
      | some (e, t) => .ok (putCommon t p f.dst.reg info.lat (takeValue e))
      | none => .ok (noTransfer (putCommon s p f.dst.reg info.lat 0))

/-- RETIRE (R116): every running task completes, innermost first; the sequencer ends with its bundle, its results in flight
discarded. -/
def semRetire (p : Pos) (f : Fields) (s : State) : SlotRes :=
  slotOp (.retire p f) f s fun _ s =>
    let c := s.curCtx
    let s1 := c.tasks.foldl (fun t x => completeTask t c x) s
    .ok (s1.modCur fun c => { c with tasks := [], flight := [], leave := some .retire })

/-- RETIRE.T (R116): the innermost task completes and its loops are popped; the next bundle issued is at the label. -/
def semRetireT (p : Pos) (f : Fields) (s : State) : SlotRes :=
  slotOp (.retireT p f) f s fun _ s =>
    let c := s.curCtx
    let t := labelOf s f
    match c.tasks with
    | [] => .ok (setNext s t true)
    | x :: rest =>
      let s1 := completeTask s c x
      .ok (setNext (s1.modCur fun c =>
        { c with tasks := rest, loops := c.loops.drop (c.loops.length - x.depth) }) t true)

/-- YIELD (R129). -/
def semYield (p : Pos) (f : Fields) (s : State) : SlotRes :=
  slotOp (.yield p f) f s fun _ s => .ok (s.modCur fun c => { c with leave := some .yield })

/-! ### Futures -/

/-- FGET (R119): a full word, or the user-level trap. -/
def semFget (p : Pos) (f : Fields) (s : State) : SlotRes :=
  slotOp (.fget p f) f s fun info s =>
    let a := cSpm (cSrc1 s f) 8
    match spmRange s s.curCtx a 8 with
    | none => .fatal causeSpmRange (BitVec.ofNat 64 a)
    | some _ =>
      if !tagFull s (tagKey s s.curCtx a) then .utrap a
      else withElem s a 8 fun v => .ok (putCommon s p f.dst.reg info.lat (BitVec.ofNat 64 v))

/-- FPUT (R119): a full word is left as it is. -/
def semFput (p : Pos) (f : Fields) (s : State) : SlotRes :=
  slotOp (.fput p f) f s fun _ s =>
    let a := cSpm (cSrc1 s f) 8
    match spmRange s s.curCtx a 8 with
    | none => .fatal causeSpmRange (BitVec.ofNat 64 a)
    | some ks =>
      let tk := tagKey s s.curCtx a
      if tagFull s tk then .ok s
      else .ok (setTag (spmWrite s s.curCtx (ks.zip (toBytesLE 8 (cSrc2 s f).toNat))) tk true)

/-! ### Phases and barriers -/

/-- The lead wait of a phase (R124). -/
def leadWaits (s : State) (c : Ctx) : Bool :=
  let next := s.ctxs.filter fun x =>
    x.gkey == c.gkey && x.gang == c.gang && x.stage == c.stage + 1 && x.status != .ended
  if c.stage + 1 ≥ c.hdr.stages then false
  else match (next.map fun x => x.phase.toNat) with
    | [] => false
    | q :: qs => decide (c.phase.toNat + 1 > qs.foldl min q + c.lead)

/-- The sequencer has earlier off-core commands that have not performed (spec/14 R314). -/
def State.offBusy (s : State) (c : Ctx) : Bool := s.offWaits c fun _ => true

/-- A scope field, no wider than the partition (R124). -/
def scopeOf (n : Nat) : Nat := min n 2

/-- PHASE (R124). -/
def semPhase (p : Pos) (f : Fields) (s : State) : SlotRes :=
  slotOp (.phase p f) f s fun info s =>
    let c := s.curCtx
    let sc := scopeOf (f.mod.extractLsb' 0 2).toNat
    if leadWaits s c then .stall 5
    else if s.offBusy c then .stall 1
    else
      let s1 := orderStores (phaseAcquire (phaseRelease s c sc) c sc) c.handle
      let s2 := putPred s1 p f.dst.start.toNat info.lat (boolMask s1.curCtx.lost) (BitVec.allOnes 64)
      .ok (s2.modCur fun c => { c with phase := c.phase + 1, lost := false })

/-- Change the slot that a C operation names. -/
def setBar (s : State) (b : Word) (x : Barrier) : State :=
  s.modBar s.curCtx.gkey s.curCtx.gang b.toNat fun _ => x

/-- BINIT (R122): 0 for join mode, 1 to 65535 for barrier mode with that target. -/
def semBinit (p : Pos) (f : Fields) (s : State) : SlotRes :=
  slotOp (.binit p f) f s fun _ s =>
    withBar s (cSrc1 s f) fun x =>
      let n := min (cSrc2 s f).toNat 65535
      if x.count ≠ 0 ∨ x.waiters ≠ 0 then .illegal
      else .ok (setBar s (cSrc1 s f) { x with joinMode := decide (n = 0), target := n })

/-- BARRIVE (R122). -/
def semBarrive (p : Pos) (f : Fields) (s : State) : SlotRes :=
  slotOp (.barrive p f) f s fun _ s =>
    withBar s (cSrc1 s f) fun x =>
      if x.joinMode then .illegal else .ok (orderStores (setBar s (cSrc1 s f) (x.arrive false)) s.curCtx.handle)

/-- BWAIT (R122): an arrival, and a wait for its episode. -/
def semBwait (p : Pos) (f : Fields) (s : State) : SlotRes :=
  slotOp (.bwait p f) f s fun _ s =>
    withBar s (cSrc1 s f) fun x =>
      if x.joinMode then .illegal
      else
        let y := x.arrive true
        let s1 := orderStores (setBar s (cSrc1 s f) y) s.curCtx.handle
        if y.episode ≠ x.episode then .ok s1
        else .ok (s1.modCur fun c => { c with barWait := some ⟨(cSrc1 s f).toNat, x.episode⟩, barPc := c.pc })

/-! ### Scheduler and commit reads -/

/-- FRD (R127). -/
def semFrd (p : Pos) (f : Fields) (s : State) : SlotRes :=
  get64 (.frd p f) p f s fun s => s.frontier s.curCtx.part ((cSrc1 s f).toNat % 4096)

/-- The session of a context's job. -/
def State.sessionOf (s : State) (c : Ctx) : Option Session :=
  match s.grid? c.gkey with
  | some g =>
    if g.kind = .launch then none
    else s.sessions.find? fun x => x.part == g.part && x.index == g.session
  | none => none

/-- LVLRD (R127): the Gaffer's copy, zero in a launch. -/
def semLvlrd (p : Pos) (f : Fields) (s : State) : SlotRes :=
  get64 (.lvlrd p f) p f s fun s => match s.sessionOf s.curCtx with | some x => x.copyLevel | none => 0

/-- EMRD (R127). -/
def semEmrd (p : Pos) (f : Fields) (s : State) : SlotRes :=
  get64 (.emrd p f) p f s fun s => match s.sessionOf s.curCtx with | some x => x.copyEmit | none => 0

/-- SRD (R127, spec/01 R38, R39). -/
def semSrd (p : Pos) (f : Fields) (s : State) : SlotRes :=
  get64 (.srd p f) p f s fun s => cSrc1 s f

/-- SWR (R128, spec/01 R38, R39): a writable register takes the value one bundle later, and so does a management register
(spec/24 R444, spec/25 R452) for a management sequencer; any other number is ignored. -/
def semSwr (p : Pos) (f : Fields) (s : State) : SlotRes :=
  slotOp (.swr p f) f s fun info s =>
    let n := f.src1.start.toNat
    if isWritableSpecial n then .ok (putSpecial s p n info.lat (cSrc2 s f))
    else if 0x40 ≤ n ∧ n < 0x80 ∧ s.isMgmt s.curCtx then .ok (s.modCur fun c => { c with mgmt := some (n, cSrc2 s f) })
    else .ok s

/-! ### Leaving the code path -/

/-- The debug unit of a cluster is on and has an owner (spec/23 R435). -/
def State.dbgActive (s : State) (cluster : Nat) : Bool :=
  (s.reg (redReg cluster 0)).getLsbD 2 && s.claims.any fun x => x.res == 72 + cluster && x.held

/-- imm23, unsigned. -/
def imm23W (f : Fields) : Word := f.imm23.setWidth 64

/-- ECALL (R129). -/
def semEcall (p : Pos) (f : Fields) (s : State) : SlotRes :=
  slotOp (.ecall p f) f s fun _ s => .after s causeEcall (imm23W f)

/-- TRAP (R129). -/
def semTrap (p : Pos) (f : Fields) (s : State) : SlotRes :=
  slotOp (.trap p f) f s fun _ s => .after s causeSwtrap (imm23W f)

/-- URET (R121). -/
def semUret (p : Pos) (f : Fields) (s : State) : SlotRes :=
  transferOp (.uret p f) f s fun _ s =>
    if !s.curCtx.trapInfo.getLsbD 63 then .illegal else .ok (returnUserTrap s s.curCtx.handle)

/-- DBRK (R129): ignored when no party owns the debug unit. -/
def semDbrk (p : Pos) (f : Fields) (s : State) : SlotRes :=
  slotOp (.dbrk p f) f s fun _ s =>
    if s.dbgActive (clusterOf s.curCtx.core) then .after s causeDebugBreak (BitVec.ofNat 64 f.src1.toBits.toNat)
    else .ok s

/-- TKWAIT (R125): a stall while the token is pending, and no other effect. -/
def semTkwait (p : Pos) (f : Fields) (s : State) : SlotRes :=
  if enabled s.curCtx f ∧ s.curCtx.pending f.src1.reg then .stall 4 else slotOp (.tkwait p f) f s fun _ s => .ok s

/-! ### Common-file arithmetic (R107, R108) -/

/-- CLI. -/
def semCli (p : Pos) (f : Fields) (s : State) : SlotRes :=
  get64 (.cli p f) p f s fun _ => BitVec.ofInt 64 f.wide

/-- CLUI. -/
def semClui (p : Pos) (f : Fields) (s : State) : SlotRes :=
  get64 (.clui p f) p f s fun s => (s.curCtx.common f.src1.reg <<< 23) ||| imm23W f

/-- CADD. -/
def semCadd (p : Pos) (f : Fields) (s : State) : SlotRes := alu64 (.cadd p f) p f s (· + ·)
/-- CSUB. -/
def semCsub (p : Pos) (f : Fields) (s : State) : SlotRes := alu64 (.csub p f) p f s (· - ·)
/-- CMUL. -/
def semCmul (p : Pos) (f : Fields) (s : State) : SlotRes := alu64 (.cmul p f) p f s (· * ·)
/-- CAND. -/
def semCand (p : Pos) (f : Fields) (s : State) : SlotRes := alu64 (.cand p f) p f s (· &&& ·)
/-- COR. -/
def semCor (p : Pos) (f : Fields) (s : State) : SlotRes := alu64 (.cor p f) p f s (· ||| ·)
/-- CXOR. -/
def semCxor (p : Pos) (f : Fields) (s : State) : SlotRes := alu64 (.cxor p f) p f s (· ^^^ ·)
/-- CSLL: by src2 bits 5:0. -/
def semCsll (p : Pos) (f : Fields) (s : State) : SlotRes := alu64 (.csll p f) p f s fun a b => a <<< (b.toNat % 64)
/-- CSRL. -/
def semCsrl (p : Pos) (f : Fields) (s : State) : SlotRes := alu64 (.csrl p f) p f s fun a b => a >>> (b.toNat % 64)
/-- CSRA. -/
def semCsra (p : Pos) (f : Fields) (s : State) : SlotRes := alu64 (.csra p f) p f s fun a b => a.sshiftRight (b.toNat % 64)

/-- The conditions of R108. -/
def cCond (n : Nat) (a b : Word) : Bool :=
  match n with
  | 0 => a == b
  | 1 => a != b
  | 2 => decide (a.toInt < b.toInt)
  | 3 => decide (a.toInt ≥ b.toInt)
  | 4 => decide (a.toNat < b.toNat)
  | _ => decide (a.toNat ≥ b.toNat)

/-- CCMP (R108). -/
def semCcmp (p : Pos) (f : Fields) (s : State) : SlotRes :=
  slotOp (.ccmp p f) f s fun info s =>
    .ok (putPred s p f.dst.start.toNat info.lat (boolMask (cCond (f.mod.extractLsb' 0 3).toNat (cSrc1 s f) (cSrc2 s f)))
      (BitVec.allOnes 64))

/-- CMOV. -/
def semCmov (p : Pos) (f : Fields) (s : State) : SlotRes := get64 (.cmov p f) p f s fun s => cSrc1 s f

/-- CPSET. -/
def semCpset (p : Pos) (f : Fields) (s : State) : SlotRes :=
  slotOp (.cpset p f) f s fun info s =>
    .ok (putPred s p f.dst.start.toNat info.lat (cSrc1 s f) (BitVec.allOnes 64))

/-- CPGET. -/
def semCpget (p : Pos) (f : Fields) (s : State) : SlotRes :=
  get64 (.cpget p f) p f s fun s => s.curCtx.pred (f.mod.extractLsb' 0 6).toNat

end Sys2Proof.Machine
end

