-- ==== Sys2Proof/Machine/Matrix.lean ====
section
/-!
DEFINITION. The matrix engine (spec/12): accumulators and side memory, ROM routines with the Parison unit and 2:4
sparsity, drains, and the micro-ops of writable routines. An operand is read when the routine completes, or when its
micro-op executes; a routine that meets a fault changes no accumulator word.
-/

namespace Sys2Proof.Machine

open Sys2Proof

/-! ### Islands whose clocks are stopped (spec/24 R447) -/

/-- The banks of the cores whose clocks are stopped are out of reach, but for a core's own. -/
def hideStopped (s : State) (core : Nat) : State :=
  { s with ctxs := s.ctxs.map fun c =>
      if s.clockStopped c.core ∧ c.core ≠ core ∧ c.status ≠ .saved then { c with status := .ended } else c }

/-- A grid that a fatal error is ending (R281). -/
def State.gridKilled (s : State) (gkey : Nat) : Bool :=
  match s.grid? gkey with
  | some g => g.cause.isSome
  | none => true

/-- What an engine of a core does waits for an island's clock: it fails where the banks of the members there are out of reach, and
not otherwise. -/
def islandWaits (s : State) (core gkey : Nat) (go : State → State) : Bool :=
  (s.islands.any fun x => x.2.stage == 2) && (go (hideStopped s core)).gridKilled gkey && !(go s).gridKilled gkey

/-- How an engine's work fails: a cause of spec/11 R237 with its info, the walk's fault code for the completion with its
level and intermediate granule, and the key of poisoned data. -/
structure EFail where
  cause : Nat
  info : Nat
  code : Nat := 0
  key : Nat := 0
  level : Nat := 0
  gran : Nat := 0
  deriving DecidableEq, Repr

/-! ### Engine memories -/

/-- First key of an accumulator word. -/
def accKey (core row col : Nat) : Nat := accBase + core * 2 ^ 16 + (row % 128 * 128 + col % 128) * 4

/-- An accumulator word. -/
def State.acc (s : State) (core row col : Nat) : Nat := s.load (accKey core row col) 4

/-- Write an accumulator word. -/
def State.setAcc (s : State) (core row col v : Nat) : State := s.store (accKey core row col) 4 (v % 2 ^ 32)

/-- Write accumulator words. -/
def State.setAccs (s : State) (core : Nat) (ws : List (Nat × Nat × Nat)) : State :=
  ws.foldl (fun t w => t.setAcc core w.1 w.2.1 w.2.2) s

/-- Zero rows of the accumulators, all 128 columns (R217). -/
def clearRows (s : State) (core row n : Nat) : State :=
  { s with mem := memClear s.mem (accKey core row 0) (accKey core row 0 + n * 512) }

/-- First key of a core's side memory. -/
def sideKey (core : Nat) : Nat := sideBase + core * 2 ^ 14

/-- The engine starts an MQ command of another grid: accumulators and side memory are set to zero (R260). -/
def zeroEngine (s : State) (core gkey : Nat) : State :=
  let k := s.core core
  if k.lastGrid = some gkey then s
  else
    let m1 := memClear s.mem (accBase + core * 2 ^ 16) (accBase + (core + 1) * 2 ^ 16)
    let m2 := memClear m1 (sideKey core) (sideKey (core + 1))
    { s with mem := m2 }.setCore core { k with lastGrid := some gkey }

/-! ### What an mcall captured -/

/-- The captured matrix parameters and scale binding of a call (R259): arguments 1 to 8 are mp0 to mp7, 9 is KB, 10 to 12
are the scale registers bound to A, B and the output. -/
structure CallCtx where
  x : Cmd
  c : Ctx
  mp : Nat → Nat
  kb : Nat
  ka : Int
  kbs : Int
  ko : Int

/-- The capture of a command. -/
def callCtx (s : State) (x : Cmd) : CallCtx where
  x := x
  c := s.cmdCtx x
  mp n := x.arg (1 + n)
  kb := x.arg 9
  ka := ((x.args[10]?).getD 0).toInt
  kbs := ((x.args[11]?).getD 0).toInt
  ko := ((x.args[12]?).getD 0).toInt

/-- A format of KB. -/
def CallCtx.fmt (k : CallCtx) (lsb : Nat) : Option Fmt := Fmt.ofCode (BitVec.ofNat 4 (k.kb / 2 ^ lsb))
/-- fa. -/
def CallCtx.fa (k : CallCtx) : Fmt := (k.fmt 12).getD .int4
/-- fb. -/
def CallCtx.fb (k : CallCtx) : Fmt := (k.fmt 16).getD .int4

/-- A format that the engine takes as an operand (R261). -/
def Fmt.isOperand : Fmt → Bool
  | .int4 | .int8 | .t6 | .t8 | .fp16 | .bf16 => true
  | _ => false

/-- fa and fb are accepted. -/
def CallCtx.fmtsOk (k : CallCtx) : Bool :=
  ((k.fmt 12).map Fmt.isOperand).getD false && ((k.fmt 16).map Fmt.isOperand).getD false

/-- INT32 accumulation (R261). -/
def CallCtx.intMode (k : CallCtx) : Bool := k.fa.isInt && k.fb.isInt

/-- Bits of a captured parameter. -/
def CallCtx.bits (k : CallCtx) (n lsb w : Nat) : Nat := k.mp n / 2 ^ lsb % 2 ^ w

/-! ### Operand elements (R262) -/

/-- The code of element `k` of a row at a scratchpad address. -/
def elemCode (s : State) (c : Ctx) (fm : Fmt) (base k : Nat) : Except EFail Nat :=
  let sp := fm.span k
  let a := (base + sp.1) % 2 ^ 32
  match spmRead s c a sp.2.1 with
  | .ok bs => .ok (ofBytesLE bs / 2 ^ sp.2.2 % 2 ^ fm.memBits)
  | .range => .error { cause := causeSpmRange, info := a }
  | .poison e => .error { cause := causePoisonRead, info := e, key := (spmKey s c e).getD 0 }

/-- The value of a code (R261). -/
def elemVal (fm : Fmt) (uns : Bool) (code : Nat) : FVal :=
  if fm.isInt ∧ uns then .ofInt (code % 2 ^ fm.width) else fm.decode code

/-- A value as an integer, for INT32 mode. -/
def FVal.int : FVal → Int
  | .fin neg m e => if neg then -(m * 2 ^ e.toNat : Nat) else (m * 2 ^ e.toNat : Nat)
  | _ => 0

/-- One chunk step of an accumulator word (R62, R63). -/
def chunkStep (k : CallCtx) (sat : Bool) (acc : Nat) (a b : List FVal) : Nat :=
  if k.intMode then chunkStepI acc ((a.zip b).foldl (fun t p => t + p.1.int * p.2.int) 0) sat
  else chunkStepF acc a b (k.ka + k.kbs)

/-! ### The Parison unit (R268) -/

/-- The geometry limits of R268. -/
def parisonOk (k : CallCtx) : Bool :=
  decide (k.bits 4 0 16 ≠ 0) && decide (k.bits 4 16 16 ≠ 0) && decide (k.bits 4 32 16 ≠ 0) && decide (k.bits 4 48 16 ≠ 0)
  && (match k.fa with
      | .int4 => k.bits 5 36 4 == 0
      | .t6 => k.bits 5 38 2 == 0
      | _ => true)

/-- Element (m, k) of the virtual A operand at position `p`. A geometry that breaks its limits is a descriptor fault; a ROM
routine checks it when it starts (R265), an MMA when it forms an element. DEDUCED, log entry 24. -/
def parison (s : State) (k : CallCtx) (base p kk : Nat) : Except EFail Nat :=
  let W := k.bits 4 16 16
  let C := k.bits 4 32 16
  let H := k.bits 4 0 16
  let OW := k.bits 4 48 16
  let kw := k.bits 5 4 4 + 1
  let oy : Int := (p / OW : Nat)
  let ox : Int := (p % OW : Nat)
  let ch := kk % C
  let t := kk / C
  let kx := t % kw
  let ky := t / kw
  let y : Int := oy * (k.bits 5 8 4 + 1 : Nat) - (k.bits 5 24 4 : Nat) + (ky * (k.bits 5 16 4 + 1) : Nat)
  let x : Int := ox * (k.bits 5 12 4 + 1 : Nat) - (k.bits 5 28 4 : Nat) + (kx * (k.bits 5 20 4 + 1) : Nat)
  if !parisonOk k then .error { cause := causeEngineDesc, info := k.x.pc.toNat }
  else if 0 ≤ y ∧ y < H ∧ 0 ≤ x ∧ x < W then elemCode s k.c k.fa base ((y.toNat * W + x.toNat) * C + ch)
  else .ok (if k.fa.width = 16 then k.bits 5 32 8 * 256 else k.bits 5 32 8 % 2 ^ k.fa.memBits)

/-! ### 2:4 sparsity (R269, R270) -/

/-- The compressed row that holds position `k` of column `n`, by the metadata at a side-memory offset for the 128
positions that hold it; `none` when it is pruned. -/
def sparseRow (s : State) (core off k : Nat) : Option Nat :=
  let g := k % 128 / 4
  let w := s.load (sideKey core + (off + 4 * (g / 8 % 4)) % 2 ^ 14) 4
  let i0 := w / 2 ^ (4 * (g % 8)) % 4
  let i1 := w / 2 ^ (4 * (g % 8) + 2) % 4
  let j := k / 4
  if k % 4 = i0 then some (2 * j) else if k % 4 = i1 then some (2 * j + 1) else none

/-! ### ROM routines (R264-R267) -/

/-- The A element of a ROM kind. -/
def romA (s : State) (k : CallCtx) (kind m kk : Nat) : Except EFail Nat :=
  if kind = 2 ∨ kind = 4 then parison s k (k.bits 0 0 32) (k.bits 5 40 24 + m) kk
  else elemCode s k.c k.fa (k.bits 0 0 32 + m * k.bits 0 32 32) kk

/-- The B element of a ROM kind; `none` when it is pruned. -/
def romB (s : State) (k : CallCtx) (kind kk n : Nat) : Except EFail (Option Nat) :=
  let base := k.bits 1 0 32
  let ldb := k.bits 1 32 32
  if kind = 1 ∨ kind = 5 then (elemCode s k.c k.fb (base + n * ldb) kk).map some
  else if kind = 3 ∨ kind = 4 then
    match sparseRow s k.x.core (k.bits 6 0 14 + (kk / 128 * k.bits 2 8 8 + n) * 16) kk with
    | some j => (elemCode s k.c k.fb (base + j * ldb) n).map some
    | none => .ok none
  else (elemCode s k.c k.fb (base + kk * ldb) n).map some

/-- The 64 A values of one chunk. -/
def romChunkA (s : State) (k : CallCtx) (kind m c : Nat) : Except EFail (List FVal) :=
  (List.range 64).mapM fun i =>
    if 64 * c + i < k.bits 2 16 32 then
      (romA s k kind m (64 * c + i)).map (elemVal k.fa ((k.mp 3).testBit 16))
    else .ok (.fin false 0 0)

/-- The 64 B values of one chunk; a pruned position has none. -/
def romChunkB (s : State) (k : CallCtx) (kind c n : Nat) : Except EFail (List (Option FVal)) :=
  (List.range 64).mapM fun i =>
    if 64 * c + i < k.bits 2 16 32 then
      (romB s k kind (64 * c + i) n).map fun o => o.map (elemVal k.fb ((k.mp 3).testBit 17))
    else .ok (some (.fin false 0 0))

/-- The operands of a chunk: at a pruned position both are +0, so that its product is +0 whatever A holds there (R61). -/
def prunedPairs (a : List FVal) (b : List (Option FVal)) : List FVal × List FVal :=
  ((a.zip b).map fun p => match p.2 with | some _ => p.1 | none => .fin false 0 0,
   b.map fun o => o.getD (.fin false 0 0))

/-- One accumulator word after every chunk, in ascending order (R61, R267). -/
def romWord (s : State) (k : CallCtx) (kind : Nat) (sat : Bool) (m n start : Nat) : Except EFail Nat :=
  (List.range ((k.bits 2 16 32 + 63) / 64)).foldlM (fun acc c => do
    let a ← romChunkA s k kind m c
    let b ← romChunkB s k kind c n
    let p := prunedPairs a b
    return chunkStep k sat acc p.1 p.2) start

/-- The masked value of attn and MSK (R267, R277). -/
def maskWord (k : CallCtx) : Nat := if k.intMode then 0x80000000 else 0xFF800000

/-- The tile of a ROM routine of kinds 0 to 6: its rows, columns and new words. -/
def romTile (s : State) (k : CallCtx) (kind variant : Nat) : Except EFail (List (Nat × Nat × Nat)) :=
  let M := k.bits 2 0 8
  let N := k.bits 2 8 8
  let row0 := k.bits 3 0 7
  let col0 := k.bits 3 8 7
  let clear := variant % 2 = 1
  let sat := decide (variant / 2 = 1)
  let masked (m n : Nat) : Bool :=
    decide (kind = 5) && (k.mp 4).testBit 32 && decide ((n : Int) > m + signed 32 (k.bits 4 0 32))
  (List.range (M * N)).mapM fun j => do
    let m := j / N
    let n := j % N
    let w ← romWord s k kind sat m n (if clear then 0 else s.acc k.x.core (row0 + m) (col0 + n))
    return (row0 + m, col0 + n, if masked m n then maskWord k else w)

/-- A declared barrier slot in barrier mode. -/
def State.barMode (s : State) (c : Ctx) (b : Nat) : Bool :=
  match s.bar? c.gkey c.gang b with
  | some x => !x.joinMode
  | none => false

/-- The piece of a co-operative tile that a sequencer owns (R271). -/
def pieceOf (k : CallCtx) : Option (Nat × Nat) :=
  let g0 := k.bits 4 8 16
  let s0 := k.bits 4 24 6
  if g0 ≤ k.c.gang ∧ k.c.gang - g0 ≤ k.bits 4 0 4 ∧ s0 ≤ k.c.seqid ∧ k.c.seqid - s0 ≤ k.bits 4 4 3 then
    some (k.c.gang - g0, k.c.seqid - s0)
  else none

/-- The layout limits of mp4 for coop and cdrain (R271). -/
def coopOk (s : State) (k : CallCtx) (lsb : Nat) : Bool :=
  !(k.mp 4).testBit 7 && k.bits 4 30 2 == 0 && k.bits 4 50 14 == 0 && (pieceOf k).isSome &&
    s.barMode k.c (k.bits 4 lsb 9)

/-- Columns that pack into whole bytes in an output format (R216, R273). -/
def packsOk (fo : Option Fmt) (cols : Nat) : Bool :=
  match fo with
  | none => false
  | some .t6 => cols % 4 == 0
  | some .int4 => cols % 2 == 0
  | some _ => true

/-- The parameter and format checks of a ROM routine when it starts (R265).
A ROM call that faults changes no accumulator: DEDUCED, log entry 24. -/
def romOk (s : State) (k : CallCtx) (kind : Nat) : Bool :=
  let M := k.bits 2 0 8
  let N := k.bits 2 8 8
  let K := k.bits 2 16 32
  decide (1 ≤ M) && decide (M ≤ 128) && decide (1 ≤ N) && decide (N ≤ 128) && k.bits 2 48 16 == 0 &&
  !(k.mp 3).testBit 7 && !(k.mp 3).testBit 15 && k.bits 3 18 46 == 0 &&
  decide (k.bits 3 0 7 + M ≤ 128) && decide (k.bits 3 8 7 + N ≤ 128) &&
  (if kind = 7 then
     k.fmtsOk && coopOk s k 41 && k.bits 7 38 26 == 0 && (k.bits 7 32 2 == 1 || k.bits 7 32 2 == 2) && packsOk (k.fmt 20) N
   else k.fmtsOk) &&
  (!(kind == 2 || kind == 4) || (k.bits 0 32 32 == 0 && parisonOk k &&
     K == (k.bits 5 0 4 + 1) * (k.bits 5 4 4 + 1) * k.bits 4 32 16)) &&
  (!(kind == 3 || kind == 4) || (k.bits 6 14 50 == 0 &&
     (K == 0 || decide (k.bits 6 0 14 + ((K - 1) / 128 * N + (N - 1)) * 16 + 15 ≤ 16383)))) &&
  (kind != 5 || k.bits 4 33 31 == 0) &&
  (kind != 6 || coopOk s k 32)

/-! ### Drains (R216) -/

/-- An accumulator word converted into the output format. -/
def drainCode (intAcc : Bool) (fo : Fmt) (ko : Int) (v : Nat) : Nat :=
  if intAcc then
    if fo.isInt then (narrow fo.width (clampInt (signed 32 v) (intRange fo.width false))).toNat
    else fo.encode .rne ((FVal.ofInt (signed 32 v)).scale ko)
  else
    let x := (Fmt.fp32.decode v).scale ko
    if fo.isInt then (narrow fo.width (toIntSat fo.width false .rne x)).toNat else fo.encode .rne x

/-- Codes packed densely as R47 gives; bits of the last byte that no code fills are zero, and the byte counts. DESIGN CHOICE, log
entry 65. -/
def packCodes (fm : Fmt) (cs : List Nat) : List Byte :=
  let n := (cs.mapIdx fun i c => (c % 2 ^ fm.memBits) * 2 ^ (fm.memBits * i)).foldl (· + ·) 0
  toBytesLE ((fm.memBits * cs.length + 7) / 8) n

/-- The bytes of one drained row. -/
def drainRow (s : State) (core : Nat) (intAcc : Bool) (fo : Fmt) (ko : Int) (row col cols : Nat) : List Byte :=
  packCodes fo ((List.range cols).map fun j => drainCode intAcc fo ko (s.acc core row (col + j)))

/-- Zero drained words. -/
def clearBlock (s : State) (core row rows col cols : Nat) : State :=
  s.setAccs core ((List.range (rows * cols)).map fun j => (row + j / cols, col + j % cols, 0))

/-! ### Engine accesses to the three spaces (R219, spec/14 R318) -/

/-- The write buffer of the ordered task that issued a command (spec/17 R363). -/
def taskBuffer (s : State) (x : Cmd) : List Host.Cell :=
  match x.task with
  | some ix => (s.slot x.core ix).writes
  | none => []

/-- The traffic class that a command's descriptor names (spec/09 R219, R222, R225). -/
def Cmd.trafficClass (x : Cmd) : Option Nat :=
  match x.instr with
  | .ncopy _ _ | .egath _ _ | .escat _ _ => some (x.arg 4 / 2 ^ 56 % 4)
  | .tnld _ _ | .tnst _ _ | .tnpf _ _ => some (x.arg 6 / 2 ^ 56 % 4)
  | _ => x.cls

/-- The mod field of an E command. -/
def Cmd.mods (x : Cmd) : BitVec 7 := match x.instr.parts with | some y => y.2.2.2.mod | none => 0

/-- What an engine has in hand while it moves bytes: the line that it reads, and the line that it gathers writes for, each with
its space and number, and the bytes gathered, with the bits written of those of which an element is a part. -/
structure EngPort where
  rd : Option (Nat × Nat × Place) := none
  wr : Option (Nat × Nat × Place) := none
  cells : List Host.Cell := []
  bits : List Host.Cell := []

/-- An address of a space, 0 scratchpad, 1 vault, 2 far (R220). -/
def engAddr (space a : Nat) : Nat := if space = 0 then a % 2 ^ 32 else a % 2 ^ 64

/-- Where an engine finds a byte of a space. -/
def engPlace (s : State) (x : Cmd) (space a : Nat) (acc : Acc) : State × Except EFail Place :=
  let c := s.cmdCtx x
  if space = 0 then
    match spmKey s c a with
    | some k => (s, .ok { key := k, vault := true, ia := a, nc := false })
    | none => (s, .error { cause := causeSpmRange, info := a })
  else
    match spaceTarget s c (space == 1) a 1 acc with
    | (s1, .fault code lv ia) =>
      (s1, .error { cause := if space = 1 then causeVaultRange else causeFarFault, info := a, code := code, level := lv,
                    gran := ia / 2 ^ 19 * 2 ^ 19 })
    | (s1, .poison k) => (s1, .error { cause := causePoisonRead, info := a, key := k })
    | (s1, .place pl) => (s1, .ok pl)

/-- A place `n` bytes on. -/
def Place.plus (pl : Place) (n : Nat) : Place := { pl with key := pl.key + n, ia := pl.ia + n }
/-- A place `n` bytes back. -/
def Place.minus (pl : Place) (n : Nat) : Place := { pl with key := pl.key - n, ia := pl.ia - n }

/-- A dirty byte of a coherent line in the cluster cache of a command's core that its reads observe (spec/14 R318): with `.acq`
any, released at cluster scope; else one of another writer, which the issuer's floor may hold. DEDUCED, log entry 64. -/
def cachedByte (s : State) (x : Cmd) (pl : Place) : Option Byte :=
  let c := s.cmdCtx x
  let j := pl.ia % 64
  match s.copyOf (clusterOf c.core) c.part (pl.ia / 64 * 64) with
  | none => none
  | some l =>
    if l.nc ∨ !l.dirty.getLsbD j then none
    else match l.writers.reverse.find? fun w => w.2.getLsbD j with
      | some w => if x.mods.getLsbD 5 ∨ w.1 ≠ x.ctx then l.data[j]? else none
      | none => l.data[j]?

/-- Read one byte of a space. A line that is new in hand is one request of the memory side (spec/13 R299). -/
def engGet (s : State) (p : EngPort) (x : Cmd) (space a0 : Nat) : State × EngPort × Except EFail Byte :=
  let a := engAddr space a0
  let c := s.cmdCtx x
  let q : State × Except EFail Place := match p.rd with
    | some (sp, l, pl) =>
      if sp = space ∧ l = a / 64 then (s, .ok (pl.plus (a % 64))) else engPlace s x space a .read
    | none => engPlace s x space a .read
  match q.2 with
  | .error e => (q.1, p, .error e)
  | .ok pl =>
    let fresh := (p.rd.map fun r => (r.1, r.2.1)) != some (space, a / 64)
    let s1 := if fresh && space != 0 then mscTouch q.1 c.part (ctxReq q.1 x.ctx x.trafficClass) .read pl.key else q.1
    let p1 := { p with rd := some (space, a / 64, pl.minus (a % 64)) }
    match if space = 0 then none else (taskBuffer s1 x).find? fun b => b.1 == pl.byteId with
    | some b => (s1, p1, .ok b.2)
    | none =>
      match if pl.vault then none else cachedByte s1 x pl with
      | some b => (s1, p1, .ok b)
      | none =>
        match (if pl.vault then readBytes s1 pl.key 1 else homeRead s1 pl.key 1) with
        | .ok bs => (s1, p1, .ok (if space = 0 then movedByte s1 x.snap pl.key else bs.headD 0))
        | .error e => (s1, p1, .error { cause := causePoisonRead, info := a, key := e })

/-- The bytes gathered reach their line: at home, or in the write buffer of an ordered task, whose lines count against its limit
(spec/17 R363, R365). -/
def engFlush (s : State) (p : EngPort) (x : Cmd) : State :=
  match p.wr with
  | none => s
  | some (space, _, pl) =>
    if space = 0 then cmdStore s x.ctx p.cells p.bits
    else match x.task with
      | some ix =>
        let t := p.cells.foldl (fun t d => bufferBytes t x.core ix (pl.plus (d.1 - pl.key)) [d.2]) s
        t.modSlot x.core ix fun y => { y with wlines := (y.wlines ++ [pl.byteId]).eraseDups }
      | none => if x.ord then s else engineCells s x.ctx (s.cmdCtx x).part pl p.cells p.bits

/-- A byte joins the bytes gathered, with the bits of it that are written. -/
def EngPort.gather (p : EngPort) (key : Nat) (b mask : Byte) : EngPort :=
  { p with cells := p.cells ++ [(key, b)], bits := if mask = 0xFF ∧ p.bits = [] then [] else p.bits ++ [(key, mask)] }

/-- Write one byte of a space, of which a mask gives the bits written: it joins the bytes gathered for its line, those of another
line going out first, so that a word that the command covers is written whole (spec/13 R304, R305). -/
def engPut (s : State) (p : EngPort) (x : Cmd) (space a0 : Nat) (b : Byte) (mask : Byte := 0xFF) :
    State × EngPort × Option EFail :=
  let a := engAddr space a0
  let c := s.cmdCtx x
  match p.wr with
  | some (sp, l, pl) =>
    if sp = space ∧ l = a / 64 then (s, p.gather (pl.key + a % 64) b mask, none)
    else begin' (engFlush s p x) c a
  | none => begin' s c a
where
  begin' (s1 : State) (c : Ctx) (a : Nat) : State × EngPort × Option EFail :=
    match engPlace s1 x space a .write with
    | (s2, .error e) => (s2, { p with wr := none, cells := [], bits := [] }, some e)
    | (s2, .ok pl) =>
      let s3 := if space = 0 then s2 else mscTouch s2 c.part (ctxReq s2 x.ctx x.trafficClass) .write pl.key
      (s3, { p with wr := some (space, a / 64, pl.minus (a % 64)), cells := [], bits := [] }.gather pl.key b mask, none)

/-- Write parts of bytes at rising addresses of a space, each with the mask of the bits written. -/
def engPutBits (s : State) (p : EngPort) (x : Cmd) (space a : Nat) : List (Byte × Byte) → State × EngPort × Option EFail
  | [] => (s, p, none)
  | b :: bs =>
    match engPut s p x space a b.1 b.2 with
    | (s1, p1, some e) => (s1, p1, some e)
    | (s1, p1, none) => engPutBits s1 p1 x space (a + 1) bs

/-- Write bytes at rising addresses of a space. -/
def engPutAll (s : State) (p : EngPort) (x : Cmd) (space a : Nat) : List Byte → State × EngPort × Option EFail
  | [] => (s, p, none)
  | b :: bs =>
    match engPut s p x space a b with
    | (s1, p1, some e) => (s1, p1, some e)
    | (s1, p1, none) => engPutAll s1 p1 x space (a + 1) bs

/-- Drain rows in ascending order (R273 step 1, R279); `addr` gives each row's first byte. -/
def drainRows (s : State) (k : CallCtx) (space : Nat) (addr : Nat → Nat) (intAcc clr : Bool) (row col cols : Nat) :
    List Nat → State × Option EFail
  | [] => (s, none)
  | i :: rest =>
    let bs := drainRow s k.x.core intAcc ((k.fmt 20).getD .fp32) k.ko (row + i) col cols
    match engPutAll s {} k.x space (addr i) bs with
    | (s1, p, some e) => (engFlush s1 p k.x, some e)
    | (s0, p, none) =>
      let s1 := engFlush s0 p k.x
      let s2 := if clr then clearBlock s1 k.x.core (row + i) 1 col cols else s1
      drainRows s2 k space addr intAcc clr row col cols rest

/-- Every write of the sequencer that was issued before a command has left its off-core queue, on every queue (spec/14 R314): a
release of the command waits for that (R208, R231, R273). -/
def relReady (s : State) (x : Cmd) : Bool :=
  !s.cmds.any fun y => y.ctx == x.ctx && decide (y.cid < x.cid) &&
    (match y.instr with | .fst _ _ | .fstv _ _ | .amo _ _ | .amocas _ _ => true | _ => false)

/-- The release of an engine command: the sequencer's earlier writes at a scope; the engine's own are at home. -/
def engineRelease (s : State) (x : Cmd) (scope : Nat) : State := phaseRelease s (s.cmdCtx x) (scopeOf scope)

/-- CDRAIN (R273). -/
def runCdrain (s : State) (k : CallCtx) (variant : Nat) : State × Option EFail :=
  let M := k.bits 2 0 8
  let N := k.bits 2 8 8
  let fo := (k.fmt 20).getD .fp32
  match pieceOf k with
  | none => (s, some { cause := causeEngineDesc, info := k.x.pc.toNat })
  | some (pr, pc) =>
    let addr (i : Nat) : Nat := k.mp 6 + (M * pr + i) * k.bits 7 0 32 + (fo.memBits * (N * pc)) / 8
    match drainRows s { k with x := { k.x with cls := some (k.bits 7 34 2) } } (k.bits 7 32 2) addr
        (variant / 2 == 1) (variant % 2 == 1) (k.bits 3 0 7) (k.bits 3 8 7) N
        (List.range M) with
    | (s1, some e) => (s1, some e)
    | (s1, none) =>
      let s2 := engineRelease s1 k.x (k.bits 7 36 2)
      (s2.arrive k.c.gkey k.c.gang (k.bits 4 41 9), none)

/-- The scratchpad as a command finds it that reads a source byte at some time between its start and its completion (spec/09
R207). -/
def srcView (s : State) (x : Cmd) : State :=
  { s with loose := [],
           mem := (x.snap.map (·.1) ++ (s.mem.map (·.1)).filter (· ≥ spmBase)).foldl
             (fun m k => memSet m k (movedByte s x.snap k)) s.mem }

/-- The costs of a call by the wider of its formats (R263): the cycles of a weight block's load, and those of an MMA of some rows. -/
def callCost (k : CallCtx) (rows : Nat) : Nat × Nat :=
  let w := max k.fa.width k.fb.width
  if w = 16 then (32, 4 * rows) else if w = 8 then (16, rows) else (8, (rows + 1) / 2)

/-- The weight blocks that a ROM routine's tile needs (R263): for each 64 columns one for each chunk of K, or for each two of a sparse
one. -/
def romBlocks (k : CallCtx) (kind : Nat) : Nat :=
  let span := if kind = 3 ∨ kind = 4 then 128 else 64
  (k.bits 2 16 32 + span - 1) / span * ((k.bits 2 8 8 + 63) / 64)

/-- The cycles that a ROM routine takes with no stall (R263). A cdrain drains one row in a cycle, as a DRN does (R282). DEDUCED, log
entry 61. -/
def romTime (k : CallCtx) (kind : Nat) : Nat :=
  let c := callCost k (k.bits 2 0 8)
  if kind = 7 then k.bits 2 0 8
  else if romBlocks k kind = 0 then 0
  else c.1 + (romBlocks k kind - 1) * max c.1 c.2 + c.2

/-- The COMPUTE, DRAIN and WEIGHT cycles among the first `p` cycles of a ROM routine's schedule (R263, R283): each block is loaded
during the MMA of the one before it, and a cycle in which both go on is a COMPUTE cycle. -/
def romSums (k : CallCtx) (kind p : Nat) : Nat × Nat × Nat :=
  let c := callCost k (k.bits 2 0 8)
  let nb := romBlocks k kind
  if kind = 7 then (0, min p (k.bits 2 0 8), 0)
  else if nb = 0 then (0, 0, 0)
  else
    let q := p - c.1
    let j := min (q / max c.1 c.2) (nb - 1)
    let r := q - j * max c.1 c.2
    (j * c.2 + min r c.2, 0, min p c.1 + j * (max c.1 c.2 - c.2) + (if j < nb - 1 then r - c.2 else 0))

/-- A ROM routine's work (R267, R273). A co-operative one reads its operands after its barrier (R272): at times from when it is
seen to have passed it, or all when it completes. -/
def runRom (s : State) (k : CallCtx) (idx : Nat) : State × Option EFail :=
  if idx / 4 = 7 then runCdrain s k (idx % 4)
  else match romTile (if idx / 4 = 6 ∧ k.x.progress = 0 then { s with loose := [] } else srcView s k.x) k (idx / 4) (idx % 4) with
    | .error e => (s, some e)
    | .ok ws => (s.setAccs k.x.core ws, none)

/-! ### Micro-ops (R276-R281) -/

/-- Which fields, flags and immediate bits an op uses (R277): fields f0 to f5 as a mask from bit 0. -/
def uopUses (op : Nat) (flags : Nat) : Nat × Nat × Nat :=
  match op with
  | 2 => (1, 0, 2 ^ 32 - 1)
  | 3 => (1, 0, 0x1F3F07)
  | 4 => (7, 1, 2 ^ 32 - 1)
  | 5 => (1, 3, 0x3FF)
  | 6 => (0, 3, 0x3FF)
  | 7 => (if flags.testBit 2 then 31 else 15, 15, 0)
  | 8 => (if flags.testBit 1 then 61 else 63, 15, 0)
  | 9 => (3, 0, 0)
  | 10 => (15, 0, 0)
  | 11 => (63, 15, 0x307)
  | 12 => (0, 0, 0x1FF)
  | 13 => (0, 7, 0x1FF)
  | _ => (0, 0, 0)

/-- The load-time checks of one micro-op at an index of a routine of `len` (R280). -/
def uopOk (len i : Nat) (w : Word) : Bool :=
  let op := (w.extractLsb' 60 4).toNat
  let u := MicroOp.ofWord w
  let use := uopUses op u.flags.toNat
  let fs := [u.f0, u.f1, u.f2, u.f3, u.f4, u.f5]
  decide (op < 14) && u.zero == 0 &&
  ((fs.mapIdx fun j f => use.1.testBit j || f == 0).all id) &&
  u.flags.toNat &&& use.2.1 == u.flags.toNat &&
  u.imm.toNat &&& use.2.2 == u.imm.toNat &&
  (op != 3 || decide (u.imm.toNat / 2 ^ 8 % 64 + (u.imm.toNat / 2 ^ 16 % 32 + 1) ≤ 64)) &&
  (op != 5 || (decide (u.imm.toNat % 1024 > i) && decide (u.imm.toNat % 1024 < len))) &&
  (op != 6 || decide (u.imm.toNat % 1024 ≤ i)) &&
  (op != 11 || u.flags.extractLsb' 0 2 != 3) &&
  (i + 1 != len || op == 0)

end Sys2Proof.Machine
end

