-- ==== Sys2Proof/Machine/Uops.lean ====
section
/-!
DEFINITION. The steps of a running writable routine (spec/12 R275-R281): one step executes the micro-op that the core's
matrix engine has come to. A DRN takes the accumulator words when it issues and runs on while later micro-ops issue, so that its
rows reach memory at any of their steps, in order (R273, R282). DEDUCED, log entry 61.
-/

namespace Sys2Proof.Machine

open Sys2Proof

/-- A command fails in an engine (R218, R221, R281): REFUSED with the walk's code and a count, then its fate; consumed
poison is recorded (spec/13 R306). -/
def failEng (s : State) (x : Cmd) (e : EFail) (count : Nat) : State :=
  let s1 := if e.cause = causePoisonRead then
      let pl := s.errPlace e.key
      errRecord s (s.partOfKey e.key) 4 pl.1 pl.2.1 pl.2.2 x.ctx 0
    else s
  failCmd s1 x e.cause e.code count (BitVec.ofNat 64 e.info)

/-- Change a core's running routine. -/
def setRun (s : State) (core : Nat) (r : Option EngineRun) : State := s.setCore core { s.core core with run := r }

/-- A row that a DRN has formed is written (R279). A load sees an old byte of the scratchpad until the command ends (spec/09
R207). -/
def landRow (s : State) (x : Cmd) (d : DrainRow) : State × Option EFail :=
  let y := { x with cls := some d.cls }
  match engPutAll s {} y d.space d.addr d.bytes with
  | (s1, p, e) =>
    let t := engFlush s1 p y
    (if d.space = 0 then loosen t x.cid (p.cells.map fun b => (b.1, memGet s.mem b.1)) else t, e)

/-- Rows are written in order, up to one that fails (R273). -/
def landRows (s : State) (x : Cmd) : List DrainRow → State × Option EFail
  | [] => (s, none)
  | d :: ds =>
    match landRow s x d with
    | (s1, some e) => (s1, some e)
    | (s1, none) => landRows s1 x ds

/-- The rows of the DRNs that run when an engine comes to a micro-op and that have been written since, a free number of them, or all
where the micro-op waits for every DRN (R282). -/
def landed (s : State) (core : Nat) (r : EngineRun) (all : Bool) : Nat :=
  if all then r.drains.length else min (Config.drained s.stepNo core) r.drains.length

/-- The routine ends in a fault: the DRNs that still run finish, the engine is free and the call fails. -/
def failRun (s : State) (core : Nat) (x : Cmd) (e : EFail) : State :=
  let s1 := match (s.core core).run with
    | some r => (landRows s x r.drains).1
    | none => s
  failEng (setRun s1 core none) x e 0

/-- A routine's descriptor fault (R281). -/
def descFail (x : Cmd) : EFail := { cause := causeEngineDesc, info := x.pc.toNat }

/-- The state that an outcome leads to. -/
def outState (s : State) (o : Host.Outcome State Fault Refusal) : State := match o with | .next t => t | _ => s

/-- What a micro-op's step is over: the state in which it issues, the run, its command and capture. `i` must be the micro-op that
the run has come to, and `all` says that it waits for every running DRN (R282). While a fatal error ends the grid, the micro-op is
ignored (R281), and while the core's clock is stopped, or that of a member whose banks it reads or writes, it pauses (spec/24 R447). -/
def uopStep (name : String) (i : Instr) (core : Nat) (all : Bool) (s : State)
    (k : State → EngineRun → CallCtx → Host.Outcome State Fault Refusal) : Host.Outcome State Fault Refusal :=
  match (s.core core).run with
  | none => .refused (.notEnabled name)
  | some r =>
    match s.cmd? r.cid, (s.core core).store.find? fun y => y.index == r.index with
    | some x, some y =>
      if s.clockStopped core ∨ (y.ops[r.upc]?).bind (uopOf core) ≠ some i then .refused (.notEnabled name)
      else if s.gridKilled x.gkey then .next (setRun s core (some { r with upc := r.upc + 1, waiting := none }))
      else
        let n := landed s core r all
        let r1 := { r with drains := r.drains.drop n }
        let go (t : State) : Host.Outcome State Fault Refusal :=
          match landRows t x (r.drains.take n) with
          | (s1, some e) => .next (failRun (setRun s1 core (some { r with drains := [] })) core x e)
          | (s1, none) => k (setRun s1 core (some r1)) r1 (callCtx s1 x)
        if islandWaits s core x.gkey fun t => outState t (go t) then .refused (.notEnabled name) else go s
    | _, _ => .refused (.notEnabled name)

/-- Go on at the next micro-op. -/
def uopNext (s : State) (core : Nat) (r : EngineRun) : Host.Outcome State Fault Refusal :=
  .next (setRun s core (some { r with upc := r.upc + 1 }))

/-- A routine register. -/
def EngineRun.reg (r : EngineRun) (f : BitVec 3) : BitVec 32 := r.ix[f.toNat]?.getD 0

/-- Write a routine register and go on. -/
def uopSet (s : State) (core : Nat) (r : EngineRun) (f : BitVec 3) (v : BitVec 32) : Host.Outcome State Fault Refusal :=
  uopNext s core { r with ix := r.ix.setIfInBounds f.toNat v }

/-- END: the routine has ended, once everything earlier has finished (R277, R282). -/
def execUopEnd (core : Nat) (u : MicroOp) (s : State) : Host.Outcome State Fault Refusal :=
  match (s.core core).run with
  | none => .refused (.notEnabled "UOP_END")
  | some r =>
    match s.cmd? r.cid, (s.core core).store.find? fun y => y.index == r.index with
    | some x, some y =>
      if !s.clockStopped core ∧ (y.ops[r.upc]?).bind (uopOf core) = some (.uopEnd core u) then
        let go (t : State) : State :=
          match landRows t x r.drains with
          | (s1, some e) => failRun (setRun s1 core (some { r with drains := [] })) core x e
          | (s1, none) => setRun s1 core (some { r with upc := 2048, drains := [] })
        if islandWaits s core x.gkey go then .refused (.notEnabled "UOP_END") else .next (go s)
      else .refused (.notEnabled "UOP_END")
    | _, _ => .refused (.notEnabled "UOP_END")

/-- NOP. -/
def execUopNop (core : Nat) (u : MicroOp) (s : State) : Host.Outcome State Fault Refusal :=
  uopStep "UOP_NOP" (.uopNop core u) core false s fun s r _ => uopNext s core r

/-- SETI. -/
def execUopSeti (core : Nat) (u : MicroOp) (s : State) : Host.Outcome State Fault Refusal :=
  uopStep "UOP_SETI" (.uopSeti core u) core false s fun s r _ => uopSet s core r u.f0 u.imm

/-- SETP. -/
def execUopSetp (core : Nat) (u : MicroOp) (s : State) : Host.Outcome State Fault Refusal :=
  uopStep "UOP_SETP" (.uopSetp core u) core false s fun s r k =>
    let im := u.imm.toNat
    uopSet s core r u.f0 (BitVec.ofNat 32 (k.bits (im % 8) (im / 2 ^ 8 % 64) (im / 2 ^ 16 % 32 + 1)))

/-- MAD. -/
def execUopMad (core : Nat) (u : MicroOp) (s : State) : Host.Outcome State Fault Refusal :=
  uopStep "UOP_MAD" (.uopMad core u) core false s fun s r _ =>
    let y : BitVec 32 := if u.flags.getLsbD 0 then 1 else r.reg u.f2
    uopSet s core r u.f0 (r.reg u.f1 + y * u.imm)

/-- The loop counter that a LOOP or ENDL names. -/
def uopLc (u : MicroOp) : Nat := (u.flags.extractLsb' 0 2).toNat

/-- LOOP. -/
def execUopLoop (core : Nat) (u : MicroOp) (s : State) : Host.Outcome State Fault Refusal :=
  uopStep "UOP_LOOP" (.uopLoop core u) core false s fun s r _ =>
    if r.reg u.f0 = 0 then .next (setRun s core (some { r with upc := u.imm.toNat % 1024 }))
    else uopNext s core { r with lc := r.lc.setIfInBounds (uopLc u) (r.reg u.f0) }

/-- ENDL. -/
def execUopEndl (core : Nat) (u : MicroOp) (s : State) : Host.Outcome State Fault Refusal :=
  uopStep "UOP_ENDL" (.uopEndl core u) core false s fun s r _ =>
    let n := r.lc[(uopLc u)]?.getD 0
    if n.toNat > 1 then
      .next (setRun s core (some { r with lc := r.lc.setIfInBounds (uopLc u) (n - 1), upc := u.imm.toNat % 1024 }))
    else uopNext s core { r with lc := r.lc.setIfInBounds (uopLc u) 0 }

/-- One element of a weight block (R278), of a sparse one by the group and the place in it of the position itself (R269). A block
with both T and S set is a sparse one. DEDUCED, log entry 73. -/
def ldwElem (s : State) (k : CallCtx) (u : MicroOp) (base ldb k0 n0 side kk nn : Nat) : Except EFail (Nat × Nat) :=
  let kpos := k0 + kk
  let n := n0 + nn
  let tag (c : Nat) : Nat × Nat := (if u.flags.getLsbD 3 then 2 else 1, c)
  if kpos ≥ k.bits 2 16 32 ∨ n ≥ k.bits 2 8 8 then .ok (0, 0)
  else if u.flags.getLsbD 2 then
    if side + nn * 16 + 15 > 16383 then .error (descFail k.x)
    else match sparseRow s k.x.core (side + nn * 16) kpos with
      | none => .ok (3, 0)
      | some j => (elemCode s k.c k.fb (base + j * ldb) n).map tag
  else if u.flags.getLsbD 1 then (elemCode s k.c k.fb (base + n * ldb) kpos).map tag
  else (elemCode s k.c k.fb (base + kpos * ldb) n).map tag

/-- LDW (R278). -/
def execUopLdw (core : Nat) (u : MicroOp) (s : State) : Host.Outcome State Fault Refusal :=
  uopStep "UOP_LDW" (.uopLdw core u) core false s fun s r k =>
    if !k.fmtsOk then .next (failRun s core k.x (descFail k.x))
    else
      let k0 := (r.reg u.f2).toNat
      let n0 := (r.reg u.f3).toNat
      let span := if u.flags.getLsbD 2 then 128 else 64
      let rows := (List.range span).mapM fun kk => (List.range 64).mapM fun nn =>
        ldwElem { s with loose := [] } k u (r.reg u.f0).toNat (r.reg u.f1).toNat k0 n0 (r.reg u.f4).toNat kk nn
      match rows with
      | .error e => .next (failRun s core k.x e)
      | .ok m =>
        let wb : WeightBuf := { rows := m, validN := min (k.bits 2 8 8 - n0) 64, k0 := k0, span := span }
        uopNext s core (if u.flags.getLsbD 0 then { r with wb1 := wb } else { r with wb0 := wb })

/-- The value of a weight-buffer element; a pruned one has none. -/
def wbVal (fb : Fmt) (e : Nat × Nat) : Option FVal :=
  if e.1 = 0 then some (.fin false 0 0) else if e.1 = 3 then none else some (elemVal fb (e.1 == 2) e.2)

/-- One A value of an MMA (R278). -/
def mmaA (s : State) (k : CallCtx) (r : EngineRun) (u : MicroOp) (i kk : Nat) : Except EFail FVal :=
  let pos := (r.reg u.f5).toNat + kk
  if pos ≥ k.bits 2 16 32 then .ok (.fin false 0 0)
  else
    let code := if u.flags.getLsbD 1 then
        parison s k (k.bits 0 0 32) (k.bits 5 40 24 + (r.reg u.f0).toNat + i) pos
      else elemCode s k.c k.fa ((r.reg u.f0).toNat + i * (r.reg u.f1).toNat) pos
    code.map (elemVal k.fa (u.flags.getLsbD 2))

/-- The new accumulator words of an MMA: each row's A elements are formed once for each chunk, whatever columns there are (R278).
A K of 0 changes no word (R61). -/
def mmaTile (s : State) (k : CallCtx) (r : EngineRun) (u : MicroOp) (wb : WeightBuf) :
    Except EFail (List (Nat × Nat × Nat)) :=
  let rows := (r.reg u.f2).toNat
  let row0 := (r.reg u.f3).toNat
  let col0 := (r.reg u.f4).toNat
  (((List.range rows).mapM fun i => do
    let as ← (List.range (wb.span / 64)).mapM fun h => (List.range 64).mapM fun kk => mmaA s k r u i (64 * h + kk)
    return (List.range wb.validN).map fun n =>
      (row0 + i, col0 + n, (as.mapIdx fun h a => (h, a)).foldl (fun acc ha =>
        let p := prunedPairs ha.2
          ((List.range 64).map fun kk => wbVal k.fb (((wb.rows[64 * ha.1 + kk]?.getD [])[n]?).getD (0, 0)))
        if k.bits 2 16 32 = 0 then acc else chunkStep k (u.flags.getLsbD 3) acc p.1 p.2)
        (s.acc k.x.core (row0 + i) (col0 + n)))) : Except EFail (List (List (Nat × Nat × Nat)))).map List.flatten

/-- MMA (R278, R281). -/
def execUopMma (core : Nat) (u : MicroOp) (s : State) : Host.Outcome State Fault Refusal :=
  uopStep "UOP_MMA" (.uopMma core u) core true s fun s r k =>
    let wb := if u.flags.getLsbD 0 then r.wb1 else r.wb0
    let rows := (r.reg u.f2).toNat
    if !k.fmtsOk then .next (failRun s core k.x (descFail k.x))
    else if rows = 0 then uopNext s core r
    else if rows > 128 ∨ (r.reg u.f3).toNat + rows > 128 ∨ (r.reg u.f4).toNat + wb.validN > 128 then
      .next (failRun s core k.x (descFail k.x))
    else match mmaTile { s with loose := [] } k r u wb with
      | .error e => .next (failRun s core k.x e)
      | .ok ws => uopNext (s.setAccs core ws) core r

/-- ACLR (R277, R281). -/
def execUopAclr (core : Nat) (u : MicroOp) (s : State) : Host.Outcome State Fault Refusal :=
  uopStep "UOP_ACLR" (.uopAclr core u) core false s fun s r k =>
    let row := (r.reg u.f0).toNat
    let n := (r.reg u.f1).toNat
    if n = 0 then uopNext s core r
    else if row + n > 128 then .next (failRun s core k.x (descFail k.x))
    else uopNext (clearRows s core row n) core r

/-- MSK (R277, R281). -/
def execUopMsk (core : Nat) (u : MicroOp) (s : State) : Host.Outcome State Fault Refusal :=
  uopStep "UOP_MSK" (.uopMsk core u) core false s fun s r k =>
    let rb := (r.reg u.f0).toNat
    let n := (r.reg u.f1).toNat
    let cb := (r.reg u.f2).toNat
    let off := (r.reg u.f3).toInt
    if n = 0 then uopNext s core r
    else if rb + n > 128 ∨ cb > 127 then .next (failRun s core k.x (descFail k.x))
    else
      let ws := (List.range (n * (128 - cb))).filterMap fun j =>
        let dr := j / (128 - cb)
        let dc := j % (128 - cb)
        if (dc : Int) > dr + off then some (rb + dr, cb + dc, maskWord k) else none
      uopNext (s.setAccs core ws) core r

/-- DRN (R279, R281): it forms its rows, which the steps from the next one on write (R282). -/
def execUopDrn (core : Nat) (u : MicroOp) (s : State) : Host.Outcome State Fault Refusal :=
  uopStep "UOP_DRN" (.uopDrn core u) core false s fun s r k =>
    let row := (r.reg u.f0).toNat
    let rows := (r.reg u.f1).toNat
    let col := (r.reg u.f2).toNat
    let cols := (r.reg u.f3).toNat
    let addr (i : Nat) : Nat := k.mp (u.imm.toNat % 8) + (r.reg u.f4).toNat + i * (r.reg u.f5).toNat
    if rows = 0 ∨ cols = 0 then uopNext s core r
    else if row + rows > 128 ∨ col + cols > 128 ∨ !packsOk (k.fmt 20) cols then
      .next (failRun s core k.x (descFail k.x))
    else
      let row' (i : Nat) : DrainRow :=
        { space := (u.flags.extractLsb' 0 2).toNat, addr := addr i, cls := (u.imm.extractLsb' 8 2).toNat,
          bytes := drainRow s core (u.flags.getLsbD 2) ((k.fmt 20).getD .fp32) k.ko (row + i) col cols }
      uopNext (if u.flags.getLsbD 3 then clearBlock s core row rows col cols else s) core
        { r with drains := r.drains ++ (List.range rows).map row' }

/-- BWT (R277, R272): an arrival, then the wait for its episode, while rows of running DRNs may be written. -/
def execUopBwt (core : Nat) (u : MicroOp) (s : State) : Host.Outcome State Fault Refusal :=
  uopStep "UOP_BWT" (.uopBwt core u) core false s fun t r k =>
    let b := u.imm.toNat % 512
    match r.waiting with
    | some w =>
      if t.barPassed k.c.gkey k.c.gang w then uopNext t core { r with waiting := none }
      else if (s.core core).run ≠ some r then .next t
      else .refused (.notEnabled "UOP_BWT")
    | none =>
      match t.bar? k.c.gkey k.c.gang b with
      | some x =>
        if x.joinMode then .next (failRun t core k.x (descFail k.x))
        else
          let y := x.arrive true
          let s1 := t.modBar k.c.gkey k.c.gang b fun _ => y
          if y.episode ≠ x.episode then uopNext s1 core r
          else .next (setRun s1 core (some { r with waiting := some ⟨b, x.episode⟩ }))
      | none => .next (failRun t core k.x (descFail k.x))

/-- BAR (R277): a release when rel is set, then one arrival. -/
def execUopBar (core : Nat) (u : MicroOp) (s : State) : Host.Outcome State Fault Refusal :=
  uopStep "UOP_BAR" (.uopBar core u) core (u.flags.getLsbD 0) s fun s r k =>
    let b := u.imm.toNat % 512
    if !s.barMode k.c b then .next (failRun s core k.x (descFail k.x))
    else if u.flags.getLsbD 0 ∧ !relReady s k.x then .refused (.notEnabled "UOP_BAR")
    else
      let s1 := if u.flags.getLsbD 0 then engineRelease s k.x (u.flags.extractLsb' 1 2).toNat else s
      uopNext (s1.arrive k.c.gkey k.c.gang b) core r

end Sys2Proof.Machine
end

