-- ==== Sys2Proof/Machine/Engine.lean ====
section
/-!
DEFINITION. The 21 operations of slot E (spec/09): what each does when it issues, and the start and completion of engine
commands (R205-R231). An engine moves its bytes when its command completes, reading each source byte as it is then or as it was
at the start, and loads may see the bytes it is to write from its start on, as R207 allows.
A command that reads a descriptor captures its address as argument 0 and the descriptor's words after it.
-/

namespace Sys2Proof.Machine

open Sys2Proof

/-! ### Descriptors -/

/-- A descriptor word of a command. -/
def Cmd.word (x : Cmd) (n : Nat) : Nat := x.arg (n + 1)

/-- Bits of a number. -/
def bitsOf (v lsb w : Nat) : Nat := v / 2 ^ lsb % 2 ^ w

/-- The descriptor of accld, accst and adrain (R215): row0, rows, col0, cols, address. -/
def accDesc (w : Nat) : Nat × Nat × Nat × Nat × Nat :=
  (bitsOf w 32 7, bitsOf w 40 7 + 1, bitsOf w 48 7, bitsOf w 56 7 + 1, bitsOf w 0 32)

/-- Its limits. -/
def accDescOk (w : Nat) : Bool :=
  let d := accDesc w
  !w.testBit 63 && !w.testBit 55 && !w.testBit 47 && !w.testBit 39 && decide (d.1 + d.2.1 ≤ 128) &&
    decide (d.2.2.1 + d.2.2.2.1 ≤ 128)

/-- A count of ncopy: n0 to n5 (R219). -/
def ncopyCount (x : Cmd) (t : Nat) : Nat := if t < 4 then bitsOf (x.word 2) (16 * t) 16 else bitsOf (x.word 3) (16 * (t - 4)) 16

/-- Bytes that an ncopy moves. -/
def ncopyTotal (x : Cmd) : Nat := ((List.range 6).map (ncopyCount x)).foldl (· * ·) 1

/-- A tile's coordinate and extent of a dimension (R225). -/
def tileO (x : Cmd) (t : Nat) : Int := signed 32 (bitsOf (x.word (1 + t / 2)) (32 * (t % 2)) 32)
/-- Extent. -/
def tileE (x : Cmd) (t : Nat) : Nat := if t < 4 then bitsOf (x.word 4) (16 * t) 16 else bitsOf (x.word 5) (16 * (t - 4)) 16

/-- A bound tensor handle (spec/13 R295). -/
structure Handle where
  base : Nat
  fmt : Fmt
  rank : Nat
  vault : Bool
  pad : Nat
  dims : List Nat

/-- A handle of a command's grid. -/
def handleOf (s : State) (x : Cmd) : Option Handle :=
  match s.grid? x.gkey with
  | none => none
  | some g =>
    match g.handles[bitsOf (x.word 0) 0 16]? with
    | none => none
    | some ws =>
      let w (n : Nat) : Nat := ((ws[n]?).getD 0).toNat
      match Fmt.ofCode (BitVec.ofNat 4 (w 1)) with
      | none => none
      | some fm =>
        some { base := w 0, fmt := fm, rank := bitsOf (w 1) 4 3 + 1, vault := (w 1).testBit 7, pad := bitsOf (w 1) 16 16,
               dims := (List.range 6).map fun t => bitsOf (w (2 + t / 2)) (32 * (t % 2)) 32 }

/-- Elements of a tile. -/
def tileCount (x : Cmd) : Nat := ((List.range 6).map (tileE x)).foldl (· * ·) 1

/-- Bytes of `n` packed elements. -/
def packedBytes (fm : Fmt) (n : Nat) : Nat := (fm.memBits * n + 7) / 8

/-- The checks of a tile request (R225). -/
def tileOk (s : State) (x : Cmd) : Bool :=
  match handleOf s x with
  | none => false
  | some h =>
    bitsOf (x.word 0) 16 16 == 0 && bitsOf (x.word 5) 60 4 == 0 && !(x.word 5).testBit 58 && bitsOf (x.word 5) 32 24 == 0 &&
    ((List.range 6).all fun t => decide (t < h.rank) || (tileE x t == 1 && tileO x t == 0)) &&
    decide (packedBytes h.fmt (tileCount x) ≤ 786432)

/-- Members that a mask selects. -/
def maskMembers (m : Nat) : List Nat := (List.range 64).filter m.testBit

/-- The fields of a coll (R226): format, op, kind, root, count. -/
def collFmt (x : Cmd) : Nat := bitsOf (x.word 1) 36 4
/-- op. -/
def collOp (x : Cmd) : Nat := bitsOf (x.word 1) 32 3
/-- kind. -/
def collKind (x : Cmd) : Nat := bitsOf (x.word 1) 40 2
/-- root member. -/
def collRoot (x : Cmd) : Nat := bitsOf (x.word 1) 42 6
/-- element count. -/
def collN (x : Cmd) : Nat := bitsOf (x.word 1) 0 32

/-- The checks of a coll (R227). -/
def collOk (s : State) (x : Cmd) : Bool :=
  let P := (maskMembers (x.word 2)).length
  x.word 3 == 0 && !(x.word 1).testBit 35 && decide (collFmt x ≤ 9) && (x.word 2).testBit (s.ctx x.ctx).seqid &&
  (collKind x != 3 || (x.word 2).testBit (collRoot x)) && (collKind x != 1 || collN x % P == 0) &&
  (decide (collFmt x < 5) || decide (collOp x < 3))

/-- The checks of a multicast (R223). -/
def mcastOk (s : State) (x : Cmd) (bar : Bool) : Bool :=
  let c := s.ctx x.ctx
  bitsOf (x.word 0) 52 12 == 0 && bitsOf (x.word 1) 41 23 == 0 && (bar || bitsOf (x.word 1) 32 9 == 0) &&
  (!bar || s.barMode c (bitsOf (x.word 1) 32 9)) &&
  (maskMembers (x.word 2)).all fun m => s.ctxs.any fun y => y.gkey == x.gkey && y.gang == c.gang && y.seqid == m

/-- The descriptor and argument checks of a command when it starts (R214-R229).
Descriptor faults arise at the start: DEDUCED, log entry 28. -/
def descGood (s : State) (x : Cmd) : Bool :=
  match x.instr with
  | .smcopy _ _ =>
    let w := x.word 0
    bitsOf w 32 14 % 8 == 0 && bitsOf w 48 15 % 8 == 0 && !w.testBit 63 &&
      decide (bitsOf w 32 14 + bitsOf w 48 15 ≤ 16384)
  | .accld _ _ | .accst _ _ => accDescOk (x.word 0)
  | .adrain _ _ =>
    accDescOk (x.word 0) && packsOk (Fmt.ofCode (BitVec.ofNat 4 (x.arg 2 / 2 ^ 20))) (bitsOf (x.word 0) 56 7 + 1)
  | .aclr _ _ => x.arg 1 == 0 || decide (x.arg 0 + x.arg 1 ≤ 128)
  | .ncopy _ _ =>
    let w := x.word 3
    bitsOf w 62 2 != 3 && bitsOf w 60 2 != 3 && !w.testBit 58 && bitsOf w 32 24 == 0 && decide (ncopyTotal x < 2 ^ 32)
  | .egath _ _ | .escat _ _ =>
    let w := x.word 3
    bitsOf w 62 2 != 3 && bitsOf w 58 3 == 0 && bitsOf w 0 56 == 0 && bitsOf (x.word 2) 32 16 != 0
  | .mcast _ _ => mcastOk s x false
  | .mcastb _ _ => mcastOk s x true
  | .coll _ _ => collOk s x
  | .tnld _ _ | .tnst _ _ | .tnpf _ _ => tileOk s x
  | .emit _ _ =>
    bitsOf (x.word 1) 46 18 == 0 && decide (1 ≤ bitsOf (x.word 1) 32 14) && decide (bitsOf (x.word 1) 32 14 ≤ 8192)
  | _ => true

/-- The descriptor fault of a command (R218; an aclr has no descriptor, so its bundle is named). -/
def badDesc (x : Cmd) : EFail :=
  { cause := causeEngineDesc, info := (match x.instr with | .aclr _ _ => x.pc.toNat | _ => x.arg 0) }

/-! ### Copies (R220-R225) -/

/-- One byte position of a copy: where it comes from, or the byte that stands for an absent source, and where it goes. -/
structure Hop where
  ss : Nat
  sa : Nat
  ds : Nat
  da : Nat

/-- Copy `n` bytes from position `j` on: the position reached, and the failure met there with the side that met it. -/
def copyRun (s : State) (p : EngPort) (x : Cmd) (hop : Nat → Hop) (j : Nat) : Nat → State × Nat × Option (EFail × Bool)
  | 0 => (engFlush s p x, j, none)
  | n + 1 =>
    let h := hop j
    match engGet s p x h.ss h.sa with
    | (s1, p1, .error e) => (engFlush s1 p1 x, j, some (e, false))
    | (s1, p1, .ok b) =>
      match engPut s1 p1 x h.ds h.da b with
      | (s2, p2, some e) => (engFlush s2 p2 x, j, some (e, true))
      | (s2, p2, none) => copyRun s2 p2 x hop (j + 1) n

/-- The position of a byte of an ncopy (R220): n0 fastest, then i1 to i5. -/
def ncopyHop (x : Cmd) (j : Nat) : Hop :=
  let n := ncopyCount x
  let i0 := j % n 0
  let i1 := j / n 0 % n 1
  let i2 := j / (n 0 * n 1) % n 2
  let i3 := j / (n 0 * n 1 * n 2) % n 3
  let i4 := j / (n 0 * n 1 * n 2 * n 3) % n 4
  let i5 := j / (n 0 * n 1 * n 2 * n 3 * n 4)
  let off (lsb : Nat) : Int :=
    (i0 : Int) + i1 * signed 32 (bitsOf (x.word 4) lsb 32) + i2 * signed 32 (bitsOf (x.word 5) lsb 32)
      + i3 * signed 32 (bitsOf (x.word 6) lsb 32) + i4 * signed 32 (bitsOf (x.word 7) lsb 32)
      + i5 * signed 32 (bitsOf (x.word 8) lsb 32)
  { ss := bitsOf (x.word 3) 62 2, sa := (((x.word 0 : Int) + off 0) % 2 ^ 64).toNat,
    ds := bitsOf (x.word 3) 60 2, da := (((x.word 1 : Int) + off 32) % 2 ^ 64).toNat }

/-- The release of a command with `.rel` or `.ar` (R208). -/
def syncRelease (s : State) (x : Cmd) : State :=
  if x.mods.getLsbD 6 then engineRelease s x (x.mods.extractLsb' 3 2).toNat else s

/-- A command completes OK, after its release. -/
def doneOk (s : State) (x : Cmd) (count : Nat) : State := finishCmd (syncRelease s x) x (ecv ecOk 0 count)

/-- A held copy writes no byte beyond the one it is held at: of its own bytes, a load may still see the old one where it has written
another (R207, R221). -/
def holdLoose (s : State) (x : Cmd) : State :=
  { s with loose := s.loose.filterMap fun l =>
      if l.cid ≠ some x.cid then some l
      else if memGet s.mem l.key = memGet x.snap l.key then none
      else some { l with byte := memGet x.snap l.key } }

/-- A failure of a copy after `done` completed bytes and at progress `j` (R221, spec/15 R336): a probing copy is held on
an absent or unwritable page, which no byte passes until it is resolved, and refused for another code. -/
def copyFail (s : State) (x : Cmd) (probe : Bool) (j done : Nat) (e : EFail) (w : Bool) : State :=
  if probe ∧ e.cause = causeFarFault then
    if e.code = 1 ∨ e.code = 5 then
      let s1 := holdLoose (s.setCmd { x with progress := j, count := done, fault := some (e.code, e.info), faultW := w,
                                             faultAt := (e.gran, e.level) }) x
      match x.token with
      | some t => s1.modCtx x.ctx fun c => { c with com := c.com.setIfInBounds t (ecv ecHeld e.code done) }
      | none => s1
    else finishCmd s x (ecv ecRefused e.code done)
  else failEng s x e done

/-- A byte copy goes on from its progress. -/
def runCopy (s : State) (x : Cmd) (probe : Bool) (hop : Nat → Hop) (total : Nat) : State :=
  match copyRun s {} x hop x.progress (total - x.progress) with
  | (s1, _, none) => doneOk s1 x total
  | (s1, j, some (e, w)) => copyFail s1 x probe j j e w

/-- NCOPY's work. -/
def runNcopy (s : State) (x : Cmd) : State :=
  runCopy s x ((x.word 3).testBit 59 && (bitsOf (x.word 3) 62 2 == 2 || bitsOf (x.word 3) 60 2 == 2)) (ncopyHop x)
    (ncopyTotal x)

/-- The index list of egath and escat (R222). -/
def idxList (s0 : State) (x : Cmd) : Except EFail (List Nat) :=
  let s := srcView s0 x
  let c := s.cmdCtx x
  let a := bitsOf (x.word 1) 32 32
  let k := bitsOf (x.word 2) 48 16
  if k = 0 then .ok []
  else match ownRange s c a (4 * k) with
    | none => .error { cause := causeSpmRange, info := a }
    | some ks =>
      match readKeys s (memGet s.mem) ks with
      | .error j => .error { cause := causePoisonRead, info := a + j, key := (ks[j]?).getD 0 }
      | .ok bs => .ok ((List.range k).map fun j => ofBytesLE ((bs.drop (4 * j)).take 4))

/-- EGATH's and ESCAT's work; the local address is of the own form. -/
def runRows (s : State) (x : Cmd) (scatter : Bool) : State :=
  let b := bitsOf (x.word 2) 32 16
  let k := bitsOf (x.word 2) 48 16
  let loc := bitsOf (x.word 1) 0 32
  if k = 0 then doneOk s x 0
  else match idxList s x with
    | .error e => failEng s x e 0
    | .ok idx =>
      if !ownForm loc then failEng s x { cause := causeSpmRange, info := loc } 0
      else
        let hop (j : Nat) : Hop :=
          let t := (x.word 0 + (idx[j / b]?.getD 0) * bitsOf (x.word 2) 0 32 + j % b) % 2 ^ 64
          if scatter then { ss := 0, sa := loc + j, ds := bitsOf (x.word 3) 62 2, da := t }
          else { ss := bitsOf (x.word 3) 62 2, sa := t, ds := 0, da := loc + j }
        runCopy s x ((x.word 3).testBit 61 && bitsOf (x.word 3) 62 2 == 2) hop (k * b)

/-- MCAST's and MCASTB's work (R223). -/
def runMcast (s : State) (x : Cmd) (bar : Bool) : State :=
  let c := s.cmdCtx x
  let n := bitsOf (x.word 1) 0 32
  let src := bitsOf (x.word 0) 0 32
  let off := bitsOf (x.word 0) 32 20
  let ms := maskMembers (x.word 2)
  let finish (t : State) : State :=
    let t1 := if bar then t.arrive c.gkey c.gang (bitsOf (x.word 1) 32 9) else t
    doneOk t1 x (n * ms.length)
  if n = 0 then finish s
  else match ownRange s c src n with
    | none => failEng s x { cause := causeSpmRange, info := src } 0
    | some ks =>
      match readKeys s (movedByte s x.snap) ks with
      | .error j => failEng s x { cause := causePoisonRead, info := src + j, key := (ks[j]?).getD 0 } 0
      | .ok bs =>
        let dst (m : Nat) : Nat := 2 ^ 31 + m * 2 ^ 24 + off
        match ms.find? fun m => (spmRange s c (dst m) n).isNone with
        | some m => failEng s x { cause := causeSpmRange, info := dst m } 0
        | none => finish (ms.foldl (fun t m => match spmRange t c (dst m) n with
            | some dks => cmdStore t x.ctx (dks.zip bs)
            | none => t) s)

/-! ### Tiles (R225, spec/13 R296) -/

/-- Where element `j` of a tile lies: its linear index in the handle, or `none` outside it. -/
def tileIndex (x : Cmd) (h : Handle) (j : Nat) : Option Nat :=
  let go := (List.range 6).foldl (fun (a : Option Nat × Nat × Nat) t =>
      let e := tileE x t
      let d := h.dims[t]?.getD 1
      let c : Int := tileO x t + (a.2.2 % e : Nat)
      (match a.1 with
       | some l => if 0 ≤ c ∧ c < d then some (l + c.toNat * a.2.1) else none
       | none => none, a.2.1 * d, a.2.2 / e)) (some 0, 1, j)
  go.1

/-- Read the code of an element of a space, byte by byte. -/
def readElem (s : State) (p : EngPort) (x : Cmd) (space a : Nat) : Nat → State × EngPort × Except EFail (List Byte)
  | 0 => (s, p, .ok [])
  | n + 1 =>
    match engGet s p x space a with
    | (s1, p1, .error e) => (s1, p1, .error e)
    | (s1, p1, .ok b) =>
      match readElem s1 p1 x space (a + 1) n with
      | (s2, p2, .ok bs) => (s2, p2, .ok (b :: bs))
      | (s2, p2, .error e) => (s2, p2, .error e)

/-- The byte that a partial element write keeps the other bits of: one that the command has gathered, or as its task or memory
holds it. -/
def oldByte (s : State) (p : EngPort) (x : Cmd) (space a : Nat) : Byte :=
  match (engPlace s x space (engAddr space a) .write).2 with
  | .error _ => 0
  | .ok pl =>
    match p.cells.reverse.find? fun d => d.1 == pl.key with
    | some d => d.2
    | none => match (if space = 0 then none else (taskBuffer s x).find? fun b => b.1 == pl.byteId) with
      | some b => b.2
      | none => match (if pl.vault then readBytes s pl.key 1 else homeRead s pl.key 1) with
        | .ok bs => bs.headD 0
        | .error _ => 0

/-- Write the code of an element of a space: the bits beside it stay, and a word with poison is whole only where every bit of it is
written (spec/13 R304). -/
def writeElem (s : State) (p : EngPort) (x : Cmd) (fm : Fmt) (space base i code : Nat) : State × EngPort × Option EFail :=
  let sp := fm.span i
  let m := (2 ^ fm.memBits - 1) * 2 ^ sp.2.2
  let v := (code % 2 ^ fm.memBits) * 2 ^ sp.2.2
  let bs := (List.range sp.2.1).map fun t =>
    let mb := m / 2 ^ (8 * t) % 256
    let o := if mb = 255 then 0 else (oldByte s p x space (base + sp.1 + t)).toNat
    (BitVec.ofNat 8 ((o &&& (255 - mb)) ||| (v / 2 ^ (8 * t) % 256)), BitVec.ofNat 8 mb)
  engPutBits s p x space (base + sp.1) bs

/-- What moving one element comes to: the engine's state with its port, or the failure with the side that met it. -/
abbrev Moved := State × EngPort × Option (EFail × Bool)

/-- An element read is written, or the move fails. -/
def moveElem (s : State) (p : EngPort) (x : Cmd) (fm : Fmt) (src dst : Nat) (fromAddr fromIx toBase toIx : Nat) : Moved :=
  let sp := fm.span fromIx
  match readElem s p x src (fromAddr + sp.1) sp.2.1 with
  | (s1, p1, .error e) => (s1, p1, some (e, false))
  | (s1, p1, .ok bs) =>
    match writeElem s1 p1 x fm dst toBase toIx (ofBytesLE bs / 2 ^ sp.2.2) with
    | (s2, p2, some e) => (s2, p2, some (e, true))
    | (s2, p2, none) => (s2, p2, none)

/-- One element of a tile: read from memory or padded (tnld, 0), written to memory (tnst, 1), or translated (tnpf, 2). -/
def tileElem (s : State) (p : EngPort) (x : Cmd) (h : Handle) (op loc j : Nat) : Moved :=
  let space := if h.vault then 1 else 2
  match tileIndex x h j with
  | none =>
    if op = 0 then
      match writeElem s p x h.fmt 0 loc j h.pad with
      | (s1, p1, e) => (s1, p1, e.map fun e => (e, true))
    else (s, p, none)
  | some L =>
    if op = 0 then moveElem s p x h.fmt space 0 h.base L loc j
    else if op = 1 then moveElem s p x h.fmt 0 space loc j h.base L
    else
      match readElem s p x space (h.base + (h.fmt.span L).1) (h.fmt.span L).2.1 with
      | (s1, p1, .error e) => (s1, p1, if e.cause = causePoisonRead then none else some (e, false))
      | (s1, p1, .ok _) => (s1, p1, none)

/-- Move elements `j`, `j + 1`, ... of a tile. -/
def tileRun (s : State) (p : EngPort) (x : Cmd) (h : Handle) (op : Nat) (loc j : Nat) : Nat → State × Nat × Option (EFail × Bool)
  | 0 => (engFlush s p x, j, none)
  | n + 1 =>
    match tileElem s p x h op loc j with
    | (s1, p1, some e) => (engFlush s1 p1 x, j, some e)
    | (s1, p1, none) => tileRun s1 p1 x h op loc (j + 1) n

/-- The work of tnld (0), tnst (1) and tnpf (2): a prefetch only translates, as no content depends on the memory-side
cache. -/
def runTile (s : State) (x : Cmd) (op : Nat) : State :=
  match handleOf s x with
  | none => failEng s x (badDesc x) 0
  | some h =>
    let n := tileCount x
    let loc := bitsOf (x.word 0) 32 32
    let bytes (k : Nat) : Nat := if op = 2 then 0 else h.fmt.memBits * k / 8
    if n = 0 then doneOk s x 0
    else if op ≠ 2 ∧ !ownForm loc then failEng s x { cause := causeSpmRange, info := loc } 0
    else match tileRun s {} x h op loc x.progress (n - x.progress) with
      | (s1, _, none) => doneOk s1 x (if op = 2 then 0 else packedBytes h.fmt n)
      | (s1, j, some (e, w)) => copyFail s1 x ((x.word 5).testBit 59 && !h.vault) j (bytes j) e w

/-! ### Matrix commands (R213-R217) -/

/-- Writable micro-ops in use on a core. -/
def Core.usedOps (k : Core) : Nat := (k.store.map fun r => r.ops.length).sum

/-- MLOAD's work: the routine is replaced in one commit, or the command is refused. -/
def runMload (s : State) (x : Cmd) : State :=
  let w := x.word 0
  let idx := bitsOf w 0 6
  let L := bitsOf w 16 11
  let k := s.core x.core
  let refuse := finishCmd s x (ecv ecRefused 0 0)
  let own := (k.store.find? fun r => r.index == idx).map fun r => r.ops.length
  if idx < 32 ∨ L = 0 ∨ L > 1024 ∨ bitsOf w 6 10 ≠ 0 ∨ bitsOf w 27 37 ≠ 0 then refuse
  else if k.store.any fun r => r.index == idx && r.gkey != x.gkey then refuse
  else if 1024 - k.usedOps + own.getD 0 < L then refuse
  else match spmRead (srcView s x) (s.cmdCtx x) (x.arg 0 + 8) (8 * L) with
    | .range => failEng s x { cause := causeSpmRange, info := (x.arg 0 + 8) % 2 ^ 32 } 0
    | .poison e => failEng s x { cause := causePoisonRead, info := e, key := (spmKey s (s.cmdCtx x) e).getD 0 } 0
    | .ok bs =>
      let ops := (List.range L).map fun i => BitVec.ofNat 64 (ofBytesLE ((bs.drop (8 * i)).take 8))
      if ((List.range L).all fun i => uopOk L i ((ops[i]?).getD 0)) then
        let r : Routine := { index := idx, gkey := x.gkey, ops := ops }
        let k' := { k with store := k.store.filter (fun y => y.index != idx) ++ [r] }
        finishCmd (s.setCore x.core k') x (ecv ecOk 0 L)
      else refuse

/-- SMCOPY's work. -/
def runSmcopy (s : State) (x : Cmd) : State :=
  let w := x.word 0
  let n := bitsOf w 48 15
  if n = 0 then finishCmd s x (ecv ecOk 0 0)
  else match spmRead (srcView s x) (s.cmdCtx x) (bitsOf w 0 32) n with
    | .range => failEng s x { cause := causeSpmRange, info := bitsOf w 0 32 } 0
    | .poison e => failEng s x { cause := causePoisonRead, info := e, key := (spmKey s (s.cmdCtx x) e).getD 0 } 0
    | .ok bs => finishCmd (s.storeBytes (sideKey x.core + bitsOf w 32 14) bs) x (ecv ecOk 0 n)

/-- ACCLD's work. -/
def runAccld (s : State) (x : Cmd) : State :=
  let (row, rows, col, cols, a) := accDesc (x.word 0)
  match spmRead (srcView s x) (s.cmdCtx x) a (4 * rows * cols) with
  | .range => failEng s x { cause := causeSpmRange, info := a } 0
  | .poison e => failEng s x { cause := causePoisonRead, info := e, key := (spmKey s (s.cmdCtx x) e).getD 0 } 0
  | .ok bs =>
    let ws := (List.range (rows * cols)).map fun j => (row + j / cols, col + j % cols, ofBytesLE ((bs.drop (4 * j)).take 4))
    finishCmd (s.setAccs x.core ws) x (ecv ecOk 0 (4 * rows * cols))

/-- Bytes go to a scratchpad address of a command, or it fails. -/
def spmOut (s : State) (x : Cmd) (a : Nat) (bs : List Byte) (k : State → State) : State :=
  match spmRange s (s.cmdCtx x) a bs.length with
  | some ks => k (cmdStore s x.ctx (ks.zip bs))
  | none => failEng s x { cause := causeSpmRange, info := a } 0

/-- ACCST's work. -/
def runAccst (s : State) (x : Cmd) : State :=
  let (row, rows, col, cols, a) := accDesc (x.word 0)
  let bs := (List.range (rows * cols)).flatMap fun j => toBytesLE 4 (s.acc x.core (row + j / cols) (col + j % cols))
  spmOut s x a bs fun t => finishCmd t x (ecv ecOk 0 (4 * rows * cols))

/-- ADRAIN's work (R216): dense and row-major. -/
def runAdrain (s : State) (x : Cmd) : State :=
  let (row, rows, col, cols, a) := accDesc (x.word 0)
  let fo := (Fmt.ofCode (BitVec.ofNat 4 (x.arg 2 / 2 ^ 20))).getD .fp32
  let ko := ((x.args[3]?).getD 0).toInt
  let m := x.mods
  let bs := packCodes fo ((List.range (rows * cols)).map fun j =>
    drainCode (m.getLsbD 0) fo ko (s.acc x.core (row + j / cols) (col + j % cols)))
  spmOut s x a bs fun t =>
    let t1 := if m.getLsbD 1 then clearBlock t x.core row rows col cols else t
    finishCmd t1 x (ecv ecOk 0 bs.length)

/-- ACLR's work. DEDUCED, log entry 27. -/
def runAclr (s : State) (x : Cmd) : State :=
  finishCmd (if x.arg 1 = 0 then s else clearRows s x.core (x.arg 0) (x.arg 1)) x 0

/-- MCALL's work: a ROM routine's effect, or the end of a writable one, whose DRNs finish. -/
def runCall (s : State) (x : Cmd) : State :=
  let k := callCtx s x
  let mine := (s.core x.core).run.filter fun r => r.cid == x.cid
  let s1 := if mine.isSome then setRun s x.core none else s
  if x.arg 0 < 32 then
    match runRom s1 k (x.arg 0) with
    | (s2, some e) => failEng s2 x e 0
    | (s2, none) => doneOk s2 x 0
  else
    match landRows s1 x ((mine.map (·.drains)).getD []) with
    | (s2, some e) => failEng s2 x e 0
    | (s2, none) => doneOk s2 x 0

/-! ### Collectives (R226, R227) -/

/-- A collective's id. -/
def collId (x : Cmd) : Nat := x.word 1 / 2 ^ 48

/-- The commands of a collective: those of a command's gang with its id. -/
def collCmds (s : State) (x : Cmd) : List Cmd :=
  let c := s.ctx x.ctx
  s.cmds.filter fun y => y.queue == .cq && y.gkey == x.gkey && (s.ctx y.ctx).gang == c.gang && collId y == collId x

/-- The colls that are presented with another. -/
def collPeers (s : State) (x : Cmd) : List Cmd := (collCmds s x).filter fun y => !y.started && y.progress == 1

/-- The first of some commands that a member issued. -/
def collOf (s : State) (among : List Cmd) (m : Nat) : Option Cmd := among.find? fun y => (s.ctx y.ctx).seqid == m

/-- The element codes of a participant's source. -/
def collSource (s0 : State) (x : Cmd) (fm : Fmt) : Except EFail (List Nat) :=
  let s := srcView s0 x
  let c := s.cmdCtx x
  let a := bitsOf (x.word 0) 0 32
  let n := collN x
  if n = 0 then .ok []
  else match ownRange s c a (packedBytes fm n) with
    | none => .error { cause := causeSpmRange, info := a }
    | some _ => (List.range n).mapM fun i => elemCode s c fm a i

/-- Combine one element of every participant (R196). -/
def collCombine (op : Nat) (fm : Fmt) (vs : List Nat) : Nat :=
  if fm.isInt then combineI op fm.width vs else combineF op fm .rne (vs.map fm.decode)

/-- The destination codes of rank `r`. -/
def collResult (x : Cmd) (fm : Fmt) (srcs : List (List Nat)) (rootRank r : Nat) : List Nat :=
  let n := collN x
  let P := srcs.length
  let comb (i : Nat) : Nat := collCombine (collOp x) fm (srcs.map fun v => v[i]?.getD 0)
  match collKind x with
  | 0 => (List.range n).map comb
  | 1 => (List.range (n / P)).map fun i => comb (r * (n / P) + i)
  | 2 => srcs.flatten
  | _ => srcs[rootRank]?.getD []

/-- A collective ends in every participant, some of `ms`, with a code: those that have issued it complete, and the others
complete at once when they present theirs (R227, R231). -/
def collEnd (s : State) (x : Cmd) (ms : List Nat) (code : Nat) : State :=
  let ys := ms.filterMap (collOf s ((collCmds s x).filter fun y => !y.started))
  let rest := ms.filter fun m => (collOf s ((collCmds s x).filter fun y => !y.started) m).isNone
  let s1 := ys.foldl (fun t y => match t.cmd? y.cid with | some z => finishCmd t z (ecv code 0 0) | none => t) s
  if rest = [] then s1
  else match s1.grid? x.gkey with
    | some g => match g.gang? (s.ctx x.ctx).gang with
      | some n => s1.setGrid (g.setGang { n with badColls := n.badColls ++ [(collId x, code, rest)] })
      | none => s1
    | none => s1

/-- A coll is presented: it ends at once when its collective has ended without it (R227, R231), and else waits for the others. -/
def present (s : State) (x : Cmd) : State :=
  let c := s.ctx x.ctx
  match (s.grid? x.gkey).bind fun g => (g.gang? c.gang).map fun n => (g, n) with
  | none => s.setCmd { x with progress := 1 }
  | some (g, n) =>
    match n.badColls.find? fun b => b.1 == collId x && b.2.2.contains c.seqid with
    | none => s.setCmd { x with progress := 1 }
    | some b =>
      let left := n.badColls.filterMap fun d =>
        if d = b then (if b.2.2 = [c.seqid] then none else some (b.1, b.2.1, b.2.2.filter (· ≠ c.seqid))) else some d
      finishCmd (s.setGrid (g.setGang { n with badColls := left })) x (ecv b.2.1 0 0)

/-- The bytes of each participant of a collective, in rank order. -/
def collBytes (s : State) (fm : Fmt) (parts : List Cmd) (rootRank : Nat) : List (List Byte) :=
  let srcs := parts.map fun y => match collSource s y fm with | .ok v => v | .error _ => []
  parts.mapIdx fun r y => packCodes fm (collResult y fm srcs rootRank r)

/-- The format of a coll. -/
def collFm (x : Cmd) : Fmt := (Fmt.ofCode (BitVec.ofNat 4 (collFmt x))).getD .int4

/-- The rank of a coll's root. -/
def collRootRank (x : Cmd) : Nat := (maskMembers (x.word 2)).findIdx (· == collRoot x)

/-- The participants of a collective start together: from then on their sources may be read, and their new bytes seen (R207). -/
def collBegin (s : State) (x : Cmd) (parts : List Cmd) : State :=
  let snap := s.mem.filter fun d => decide (d.1 ≥ spmBase)
  let bss := collBytes s (collFm x) parts (collRootRank x)
  (parts.mapIdx fun r y => (r, y)).foldl (fun t ry =>
    let bs := (bss[ry.1]?).getD []
    let t1 := t.setCmd { ry.2 with started := true, snap := snap }
    match ownRange s (s.cmdCtx ry.2) (bitsOf (ry.2.word 0) 32 32) bs.length with
    | some ks => loosen t1 ry.2.cid (ks.zip bs)
    | none => t1) s

/-- The first completion of a collective reads every source, and each participant keeps its bytes after its descriptor. Poison
that a source met since the start has no fate: its bytes had been read. -/
def collFix (s : State) (x : Cmd) : State :=
  let on := (collCmds s x).filter fun y => y.started && y.progress == 1 && y.word 1 == x.word 1 && y.word 2 == x.word 2
  let parts := (maskMembers (x.word 2)).filterMap (collOf s on)
  let bss := collBytes { s with poison := [] } (collFm x) parts (collRootRank x)
  (parts.mapIdx fun r y => (r, y)).foldl (fun t ry =>
    t.setCmd { ry.2 with progress := 2, args := ry.2.args ++ ((bss[ry.1]?).getD []).map fun b => b.setWidth 64 }) s

/-- A coll's destination is written. -/
def putColl (s : State) (x : Cmd) : State :=
  let bs := (x.args.drop 5).map fun w => w.setWidth 8
  let a := bitsOf (x.word 0) 32 32
  if bs = [] then doneOk s x 0
  else match ownRange s (s.cmdCtx x) a bs.length with
    | some ks => doneOk (cmdStore s x.ctx (ks.zip bs)) x bs.length
    | none => failEng s x { cause := causeSpmRange, info := a } 0

/-- COLL's work. -/
def runColl (s : State) (x : Cmd) : State :=
  if x.progress = 2 then putColl s x
  else
    let s1 := collFix s x
    match s1.cmd? x.cid with
    | some y => putColl s1 y
    | none => s1

/-! ### The work of a command (R206) -/

/-- The work that a command's completion brings about. -/
def engWork (s : State) (x : Cmd) : State :=
  match x.instr with
  | .mcall _ _ => runCall s x
  | .mload _ _ => runMload s x
  | .smcopy _ _ => runSmcopy s x
  | .accld _ _ => runAccld s x
  | .accst _ _ => runAccst s x
  | .adrain _ _ => runAdrain s x
  | .aclr _ _ => runAclr s x
  | .ncopy _ _ => runNcopy s x
  | .egath _ _ => runRows s x false
  | .escat _ _ => runRows s x true
  | .mcast _ _ => runMcast s x false
  | .mcastb _ _ => runMcast s x true
  | .tnld _ _ => runTile s x 0
  | .tnst _ _ => runTile s x 1
  | .tnpf _ _ => runTile s x 2
  | .coll _ _ => runColl s x
  | .ebar _ _ => doneOk s x 0
  | .ecancel _ _ => finishCmd s x (ecv ecOk 0 x.count)
  | _ => s

/-! ### Start (R205, R207, R259, R260) -/

/-- A command's turn in its queue; while its core's clock is stopped it pauses (spec/24 R447). -/
def engTurn (s : State) (x : Cmd) : Bool :=
  let here := s.cmds.filter fun y => y.core == x.core && y.queue == x.queue
  !s.clockStopped x.core && match x.queue with
  | .mq => !x.started && (here.head?.map (·.cid)) == some x.cid
  | .xq | .tq => !x.started && ((here.find? fun y => y.ctx == x.ctx && !y.started).map (·.cid)) == some x.cid
  | .cq => !x.started && x.progress == 0 && ((here.find? fun y => y.ctx == x.ctx && !y.started).map (·.cid)) == some x.cid
  | _ => false

/-- Mark a command as started. -/
def markStarted (s : State) (x : Cmd) : State := s.setCmd { x with started := true }

/-- The scratchpad as it stands. -/
def spmCells (s : State) : List Host.Cell := s.mem.filter fun d => decide (d.1 ≥ spmBase)

/-- The bytes that a command is going to write into scratchpads may be seen there from now on (R207). -/
def showMoving (s : State) (x : Cmd) : State :=
  let t := engWork s x
  loosen s x.cid (spmCells t ++ (((spmCells s).filter fun d => memGet t.mem d.1 == 0).map fun d => (d.1, 0)))

/-- A command starts to move its bytes: it keeps the scratchpad as it stands, for the sources it reads, and the bytes that it is
going to write there may be seen from now on (R207). -/
def startMoving (s : State) (x : Cmd) : State :=
  let y := { x with started := true, snap := spmCells s }
  showMoving (s.setCmd y) y

/-- A co-operative routine whose episode has completed reads its operands from now on (R207, spec/12 R272). -/
def coopReads (s : State) (x : Cmd) (r : EngineRun) : State :=
  (setRun s x.core (some { r with waiting := none })).setCmd { x with started := true, snap := spmCells s, progress := 1 }

/-- A co-operative call that waits for an episode. -/
def coopWaits (s : State) (x : Cmd) : Option (EngineRun × BarWait) :=
  match x.instr, (s.core x.core).run with
  | .mcall _ _, some r =>
    if x.started ∧ x.arg 0 / 4 = 6 ∧ r.cid = x.cid then r.waiting.map fun w => (r, w) else none
  | _, _ => none

/-- An mcall starts (R212, R265, R271, R275). -/
def startCall (s : State) (x : Cmd) : State :=
  let k := callCtx s x
  let idx := x.arg 0
  let core := s.core x.core
  if idx < 32 then
    if !romOk s k (idx / 4) then failEng s x (descFail x) 0
    else if idx / 4 = 6 then
      let b := k.bits 4 32 9
      match s.bar? k.c.gkey k.c.gang b with
      | none => failEng s x (descFail x) 0
      | some y =>
        let z := y.arrive true
        let s1 := s.modBar k.c.gkey k.c.gang b fun _ => z
        let r : EngineRun := { cid := x.cid, index := idx, upc := 0 }
        if z.episode ≠ y.episode then coopReads s1 x r
        else markStarted (setRun s1 x.core (some { r with waiting := some ⟨b, y.episode⟩ })) x
    else startMoving s x
  else if idx < 64 ∧ core.store.any (fun r => r.index == idx && r.gkey == x.gkey) then
    markStarted (setRun s x.core (some { cid := x.cid, index := idx, upc := 0 })) x
  else finishCmd s x (ecv ecNoRoutine 0 0)

/-- An emit starts (R228, R229): the chunk is copied into the endpoint's buffer. -/
def startEmit (s : State) (x : Cmd) : State :=
  let c := s.cmdCtx x
  let n := bitsOf (x.word 1) 32 14
  match s.grid? x.gkey with
  | none => finishCmd s x (ecv ecRefused 0 0)
  | some g =>
    if g.kind = .launch ∨ x.word 0 > s.now + 4000000 then finishCmd s x (ecv ecRefused 0 0)
    else match ownRange s c (x.word 1 % 2 ^ 32) n with
      | none => failEng s x { cause := causeSpmRange, info := x.word 1 % 2 ^ 32 } 0
      | some ks =>
        match readKeys s (memGet s.mem) ks with
        | .error j => failEng s x { cause := causePoisonRead, info := x.word 1 % 2 ^ 32 + j, key := (ks[j]?).getD 0 } 0
        | .ok bs =>
          let port := match s.eps.find? fun e => e.session == g.session with
            | some e => bitsOf ((e.words[0]?).getD 0).toNat 2 2
            | none => 0
          let ch : Chunk := { part := g.part, port := port, session := g.session, instant := x.word 0, bytes := bs,
                              hold := false, cid := some x.cid, since := s.nowPs, job := g.key }
          let s1 := markStarted s x
          { s1 with chunks := s1.chunks ++ [ch] }

/-- ENGINE_COMMAND_START (R207): after its order and wait operand allow it, a command is begun, or completes DEP. A co-operative
routine starts to read its operands when its episode has completed (spec/12 R272). -/
def execEngineCommandStart (cid : Nat) (s : State) : Host.Outcome State Fault Refusal :=
  match s.cmd? cid with
  | none => .refused (.notEnabled "ENGINE_COMMAND_START")
  | some x =>
    match coopWaits s x with
    | some (r, w) =>
      if !s.clockStopped x.core ∧ s.barPassed x.gkey (s.ctx x.ctx).gang w then .next (coopReads s x r)
      else .refused (.notEnabled "ENGINE_COMMAND_START")
    | none =>
    if !engTurn s x ∨ x.waitCid.isSome then .refused (.notEnabled "ENGINE_COMMAND_START")
    else if x.dep then .next (finishCmd s x (ecv ecDep 0 0))
    else
      let s1 := if x.queue = .mq then zeroEngine s x.core x.gkey else s
      if !descGood s1 x then .next (failEng s1 x (badDesc x) 0)
      else match x.instr with
        | .mcall _ _ => .next (startCall s1 x)
        | .emit _ _ => .next (startEmit s1 x)
        | .coll _ _ => .next (present s1 x)
        | _ => .next (startMoving s1 x)

/-- COLL_START (R226): every selected member has presented a matching coll; participants whose words differ complete
MISMATCH, every one of them (R227). A source out of range fails its participant. DEDUCED, log entry 28. -/
def execCollStart (cid : Nat) (s : State) : Host.Outcome State Fault Refusal :=
  match s.cmd? cid with
  | none => .refused (.notEnabled "COLL_START")
  | some x =>
    if x.queue ≠ .cq ∨ x.started ∨ x.progress ≠ 1 ∨ (collPeers s x).any (fun y => s.clockStopped y.core) then .refused (.notEnabled "COLL_START")
    else
      let peers := collPeers s x
      if peers.any fun y => y.word 1 != x.word 1 || y.word 2 != x.word 2 then
        .next (collEnd s x (maskMembers (peers.foldl (fun m y => m ||| y.word 2) 0)) ecMismatch)
      else
        let ms := maskMembers (x.word 2)
        let parts := ms.filterMap (collOf s peers)
        if parts.length ≠ ms.length then .refused (.notEnabled "COLL_START")
        else
          match parts.find? fun y => match collSource s y (collFm x) with | .error _ => true | .ok _ => false with
          | some y =>
            (match collSource s y (collFm x) with
             | .error e => .next (failEng s y e 0)
             | .ok _ => .next s)
          | none => .next (collBegin s x parts)

/-! ### Completion (R206) -/

/-- A command's completion brings a release of its sequencer's earlier writes: with `.rel` or `.ar` (R208), and a ROM cdrain
(spec/12 R273). -/
def Cmd.releases (x : Cmd) : Bool :=
  x.mods.getLsbD 6 || (match x.instr with | .mcall _ _ => x.arg 0 / 4 == 7 | _ => false)

/-- A ROM routine has run for the cycles that it takes at least (spec/12 R263). -/
def romDone (s : State) (x : Cmd) : Bool := decide (romTime (callCtx s x) (x.arg 0 / 4) ≤ x.count)

/-- A command can complete now; while its core's clock is stopped it pauses, as it does while the clock of a member is whose banks it
reads or writes (spec/24 R447), and a release waits for the writes of the sequencer that stand in off-core queues (R208). -/
def engReady (s : State) (x : Cmd) : Bool :=
  !s.clockStopped x.core && !islandWaits s x.core x.gkey (fun t => engWork t x) && (!x.releases || relReady s x) && match x.queue with
  | .none => x.after.isEmpty
  | .cq => x.started && ((s.cmds.find? fun y => y.core == x.core && y.queue == .cq && y.ctx == x.ctx).map (·.cid)) == some x.cid
  | .mq =>
    x.started &&
    (match x.instr, (s.core x.core).run with
     | .mcall _ _, some r =>
       r.cid != x.cid || s.gridKilled x.gkey ||
       (if x.arg 0 < 32 then romDone s x &&
          (match r.waiting with
           | some w => s.barPassed x.gkey (s.ctx x.ctx).gang w
           | none => true)
        else r.upc == 2048)
     | .mcall _ _, none => x.arg 0 ≥ 32 || romDone s x || s.gridKilled x.gkey
     | _, _ => true)
  | .xq => x.started && x.fault.isNone
  | _ => false

/-- ENGINE_COMMAND_COMPLETE (R206): the command's work and its token. An emit completes by its departure. -/
def execEngineCommandComplete (cid : Nat) (s : State) : Host.Outcome State Fault Refusal :=
  match s.cmd? cid with
  | none => .refused (.notEnabled "ENGINE_COMMAND_COMPLETE")
  | some x => if engReady s x then .next (engWork s x) else .refused (.notEnabled "ENGINE_COMMAND_COMPLETE")

/-! ### Issue (R205, R207, R209) -/

/-- Entries of a queue (R207). -/
def Queue.depth : Queue → Nat
  | .mq => 8
  | .xq => 16
  | .cq | .tq => 4
  | .off _ => 16
  | .none => 0

/-- The register of a wait operand (R205). -/
def waitReg (f : Fields) : Option Nat := if f.mod.getLsbD 2 then some f.src2.reg else none

/-- The command whose completion a wait operand waits for, and whether the wait ends in error at once. -/
def waitOf (s : State) (c : Ctx) (f : Fields) : Option Nat × Bool :=
  match waitReg f with
  | none => (none, false)
  | some r =>
    if c.pending r then ((s.cmds.find? fun x => x.ctx == c.handle && x.token == some r).map (·.cid), false)
    else (none, c.tokErr.getLsbD r)

/-- A micro-op's step. -/
def uopExec (i : Instr) (s : State) : Host.Outcome State Fault Refusal :=
  match i with
  | .uopEnd c u => execUopEnd c u s
  | .uopNop c u => execUopNop c u s
  | .uopSeti c u => execUopSeti c u s
  | .uopSetp c u => execUopSetp c u s
  | .uopMad c u => execUopMad c u s
  | .uopLoop c u => execUopLoop c u s
  | .uopEndl c u => execUopEndl c u s
  | .uopLdw c u => execUopLdw c u s
  | .uopMma c u => execUopMma c u s
  | .uopAclr c u => execUopAclr c u s
  | .uopMsk c u => execUopMsk c u s
  | .uopDrn c u => execUopDrn c u s
  | .uopBwt c u => execUopBwt c u s
  | .uopBar c u => execUopBar c u s
  | _ => .refused (.notEnabled "UOP")

/-- A running routine's work from a state to its end, with no wait and for as many micro-ops as the number says: what it is going to
write does not depend on what it reads. -/
def foreRun (core : Nat) : Nat → State → State
  | 0, s => s
  | n + 1, s =>
    match (s.core core).run with
    | none => s
    | some r =>
      let skip := setRun s core (some { r with upc := r.upc + 1, waiting := none })
      match (((s.core core).store.find? fun y => y.index == r.index).bind fun y => y.ops[r.upc]?).bind (uopOf core) with
      | none => s
      | some i =>
        if r.waiting.isSome then foreRun core n skip
        else match uopExec i s with
          | .next t => foreRun core n t
          | _ => foreRun core n skip

/-- What a command is going to do, done at once: a call of a writable routine runs to its end, after the earlier loads of its
queue. -/
def foreWork (s : State) (x : Cmd) : State :=
  match x.instr with
  | .mcall _ _ =>
    if x.arg 0 < 32 then engWork s x
    else
      let loads := s.cmds.filter fun y => y.core == x.core && y.queue == .mq && decide (y.cid < x.cid) &&
        (match y.instr with | .mload _ _ => true | _ => false)
      foreRun x.core (2 ^ 200) (startCall (loads.foldl engWork { s with islands := [], poison := [] }) x)
  | _ => engWork s x

/-- The lines that the write buffer of a frontier task holds once a command that it issues now has moved its bytes (spec/17 R363,
R365). -/
def linesAfter (s : State) (c : Ctx) (x : Cmd) : List Nat :=
  match x.task with
  | some ix => ((foreWork (pushCmd s c x) x).slot x.core ix).wlines
  | none => []

/-- A command enters its queue. In a frontier task the lines that it is going to write count from here on: more than 256 are an
illegal bundle (spec/17 R365). -/
def pushEng (s : State) (c : Ctx) (x : Cmd) : SlotRes :=
  match s.mySlot c with
  | none => .ok (pushCmd s c x)
  | some (ix, y) =>
    let ls := (y.wlines ++ linesAfter s c x).eraseDups
    if ls.length > 256 then .illegal else .ok ((pushCmd s c x).modSlot c.core ix fun z => { z with wlines := ls })

/-- An E command issues (R207, R209): in a speculative task it stalls, on a full queue it stalls, else it enters its
queue with its wait operand resolved. -/
def engIssue (s : State) (i : Instr) (p : Pos) (f : Fields) (q : Queue) (token : Bool) (args : List Word) : SlotRes :=
  let c := s.curCtx
  if s.queueLen c.core q ≥ q.depth then .stall 3
  else
    let w := if token then waitOf s c f else (none, false)
    let x := mkCmd s c i p q (if token then some f.dst.reg else none) args
    pushEng s c { x with waitCid := w.1, dep := w.2 }

/-- An E operation's gate (R209): stalled while its task is speculative. -/
def engOp (i : Instr) (f : Fields) (s : State) (run : State → SlotRes) : SlotRes :=
  slotOp i f s fun _ s => if s.isSpec s.curCtx then .stall 7 else run s

/-- An E operation that reads a descriptor of `n` words (R209). -/
def descOp (i : Instr) (p : Pos) (f : Fields) (s : State) (q : Queue) (n : Nat) (extra : State → List Word) : SlotRes :=
  engOp i f s fun s =>
    let a := cSpm (cSrc1 s f) 8
    withWords s a n fun ws => engIssue s i p f q true (BitVec.ofNat 64 a :: ws ++ extra s)

/-- A scale register bound in KB at a bit (spec/06 R151). -/
def boundScale (c : Ctx) (lsb : Nat) : Word :=
  BitVec.ofInt 64 ((c.scales[(c.kb.extractLsb' lsb 4).toNat]?.getD 0).toInt)

/-- MCALL (R212): it captures mp0 to mp7, KB and the bound scales. -/
def semMcall (p : Pos) (f : Fields) (s : State) : SlotRes :=
  engOp (.mcall p f) f s fun s =>
    let c := s.curCtx
    engIssue s (.mcall p f) p f .mq true
      (cSrc1 s f :: c.mp.toList ++ [c.kb.setWidth 64, boundScale c 0, boundScale c 4, boundScale c 8])

/-- MPSET (R211). -/
def semMpset (p : Pos) (f : Fields) (s : State) : SlotRes :=
  slotOp (.mpset p f) f s fun info s =>
    .ok (putSpecial s p (0x80 + f.dst.start.toNat % 8) info.lat (cSrc1 s f))

/-- MLOAD (R213): the header is its descriptor. DEDUCED, log entry 27. -/
def semMload (p : Pos) (f : Fields) (s : State) : SlotRes := descOp (.mload p f) p f s .mq 1 fun _ => []
/-- SMCOPY (R214). -/
def semSmcopy (p : Pos) (f : Fields) (s : State) : SlotRes := descOp (.smcopy p f) p f s .mq 1 fun _ => []
/-- NCOPY (R219). -/
def semNcopy (p : Pos) (f : Fields) (s : State) : SlotRes := descOp (.ncopy p f) p f s .xq 9 fun _ => []
/-- EGATH (R222). -/
def semEgath (p : Pos) (f : Fields) (s : State) : SlotRes := descOp (.egath p f) p f s .xq 4 fun _ => []
/-- ESCAT (R222). -/
def semEscat (p : Pos) (f : Fields) (s : State) : SlotRes := descOp (.escat p f) p f s .xq 4 fun _ => []
/-- MCAST (R223). -/
def semMcast (p : Pos) (f : Fields) (s : State) : SlotRes := descOp (.mcast p f) p f s .xq 3 fun _ => []
/-- MCASTB (R223). -/
def semMcastb (p : Pos) (f : Fields) (s : State) : SlotRes := descOp (.mcastb p f) p f s .xq 3 fun _ => []
/-- COLL (R226). -/
def semColl (p : Pos) (f : Fields) (s : State) : SlotRes := descOp (.coll p f) p f s .cq 4 fun _ => []
/-- TNLD (R225). -/
def semTnld (p : Pos) (f : Fields) (s : State) : SlotRes := descOp (.tnld p f) p f s .xq 6 fun _ => []
/-- TNST (R225). -/
def semTnst (p : Pos) (f : Fields) (s : State) : SlotRes := descOp (.tnst p f) p f s .xq 6 fun _ => []
/-- TNPF (R225). It translates and moves nothing: DEDUCED, log entry 50. -/
def semTnpf (p : Pos) (f : Fields) (s : State) : SlotRes := descOp (.tnpf p f) p f s .xq 6 fun _ => []
/-- EMIT (R228). -/
def semEmit (p : Pos) (f : Fields) (s : State) : SlotRes := descOp (.emit p f) p f s .tq 2 fun _ => []
/-- ACCLD (R215). -/
def semAccld (p : Pos) (f : Fields) (s : State) : SlotRes := descOp (.accld p f) p f s .mq 1 fun _ => []
/-- ACCST (R215). -/
def semAccst (p : Pos) (f : Fields) (s : State) : SlotRes := descOp (.accst p f) p f s .mq 1 fun _ => []
/-- ADRAIN (R216): it reads KB and the output scale at issue. -/
def semAdrain (p : Pos) (f : Fields) (s : State) : SlotRes :=
  descOp (.adrain p f) p f s .mq 1 fun s => [s.curCtx.kb.setWidth 64, boundScale s.curCtx 8]

/-- ACLR (R217): it names no token. -/
def semAclr (p : Pos) (f : Fields) (s : State) : SlotRes :=
  engOp (.aclr p f) f s fun s => engIssue s (.aclr p f) p f .mq false [cSrc1 s f, cSrc2 s f]

/-- ESTAT's value (R230). -/
def estatVal (s : State) (c : Ctx) (sel : Word) : Word :=
  let k := s.core c.core
  if sel = 0 then
    let busy := s.cmds.any fun x => x.core == c.core && x.queue == .mq && x.started
    BitVec.ofNat 64 (s.queueLen c.core .mq % 16 + s.queueLen c.core .xq % 32 * 2 ^ 8 + s.queueLen c.core .cq % 8 * 2 ^ 16
      + s.queueLen c.core .tq % 8 * 2 ^ 24 + (if busy then 2 ^ 32 else 0))
  else if sel = 1 then
    let tags := (List.range 32).foldl (fun a j =>
      if k.store.any fun r => r.index == 32 + j && r.gkey == c.gkey then a + 2 ^ j else a) 0
    BitVec.ofNat 64 (1024 - k.usedOps + tags * 2 ^ 32)
  else 0

/-- ESTAT (R230). -/
def semEstat (p : Pos) (f : Fields) (s : State) : SlotRes :=
  get64 (.estat p f) p f s fun s => estatVal s s.curCtx (cSrc1 s f)

/-- A command stands in a queue that a mask names (R231). -/
def inMask (m : Word) (q : Queue) : Bool :=
  match q with
  | .mq => m.getLsbD 0
  | .xq => m.getLsbD 1
  | .cq => m.getLsbD 2
  | .tq => m.getLsbD 3
  | _ => false

/-- The commands of a sequencer in masked queues. -/
def maskedCmds (s : State) (h : Nat) (m : Word) : List Cmd := s.cmds.filter fun x => x.ctx == h && inMask m x.queue

/-- Cancel one command; a coll ends in every participant. -/
def cancelCmd (s : State) (x : Cmd) : State :=
  match s.cmd? x.cid with
  | none => s
  | some y =>
    if y.queue = .cq then
      let own := (s.ctx y.ctx).seqid
      collEnd (finishCmd s y (ecv ecCancelled 0 0)) y ((maskMembers (y.word 2)).filter (· ≠ own)) ecCancelled
    else finishCmd s y (ecv ecCancelled 0 0)

/-- ECANCEL (R231): unstarted commands go at once; its own token follows those that have started. -/
def semEcancel (p : Pos) (f : Fields) (s : State) : SlotRes :=
  engOp (.ecancel p f) f s fun s =>
    let c := s.curCtx
    let m := cSrc1 s f
    let gone := (maskedCmds s c.handle m).filter fun x => !x.started
    let s1 := gone.foldl cancelCmd s
    let rest := (maskedCmds s1 c.handle m).map (·.cid)
    let x := mkCmd s1 c (.ecancel p f) p .none (some f.dst.reg) []
    .ok (pushCmd s1 c { x with after := rest, count := gone.length })

/-- EBAR (R231). -/
def semEbar (p : Pos) (f : Fields) (s : State) : SlotRes :=
  engOp (.ebar p f) f s fun s =>
    let c := s.curCtx
    let x := mkCmd s c (.ebar p f) p .none (some f.dst.reg) []
    .ok (pushCmd s c { x with after := (maskedCmds s c.handle (cSrc1 s f)).map (·.cid) })

/-! ### A fault entry is replayed (R221, spec/15 R339) -/

/-- Action 1 (R339): every waiter walks again when its turn comes. A copy goes on, and its bytes may be seen again (R207). -/
def replayFault (s : State) (e : FaultEntry) : State :=
  e.waiters.foldl (fun t cid => match t.cmd? cid with
    | some x =>
      let y := { x with fault := none, entry := none }
      if x.isE then showMoving (t.setCmd y) y else t.setCmd y
    | none => t) (dropFault s e.cluster e.seq)

/-- FQ_REPLAY (R339 action 1). -/
def execFqReplay (cluster seq : Nat) (s : State) : Host.Outcome State Fault Refusal :=
  supAccess "FQ_REPLAY" cluster s (match s.faultEntry? cluster seq with
    | some e => replayFault (matched s cluster) e
    | none => noMatch s cluster)

end Sys2Proof.Machine
end

