-- ==== Sys2Proof/Machine/Image.lean ====
section
/-!
DEFINITION. Save images (spec/11 R247-R250), the supervisor's commands on stopped contexts (R257), the trap ring (R256),
and the debug unit's commands (spec/23 R437).
-/

namespace Sys2Proof.Machine

open Sys2Proof

/-! ### Writing an image -/

/-- Pad to a multiple of 64 bytes. -/
def pad64 (bs : List Byte) : List Byte := bs ++ List.replicate ((64 - bs.length % 64) % 64) 0

/-- Saveable banks of a context. -/
def Ctx.saveable (c : Ctx) : Nat := c.hdr.banks - c.hdr.resBanks

/-- The header (R248). -/
def imgHeader (s : State) (c : Ctx) : List Byte :=
  toBytesLE 4 c.pc.toNat ++ toBytesLE 4 (if c.pend then c.target.toNat else 0) ++
  toBytesLE 4 (c.rep * 2 ^ 26 + c.shl * 2 ^ 24 + (if c.pend then 2 ^ 23 else 0) + c.loops.length * 2 ^ 20
    + c.tasks.length * 2 ^ 17 + c.flight.length * 2 ^ 11 + c.hdr.aG * 2 ^ 6 + c.hdr.vG * 2) ++
  toBytesLE 4 ((if c.lost then 2 ^ 10 else 0) + (if c.partBundle then 2 ^ 9 else 0) + c.done.toNat) ++
  toBytesLE 4 c.handle ++ toBytesLE 4 (s.gridId c.gkey) ++ toBytesLE 4 (c.hdr.resBanks * 2 ^ 6 + c.saveable) ++ toBytesLE 4 0 ++
  toBytesLE 8 c.phase.toNat ++ List.replicate 20 0 ++ toBytesLE 4 0x5A514358

/-- A loop-stack entry. -/
def imgLoop (l : LoopEntry) : List Byte :=
  toBytesLE 4 l.count.toNat ++ toBytesLE 4 l.start.toNat ++ toBytesLE 4 l.index.toNat ++ toBytesLE 4 0

/-- A running-task entry (R249), with whether the task is speculative at the save (spec/17 R361). -/
def imgTask (spec : Bool) (t : RunTask) : List Byte :=
  toBytesLE 8 t.ts.toNat ++ toBytesLE 8 t.argp.toNat ++ toBytesLE 4 t.seq.toNat ++
  toBytesLE 4 (t.dom % 2 ^ 12 + t.jslot % 2 ^ 9 * 2 ^ 12 + t.depth % 8 * 2 ^ 21 + (if spec && t.ord then 2 ^ 24 else 0)
    + (if t.range then 2 ^ 25 else 0)) ++ toBytesLE 8 t.parent.toNat

/-- A list padded with entries of zeros. -/
def fillTo (n size : Nat) (es : List (List Byte)) : List Byte :=
  let bs := es.flatten
  bs ++ List.replicate (n * size - bs.length) 0

/-- The number of a replay entry's file. -/
def FileId.code : FileId → Nat
  | .scal b => if b then 1 else 0
  | .vec b => if b then 3 else 2
  | .common => 4
  | .pred => 5
  | .scale => 6
  | .special => 7

/-- A file holds slices. -/
def FileId.isSlices : FileId → Bool
  | .scal _ | .vec _ => true
  | _ => false

/-- A replay entry (R249). -/
def imgFlight (x : Flight) : List Byte :=
  toBytesLE 8 (x.file.code + x.start % 2 ^ 8 * 2 ^ 3 + (if x.file.isSlices then x.width - 1 else 0) % 16 * 2 ^ 11
    + x.remaining % 16 * 2 ^ 15 + x.age % 16 * 2 ^ 19 + x.slot % 16 * 2 ^ 23 + x.rep % 64 * 2 ^ 27) ++
  toBytesLE 8 x.mask.toNat ++ x.lanes.flatMap fun v => toBytesLE 8 v.toNat

/-- The part of an image before the banks. -/
def imgFixed (s : State) (c : Ctx) : List Byte :=
  imgHeader s c ++
  fillTo 8 16 (c.loops.reverse.map imgLoop) ++
  fillTo 4 32 (c.tasks.reverse.map (imgTask (s.isSpec c))) ++
  (toBytesLE 8 c.lead ++ toBytesLE 8 c.trapVec.toNat ++ toBytesLE 8 c.trapInfo.toNat ++ toBytesLE 8 c.vrot0.toNat ++
    toBytesLE 8 c.vrot1.toNat ++ toBytesLE 8 c.kb.toNat ++ c.scales.toList ++
    c.mp.toList.flatMap fun v => toBytesLE 8 v.toNat) ++
  (((List.range 47).flatMap fun i => toBytesLE 8 (c.preds[i + 1]?.getD 0).toNat) ++ List.replicate 8 0) ++
  (c.com.toList.flatMap fun v => toBytesLE 8 v.toNat) ++
  pad64 (toBytesLE (8 * c.hdr.aG) c.scal0.toNat ++ toBytesLE (8 * c.hdr.aG) c.scal1.toNat) ++
  (c.vec0.toList.flatMap fun l => toBytesLE (8 * c.hdr.vG) l.toNat) ++
  (c.vec1.toList.flatMap fun l => toBytesLE (8 * c.hdr.vG) l.toNat) ++
  pad64 (c.flight.flatMap imgFlight)

/-- The key of a context's first saveable byte on its core. -/
def Ctx.bankKey (c : Ctx) : Nat := c.bankBase + c.hdr.resBanks * 2 ^ 14

/-- The bytes of a context's saveable banks, wherever they are (spec/07 R461). -/
def bankBytes (s : State) (c : Ctx) : List Byte :=
  memGetList s.mem (if c.saveable = 0 then c.bankKey else (ownKey c (c.hdr.resBanks * 2 ^ 14)).getD c.bankKey) (c.saveable * 2 ^ 14)

/-- Where a context's banks lie in an image at a vault address. -/
def bankPlace (c : Ctx) (addr flight : Nat) : Nat := vaultBase + addr + imgBanks c.hdr.aG c.hdr.vG flight

/-- Bytes of a context's image. -/
def imgLen (c : Ctx) : Nat := imgBanks c.hdr.aG c.hdr.vG (flightBytes c.flight) + c.saveable * 2 ^ 14

/-- Save a context to an image at a vault address (R247); poisoned bytes stay poisoned in it. -/
def saveImage (s : State) (c : Ctx) (addr : Nat) : State :=
  let t := agentWrite s (vaultBase + addr) (imgFixed s c ++ bankBytes s c)
  (copyPoison t c.bankKey (bankPlace c addr (flightBytes c.flight)) (c.saveable * 2 ^ 14)).setCtx { c with imgAt := some addr }

/-- Save a stopped context that stays on its core: until it resumes or another image is written over its own, the image takes
the stores of its gang's members too (spec/07 R461). DEDUCED, log entry 58. -/
def saveStopped (s : State) (c : Ctx) (addr : Nat) : State :=
  let t := saveImage s c addr
  { t with ctxs := t.ctxs.map fun x =>
      if x.handle == c.handle then { x with mirror := true }
      else match x.imgAt with
        | some a => if decide (a < addr + imgLen c) && decide (addr < a + imgLen x) then { x with mirror := false } else x
        | none => x }

/-! ### Reading an image -/

/-- A little-endian number in an image. -/
def State.img (s : State) (addr off n : Nat) : Nat := s.load (vaultBase + addr + off) n

/-- The file of a replay entry. -/
def FileId.ofCode : Nat → FileId
  | 0 => .scal false
  | 1 => .scal true
  | 2 => .vec false
  | 3 => .vec true
  | 4 => .common
  | 5 => .pred
  | 6 => .scale
  | _ => .special

/-- The replay entries of an image from an offset, with the offset after them. A vector entry's rotating region is not in
the image: it is the one that the stopped context's entry has, else the one that VROT now gives. -/
def imgFlights (s : State) (addr : Nat) (c : Ctx) : Nat → Nat → List Flight
  | 0, _ => []
  | n + 1, off =>
    let w := s.img addr off 8
    let file := FileId.ofCode (w % 8)
    let start := w / 2 ^ 3 % 2 ^ 8
    let width := w / 2 ^ 11 % 16 + 1
    let lanes := match file with | .vec _ => 64 | _ => 1
    let wrap := match file with
      | .vec b =>
        (match c.flight.find? fun x => x.file == file && x.start == start && x.width == width with
         | some x => x.wrap
         | none => if start < rotSize (c.vrot b) then rotSize (c.vrot b) else 0)
      | _ => 0
    { file := file, start := start, width := width, wrap := wrap,
      lanes := (List.range lanes).map fun i => BitVec.ofNat 64 (s.img addr (off + 16 + 8 * i) 8),
      mask := BitVec.ofNat 64 (s.img addr (off + 8) 8), remaining := w / 2 ^ 15 % 16, age := w / 2 ^ 19 % 16,
      slot := w / 2 ^ 23 % 16, rep := w / 2 ^ 27 % 64 } :: imgFlights s addr c n (off + 16 + 8 * lanes)

/-- A running task from entry `i` of an image; what the image does not hold comes from the stopped context's task in the same place
of its stack, or else from its ordered task of that number. -/
def imgTaskOf (s : State) (addr i : Nat) (c : Ctx) : RunTask :=
  let off := 0xC0 + 32 * i
  let w := s.img addr (off + 0x14) 4
  let seq : BitVec 32 := BitVec.ofNat 32 (s.img addr (off + 0x10) 4)
  let is (t : RunTask) : Bool := t.seq == seq && t.dom == w % 2 ^ 12
  let old := ((c.tasks.reverse[i]?).filter is).or (c.tasks.find? fun t => t.seq != 0 && is t)
  { ts := BitVec.ofNat 64 (s.img addr off 8), argp := BitVec.ofNat 64 (s.img addr (off + 8) 8), seq := seq,
    dom := w % 2 ^ 12, jslot := w / 2 ^ 12 % 2 ^ 9, depth := w / 2 ^ 21 % 8, range := w.testBit 25,
    parent := BitVec.ofNat 64 (s.img addr (off + 0x18) 8), ord := decide (seq ≠ 0),
    slotIx := (old.map (·.slotIx)).getD 0, takePc := (old.map (·.takePc)).getD 0, takeReg := (old.map (·.takeReg)).getD 0,
    exec := (old.map (·.exec)).getD 0, line := (old.map (·.line)).getD [], gone := (old.map (·.gone)).getD false }

/-- A head names slices outside its window, or a special register that no head may name (R250). One that names a common register
above 31, a predicate above 47 or a scale register above 16 fails as well, with the same reason: DESIGN CHOICE, log entry 76. -/
def flightBad (c : Ctx) (x : Flight) : Bool :=
  match x.file with
  | .scal _ => decide (x.start + x.width > 16 * c.hdr.aG)
  | .vec _ => decide (x.start ≥ 16 * c.hdr.vG) || (x.wrap == 0 && decide (x.start + x.width > 16 * c.hdr.vG))
  | .special => !(isWritableSpecial x.start || (0x80 ≤ x.start && x.start < 0x88))
  | .common => decide (x.start ≥ 32)
  | .pred => decide (x.start ≥ 48)
  | .scale => decide (x.start > 16)

/-- The context that an image describes, over the stopped one, or the number of the first rule of R250 that fails. What the
image does not hold stays while its pc does. DEDUCED, log entries 47 and 55. An entry of div, rem or fdiv with 12 bundles left
fails rule 4: DESIGN CHOICE, log entry 54. -/
def readImage (s : State) (c : Ctx) (addr : Nat) : Except Nat Ctx :=
  let w := s.img addr 8 4
  let w2 := s.img addr 0xC 4
  let depth := w / 2 ^ 20 % 8
  let tasks := w / 2 ^ 17 % 8
  let n := w / 2 ^ 11 % 64
  let shl := w / 2 ^ 24 % 4
  let pend := w.testBit 23
  let target := s.img addr 4 4
  let scalOff := 0x440
  let vecOff := scalOff + (16 * c.hdr.aG + 63) / 64 * 64
  let repOff := vecOff + 1024 * c.hdr.vG
  let c0 := { c with vrot0 := BitVec.ofNat 64 (s.img addr 0x158 8), vrot1 := BitVec.ofNat 64 (s.img addr 0x160 8) }
  let fl := imgFlights s addr c0 n repOff
  let same := decide (BitVec.ofNat 32 (s.img addr 0 4) = c.pc)
  if s.img addr 0x3C 4 ≠ 0x5A514358 then .error 1
  else if w / 2 ^ 6 % 32 ≠ c.hdr.aG ∨ w / 2 % 32 ≠ c.hdr.vG then .error 2
  else if depth > 6 ∨ tasks > 4 ∨ n > 32 then .error 3
  else if fl.any fun x => x.remaining == 0 || decide (x.remaining > 11) || decide (x.age > 11) then .error 4
  else if shl > 2 ∨ (!pend ∧ target ≠ 0) then .error 5
  else if fl.any (flightBad c) then .error 6
  else
    .ok { c with
      pc := BitVec.ofNat 32 (s.img addr 0 4 / 4 * 4)
      target := BitVec.ofNat 32 (target / 4 * 4)
      rep := w / 2 ^ 26 % 64, shl := shl, pend := pend
      lost := w2.testBit 10, partBundle := w2.testBit 9, done := BitVec.ofNat 9 w2
      phase := BitVec.ofNat 64 (s.img addr 0x20 8)
      loops := ((List.range depth).map fun i =>
        { count := BitVec.ofNat 32 (s.img addr (0x40 + 16 * i) 4), start := BitVec.ofNat 32 (s.img addr (0x44 + 16 * i) 4 / 4 * 4),
          index := BitVec.ofNat 32 (s.img addr (0x48 + 16 * i) 4) : LoopEntry }).reverse
      tasks := ((List.range tasks).map fun i => imgTaskOf s addr i c).reverse
      lead := min (s.img addr 0x140 8) 15
      trapVec := BitVec.ofNat 32 (s.img addr 0x148 8 % 2 ^ 32 / 4 * 4)
      trapInfo := BitVec.ofNat 64 (s.img addr 0x150 8)
      vrot0 := clampRot c.hdr.vG c0.vrot0
      vrot1 := clampRot c.hdr.vG c0.vrot1
      kb := BitVec.ofNat 32 (s.img addr 0x168 4 % 2 ^ 24)
      scales := Vector.ofFn fun (i : Fin 16) => BitVec.ofNat 8 (s.img addr (0x170 + i.val) 1)
      mp := Vector.ofFn fun (i : Fin 8) => BitVec.ofNat 64 (s.img addr (0x180 + 8 * i.val) 8)
      preds := Vector.ofFn fun (i : Fin 48) => if i.val = 0 then 0 else BitVec.ofNat 64 (s.img addr (0x1C0 + 8 * (i.val - 1)) 8)
      com := Vector.ofFn fun (i : Fin 32) =>
        if c.pending i.val then c.common i.val else BitVec.ofNat 64 (s.img addr (0x340 + 8 * i.val) 8)
      scal0 := BitVec.ofNat 1024 (s.img addr scalOff (8 * c.hdr.aG))
      scal1 := BitVec.ofNat 1024 (s.img addr (scalOff + 8 * c.hdr.aG) (8 * c.hdr.aG))
      vec0 := Vector.ofFn fun (i : Fin 64) => BitVec.ofNat 1024 (s.img addr (vecOff + 8 * c.hdr.vG * i.val) (8 * c.hdr.vG))
      vec1 := Vector.ofFn fun (i : Fin 64) =>
        BitVec.ofNat 1024 (s.img addr (vecOff + 512 * c.hdr.vG + 8 * c.hdr.vG * i.val) (8 * c.hdr.vG))
      flight := fl.foldl (fun l x => insertFlight x l) []
      bpSkip := if same then c.bpSkip else 0
      began := if same then c.began else none
      leave := if same ∧ w2.testBit 0 then c.leave else none
      view := none, nextPc := if same then c.nextPc else none, barWait := c.barWait, imgAt := none, mirror := false
      moved := !same }

/-- The banks of an image whose replay entries take some bytes go back to the context's core. -/
def banksBack (s : State) (c : Ctx) (addr flight : Nat) : State :=
  let src := bankPlace c addr flight
  copyPoison (writeBytes s 0 c.bankKey (memGetList s.mem src (c.saveable * 2 ^ 14))) src c.bankKey (c.saveable * 2 ^ 14)

/-- The banks of an image go back to the context's saveable banks. -/
def restoreBanks (s : State) (c : Ctx) (addr : Nat) : State :=
  let w := s.img addr 8 4
  let repOff := 0x440 + (16 * c.hdr.aG + 63) / 64 * 64 + 1024 * c.hdr.vG
  banksBack s c addr (flightBytes (imgFlights s addr c (w / 2 ^ 11 % 64) repOff))

/-! ### The supervisor (R256, R257) -/

/-- A register of a cluster's supervisor block. -/
def supReg (cluster off : Nat) : RegAddr := ⟨.sup, cluster, off⟩

/-- The result of a command, in a status register. -/
def cmdStatus (s : State) (a : RegAddr) (result reason : Nat) : State :=
  s.setReg a (BitVec.ofNat 64 (result * 16 + reason * 256))

/-- A context of a cluster that has not ended. -/
def State.ctxIn (s : State) (cluster h : Nat) : Option Ctx :=
  (s.ctx? h).filter fun c => clusterOf c.core == cluster && c.status != .ended

/-- The context has issued part of the bundle at its pc (R243). -/
def Ctx.mid (c : Ctx) : Bool := c.partBundle || c.done != 0

/-- The context issues again in its turn (R243); its core loads the range entries that the Gaffer keeps for it (spec/15 R328). -/
def resumeCtx (s : State) (c : Ctx) : State :=
  let s1 := s.setCtx { c with status := .ready, imgAt := none, mirror := false, stallTok := false, live := c.ranges }
  traceRec s1 c.core 6 15 c.pc.toNat c.handle

/-- Op 1: save a stopped context (R257, R437). A save waits until every pending token of the sequencer has completed
(spec/01 R34): until then the command stays busy, and the event that finds the tokens complete performs it.
DEDUCED, log entry 47. -/
def saveCmd (s : State) (cluster h : Nat) (sts : RegAddr) (img : Nat) (mine : CtxStatus → Bool) : State :=
  match s.ctxIn cluster h with
  | none => cmdStatus s sts 1 0
  | some c =>
    if !mine c.status then cmdStatus s sts 2 0
    else if c.tokPend ≠ 0 then s.setReg sts 1
    else cmdStatus (saveStopped s c img) sts 0 0

/-- Op 2: restore a stopped context from an image and resume it, or refuse it with the first failing rule.
DEDUCED, log entry 47. -/
def restoreCmd (s : State) (cluster h : Nat) (sts : RegAddr) (img : Nat) (mine : CtxStatus → Bool) : State :=
  match s.ctxIn cluster h with
  | none => cmdStatus s sts 1 0
  | some c =>
    if !mine c.status then cmdStatus s sts 2 0
    else if c.imgAt.isNone then cmdStatus s sts 4 0
    else match readImage s c img with
      | .error r => cmdStatus s sts 3 r
      | .ok c' => cmdStatus (resumeCtx (restoreBanks s c img) { c' with stallTask := c'.redirecting && !c'.mid }) sts 0 0

/-- A context stopped by a trap. -/
def CtxStatus.isTrapped : CtxStatus → Bool
  | .trapped => true
  | _ => false

/-- A context in a debug stop. -/
def CtxStatus.isDebug : CtxStatus → Bool
  | .debug => true
  | _ => false

/-- CTX_SAVE_CMD (R257 op 1). -/
def execCtxSaveCmd (cluster ctx : Nat) (s : State) : Host.Outcome State Fault Refusal :=
  supAccess "CTX_SAVE_CMD" cluster s
    (saveCmd s cluster ctx (supReg cluster 0x30) (s.reg (supReg cluster 0x20)).toNat (·.isTrapped))

/-- CTX_RESTORE_CMD (R257 op 2). -/
def execCtxRestoreCmd (cluster ctx : Nat) (s : State) : Host.Outcome State Fault Refusal :=
  supAccess "CTX_RESTORE_CMD" cluster s
    (restoreCmd s cluster ctx (supReg cluster 0x30) (s.reg (supReg cluster 0x20)).toNat (·.isTrapped))

/-- End a context with CTX_KILLED and info 0 (R253, R257, spec/19 R398). -/
def endCmd (s : State) (c : Ctx) : State := fatalEnd s c (mkRec c causeCtxKilled 15 0 1 false 0)

/-- CTX_END_CMD (R257 op 3). -/
def execCtxEndCmd (cluster ctx : Nat) (s : State) : Host.Outcome State Fault Refusal :=
  supAccess "CTX_END_CMD" cluster s (match s.ctxIn cluster ctx with
    | none => cmdStatus s (supReg cluster 0x30) 1 0
    | some c => cmdStatus (endCmd s c) (supReg cluster 0x30) 0 0)

/-- The first waiting record of a cluster, and the others. -/
def popTrap (cluster : Nat) : List (Nat × TrapRec) → Option (TrapRec × List (Nat × TrapRec))
  | [] => none
  | (k, r) :: l => if k = cluster then some (r, l) else (popTrap cluster l).map fun x => (x.1, (k, r) :: x.2)

/-- TRAP_RECORD_ENQUEUE (R256): the next record of the cluster enters its ring, when the ring is enabled and has room. -/
def execTrapRecordEnqueue (cluster : Nat) (s : State) : Host.Outcome State Fault Refusal :=
  let ctl := s.reg (supReg cluster 8)
  match popTrap cluster s.trapWait with
  | none => .refused (.notEnabled "TRAP_RECORD_ENQUEUE")
  | some (r, rest) =>
    match ringPush s (supReg cluster 0) (supReg cluster 8) (supReg cluster 0x10) (supReg cluster 0x18) (ctl.getLsbD 8)
        (recBytes r) with
    | some t =>
      let t1 : State := { t with trapWait := rest }
      .next (if ctl.getLsbD 9 then t1.output (.supIrq cluster) else t1)
    | none => .refused (.notEnabled "TRAP_RECORD_ENQUEUE")

/-! ### The debug unit (spec/23 R437) -/

/-- DBG_SAVE (RED_DBG_CMD op 1). -/
def execDbgSave (cluster ctx : Nat) (s : State) : Host.Outcome State Fault Refusal :=
  .next (s.whenUp (saveCmd s cluster ctx (redReg cluster 0x70) (s.reg (redReg cluster 0x60)).toNat (·.isDebug)))

/-- DBG_RESTORE (RED_DBG_CMD op 2). -/
def execDbgRestore (cluster ctx : Nat) (s : State) : Host.Outcome State Fault Refusal :=
  .next (s.whenUp (restoreCmd s cluster ctx (redReg cluster 0x70) (s.reg (redReg cluster 0x60)).toNat (·.isDebug)))

/-- DBG_RESUME (RED_DBG_CMD op 3): a debug-stopped context resumes as it stands, whatever its image holds. -/
def execDbgResume (cluster ctx : Nat) (s : State) : Host.Outcome State Fault Refusal :=
  match s.ctxIn cluster ctx with
  | none => .next (s.whenUp (cmdStatus s (redReg cluster 0x70) 1 0))
  | some c =>
    if c.status.isDebug then .next (s.whenUp (cmdStatus (resumeCtx s c) (redReg cluster 0x70) 0 0))
    else .next (s.whenUp (cmdStatus s (redReg cluster 0x70) 2 0))

/-- The debug unit loses its owner: its breakpoints and watches are disabled and its stopped contexts resume (R437). -/
def debugRelease (s : State) (cluster : Nat) : State :=
  let off (n : Nat) (t : State) : State := t.setReg (redReg cluster n) (t.reg (redReg cluster n) &&& ~~~(BitVec.ofNat 64 (2 ^ 48)))
  let s1 := (List.range 8).foldl (fun t i => off (0x80 + 8 * i) t) s
  let s2 := (List.range 4).foldl (fun t j => off (0xC0 + 16 * j + 8) t) s1
  (s2.ctxs.filter fun c => clusterOf c.core == cluster && c.status.isDebug).foldl resumeCtx s2

end Sys2Proof.Machine
end

