-- ==== Sys2Proof/Machine/Gaffer.lean ====
section
/-!
DEFINITION. The Gaffer's intake and set-up of work (spec/19 R378-R386, R460): launches from the submission ring and the
host queues, kernel images and descriptors and their checks, and the set-up at a release.
-/

namespace Sys2Proof.Machine

open Sys2Proof

/-! ### Reading intermediate addresses -/

/-- A byte at an intermediate address of a partition, at its home; `none` where no page is mapped, the data are
poisoned, or the page is host-homed behind a port whose link is down (spec/22 R425). -/
def iaByte (s : State) (part ia : Nat) : Option Byte :=
  match (lookupLeaf s part (partDie part) ia).2 with
  | .leaf lv e0 _ =>
    (match swapEntry s part ia e0 with
     | .ok e =>
       if pteH e ∧ hostDown s (pteAddr e) then none
       else (match homeRead s (homeKey lv ia e) 1 with
         | .ok bs => bs.head?
         | .error _ => none)
     | .error _ => none)
  | _ => none

/-- A run of bytes at an intermediate address. -/
def iaRead (s : State) (part ia : Nat) : Nat → Option (List Byte)
  | 0 => some []
  | n + 1 =>
    match iaByte s part ia with
    | none => none
    | some b => (iaRead s part (ia + 1) n).map (b :: ·)

/-- The Gaffer's requests for the lines of some runs of intermediate addresses reach the memory-side cache, in class SYS
(spec/13 R292); its walks fill the translation cache (spec/15 R334). -/
def gafTouch (s : State) (part : Nat) (runs : List (Nat × Nat)) : State :=
  (runs.flatMap fun r => if r.2 = 0 then [] else
    (List.range ((r.1 % 64 + r.2 + 63) / 64)).map fun j => r.1 / 64 * 64 + 64 * j).foldl (fun t line =>
      match lookupLeaf t part (partDie part) line with
      | (u, .leaf lv e _) => mscTouch u part sysReq .read (homeKey lv line e)
      | (u, _) => u) s

/-- Every page of a run of intermediate addresses is mapped. -/
def iaMapped (s : State) (part ia n : Nat) : Bool :=
  (List.range ((ia + n + 2 ^ 19 - 1) / 2 ^ 19 - ia / 2 ^ 19)).all fun i => (iaByte s part ((ia / 2 ^ 19 + i) * 2 ^ 19)).isSome

/-- A 64-bit word of a list of bytes. -/
def wordAt (bs : List Byte) (off : Nat) : Word := BitVec.ofNat 64 (ofBytesLE ((bs.drop off).take 8))

/-! ### Kernel images (spec/04 R102, R460) -/

/-- Word of a header, 32 bits. -/
def hword (bs : List Byte) (off : Nat) : Nat := ofBytesLE ((bs.drop off).take 4)

/-- The kernel header of an image's first 32 bytes. -/
def parseHeader (bs : List Byte) : KHeader where
  aG := hword bs 0x10 % 32
  vG := hword bs 0x10 / 2 ^ 5 % 32
  banks := hword bs 0x10 / 2 ^ 10 % 64
  resBanks := hword bs 0x10 / 2 ^ 16 % 64
  barriers := hword bs 0x10 / 2 ^ 22
  stages := hword bs 0x14 % 16
  lead := hword bs 0x14 / 2 ^ 5 % 16
  ordered := (hword bs 0x14).testBit 4
  safeint := hword bs 0x18 % 2 ^ 16
  safedist := hword bs 0x18 / 2 ^ 16
  waitmax := hword bs 0x1C / 2 ^ 16 * 16
  tensors := hword bs 0x1C % 2 ^ 16
  codeLen := hword bs 8
  dataLen := hword bs 0xC

/-- The first own-form address of the data section, after arguments that end at `n` (R385). -/
def dataAddr (n : Nat) : Nat := (n + 63) / 64 * 64

/-- Codes of refusal (R393). -/
def rcBadEntry : Nat := 0x01
def rcBusy : Nat := 0x02
def rcSlots : Nat := 0x03
def rcVault : Nat := 0x04
def rcNoLane : Nat := 0x05
def rcBanks : Nat := 0x06
def rcSafepoint : Nat := 0x07
def rcUtilAct : Nat := 0x08
def rcUtilRea : Nat := 0x09
def rcUtilTotal : Nat := 0x0A
def rcBadImage : Nat := 0x10
def rcBadRange : Nat := 0x11
def rcDomainBusy : Nat := 0x12
def rcNeverFits : Nat := 0x13

/-- What R460 says of a header's fields. -/
def headerOk (bs : List Byte) (h : KHeader) : Bool :=
  hword bs 0 == 0x5A514B48 && hword bs 4 == 1 * 2 ^ 16 + 32 && h.codeLen != 0 && h.codeLen % 4 == 0 &&
  decide (1 ≤ h.aG) && decide (h.aG ≤ 16) && decide (1 ≤ h.vG) && decide (h.vG ≤ 16) && decide (h.banks ≤ 48) &&
  decide (h.resBanks ≤ h.banks) && decide (h.barriers ≤ 512) && decide (1 ≤ h.stages) && decide (h.stages ≤ 8) &&
  decide (1 ≤ h.safeint) && decide (h.safeint ≤ 4096) && decide (1 ≤ h.safedist) && decide (h.safedist ≤ h.safeint) &&
  hword bs 0x14 / 2 ^ 9 == 0

/-- The header of a template's or launch's image, or the reason of its refusal (R460). DEDUCED, log entry 47. -/
def checkImage (s : State) (part : Nat) (d : Desc) (argEnd : Nat) : Except Nat KHeader :=
  match iaRead s part d.image 32 with
  | none => .error rcBadImage
  | some bs =>
    let h := parseHeader bs
    if !headerOk bs h ∨ dataAddr argEnd + h.dataLen > 16384 * h.banks then .error rcBadImage
    else if !iaMapped s part d.image (32 + h.codeLen + h.dataLen + 64 * h.tensors) then .error rcBadImage
    else if h.codeLen > 2 ^ 18 ∨ (h.ordered ∧ d.domN ≠ 0 ∧ h.banks > 44) then .error rcNeverFits
    else .ok h

/-- Bytes of the largest image of a kernel (spec/11 R252). -/
def maxImage (h : KHeader) : Nat :=
  1088 + (16 * h.aG + 63) / 64 * 64 + 1024 * h.vG + 32 * 528 + (h.banks - h.resBanks) * 2 ^ 14

/-- Nanoseconds of a count of core cycles at the floor frequency of 1.2 GHz, rounded up. -/
def floorNs (cycles : Nat) : Nat := (cycles * 5 + 5) / 6

/-- The minimum time slice of a kernel (spec/11 R252). -/
def minSlice (h : KHeader) : Nat := floorNs (2 * (64 + maxImage h / 64) + h.safedist) + 400 + h.waitmax

/-! ### Descriptors (R379) -/

/-- A descriptor of 128 bytes. -/
def parseDesc (bs : List Byte) : Desc where
  image := (wordAt bs 0).toNat
  ibase := (wordAt bs 8).toNat % 2 ^ 32
  args := (wordAt bs 0x10).toNat
  argLen := (wordAt bs 0x18).toNat % 2 ^ 32
  cmask := wordAt bs 0x20
  gangs := (wordAt bs 0x28).toNat % 2 ^ 16
  members := (wordAt bs 0x28).toNat / 2 ^ 16 % 2 ^ 6 + 1
  sb := 0 :: (List.range 7).map fun i => (wordAt bs 0x30).toNat / 2 ^ (8 * i) % 2 ^ 8
  ranges := (wordAt bs 0x38).toNat
  tensors := (wordAt bs 0x40).toNat
  dom0 := (wordAt bs 0x48).toNat % 2 ^ 12
  domN := (wordAt bs 0x48).toNat / 2 ^ 16 % 2 ^ 12
  deadline := (wordAt bs 0x50).toNat
  release := (wordAt bs 0x58).toNat
  vf := (wordAt bs 0x60).toNat % 2 ^ 6
  slice := (wordAt bs 0x60).toNat / 2 ^ 32

/-- The unlisted bits of a descriptor are zero (R379). -/
def descZero (bs : List Byte) : Bool :=
  (wordAt bs 8).toNat / 2 ^ 32 == 0 && (wordAt bs 0x18).toNat / 2 ^ 32 == 0 && (wordAt bs 0x28).toNat / 2 ^ 22 == 0 &&
  (wordAt bs 0x30).toNat / 2 ^ 56 == 0 && (wordAt bs 0x48).toNat / 2 ^ 28 == 0 &&
  (wordAt bs 0x48).toNat / 2 ^ 12 % 2 ^ 4 == 0 && (wordAt bs 0x60).toNat / 2 ^ 6 % 2 ^ 26 == 0 && wordAt bs 0x68 == 0 &&
  wordAt bs 0x70 == 0 && wordAt bs 0x78 == 0

/-- The stage of member `m` (R378). -/
def Desc.stageOf (d : Desc) (m : Nat) : Nat :=
  (List.range 8).foldl (fun a t => if d.sb[t]?.getD d.members ≤ m then t else a) 0

/-- The limits on the stage bounds (R378, R379). -/
def sbOk (d : Desc) (h : KHeader) : Bool :=
  (List.range 7).all fun i =>
    let a := d.sb[i]?.getD 0
    let b := d.sb[i + 1]?.getD 0
    decide (a ≤ b) && decide (b ≤ d.members) && (decide (i + 1 < h.stages) || b == d.members)

/-- The limits that a descriptor decides with its header alone (R379). Those on M are the resident slots of a cluster of eight
empty cores: the free slots of the moment are for placement. DEDUCED, log entry 47. -/
def descOk (d : Desc) (h : KHeader) (argEnd : Nat) : Bool :=
  d.ibase % 4 == 0 && d.gangs != 0 && sbOk d h && (d.domN == 0 || h.ordered) && decide (d.dom0 + d.domN ≤ 4096) &&
  decide (argEnd ≤ 16384 * h.banks) && decide (d.members ≤ 8 * 8)

/-- A launch's cluster mask lies within its partition. -/
def cmaskOk (part : Nat) (m : Word) : Bool := (List.range 64).all fun c => !m.getLsbD c || partHas part c

/-- What R330 asks of a range entry, but for the running context. -/
def rangeOk (part : Nat) (e : Word × Word × Word × Word) : Bool :=
  let vb := e.1.toNat
  let size := e.2.1.toNat
  let tb := e.2.2.1.toNat
  let w3 := e.2.2.2.toNat
  w3 / 2 ^ 5 == 0 && decide (w3 % 4 < 2) && vb % 2 ^ 19 == 0 && size % 2 ^ 19 == 0 && tb % 2 ^ 19 == 0 &&
  decide (vb + size ≤ 2 ^ 64) &&
  (if w3 % 4 = 0 then decide (tb < 2 ^ 48) && decide (tb + size ≤ 2 ^ 48)
   else size == 0 || (vaultOk part tb && vaultOk part (tb + size - 1) &&
     (List.range ((size + 2 ^ 27 - 1) / 2 ^ 27)).all fun i => vaultOk part (tb + min (i * 2 ^ 27) (size - 1))))

/-- The sixteen range entries at an intermediate address. -/
def readRanges (s : State) (part ia : Nat) : Option (List (Word × Word × Word × Word)) :=
  (iaRead s part ia 512).map fun bs => (List.range 16).map fun i =>
    (wordAt bs (32 * i), wordAt bs (32 * i + 8), wordAt bs (32 * i + 16), wordAt bs (32 * i + 24))

/-- The tensor templates of an image with the bases that the launch supplies (spec/13 R295). -/
def readHandles (s : State) (part : Nat) (d : Desc) (h : KHeader) : Option (List (List Word)) :=
  (List.range h.tensors).mapM fun i =>
    match iaRead s part (d.image + 32 + h.codeLen + h.dataLen + 64 * i) 64, iaRead s part (d.tensors + 8 * i) 8 with
    | some t, some b => some (wordAt b 0 :: (List.range 7).map fun j => wordAt t (8 * (j + 1)))
    | _, _ => none

/-! ### Set-up (R382) -/

/-- Where a grid's arguments end in own-form addresses (R384, R385). -/
def argEndOf (kind : GridKind) (d : Desc) : Nat := (if kind = .launch then 0 else 0x40) + d.argLen

/-- Bind a domain to a grid as ordered; its counters return to zero (R353, spec/17 R373). -/
def bindDomain (s : State) (g : Grid) (dom : Nat) : State :=
  let d : Domain := { part := g.part, dom := dom, bound := true, ordered := true, gkey := g.key,
                      cfgGrid := BitVec.ofNat 32 g.id, nextSeq := 1, commits := 0, conflicts := 0, others := 0,
                      discards := 0 }
  { s with domains := putBy s.domains (fun x => x.part == g.part && x.dom == dom) d }

/-- What a set-up reads, but for code and data (R382). -/
def setupTouch (s : State) (g : Grid) : State :=
  let d := g.desc
  let h := match iaRead s g.part d.image 32 with | some bs => parseHeader bs | none => {}
  gafTouch s g.part [(d.image, 32), (d.ranges, 512), (d.image + 32 + h.codeLen + h.dataLen, 64 * h.tensors),
    (d.tensors, 8 * h.tensors)]

/-- The grid of a kernel's set-up, or the reason of its refusal. -/
def setupGrid (s : State) (g : Grid) (entryOk : Bool) : Except Nat (State × Grid) :=
  let d := g.desc
  let e := argEndOf g.kind d
  if !entryOk then .error rcBadEntry
  else match checkImage s g.part d e with
    | .error r => .error r
    | .ok h =>
      if !descOk d h e then .error rcBadEntry
      else if g.kind = .launch ∧ !cmaskOk g.part d.cmask then .error rcBadEntry
      else if d.argLen ≠ 0 ∧ !iaMapped s g.part d.args d.argLen then .error rcBadEntry
      else match readRanges s g.part d.ranges with
        | none => .error rcBadRange
        | some rs =>
          if !rs.all (rangeOk g.part) then .error rcBadRange
          else match readHandles s g.part d h with
            | none => .error rcBadEntry
            | some hs =>
              let doms := (List.range d.domN).map (d.dom0 + ·)
              if doms.any fun x => match s.dom? g.part x with | some y => y.bound | none => false then .error rcDomainBusy
              else
                let sl := max d.slice (minSlice h)
                let s1 := doms.foldl (fun t x => bindDomain t g x) s
                let s2 := if d.slice < minSlice h ∧ g.kind = .launch then
                    s1.setReg (gafReg g.part 0) (s1.reg (gafReg g.part 0) ||| 0x10000) else s1
                .ok (s2, { g with
                  status := .ready, hdr := h, slice := sl, clamped := decide (d.slice < minSlice h), setUp := true,
                  handles := hs, rangeWords := rs,
                  gangs := (List.range d.gangs).map fun i => { index := i, bars := List.replicate h.barriers {} } })

/-! ### Status and completion (R380, spec/22 R428) -/

/-- The status word. -/
def statusWord (g : Grid) (result reason : Nat) : Nat :=
  result + reason % 256 * 2 ^ 8 + (if g.clamped then 2 ^ 16 else 0) + g.id * 2 ^ 32

/-- A host queue. -/
def State.queue (s : State) (q : Nat) : HostQueue := findD s.queues (fun x => x.q == q) { q := q }

/-- Write a host queue. -/
def State.setQueue (s : State) (x : HostQueue) : State := { s with queues := putBy s.queues (fun y => y.q == x.q) x }

/-- Partition of a queue. -/
def HostQueue.part (x : HostQueue) : Nat := (x.cfg.extractLsb' 5 3).toNat

/-- The Gaffer writes a launch's status, and the completion of a launch from a host queue. -/
def writeStatus (s : State) (g : Grid) (result reason : Nat) : State :=
  let w := statusWord g result reason
  match g.source with
  | .none => s
  | .ring a => agentStore s a 8 w
  | .queue qn ix a =>
    let q := s.queue qn
    let n := ringSize q.cfg
    let base := vaultBase + q.base.toNat
    let s1 := agentStore s a 8 w
    let at' := base + 0x100 + 128 * n + 16 * (q.cwi % n)
    let s2 := agentStore s1 at' 16 (ix % 2 ^ 64 + w * 2 ^ 64)
    let s3 := agentStore s2 (base + 8) 8 (q.cwi + 1)
    (s3.setQueue { q with cwi := q.cwi + 1, outstanding := q.outstanding - 1 }).output
      (.queueIrq s.hostIf.holder qn)

/-! ### Consumption (R381, spec/22 R428) -/

/-- The next submission number of a partition (R387). -/
def takeSub (s : State) (part : Nat) : State × Nat :=
  let p := s.part part
  (s.setPart { p with nextSub := p.nextSub + 1 }, p.nextSub)

/-- A partition runs: it exists and is not resetting (spec/11 R254). -/
def partRuns (s : State) (part : Nat) : Bool := partPresent s.prtCfg part && !(s.part part).resetting && s.boot == .running

/-- A partition takes work: it runs, and it is not draining (spec/22 R423). -/
def partOpen (s : State) (part : Nat) : Bool := partRuns s part && !(s.part part).draining

/-- A launch enters as a pending grid. -/
def enterLaunch (s : State) (part : Nat) (bs : List Byte) (src : Source) : State :=
  let d := parseDesc bs
  let q := takeSub s part
  let g : Grid := { key := s.nextKey, part := part, kind := .launch, status := .pending, sub := q.2, desc := d, hdr := {},
                    source := src, deadline := d.deadline, release := d.release, complete := !descZero bs, seenAt := s.nowPs }
  { q.1 with grids := q.1.grids ++ [g], nextKey := s.nextKey + 1 }

/-- LAUNCH_CONSUME (R381): an entry of the submission ring, or the ring's overrun. -/
def execLaunchConsume (part : Nat) (s : State) : Host.Outcome State Fault Refusal :=
  let ctl := s.reg (gafReg part 0x38)
  let base := vaultBase + (s.reg (gafReg part 0x30)).toNat
  let n := ringSize ctl
  let ri := (s.reg (gafReg part 0x40)).toNat
  let wi := s.load base 8
  if !partOpen s part ∨ !ctl.getLsbD 8 ∨ ctl.getLsbD 9 ∨ wi ≤ ri then .refused (.notEnabled "LAUNCH_CONSUME")
  else if wi > ri + n then .next (s.setReg (gafReg part 0x38) (ctl ||| 0x200))
  else
    let at' := base + 64 + 128 * (ri % n)
    let s1 := enterLaunch s part (memGetList s.mem at' 128) (.ring (at' + 0x70))
    let s2 := agentStore s1 (base + 8) 8 (ri + 1)
    .next (s2.setReg (gafReg part 0x40) (BitVec.ofNat 64 (ri + 1)))

/-- HOST_QUEUE_CONSUME (spec/22 R428, R430). -/
def execHostQueueConsume (queue : Nat) (s : State) : Host.Outcome State Fault Refusal :=
  let q := s.queue queue
  let n := ringSize q.cfg
  let base := vaultBase + q.base.toNat
  let unread := q.cwi - s.load (base + 0x10) 8
  if q.state ≠ 1 ∨ !q.cfg.getLsbD 4 ∨ !s.hostIf.valid ∨ !partOpen s q.part ∨ q.last ≤ q.ri ∨ q.outstanding + unread ≥ n then
    .refused (.notEnabled "HOST_QUEUE_CONSUME")
  else
    let at' := base + 0x100 + 128 * (q.ri % n)
    let s1 := enterLaunch s q.part (memGetList s.mem at' 128) (.queue queue q.ri (at' + 0x70))
    let s2 := agentStore s1 base 8 (q.ri + 1)
    .next (s2.setQueue { q with ri := q.ri + 1, outstanding := q.outstanding + 1 })

/-- LAUNCH_RELEASE (R382): a pending launch whose release time has come is set up, or refused with its status. The flag
`complete` of a pending launch says that its descriptor has a zero field set. -/
def execLaunchRelease (gkey : Nat) (s : State) : Host.Outcome State Fault Refusal :=
  match s.grid? gkey with
  | none => .refused (.notEnabled "LAUNCH_RELEASE")
  | some g =>
    if g.status ≠ .pending ∨ g.kind ≠ .launch ∨ s.now < g.release ∨ (s.part g.part).resetting ∨ otherFirst s g g.eventAt then
      .refused (.notEnabled "LAUNCH_RELEASE")
    else
      let s := setupTouch s g
      match setupGrid s { g with complete := false } (!g.complete) with
      | .ok (t, g') => .next (noteDone (t.setGrid g') g.part)
      | .error r => .next (noteDone (writeStatus (s.setGrid { g with status := .refused, complete := false }) g 2 r) g.part)

end Sys2Proof.Machine
end

