-- ==== Sys2Proof/Machine/Place.lean ====
section
/-!
DEFINITION. Placement of gangs on cores, member start, yields and saves (spec/19 R383-R391, spec/11 R245-R252,
spec/13 R285). Resources in use are read off the resident contexts.
-/

namespace Sys2Proof.Machine

open Sys2Proof

/-! ### Resources of a core -/

/-- A context occupies its resident slot, windows and banks: it is neither saved nor ended, or it ended with a grid that a
fatal error is ending (spec/11 R253 action 7). -/
def State.occupies (s : State) (c : Ctx) : Bool :=
  match c.status with
  | .saved => false
  | .ended => (match s.grid? c.gkey with | some g => g.cause.isSome && g.status == .ready | none => false)
  | _ => true

/-- The contexts that occupy a core. -/
def State.residents (s : State) (core : Nat) : List Ctx := s.ctxs.filter fun c => c.core == core && s.occupies c

/-- The lowest resident slot that is free (spec/01 R14). -/
def freeSlotNo (s : State) (core : Nat) : Option Nat :=
  (List.range 8).find? fun r => (s.residents core).all fun c => c.res != r

/-- The first base of `n` granules that meets no interval, in 16 granules (spec/01 R20). -/
def firstFit (n : Nat) (used : List (Nat × Nat)) : Option Nat :=
  (List.range (17 - n)).find? fun b => used.all fun u => decide (b + n ≤ u.1) || decide (u.1 + u.2 ≤ b)

/-- A grid binds ordered domains. -/
def Grid.bindsOrdered (g : Grid) : Bool := g.hdr.ordered && g.desc.domN != 0

/-- Banks of a core that are taken: those of its residents and the resident-reserved banks of saved contexts (R285). -/
def takenBanks (s : State) (core : Nat) : List Nat :=
  (s.residents core).flatMap (·.bankList) ++
  (s.ctxs.filter fun c => c.core == core && c.status == .saved).flatMap fun c => c.bankList.take c.hdr.resBanks

/-- A core holds a sequencer of a grid with ordered domains (R358). -/
def orderedHere (s : State) (core : Nat) : Bool :=
  s.ctxs.any fun c => c.core == core && c.status != .ended &&
    (match s.grid? c.gkey with | some g => g.bindsOrdered | none => false)

/-- The lowest-numbered free banks of a core, `n` of them (R285, R358). -/
def findBanks (s : State) (g : Grid) (core n : Nat) : Option (List Nat) :=
  let taken := takenBanks s core
  if g.bindsOrdered ∧ taken.any fun b => decide (44 ≤ b) then none
  else
    let top := if g.bindsOrdered ∨ orderedHere s core then 44 else 48
    let free := (List.range top).filter fun b => !taken.contains b
    if free.length < n then none else some (free.take n)

/-- The routines of a grid that a core holds. -/
def gridRoutines (s : State) (core gkey : Nat) : List Routine := (s.core core).store.filter fun r => r.gkey == gkey

/-- Copy a grid's writable routines from one core to another, when they fit (R213). -/
def copyRoutines (s : State) (gkey old new : Nat) : Option State :=
  let rs := gridRoutines s old gkey
  if old = new ∨ rs = [] then some s
  else
    let k := s.core new
    let kept := k.store.filter fun r => !(rs.any fun q => q.index == r.index)
    if k.store.any fun r => r.gkey != gkey && rs.any fun q => q.index == r.index then none
    else if ((kept ++ rs).map fun r => r.ops.length).sum > 1024 then none
    else some (s.setCore new { k with store := kept ++ rs })

/-- The image address of a grid's code. -/
def imageOf (s : State) (gkey : Nat) : Option Nat := (s.grid? gkey).map fun g => g.desc.image

/-- A free run of an instruction store between some segments (R385). -/
def findCode (segs : List CodeSeg) (len : Nat) : Option Nat :=
  let fits (o : Nat) : Bool := decide (o + len ≤ 2 ^ 18) &&
    segs.all fun x => decide (o + len ≤ x.off) || decide (x.off + x.len ≤ o)
  (0 :: segs.map fun x => x.off + x.len).find? fits

/-- The segments of a core's instruction store whose grids are resident there (R385). -/
def liveCode (s : State) (core : Nat) : List CodeSeg :=
  (s.core core).code.filter fun x => (s.residents core).any fun c => c.gkey == x.gkey

/-- Where the segments of a store go when they are moved together: old and new offsets. -/
def packedAt (segs : List CodeSeg) : List (Nat × Nat) :=
  (segs.foldl (fun (a : Nat × List (Nat × Nat)) x =>
    if a.2.any fun y => y.1 == x.off then a else (a.1 + x.len, a.2 ++ [(x.off, a.1)])) (0, [])).2

/-- A core's instruction store holds some of its segments alone, moved together, so that what is free is one run. -/
def packCode (s : State) (core : Nat) (segs : List CodeSeg) : State :=
  let at' := packedAt segs
  let base := codeBase + core * 2 ^ 18
  let new (o : Nat) : Nat := ((at'.find? fun y => y.1 == o).map (·.2)).getD o
  let s1 := segs.foldl (fun t x => t.storeBytes (base + new x.off) (memGetList s.mem (base + x.off) x.len)) s
  s1.setCore core { s1.core core with code := segs.map fun x => { x with off := new x.off } }

/-- A byte at an intermediate address; a byte that nothing holds there any more is a free value (log entry 3). -/
def gafByte (s : State) (part ia : Nat) : Byte := (iaByte s part ia).getD (Config.freeByte s.stepNo ia)

/-- Bytes at an intermediate address. -/
def gafBytes (s : State) (part ia n : Nat) : List Byte := (List.range n).map fun i => gafByte s part (ia + i)

/-- A grid's code is written into a core's instruction store at an offset, over what no resident grid uses. -/
def writeCode (s : State) (g : Grid) (core o : Nat) : State :=
  let at' := g.desc.image + 32
  let s1 := writeBytes (gafTouch s g.part [(at', g.hdr.codeLen)]) 0 (codeBase + core * 2 ^ 18 + o)
    (gafBytes s g.part at' g.hdr.codeLen)
  let k := s1.core core
  s1.setCore core { k with
    code := (k.code.filter fun x => decide (o + g.hdr.codeLen ≤ x.off) || decide (x.off + x.len ≤ o)) ++
      [{ gkey := g.key, ibase := g.desc.ibase, len := g.hdr.codeLen, off := o }] }

/-- The grid's code stands in a core's instruction store, or cannot, beside the code of the grids that are resident on the core; code
of the same image that the store still holds is not written again (R385). Where the free part of the store is in pieces, the code
there is moved together: DESIGN CHOICE, log entry 78. -/
def loadCode (s : State) (g : Grid) (core : Nat) : Option State :=
  let k := s.core core
  let live := liveCode s core
  if k.code.any fun x => x.gkey == g.key then some s
  else match k.code.find? fun x => imageOf s x.gkey == some g.desc.image && x.len == g.hdr.codeLen with
    | some x =>
      some (s.setCore core { k with code := k.code ++ [{ gkey := g.key, ibase := g.desc.ibase, len := x.len, off := x.off }] })
    | none =>
      match findCode live g.hdr.codeLen with
      | some o => some (writeCode s g core o)
      | none =>
        let t := packCode s core live
        (findCode (t.core core).code g.hdr.codeLen).map (writeCode t g core)

/-! ### Placing one member -/

/-- A context may resume on a core: its resident-reserved banks and its ordered task tie it to its own (R251, R361). -/
def mayMove (c : Ctx) (core : Nat) : Bool :=
  c.status != .saved || c.core == core || (c.hdr.resBanks == 0 && !(c.tasks.any fun t => t.ord))

/-- The vault address of the save area of a context (spec/11 R247): in the lower half of the vault above its cluster, so that
every image fits. The place is free: log entry 59. -/
def areaOf (c : Ctx) : Nat := clusterOf c.core * 2 ^ 27 + Config.saveArea (clusterOf c.core) c.handle % 2 ^ 20 * 64

/-- A saved context comes back from its image (spec/11 R251), its banks newly allocated and every tag in them full (spec/07
R155); `none` while R250 refuses the image. An image that stands as it was saved describes the context as it was. -/
def wakeCtx (s : State) (c : Ctx) : Option (State × Ctx) :=
  match c.imgAt with
  | none => some (s, c)
  | some a =>
    let back (d : Ctx) : State × Ctx :=
      (restoreBanks (freeKeys s c.bankKey (c.bankBase + c.hdr.banks * 2 ^ 14)) c a, { d with imgAt := none })
    match readImage s c a with
    | .ok d => some (back d)
    | .error _ =>
      let bs := imgFixed s c
      if memGetList s.mem (vaultBase + a) bs.length = bs then some (back c) else none

/-- The routines that a grid has loaded stand in the stores of the cores of its members: they fit on another core, or it takes
no member of the grid (R383, spec/09 R213). -/
def routinesFit (s : State) (g : Grid) (c : Ctx) (core : Nat) : Option State :=
  if c.status = .saved then copyRoutines s g.key c.core core
  else match s.ctxs.find? fun x => x.gkey == g.key && !(gridRoutines s x.core g.key).isEmpty with
    | some x => (copyRoutines s g.key x.core core).map fun _ => s
    | none => some s

/-- Put a member on a core, if everything it needs fits (R383); its range entries are loaded there (spec/15 R328). -/
def fitMember (s : State) (g : Grid) (c : Ctx) (core : Nat) : Option State :=
  let h := c.hdr
  let keep := if c.status = .saved then c.bankList.take h.resBanks else []
  let rs := s.residents core
  if !mayMove c core then none
  else match freeSlotNo s core, firstFit h.aG (rs.map fun x => (x.aBase, x.hdr.aG)),
      firstFit h.vG (rs.map fun x => (x.vBase, x.hdr.vG)), findBanks s g core (h.banks - keep.length) with
    | some r, some a, some v, some bs =>
      match routinesFit s g c core with
      | none => none
      | some s1 =>
        match loadCode s1 g core with
        | none => none
        | some s2 => (wakeCtx s2 c).map fun w =>
            w.1.setCtx { w.2 with core := core, res := r, aBase := a, vBase := v, bankList := keep ++ bs, status := .ready,
                                  yieldReq := false, live := w.2.ranges, stallTok := false, stallTask := w.2.redirecting }
    | _, _, _, _ => none

/-- The first core of an order that takes a member. -/
def fitFirst (s : State) (g : Grid) (c : Ctx) : List Nat → Option (State × Nat)
  | [] => none
  | k :: ks => match fitMember s g c k with
    | some t => some (t, k)
    | none => fitFirst s g c ks

/-- The round-robin order of some cores from a position on. -/
def rotate (cores : List Nat) (n : Nat) : List Nat := cores.drop (n % max 1 cores.length) ++ cores.take (n % max 1 cores.length)

/-- Place members in order, each searching from the core after the one before it; the last core used. -/
def fitAll (s : State) (g : Grid) (cores : List Nat) (from' : Nat) : List Ctx → Option (State × Nat)
  | [] => some (s, from')
  | c :: cs =>
    match fitFirst s g c (rotate cores from') with
    | none => none
    | some (t, k) =>
      match fitAll t g cores (cores.findIdx (· == k) + 1) cs with
      | some r => some r
      | none => none

/-! ### Member start (R384-R386) -/

/-- The job header (R386). -/
def jobHeader (g : Grid) : List Byte :=
  toBytesLE 8 g.release ++ toBytesLE 8 g.deadline ++ toBytesLE 8 g.emission ++
  toBytesLE 8 (g.session % 2 ^ 12 + (if g.kind = .reasoning then 2 ^ 16 else 0) + (g.level.getD 0) % 4 * 2 ^ 18) ++
  toBytesLE 8 g.tokenAt ++ toBytesLE 8 g.jobNo ++ List.replicate 16 0

/-- A member's first bank bytes: header, arguments and data (R384, R385). -/
def startBanks (s : State) (g : Grid) (h : Nat) : State :=
  let d := g.desc
  let key := spmBase + h * 2 ^ 20
  let a0 := if g.isJob then 0x40 else 0
  let dat := d.image + 32 + g.hdr.codeLen
  let s0 := gafTouch s g.part [(d.args, d.argLen), (dat, g.hdr.dataLen)]
  let s1 := if g.isJob then writeBytes s0 0 key (jobHeader g) else s0
  let s2 := writeBytes s1 0 (key + a0) (gafBytes s g.part d.args d.argLen)
  writeBytes s2 0 (key + dataAddr (a0 + d.argLen)) (gafBytes s g.part dat g.hdr.dataLen)

/-- A member's context at dispatch (spec/01 R31, R35-R38; spec/06 R150).
Registers without a reset value hold zero: DESIGN CHOICE, log entry 7. -/
def freshCtx (g : Grid) (gang m handle : Nat) : Ctx :=
  { handle := handle, gkey := g.key, gang := gang, seqid := m, stage := g.desc.stageOf m, part := g.part, vf := g.desc.vf,
    level := g.level.getD 0, hdr := g.hdr, ibase := g.desc.ibase, pc := BitVec.ofNat 32 g.desc.ibase,
    lead := g.hdr.lead, ranges := g.rangeWords, live := g.rangeWords,
    com := (Vector.replicate 32 0).set 1
      (if g.hdr.dataLen = 0 then 0 else BitVec.ofNat 64 (dataAddr (argEndOf g.kind g.desc))) }

/-! ### Which cores (R383, R387, R391, R397) -/

/-- Clusters of a partition from a cursor's cluster on, wrapping. -/
def clusterOrder (part cur : Nat) : List Nat :=
  let cl := (List.range 64).filter (partHas part)
  cl.filter (fun c => decide (cur ≤ c)) ++ cl.filter fun c => decide (c < cur)

/-- Core `k` belongs to a lane of the partition. -/
def onLane (s : State) (part k : Nat) : Bool :=
  s.sessions.any fun x => x.part == part && x.holds && decide (x.laneBase ≤ k) && decide (k < x.laneBase + x.width)

/-- The cores of a cluster that a grid's members may use. -/
def coresIn (s : State) (g : Grid) (cl : Nat) : List Nat :=
  match s.jobSession g with
  | some x => if x.holds ∧ x.laneCluster = cl then (List.range x.width).map (x.laneBase + ·) else []
  | none =>
    if g.desc.cmask.getLsbD cl then
      ((List.range 8).map (cl * 8 + ·)).filter fun k =>
        !onLane s g.part k || decide (minSlice g.hdr ≤ (s.reg (gafReg g.part 0x10)).toNat)
    else []

/-- The cores that a grid needs: its lane's for a session job, every core of its allowed clusters for a launch (R387, R388). -/
def neededCores (s : State) (g : Grid) : List Nat :=
  match s.jobSession g with
  | some x => if x.holds then (List.range x.width).map (x.laneBase + ·) else []
  | none => ((List.range 64).filter fun cl => partHas g.part cl && g.desc.cmask.getLsbD cl).flatMap fun cl =>
      (List.range 8).map (cl * 8 + ·)

/-- The levels of the lane keep a job from being placed (R397). -/
def heldByLevel (s : State) (g : Grid) : Bool :=
  match s.jobSession g with
  | none => false
  | some x =>
    if g.kind = .reasoning then s.sessions.any fun y => x.sameLane y && decide (y.level ≥ 1)
    else decide (x.level = 3)

/-- The members of a gang that are saved. -/
def savedMembers (s : State) (g : Grid) (i : Nat) : List Ctx :=
  s.ctxs.filter fun c => c.gkey == g.key && c.gang == i && c.status == .saved

/-- A gang is still yielding: it is placed again once all of it is saved. -/
def stillYields (g : Grid) (i : Nat) : Bool := match g.gang? i with | some x => x.status == .yielding | none => false

/-- A gang gave up its cores at the end of its time slice and has not been placed since (R388). -/
def Grid.turned (g : Grid) (i : Nat) : Bool := match g.gang? i with | some x => x.turn | none => false

/-- The gang that a grid places next: the lowest with saved members, else the next new one, else the lowest whose time slice
ended (R388). No new gang is placed in a partition that drains (spec/22 R423). -/
def nextGangOf (s : State) (g : Grid) : Option Nat :=
  let saved := (List.range g.nextGang).filter fun i => !(savedMembers s g i).isEmpty && !stillYields g i
  match saved.find? fun i => !g.turned i with
  | some i => some i
  | none => if g.nextGang < g.desc.gangs ∧ !(s.part g.part).draining then some g.nextGang else saved.head?

/-- A grid has a gang that waits to be placed. -/
def waits (s : State) (g : Grid) : Bool :=
  g.status == .ready && g.cause.isNone && !g.complete && partRuns s g.part && !heldByLevel s g && (nextGangOf s g).isSome

/-- The gang that a grid places next has given up its turn. -/
def turnPassed (s : State) (g : Grid) : Bool := match nextGangOf s g with | some i => g.turned i | none => false

/-- A waiting grid's gang goes before another's: by their keys, but a launch's gang whose time slice ended goes after those of
launches with an equal deadline (R387, R388). DEDUCED, log entry 60. -/
def goesBefore (s : State) (h g : Grid) : Bool :=
  if !h.isJob ∧ !g.isJob ∧ h.keyDeadline = g.keyDeadline ∧ turnPassed s h ≠ turnPassed s g then !turnPassed s h else h.before g

/-- The waiting grids whose gangs go before a grid's. -/
def aheadOf (s : State) (g : Grid) : List Grid :=
  s.grids.filter fun h => h.part == g.part && h.key != g.key && waits s h && goesBefore s h g

/-- Cores that a more urgent waiting gang can use (R387). -/
def reservedCores (s : State) (g : Grid) : List Nat := (aheadOf s g).flatMap (neededCores s)

/-! ### Placing a gang (R383) -/

/-- Barrier slots that a core's gangs hold. -/
def barsUsed (s : State) (core : Nat) : Nat :=
  (s.grids.map fun g => ((g.gangs.filter fun x => x.barCore == core &&
    (x.status == .running || x.status == .yielding || x.status == .saved)).map fun x => x.bars.length).sum).sum

/-- The contexts that a gang's placement puts on cores: saved members, or new ones. -/
def gangCtxs (s : State) (g : Grid) (i : Nat) : List Ctx :=
  let saved := savedMembers s g i
  if saved.isEmpty then (List.range g.desc.members).map fun m => freshCtx g i m (s.nextCtx + m) else saved

/-- Cores of a cluster, for the gang of a grid: a lone member that yielded stays in its gang's cluster. -/
def gangCores (s : State) (g : Grid) (i cl : Nat) : List Nat :=
  let others := s.ctxs.filter fun c => c.gkey == g.key && c.gang == i && c.status != .saved && c.status != .ended
  if others.isEmpty ∨ others.all (fun c => clusterOf c.core == cl) then
    (coresIn s g cl).filter fun k => !(reservedCores s g).contains k
  else []

/-- The part's steps once a gang's members have cores: status, time, barrier core, level, cursor and trace (R383, R438); a job
starts with the emitted count of its session as it then stands (R398). -/
def gangPlaced (s : State) (g0 : Grid) (i : Nat) (cs : List Ctx) (barCore last : Nat) : State :=
  let g := (s.grid? g0.key).getD g0
  let fresh := cs.all fun c => c.status != .saved
  let gang := (g.gang? i).getD { index := i }
  let gang' := { gang with
    turn := false, status := .running, members := if fresh then cs.map (·.handle) else gang.members,
    barCore := if fresh then barCore else gang.barCore, placedAt := s.now, yieldAt := none, yieldLate := false }
  let g' := { g.setGang gang' with
    nextGang := max g.nextGang (i + 1), runFrom := some (g.runFrom.getD s.now),
    emitted0 := if g.nextGang = 0 then (match s.jobSession g with | some x => x.emitted.toNat | none => 0) else g.emitted0 }
  let p := s.part g.part
  let s1 := (s.setGrid g').setPart
    { p with cursorCluster := if last % 8 = 7 then (last / 8 + 1) % 64 else last / 8, cursorCore := (last + 1) % 8 }
  let s2 := if fresh then cs.foldl (fun t c => startBanks t g' c.handle) { s1 with nextCtx := s1.nextCtx + cs.length } else s1
  let s3 := cs.foldl (fun t c => traceRec t (t.ctx c.handle).core 6 15 (t.ctx c.handle).pc.toNat c.handle) s2
  if g.isJob then s3.refresh g.part g.session else s3

/-- Try a gang in one cluster. -/
def placeIn (s : State) (g : Grid) (i cl : Nat) : Option State :=
  let cores := gangCores s g i cl
  if cores = [] then none
  else
    let p := s.part g.part
    let start := if g.isJob then 0 else cores.findIdx fun k => decide (p.cursorCore ≤ k % 8)
    let cs := gangCtxs s g i
    match fitAll s g cores start cs with
    | none => none
    | some (t, n) =>
      let order := rotate cores start
      let fresh := cs.all fun c => c.status != .saved
      let last := cores[(n - 1) % cores.length]?.getD 0
      if !fresh then some (gangPlaced t g i cs 0 last)
      else (order.find? fun k => decide (barsUsed s k + g.hdr.barriers ≤ 512)).map fun b => gangPlaced t g i cs b last

/-- Try the clusters in order. -/
def placeFirst (s : State) (g : Grid) (i : Nat) : List Nat → Option State
  | [] => none
  | cl :: cls => match placeIn s g i cl with
    | some t => some t
    | none => placeFirst s g i cls

/-- LEVEL is the level in force when the job's first gang is placed (R397). -/
def withLevel (s : State) (g : Grid) : Grid :=
  if g.level.isSome then g else { g with level := some ((s.jobSession g).map (·.level) |>.getD 0) }

/-! ### Yields (R388) -/

/-- The gangs of a partition that stand so, with their grids. -/
def gangsThat (s : State) (part : Nat) (st : GangStatus) : List (Grid × Gang) :=
  (s.grids.filter fun h => h.part == part && h.status == .ready).flatMap fun h =>
    (h.gangs.filter fun x => x.status == st).map (h, ·)

/-- A gang has a member on one of some cores. -/
def gangOn (s : State) (h : Grid) (x : Gang) (cores : List Nat) : Bool :=
  s.ctxs.any fun c => c.gkey == h.key && c.gang == x.index && s.occupies c && c.status != .retired && cores.contains c.core

/-- Ask a gang to yield: every member at its next safe point; one that stands at a safe point and is not issuing yields
there (R86), and stops issuing on its core (spec/23 R438). -/
def askYield (s : State) (h : Grid) (x : Gang) : State :=
  let s1 := s.setGrid (h.setGang { x with status := .yielding, yieldAt := some s.now })
  let now (c : Ctx) : Bool :=
    c.gkey == h.key && c.gang == x.index && c.atSafe && c.status == .ready && (s1.core c.core).cur != some c.handle && c.barWait.isNone
  let s2 : State := { s1 with ctxs := s1.ctxs.map fun c =>
    if c.gkey = h.key ∧ c.gang = x.index ∧ (c.status = .ready ∨ c.status = .trapped ∨ c.status = .debug) then
      { c with yieldReq := true, status := if now c then .yielding else c.status } else c }
  ((s1.ctxs.filter now).foldl (fun t c => traceStop (landMgmt t c.handle) c) s2).bumpReg (gafReg h.part 0xF8) 1

/-- The gang with the largest key among some above a grid's key. -/
def leastUrgent (g : Grid) : List (Grid × Gang) → Option (Grid × Gang)
  | [] => none
  | y :: l =>
    let r := leastUrgent g l
    if !g.before y.1 then r
    else match r with
      | none => some y
      | some z => some (if y.1.before z.1 then z else y)

/-- The state after a grid's next gang is placed, where it fits. -/
def placeNext (s : State) (g0 : Grid) : Option State :=
  let g := withLevel s g0
  let s0 := s.setGrid g
  (nextGangOf s0 g).bind fun i => placeFirst s0 g i (clusterOrder g.part (s.part g.part).cursorCluster)

/-- The gang that a waiting grid displaces: the least urgent of those running above its key on the cores it needs. It asks no
other while one of those is yielding, and a gang whose time slice ended displaces none of an equal deadline (R388). -/
def displaced (s : State) (g : Grid) : Option (Grid × Gang) :=
  let on (y : Grid × Gang) : Bool := gangOn s y.1 y.2 (neededCores s g) &&
    !(turnPassed s g && !y.1.isJob && y.1.keyDeadline == g.keyDeadline)
  if (gangsThat s g.part .yielding).any fun y => g.before y.1 && on y then none
  else leastUrgent g ((gangsThat s g.part .running).filter on)

/-- GANG_PLACE (R383, R387, R388): the grid's next gang is placed, unless a more urgent one could be, or a running gang on the
cores it needs is asked to yield. -/
def execGangPlace (gkey : Nat) (s : State) : Host.Outcome State Fault Refusal :=
  match s.grid? gkey with
  | none => .refused (.notEnabled "GANG_PLACE")
  | some g =>
    if !waits s g ∨ (aheadOf s g).any fun h => (placeNext s h).isSome then .refused (.notEnabled "GANG_PLACE")
    else match placeNext s g with
      | some t => .next t
      | none =>
        match displaced s g with
        | some y => .next (askYield s y.1 y.2)
        | none => .refused (.notEnabled "GANG_PLACE")

/-- SLICE_EXPIRY (R388): a launch gang that has run for its slice, while a gang of a launch with the same deadline waits
for its cores, is asked to yield and passes its turn. -/
def execSliceExpiry (gkey gang : Nat) (s : State) : Host.Outcome State Fault Refusal :=
  match s.grid? gkey with
  | none => .refused (.notEnabled "SLICE_EXPIRY")
  | some g =>
    match g.gang? gang with
    | none => .refused (.notEnabled "SLICE_EXPIRY")
    | some x =>
      let rival := s.grids.any fun h => h.part == g.part && !h.isJob && h.keyDeadline == g.keyDeadline &&
        waits s h && gangOn s g x (neededCores s h)
      if !g.isJob ∧ x.status = .running ∧ s.now ≥ x.placedAt + g.slice ∧ rival then .next (askYield s g { x with turn := true })
      else .refused (.notEnabled "SLICE_EXPIRY")

/-- A yield asked at a time is past its bound at another, both in ns (R389): core cycles at 1.2 GHz take 5/6 ns. -/
def yieldPast (h : KHeader) (asked now : Nat) : Bool :=
  decide (6 * (now - asked) > 5 * (h.safedist + 64 + maxImage h / 64) + 6 * (400 + h.waitmax))

/-- A gang that is late to yield is counted, once (R389). -/
def countLate (s : State) (g : Grid) (i : Nat) : State :=
  match g.gang? i with
  | some x =>
    (match x.yieldAt with
     | some t =>
       if !x.yieldLate ∧ yieldPast g.hdr t s.now then
         (s.setGrid (g.setGang { x with yieldLate := true })).bumpReg (gafReg g.part 0x100) 1
       else s
     | none => s)
  | none => s

/-- YIELD_LATE (R389): counted once, and the gang runs on. -/
def execYieldLate (gkey gang : Nat) (s : State) : Host.Outcome State Fault Refusal :=
  match s.grid? gkey with
  | none => .refused (.notEnabled "YIELD_LATE")
  | some g =>
    match g.gang? gang with
    | none => .refused (.notEnabled "YIELD_LATE")
    | some x =>
      match x.yieldAt with
      | none => .refused (.notEnabled "YIELD_LATE")
      | some t =>
        if x.status = .yielding ∧ !x.yieldLate ∧ yieldPast g.hdr t s.now then .next (countLate s g gang)
        else .refused (.notEnabled "YIELD_LATE")

/-! ### Saves (R247, R251) -/

/-- Close the time that a grid has been placed when a gang of it stops running (R395). -/
def stopClock (s : State) (g : Grid) : Grid :=
  let others := g.gangs.any fun x => x.status == .running || x.status == .yielding
  { g with runNs := s.ranNs g, runFrom := if others then some s.now else none }

/-- After a member was saved or ended: the gang is saved when no member is left on a core, and ended when every member
has ended (R116, R388); a gang that was late to get there is counted now, if it has not been (R389). -/
def settleGang (s : State) (gkey i : Nat) : State :=
  match s.grid? gkey with
  | none => s
  | some g =>
    match g.gang? i with
    | none => s
    | some x =>
      let ms := s.ctxs.filter fun c => c.gkey == gkey && c.gang == i
      let t := countLate s g i
      if ms.all fun c => c.status == .ended then
        t.setGrid (stopClock s (g.setGang { x with status := .ended, yieldAt := none }))
      else if ms.all fun c => c.status == .ended || c.status == .saved then
        t.setGrid (stopClock s (g.setGang { x with status := .saved, yieldAt := none }))
      else s

/-- Save a context to its area and free its saveable banks on its core, but for their tags. -/
def saveArea (s : State) (c : Ctx) : State :=
  let t := saveImage s c (areaOf c)
  { freeKeys t c.bankKey (c.bankBase + c.hdr.banks * 2 ^ 14) with emptyTags := t.emptyTags }

/-- CONTEXT_SAVE (R247, spec/01 R34): once its pending tokens have completed, a yielding context is saved to its area, and its
saveable banks are freed; their bytes stay reachable in the image (spec/07 R461). Its writes and what its cluster holds dirty go
home, so that it finds them wherever it resumes (spec/14 R312): DEDUCED, log entry 52. -/
def execContextSave (ctx : Nat) (s : State) : Host.Outcome State Fault Refusal :=
  match s.ctx? ctx with
  | none => .refused (.notEnabled "CONTEXT_SAVE")
  | some c =>
    if c.status = .yielding ∧ c.tokPend = 0 then
      let s1 := (phaseRelease s c 2).modCtx ctx fun d => { d with status := .saved, yieldReq := false }
      .next (settleGang (saveArea s1 (s1.ctx ctx)) c.gkey c.gang)
    else .refused (.notEnabled "CONTEXT_SAVE")

end Sys2Proof.Machine
end

