-- ==== Sys2Proof/Machine/Grids.lean ====
section
/-!
DEFINITION. Ends of sequencers and grids, session jobs from release to completion or miss, and hold chunks (spec/05 R116,
spec/11 R253, spec/19 R380, R386, R396-R398, R463, spec/20 R404, spec/21 R414).
-/

namespace Sys2Proof.Machine

open Sys2Proof

/-! ### Ends -/

/-- CTX_KILLED (R253 action 4): a sequencer of a failed grid ends at a bundle boundary. -/
def execCtxKilled (ctx : Nat) (s : State) : Host.Outcome State Fault Refusal :=
  match s.ctx? ctx with
  | none => .refused (.notEnabled "CTX_KILLED")
  | some c =>
    match c.killCause with
    | some k =>
      if c.endsNow ∧ c.status ≠ .ended ∧ c.status ≠ .retired then .next (killContext s ctx k)
      else .refused (.notEnabled "CTX_KILLED")
    | none => .refused (.notEnabled "CTX_KILLED")

/-- SEQUENCER_END (R116): a retired sequencer ends once its pending tokens have completed; its banks go, unless a fatal
error is ending its grid, which then frees them all at once (R253). -/
def execSequencerEnd (ctx : Nat) (s : State) : Host.Outcome State Fault Refusal :=
  match s.ctx? ctx with
  | none => .refused (.notEnabled "SEQUENCER_END")
  | some c =>
    if c.status = .retired ∧ c.tokPend = 0 then
      let s1 := s.setCtx { c with status := .ended }
      let s2 := if s.gridKilled c.gkey then s1 else freeBanks s1 ctx
      .next (noteComplete (settleGang s2 c.gkey c.gang) c.gkey)
    else .refused (.notEnabled "SEQUENCER_END")

/-- The port of a session's endpoint entry (spec/20 R401). -/
def portOf (s : State) (session : Nat) : Nat :=
  match s.eps.find? fun e => e.session == session with
  | some e => ((e.words[0]?).getD 0).toNat / 4 % 4
  | none => 0

/-- A chunk of a session is dropped as LATE: the session and its port count it (spec/05 R127, spec/20 R409). -/
def countLateChunk (s : State) (part session port : Nat) : State :=
  let x := s.session part session
  (s.setSession { x with late := x.late + 1 }).bumpReg ⟨.uep, 0, 0x58 + 8 * port⟩ 1

/-- A session's job is a deadline miss (R398): it is counted, and an action job whose emitted count did not grow while it ran, or
that never ran, has its hold chunk due at its emission instant, or dropped as LATE. DEDUCED, log entry 48. -/
def missJob (s : State) (g : Grid) : State :=
  let x := s.session g.part g.session
  let s1 := (s.bumpReg (gafReg g.part 0xF0) 1).setSession { x with misses := (x.misses + 1) % 2 ^ 32, missSince := true }
  let hold := g.kind = .action ∧ (g.nextGang = 0 ∨ g.emitted0 = x.emitted.toNat)
  if !hold then s1
    else if g.emission > s.now then
      { s1 with holds := s1.holds ++ [{ part := g.part, session := g.session, instant := g.emission, job := g.key, since := s.nowPs }] }
    else countLateChunk s1 g.part g.session (portOf s g.session)

/-- Everything that a grid holds is freed, and its uncommitted tasks are discarded (R253 action 7, spec/17 R372). -/
def freeGrid (s : State) (g : Grid) : State :=
  let hs := (s.ctxs.filter fun c => c.gkey == g.key).map (·.handle)
  let s1 := hs.foldl (fun t h => phaseRelease t (t.ctx h) 2) s
  let s2 := discardWhere s1 fun e => e.gkey == g.key
  let s3 := hs.foldl freeBanks s2
  { s3 with
    ctxs := s3.ctxs.filter fun c => c.gkey != g.key
    domains := s3.domains.map fun d => if d.part = g.part ∧ d.gkey = g.key then { d with bound := false } else d
    cores := s3.cores.map fun k => (k.1, { k.2 with
      store := k.2.store.filter fun r => r.gkey != g.key, code := k.2.code.filter fun x => x.gkey != g.key }) }

/-- GRID_END (R253, R380): when every sequencer of a grid has ended and none of its commands is left, its resources are
freed, the partition-scope release is performed, and a launch's status is written. A job that a fatal error ended is a
deadline miss, and no completion at which its session's level is evaluated (R396). A completion waits for the events of its instant
that go before it (R387). -/
def execGridEnd (gkey : Nat) (s : State) : Host.Outcome State Fault Refusal :=
  match s.grid? gkey with
  | none => .refused (.notEnabled "GRID_END")
  | some g =>
    let allOver := (s.ctxs.all fun c => c.gkey != gkey || c.status == .ended) && (g.cause.isSome || decide (g.nextGang ≥ g.desc.gangs))
      && !s.cmds.any fun x => x.gkey == gkey
    let early := g.openJob && g.cause.isNone && otherFirst s g s.nowPs
    if g.status ≠ .ready ∨ !allOver ∨ early then .refused (.notEnabled "GRID_END")
    else
      let s := noteComplete s gkey
      let s1 := (freeGrid s g).setGrid { g with status := .ended, complete := true }
      if g.isJob then
        let miss := g.cause.isSome && !g.missed
        .next (if miss then missJob (s1.setGrid { g with status := .ended, complete := true, missed := true }) g else s1)
      else
        .next (match g.cause with
          | some c => writeStatus s1 g 3 c
          | none => writeStatus s1 g 1 0)

/-! ### Jobs -/

/-- DEADLINE_MISS (R398): a job that has not completed by its absolute deadline is ended as by an end command, and counted, in its
turn among the events of one instant (R387). -/
def execDeadlineMiss (gkey : Nat) (s : State) : Host.Outcome State Fault Refusal :=
  match s.grid? gkey with
  | none => .refused (.notEnabled "DEADLINE_MISS")
  | some g =>
    if !missDue s g ∨ otherFirst s g g.missAt then .refused (.notEnabled "DEADLINE_MISS")
    else
      let s1 := missJob (s.setGrid { g with missed := true }) g
      let s2 := match s1.ctxs.find? fun c => c.gkey == gkey && c.status != .ended && !c.dead with
        | some c => endCmd s1 c
        | none =>
          match s1.grid? gkey with
          | some g' => s1.setGrid { g' with cause := some causeCtxKilled }
          | none => s1
      .next (noteDone s2 g.part)

/-- A job's grid from its session's template (R379, R386). -/
def jobGrid (s : State) (x : Session) (j : Job) (sub : Nat) : Option (List Byte × Grid) :=
  (iaRead s j.part ((x.words[if j.action then 1 else 2]?).getD 0).toNat 128).map fun bs =>
    let d := parseDesc bs
    (bs, { key := s.nextKey, part := j.part, kind := if j.action then .action else .reasoning, status := .pending,
           sub := sub, session := j.session, jobNo := j.number, desc := { d with vf := x.field 0 8 6 }, hdr := {},
           deadline := j.release + (if j.action then x.field 3 32 32 else x.field 5 32 32), release := j.release,
           emission := if j.action then j.release + x.field 6 32 32 else 0, tokenAt := j.tokenAt, seenAt := j.seenAt, late := j.late })

/-- Members that a core has room for at a release (R383, R463): by its resident slots, and by its banks. What gangs with larger keys
hold counts as free, since they yield (R388). DEDUCED, log entry 48. -/
def coreRoom (s : State) (g : Grid) (core : Nat) : Nat :=
  let yields (c : Ctx) : Bool := match s.grid? c.gkey with | some h => g.before h | none => false
  let rs := (s.residents core).filter fun c => !yields c
  let taken := rs.flatMap (·.bankList) ++
    ((s.ctxs.filter fun c => c.core == core && (c.status == .saved || yields c)).flatMap fun c => c.bankList.take c.hdr.resBanks)
  let top := if g.bindsOrdered ∨ orderedHere s core then 44 else 48
  let free := ((List.range top).filter fun b => !taken.contains b).length
  let banks := if g.bindsOrdered ∧ taken.any (fun b => decide (44 ≤ b)) then 0 else free
  if g.hdr.banks = 0 then 8 - rs.length else min (8 - rs.length) (banks / g.hdr.banks)

/-- The lane of a session job has the resident slots and banks that one of its gangs needs (R463). -/
def laneRoom (s : State) (g : Grid) : Bool := decide (g.desc.members ≤ ((neededCores s g).map (coreRoom s g)).sum)

/-- JOB_RELEASE (R404, R463): at its release instant a job is numbered, set up and ordered by its key; a set-up that
fails is a deadline miss, as is one that finds too few resident slots or banks free. Each release of an action job evaluates the
session's level (R396). Tokens of one session release in the order of acceptance (spec/20 R405), and releases of one instant in
the order of their keys (R387). A job of a session that is no longer ACTIVE is dropped (R393, R394). -/
def execJobRelease (job : Nat) (s : State) : Host.Outcome State Fault Refusal :=
  match s.jobs.find? fun j => j.id == job with
  | none => .refused (.notEnabled "JOB_RELEASE")
  | some j =>
    if s.now < j.release ∨ (s.part j.part).resetting ∨ !s.headJob j ∨ otherFirst s (j.asGrid s) (j.asGrid s).eventAt then
      .refused (.notEnabled "JOB_RELEASE")
    else
      let s0 : State := { s with jobs := s.jobs.filter fun y => y.id != job }
      let x := s.session j.part j.session
      if x.state ≠ 1 then .next (noteDone s0 j.part)
      else
        let q := takeSub s0 j.part
        let s1 : State := { q.1 with nextKey := s.nextKey + 1 }
        let fail (t : State) (g : Grid) : State :=
          missJob (t.setGrid { g with status := .refused, missed := true, complete := true }) g
        let s2 := match jobGrid s0 x j q.2 with
          | none => fail s1 { key := s.nextKey, part := j.part, kind := if j.action then .action else .reasoning,
                              status := .pending, sub := q.2, session := j.session, jobNo := j.number, desc := {}, hdr := {},
                              emission := j.release + x.field 6 32 32, seenAt := j.seenAt }
          | some (bs, g) =>
            let r := setupTouch (gafTouch s1 j.part [(((x.words[if j.action then 1 else 2]?).getD 0).toNat, 128)]) g
            match setupGrid r g (descZero bs) with
            | .ok (t, g') => if laneRoom r g' then t.setGrid g' else fail r g
            | .error _ => fail r g
        .next (noteDone (if j.action then evalLevel s2 j.part j.session else s2) j.part)

/-! ### Hold chunks (R397, R398) -/

/-- The hold chunk of a session that is due: it enters the port's queue at its instant, or when it came to be due after that. -/
def holdChunk (s : State) (h : HoldDue) : Chunk :=
  let x := s.session h.part h.session
  { part := h.part, port := portOf s h.session, session := h.session, instant := h.instant,
    bytes := memGetList s.mem (vaultBase + ((x.words[7]?).getD 0).toNat) (x.field 8 0 14), hold := true, cid := none,
    since := max (h.instant * 1000) h.since, late := h.late, job := h.job }

/-- An action job that waits while its session is at L3, and whose emission instant has come. -/
def heldJob (s : State) (part session : Nat) : Option Grid :=
  if (s.session part session).level ≠ 3 then none
  else s.grids.find? fun g => g.openJob && g.kind == .action && g.part == part && g.session == session &&
    g.nextGang == 0 && decide (g.emission ≤ s.now)

/-- A job at L3 counts as done, and its session's hold chunk enters its port's queue; `late` once a time step has passed the
emission instant (spec/20 R408). -/
def holdDone (s : State) (g : Grid) (late : Bool) : State :=
  let s2 := (freeGrid s g).setGrid { g with status := .ended, complete := true }
  { s2 with chunks := s2.chunks ++ [holdChunk s { part := g.part, session := g.session, instant := g.emission, job := g.key,
                                                  since := g.seenAt, late := late }] }

/-- HOLD_CHUNK_EMIT (R397, R398): at an emission instant the Gaffer emits the session's hold chunk; at L3 the job counts
as done. -/
def execHoldChunkEmit (part session : Nat) (s : State) : Host.Outcome State Fault Refusal :=
  match s.holds.find? fun h => h.part == part && h.session == session && decide (h.instant ≤ s.now) with
  | some h =>
    .next { s with holds := s.holds.filter (· ≠ h), chunks := s.chunks ++ [holdChunk s h] }
  | none =>
    match heldJob s part session with
    | none => .refused (.notEnabled "HOLD_CHUNK_EMIT")
    | some g => .next (evalLevel (holdDone s g g.late) part session)

/-! ### Aborts that wait for a boundary (spec/17 R366, R369) -/

/-- ABORT_REDIRECT (R369): at a bundle boundary outside a delay shadow, an aborted or discarded task's sequencer goes to
its take's path for no task, with the take's register 0 and its loops above the take's depth popped. -/
def redirectCtx (s : State) (c : Ctx) : State :=
  match c.tasks with
  | [] => s
  | t :: rest =>
    s.setCtx { c with
      loops := c.loops.drop (c.loops.length - t.depth)
      tasks := rest
      com := c.com.setIfInBounds t.takeReg 0
      tokErr := c.tokErr &&& ~~~(1#32 <<< t.takeReg)
      pc := fallthrough s c (afterBundle s c t.takePc)
      pend := false, target := 0, shl := 0, rep := 0, done := 0, partBundle := false, barWait := none, bpSkip := 0,
      began := none, leave := none, nextPc := none, stallTok := false, stallTask := false }

/-- A context stands at a boundary where a redirection may take place, or its bundle is one that a redirection abandons (spec/17
R361, R369). -/
def atBoundary (c : Ctx) : Bool := (c.shl == 0 && c.rep == 0 && !c.pend && !c.partBundle && c.done == 0) || c.stallTask

/-- ABORT_REDIRECT (R369). -/
def execAbortRedirect (ctx : Nat) (s : State) : Host.Outcome State Fault Refusal :=
  match s.ctx? ctx with
  | none => .refused (.notEnabled "ABORT_REDIRECT")
  | some c =>
    if c.redirecting ∧ atBoundary c ∧ c.status = .ready then .next (redirectCtx s c)
    else .refused (.notEnabled "ABORT_REDIRECT")

/-- TASK_COMMIT (R367): the frontier task of a domain commits when it is finished, its far commands have completed, and it
has no deferred fault. -/
def execTaskCommit (part dom : Nat) (s : State) : Host.Outcome State Fault Refusal :=
  match s.frontierSlot part dom with
  | some (core, ix, x) =>
    (match x.task with
     | some e =>
       if x.state = .finished ∧ x.deferred = none ∧ s.slotQuiet core ix then .next (commitSlot s part dom core ix x e)
       else .refused (.notEnabled "TASK_COMMIT")
     | none => .refused (.notEnabled "TASK_COMMIT"))
  | none => .refused (.notEnabled "TASK_COMMIT")

/-! ### A stalled domain (spec/17 R366) -/

/-- The tasks of a domain whose cores stall under R363 or R365, with core and slot. -/
def stalledTasks (s : State) (part dom : Nat) : List (Nat × Nat × DequeEntry) :=
  s.cores.filterMap fun k =>
    if !k.2.stalled ∨ k.2.samp.2.2 ≠ 7 then none
    else match k.2.cur with
      | none => none
      | some h => match s.mySlot (s.ctx h) with
        | none => none
        | some (ix, x) => match x.task with
          | some e => if e.dom = dom ∧ s.gridPart e.gkey = part then some (k.1, ix, e) else none
          | none => none

/-- The later of two tasks by (ts, seq). -/
def laterTask (a : Option (Nat × Nat × DequeEntry)) (y : Nat × Nat × DequeEntry) : Option (Nat × Nat × DequeEntry) :=
  match a with
  | none => some y
  | some z => some (if taskBefore (z.2.2.ts.toNat, z.2.2.seq) (y.2.2.ts.toNat, y.2.2.seq) then y else z)

/-- The last of some tasks by (ts, seq). -/
def lastTask (l : List (Nat × Nat × DequeEntry)) : Option (Nat × Nat × DequeEntry) := l.foldl laterTask none

/-- The frontier task neither runs nor has finished, and another task of the domain is stalled. -/
def domainDead (s : State) (d : Domain) : Bool :=
  d.bound && (s.frontierTask d.part d.dom).isSome && !(stalledTasks s d.part d.dom).isEmpty &&
  (match s.frontierSlot d.part d.dom with
   | some (_, _, x) => x.state != .running && x.state != .finished
   | none => true)

/-- Note since when each domain is so. -/
def tickDomains (s : State) : State :=
  { s with domains := s.domains.map fun d =>
      { d with deadFrom := if domainDead s d then some (d.deadFrom.getD s.now) else none } }

/-- LEHR_STALL_ABORT (R366): after 2 µs the stalled task that is last by (ts, seq) is aborted; the time starts again. -/
def execLehrStallAbort (part dom : Nat) (s : State) : Host.Outcome State Fault Refusal :=
  match s.dom? part dom with
  | none => .refused (.notEnabled "LEHR_STALL_ABORT")
  | some d =>
    match d.deadFrom with
    | none => .refused (.notEnabled "LEHR_STALL_ABORT")
    | some t =>
      if !domainDead s d ∨ s.now < t + 2000 then .refused (.notEnabled "LEHR_STALL_ABORT")
      else
        match lastTask (stalledTasks s part dom) with
        | none => .refused (.notEnabled "LEHR_STALL_ABORT")
        | some (core, ix, _) =>
          .next (settleAll ((abortSlot s core ix false false).modDom part dom fun d => { d with deadFrom := some s.now }))

end Sys2Proof.Machine
end

