-- ==== Sys2Proof/Machine/Slots.lean ====
section
/-!
DEFINITION. The meaning of every slot operation inside a bundle (`semOf`), and of its word executed by itself
(`execAdd` and the others): the checks of spec/03 R89 and R90 on that word, then its effect.
-/

namespace Sys2Proof.Machine

open Sys2Proof

/-- What a slot operation of the bundle being issued comes to (spec/03 R77). An event is none. -/
def semOf (i : Instr) (s : State) : SlotRes :=
  match i with
  | .br p f => semBr p f s
  | .jmp p f => semJmp p f s
  | .call p f => semCall p f s
  | .callc p f => semCallc p f s
  | .ret p f => semRet p f s
  | .loop p f => semLoop p f s
  | .loopd p f => semLoopd p f s
  | .loopx p f => semLoopx p f s
  | .fork p f => semFork p f s
  | .forkr p f => semForkr p f s
  | .join p f => semJoin p f s
  | .take p f => semTake p f s
  | .retire p f => semRetire p f s
  | .retireT p f => semRetireT p f s
  | .yield p f => semYield p f s
  | .fget p f => semFget p f s
  | .fput p f => semFput p f s
  | .phase p f => semPhase p f s
  | .binit p f => semBinit p f s
  | .barrive p f => semBarrive p f s
  | .bwait p f => semBwait p f s
  | .frd p f => semFrd p f s
  | .lvlrd p f => semLvlrd p f s
  | .emrd p f => semEmrd p f s
  | .srd p f => semSrd p f s
  | .swr p f => semSwr p f s
  | .ecall p f => semEcall p f s
  | .trap p f => semTrap p f s
  | .uret p f => semUret p f s
  | .dbrk p f => semDbrk p f s
  | .tkwait p f => semTkwait p f s
  | .cli p f => semCli p f s
  | .clui p f => semClui p f s
  | .cadd p f => semCadd p f s
  | .csub p f => semCsub p f s
  | .cmul p f => semCmul p f s
  | .cand p f => semCand p f s
  | .cor p f => semCor p f s
  | .cxor p f => semCxor p f s
  | .csll p f => semCsll p f s
  | .csrl p f => semCsrl p f s
  | .csra p f => semCsra p f s
  | .ccmp p f => semCcmp p f s
  | .cmov p f => semCmov p f s
  | .cpset p f => semCpset p f s
  | .cpget p f => semCpget p f s
  | .add p f => semAdd p f s
  | .sub p f => semSub p f s
  | .mul p f => semMul p f s
  | .mulh p f => semMulh p f s
  | .div p f => semDiv p f s
  | .rem p f => semRem p f s
  | .and p f => semAnd p f s
  | .or p f => semOr p f s
  | .xor p f => semXor p f s
  | .sll p f => semSll p f s
  | .srl p f => semSrl p f s
  | .sra p f => semSra p f s
  | .min p f => semMin p f s
  | .max p f => semMax p f s
  | .abs p f => semAbs p f s
  | .clz p f => semClz p f s
  | .popc p f => semPopc p f s
  | .ext p f => semExt p f s
  | .xtr p f => semXtr p f s
  | .ins p f => semIns p f s
  | .li p f => semLi p f s
  | .lea p f => semLea p f s
  | .cmp p f => semCmp p f s
  | .sel p f => semSel p f s
  | .pand p f => semPand p f s
  | .por p f => semPor p f s
  | .pxor p f => semPxor p f s
  | .pset p f => semPset p f s
  | .pget p f => semPget p f s
  | .xfer p f => semXfer p f s
  | .fadd p f => semFadd p f s
  | .fsub p f => semFsub p f s
  | .fmul p f => semFmul p f s
  | .fma p f => semFma p f s
  | .fdiv p f => semFdiv p f s
  | .fmin p f => semFmin p f s
  | .fmax p f => semFmax p f s
  | .fcmp p f => semFcmp p f s
  | .fcvt p f => semFcvt p f s
  | .icvt p f => semIcvt p f s
  | .kld p f => semKld p f s
  | .kmov p f => semKmov p f s
  | .kbind p f => semKbind p f s
  | .kfmt p f => semKfmt p f s
  | .kadd p f => semKadd p f s
  | .ksub p f => semKsub p f s
  | .kli p f => semKli p f s
  | .kclr p f => semKclr p f s
  | .ld p f => semLd p f s
  | .st p f => semSt p f s
  | .vld p f => semVld p f s
  | .vst p f => semVst p f s
  | .vlds p f => semVlds p f s
  | .vsts p f => semVsts p f s
  | .vldx p f => semVldx p f s
  | .vstx p f => semVstx p f s
  | .gath p f => semGath p f s
  | .scat p f => semScat p f s
  | .fld p f => semFld p f s
  | .fst p f => semFst p f s
  | .fldv p f => semFldv p f s
  | .fstv p f => semFstv p f s
  | .spill p f => semSpill p f s
  | .fill p f => semFill p f s
  | .vspill p f => semVspill p f s
  | .vfill p f => semVfill p f s
  | .amo p f => semAmo p f s
  | .amocas p f => semAmocas p f s
  | .probe p f => semProbe p f s
  | .cwb p f => semCwb p f s
  | .cinv p f => semCinv p f s
  | .cwbi p f => semCwbi p f s
  | .qfence p f => semQfence p f s
  | .vldb p f => semVldb p f s
  | .tag p f => semTag p f s
  | .tagrd p f => semTagrd p f s
  | .vadd p f => semVadd p f s
  | .vsub p f => semVsub p f s
  | .vmul p f => semVmul p f s
  | .vmulh p f => semVmulh p f s
  | .vfma p f => semVfma p f s
  | .vfms p f => semVfms p f s
  | .vfnma p f => semVfnma p f s
  | .vmin p f => semVmin p f s
  | .vmax p f => semVmax p f s
  | .vabs p f => semVabs p f s
  | .vneg p f => semVneg p f s
  | .vadds p f => semVadds p f s
  | .vsubs p f => semVsubs p f s
  | .vand p f => semVand p f s
  | .vor p f => semVor p f s
  | .vxor p f => semVxor p f s
  | .vsll p f => semVsll p f s
  | .vsrl p f => semVsrl p f s
  | .vsra p f => semVsra p f s
  | .vclz p f => semVclz p f s
  | .vpopc p f => semVpopc p f s
  | .vcmp p f => semVcmp p f s
  | .vsel p f => semVsel p f s
  | .vmov p f => semVmov p f s
  | .vli p f => semVli p f s
  | .vext p f => semVext p f s
  | .vcvt p f => semVcvt p f s
  | .vrnd p f => semVrnd p f s
  | .vscale p f => semVscale p f s
  | .vrcp p f => semVrcp p f s
  | .vrsqrt p f => semVrsqrt p f s
  | .vexp2 p f => semVexp2 p f s
  | .vlog2 p f => semVlog2 p f s
  | .vred p f => semVred p f s
  | .vscan p f => semVscan p f s
  | .vperm p f => semVperm p f s
  | .vbcast p f => semVbcast p f s
  | .vrot p f => semVrot p f s
  | .vslide p f => semVslide p f s
  | .viota p f => semViota p f s
  | .vpack p f => semVpack p f s
  | .vunpack p f => semVunpack p f s
  | .vdot p f => semVdot p f s
  | .vdotsu p f => semVdotsu p f s
  | .vpset p f => semVpset p f s
  | .vpget p f => semVpget p f s
  | .vfirst p f => semVfirst p f s
  | .mcall p f => semMcall p f s
  | .mpset p f => semMpset p f s
  | .mload p f => semMload p f s
  | .smcopy p f => semSmcopy p f s
  | .ncopy p f => semNcopy p f s
  | .egath p f => semEgath p f s
  | .escat p f => semEscat p f s
  | .mcast p f => semMcast p f s
  | .mcastb p f => semMcastb p f s
  | .coll p f => semColl p f s
  | .tnld p f => semTnld p f s
  | .tnst p f => semTnst p f s
  | .tnpf p f => semTnpf p f s
  | .emit p f => semEmit p f s
  | .estat p f => semEstat p f s
  | .accld p f => semAccld p f s
  | .accst p f => semAccst p f s
  | .adrain p f => semAdrain p f s
  | .aclr p f => semAclr p f s
  | .ecancel p f => semEcancel p f s
  | .ebar p f => semEbar p f s
  | _ => .illegal

/-- BR (R109), its word alone. -/
def execBr (p : Pos) (f : Fields) (s : State) : Host.Outcome State Fault Refusal :=
  runSlot (.br p f) p f (semBr p f s) s

/-- JMP (R109), its word alone. -/
def execJmp (p : Pos) (f : Fields) (s : State) : Host.Outcome State Fault Refusal :=
  runSlot (.jmp p f) p f (semJmp p f s) s

/-- CALL (R109), its word alone. -/
def execCall (p : Pos) (f : Fields) (s : State) : Host.Outcome State Fault Refusal :=
  runSlot (.call p f) p f (semCall p f s) s

/-- CALLC (R109), its word alone. -/
def execCallc (p : Pos) (f : Fields) (s : State) : Host.Outcome State Fault Refusal :=
  runSlot (.callc p f) p f (semCallc p f s) s

/-- RET (R109), its word alone. -/
def execRet (p : Pos) (f : Fields) (s : State) : Host.Outcome State Fault Refusal :=
  runSlot (.ret p f) p f (semRet p f s) s

/-- LOOP (R110), its word alone. -/
def execLoop (p : Pos) (f : Fields) (s : State) : Host.Outcome State Fault Refusal :=
  runSlot (.loop p f) p f (semLoop p f s) s

/-- LOOPD (R111), its word alone. -/
def execLoopd (p : Pos) (f : Fields) (s : State) : Host.Outcome State Fault Refusal :=
  runSlot (.loopd p f) p f (semLoopd p f s) s

/-- LOOPX (R112), its word alone. -/
def execLoopx (p : Pos) (f : Fields) (s : State) : Host.Outcome State Fault Refusal :=
  runSlot (.loopx p f) p f (semLoopx p f s) s

/-- FORK (R114), its word alone. -/
def execFork (p : Pos) (f : Fields) (s : State) : Host.Outcome State Fault Refusal :=
  runSlot (.fork p f) p f (semFork p f s) s

/-- FORKR (R114), its word alone. -/
def execForkr (p : Pos) (f : Fields) (s : State) : Host.Outcome State Fault Refusal :=
  runSlot (.forkr p f) p f (semForkr p f s) s

/-- JOIN (R117), its word alone. -/
def execJoin (p : Pos) (f : Fields) (s : State) : Host.Outcome State Fault Refusal :=
  runSlot (.join p f) p f (semJoin p f s) s

/-- TAKE (R115), its word alone. -/
def execTake (p : Pos) (f : Fields) (s : State) : Host.Outcome State Fault Refusal :=
  runSlot (.take p f) p f (semTake p f s) s

/-- RETIRE (R116), its word alone. -/
def execRetire (p : Pos) (f : Fields) (s : State) : Host.Outcome State Fault Refusal :=
  runSlot (.retire p f) p f (semRetire p f s) s

/-- RETIRE_T (R116), its word alone. -/
def execRetireT (p : Pos) (f : Fields) (s : State) : Host.Outcome State Fault Refusal :=
  runSlot (.retireT p f) p f (semRetireT p f s) s

/-- YIELD (R129), its word alone. -/
def execYield (p : Pos) (f : Fields) (s : State) : Host.Outcome State Fault Refusal :=
  runSlot (.yield p f) p f (semYield p f s) s

/-- FGET (R119), its word alone. -/
def execFget (p : Pos) (f : Fields) (s : State) : Host.Outcome State Fault Refusal :=
  runSlot (.fget p f) p f (semFget p f s) s

/-- FPUT (R119), its word alone. -/
def execFput (p : Pos) (f : Fields) (s : State) : Host.Outcome State Fault Refusal :=
  runSlot (.fput p f) p f (semFput p f s) s

/-- PHASE (R124), its word alone. -/
def execPhase (p : Pos) (f : Fields) (s : State) : Host.Outcome State Fault Refusal :=
  runSlot (.phase p f) p f (semPhase p f s) s

/-- BINIT (R122), its word alone. -/
def execBinit (p : Pos) (f : Fields) (s : State) : Host.Outcome State Fault Refusal :=
  runSlot (.binit p f) p f (semBinit p f s) s

/-- BARRIVE (R122), its word alone. -/
def execBarrive (p : Pos) (f : Fields) (s : State) : Host.Outcome State Fault Refusal :=
  runSlot (.barrive p f) p f (semBarrive p f s) s

/-- BWAIT (R122), its word alone. -/
def execBwait (p : Pos) (f : Fields) (s : State) : Host.Outcome State Fault Refusal :=
  runSlot (.bwait p f) p f (semBwait p f s) s

/-- FRD (R127), its word alone. -/
def execFrd (p : Pos) (f : Fields) (s : State) : Host.Outcome State Fault Refusal :=
  runSlot (.frd p f) p f (semFrd p f s) s

/-- LVLRD (R127), its word alone. -/
def execLvlrd (p : Pos) (f : Fields) (s : State) : Host.Outcome State Fault Refusal :=
  runSlot (.lvlrd p f) p f (semLvlrd p f s) s

/-- EMRD (R127), its word alone. -/
def execEmrd (p : Pos) (f : Fields) (s : State) : Host.Outcome State Fault Refusal :=
  runSlot (.emrd p f) p f (semEmrd p f s) s

/-- SRD (R38), its word alone. -/
def execSrd (p : Pos) (f : Fields) (s : State) : Host.Outcome State Fault Refusal :=
  runSlot (.srd p f) p f (semSrd p f s) s

/-- SWR (R128), its word alone. -/
def execSwr (p : Pos) (f : Fields) (s : State) : Host.Outcome State Fault Refusal :=
  runSlot (.swr p f) p f (semSwr p f s) s

/-- ECALL (R129), its word alone. -/
def execEcall (p : Pos) (f : Fields) (s : State) : Host.Outcome State Fault Refusal :=
  runSlot (.ecall p f) p f (semEcall p f s) s

/-- TRAP (R129), its word alone. -/
def execTrap (p : Pos) (f : Fields) (s : State) : Host.Outcome State Fault Refusal :=
  runSlot (.trap p f) p f (semTrap p f s) s

/-- URET (R121), its word alone. -/
def execUret (p : Pos) (f : Fields) (s : State) : Host.Outcome State Fault Refusal :=
  runSlot (.uret p f) p f (semUret p f s) s

/-- DBRK (R129), its word alone. -/
def execDbrk (p : Pos) (f : Fields) (s : State) : Host.Outcome State Fault Refusal :=
  runSlot (.dbrk p f) p f (semDbrk p f s) s

/-- TKWAIT (R125), its word alone. -/
def execTkwait (p : Pos) (f : Fields) (s : State) : Host.Outcome State Fault Refusal :=
  runSlot (.tkwait p f) p f (semTkwait p f s) s

/-- CLI (R107), its word alone. -/
def execCli (p : Pos) (f : Fields) (s : State) : Host.Outcome State Fault Refusal :=
  runSlot (.cli p f) p f (semCli p f s) s

/-- CLUI (R107), its word alone. -/
def execClui (p : Pos) (f : Fields) (s : State) : Host.Outcome State Fault Refusal :=
  runSlot (.clui p f) p f (semClui p f s) s

/-- CADD (R107), its word alone. -/
def execCadd (p : Pos) (f : Fields) (s : State) : Host.Outcome State Fault Refusal :=
  runSlot (.cadd p f) p f (semCadd p f s) s

/-- CSUB (R107), its word alone. -/
def execCsub (p : Pos) (f : Fields) (s : State) : Host.Outcome State Fault Refusal :=
  runSlot (.csub p f) p f (semCsub p f s) s

/-- CMUL (R107), its word alone. -/
def execCmul (p : Pos) (f : Fields) (s : State) : Host.Outcome State Fault Refusal :=
  runSlot (.cmul p f) p f (semCmul p f s) s

/-- CAND (R107), its word alone. -/
def execCand (p : Pos) (f : Fields) (s : State) : Host.Outcome State Fault Refusal :=
  runSlot (.cand p f) p f (semCand p f s) s

/-- COR (R107), its word alone. -/
def execCor (p : Pos) (f : Fields) (s : State) : Host.Outcome State Fault Refusal :=
  runSlot (.cor p f) p f (semCor p f s) s

/-- CXOR (R107), its word alone. -/
def execCxor (p : Pos) (f : Fields) (s : State) : Host.Outcome State Fault Refusal :=
  runSlot (.cxor p f) p f (semCxor p f s) s

/-- CSLL (R107), its word alone. -/
def execCsll (p : Pos) (f : Fields) (s : State) : Host.Outcome State Fault Refusal :=
  runSlot (.csll p f) p f (semCsll p f s) s

/-- CSRL (R107), its word alone. -/
def execCsrl (p : Pos) (f : Fields) (s : State) : Host.Outcome State Fault Refusal :=
  runSlot (.csrl p f) p f (semCsrl p f s) s

/-- CSRA (R107), its word alone. -/
def execCsra (p : Pos) (f : Fields) (s : State) : Host.Outcome State Fault Refusal :=
  runSlot (.csra p f) p f (semCsra p f s) s

/-- CCMP (R108), its word alone. -/
def execCcmp (p : Pos) (f : Fields) (s : State) : Host.Outcome State Fault Refusal :=
  runSlot (.ccmp p f) p f (semCcmp p f s) s

/-- CMOV (R107), its word alone. -/
def execCmov (p : Pos) (f : Fields) (s : State) : Host.Outcome State Fault Refusal :=
  runSlot (.cmov p f) p f (semCmov p f s) s

/-- CPSET (R107), its word alone. -/
def execCpset (p : Pos) (f : Fields) (s : State) : Host.Outcome State Fault Refusal :=
  runSlot (.cpset p f) p f (semCpset p f s) s

/-- CPGET (R107), its word alone. -/
def execCpget (p : Pos) (f : Fields) (s : State) : Host.Outcome State Fault Refusal :=
  runSlot (.cpget p f) p f (semCpget p f s) s

/-- ADD (R135), its word alone. -/
def execAdd (p : Pos) (f : Fields) (s : State) : Host.Outcome State Fault Refusal :=
  runSlot (.add p f) p f (semAdd p f s) s

/-- SUB (R135), its word alone. -/
def execSub (p : Pos) (f : Fields) (s : State) : Host.Outcome State Fault Refusal :=
  runSlot (.sub p f) p f (semSub p f s) s

/-- MUL (R135), its word alone. -/
def execMul (p : Pos) (f : Fields) (s : State) : Host.Outcome State Fault Refusal :=
  runSlot (.mul p f) p f (semMul p f s) s

/-- MULH (R135), its word alone. -/
def execMulh (p : Pos) (f : Fields) (s : State) : Host.Outcome State Fault Refusal :=
  runSlot (.mulh p f) p f (semMulh p f s) s

/-- DIV (R136), its word alone. -/
def execDiv (p : Pos) (f : Fields) (s : State) : Host.Outcome State Fault Refusal :=
  runSlot (.div p f) p f (semDiv p f s) s

/-- REM (R136), its word alone. -/
def execRem (p : Pos) (f : Fields) (s : State) : Host.Outcome State Fault Refusal :=
  runSlot (.rem p f) p f (semRem p f s) s

/-- AND (R135), its word alone. -/
def execAnd (p : Pos) (f : Fields) (s : State) : Host.Outcome State Fault Refusal :=
  runSlot (.and p f) p f (semAnd p f s) s

/-- OR (R135), its word alone. -/
def execOr (p : Pos) (f : Fields) (s : State) : Host.Outcome State Fault Refusal :=
  runSlot (.or p f) p f (semOr p f s) s

/-- XOR (R135), its word alone. -/
def execXor (p : Pos) (f : Fields) (s : State) : Host.Outcome State Fault Refusal :=
  runSlot (.xor p f) p f (semXor p f s) s

/-- SLL (R135), its word alone. -/
def execSll (p : Pos) (f : Fields) (s : State) : Host.Outcome State Fault Refusal :=
  runSlot (.sll p f) p f (semSll p f s) s

/-- SRL (R135), its word alone. -/
def execSrl (p : Pos) (f : Fields) (s : State) : Host.Outcome State Fault Refusal :=
  runSlot (.srl p f) p f (semSrl p f s) s

/-- SRA (R135), its word alone. -/
def execSra (p : Pos) (f : Fields) (s : State) : Host.Outcome State Fault Refusal :=
  runSlot (.sra p f) p f (semSra p f s) s

/-- MIN (R135), its word alone. -/
def execMin (p : Pos) (f : Fields) (s : State) : Host.Outcome State Fault Refusal :=
  runSlot (.min p f) p f (semMin p f s) s

/-- MAX (R135), its word alone. -/
def execMax (p : Pos) (f : Fields) (s : State) : Host.Outcome State Fault Refusal :=
  runSlot (.max p f) p f (semMax p f s) s

/-- ABS (R135), its word alone. -/
def execAbs (p : Pos) (f : Fields) (s : State) : Host.Outcome State Fault Refusal :=
  runSlot (.abs p f) p f (semAbs p f s) s

/-- CLZ (R137), its word alone. -/
def execClz (p : Pos) (f : Fields) (s : State) : Host.Outcome State Fault Refusal :=
  runSlot (.clz p f) p f (semClz p f s) s

/-- POPC (R137), its word alone. -/
def execPopc (p : Pos) (f : Fields) (s : State) : Host.Outcome State Fault Refusal :=
  runSlot (.popc p f) p f (semPopc p f s) s

/-- EXT (R138), its word alone. -/
def execExt (p : Pos) (f : Fields) (s : State) : Host.Outcome State Fault Refusal :=
  runSlot (.ext p f) p f (semExt p f s) s

/-- XTR (R138), its word alone. -/
def execXtr (p : Pos) (f : Fields) (s : State) : Host.Outcome State Fault Refusal :=
  runSlot (.xtr p f) p f (semXtr p f s) s

/-- INS (R138), its word alone. -/
def execIns (p : Pos) (f : Fields) (s : State) : Host.Outcome State Fault Refusal :=
  runSlot (.ins p f) p f (semIns p f s) s

/-- LI (R139), its word alone. -/
def execLi (p : Pos) (f : Fields) (s : State) : Host.Outcome State Fault Refusal :=
  runSlot (.li p f) p f (semLi p f s) s

/-- LEA (R135), its word alone. -/
def execLea (p : Pos) (f : Fields) (s : State) : Host.Outcome State Fault Refusal :=
  runSlot (.lea p f) p f (semLea p f s) s

/-- CMP (R140), its word alone. -/
def execCmp (p : Pos) (f : Fields) (s : State) : Host.Outcome State Fault Refusal :=
  runSlot (.cmp p f) p f (semCmp p f s) s

/-- SEL (R141), its word alone. -/
def execSel (p : Pos) (f : Fields) (s : State) : Host.Outcome State Fault Refusal :=
  runSlot (.sel p f) p f (semSel p f s) s

/-- PAND (R142), its word alone. -/
def execPand (p : Pos) (f : Fields) (s : State) : Host.Outcome State Fault Refusal :=
  runSlot (.pand p f) p f (semPand p f s) s

/-- POR (R142), its word alone. -/
def execPor (p : Pos) (f : Fields) (s : State) : Host.Outcome State Fault Refusal :=
  runSlot (.por p f) p f (semPor p f s) s

/-- PXOR (R142), its word alone. -/
def execPxor (p : Pos) (f : Fields) (s : State) : Host.Outcome State Fault Refusal :=
  runSlot (.pxor p f) p f (semPxor p f s) s

/-- PSET (R143), its word alone. -/
def execPset (p : Pos) (f : Fields) (s : State) : Host.Outcome State Fault Refusal :=
  runSlot (.pset p f) p f (semPset p f s) s

/-- PGET (R143), its word alone. -/
def execPget (p : Pos) (f : Fields) (s : State) : Host.Outcome State Fault Refusal :=
  runSlot (.pget p f) p f (semPget p f s) s

/-- XFER (R144), its word alone. -/
def execXfer (p : Pos) (f : Fields) (s : State) : Host.Outcome State Fault Refusal :=
  runSlot (.xfer p f) p f (semXfer p f s) s

/-- FADD (R145), its word alone. -/
def execFadd (p : Pos) (f : Fields) (s : State) : Host.Outcome State Fault Refusal :=
  runSlot (.fadd p f) p f (semFadd p f s) s

/-- FSUB (R145), its word alone. -/
def execFsub (p : Pos) (f : Fields) (s : State) : Host.Outcome State Fault Refusal :=
  runSlot (.fsub p f) p f (semFsub p f s) s

/-- FMUL (R145), its word alone. -/
def execFmul (p : Pos) (f : Fields) (s : State) : Host.Outcome State Fault Refusal :=
  runSlot (.fmul p f) p f (semFmul p f s) s

/-- FMA (R145), its word alone. -/
def execFma (p : Pos) (f : Fields) (s : State) : Host.Outcome State Fault Refusal :=
  runSlot (.fma p f) p f (semFma p f s) s

/-- FDIV (R145), its word alone. -/
def execFdiv (p : Pos) (f : Fields) (s : State) : Host.Outcome State Fault Refusal :=
  runSlot (.fdiv p f) p f (semFdiv p f s) s

/-- FMIN (R146), its word alone. -/
def execFmin (p : Pos) (f : Fields) (s : State) : Host.Outcome State Fault Refusal :=
  runSlot (.fmin p f) p f (semFmin p f s) s

/-- FMAX (R146), its word alone. -/
def execFmax (p : Pos) (f : Fields) (s : State) : Host.Outcome State Fault Refusal :=
  runSlot (.fmax p f) p f (semFmax p f s) s

/-- FCMP (R147), its word alone. -/
def execFcmp (p : Pos) (f : Fields) (s : State) : Host.Outcome State Fault Refusal :=
  runSlot (.fcmp p f) p f (semFcmp p f s) s

/-- FCVT (R148), its word alone. -/
def execFcvt (p : Pos) (f : Fields) (s : State) : Host.Outcome State Fault Refusal :=
  runSlot (.fcvt p f) p f (semFcvt p f s) s

/-- ICVT (R148), its word alone. -/
def execIcvt (p : Pos) (f : Fields) (s : State) : Host.Outcome State Fault Refusal :=
  runSlot (.icvt p f) p f (semIcvt p f s) s

/-- KLD (R153), its word alone. -/
def execKld (p : Pos) (f : Fields) (s : State) : Host.Outcome State Fault Refusal :=
  runSlot (.kld p f) p f (semKld p f s) s

/-- KMOV (R153), its word alone. -/
def execKmov (p : Pos) (f : Fields) (s : State) : Host.Outcome State Fault Refusal :=
  runSlot (.kmov p f) p f (semKmov p f s) s

/-- KBIND (R153), its word alone. -/
def execKbind (p : Pos) (f : Fields) (s : State) : Host.Outcome State Fault Refusal :=
  runSlot (.kbind p f) p f (semKbind p f s) s

/-- KFMT (R153), its word alone. -/
def execKfmt (p : Pos) (f : Fields) (s : State) : Host.Outcome State Fault Refusal :=
  runSlot (.kfmt p f) p f (semKfmt p f s) s

/-- KADD (R153), its word alone. -/
def execKadd (p : Pos) (f : Fields) (s : State) : Host.Outcome State Fault Refusal :=
  runSlot (.kadd p f) p f (semKadd p f s) s

/-- KSUB (R153), its word alone. -/
def execKsub (p : Pos) (f : Fields) (s : State) : Host.Outcome State Fault Refusal :=
  runSlot (.ksub p f) p f (semKsub p f s) s

/-- KLI (R153), its word alone. -/
def execKli (p : Pos) (f : Fields) (s : State) : Host.Outcome State Fault Refusal :=
  runSlot (.kli p f) p f (semKli p f s) s

/-- KCLR (R153), its word alone. -/
def execKclr (p : Pos) (f : Fields) (s : State) : Host.Outcome State Fault Refusal :=
  runSlot (.kclr p f) p f (semKclr p f s) s

/-- LD (R159), its word alone. -/
def execLd (p : Pos) (f : Fields) (s : State) : Host.Outcome State Fault Refusal :=
  runSlot (.ld p f) p f (semLd p f s) s

/-- ST (R159), its word alone. -/
def execSt (p : Pos) (f : Fields) (s : State) : Host.Outcome State Fault Refusal :=
  runSlot (.st p f) p f (semSt p f s) s

/-- VLD (R160), its word alone. -/
def execVld (p : Pos) (f : Fields) (s : State) : Host.Outcome State Fault Refusal :=
  runSlot (.vld p f) p f (semVld p f s) s

/-- VST (R160), its word alone. -/
def execVst (p : Pos) (f : Fields) (s : State) : Host.Outcome State Fault Refusal :=
  runSlot (.vst p f) p f (semVst p f s) s

/-- VLDS (R161), its word alone. -/
def execVlds (p : Pos) (f : Fields) (s : State) : Host.Outcome State Fault Refusal :=
  runSlot (.vlds p f) p f (semVlds p f s) s

/-- VSTS (R161), its word alone. -/
def execVsts (p : Pos) (f : Fields) (s : State) : Host.Outcome State Fault Refusal :=
  runSlot (.vsts p f) p f (semVsts p f s) s

/-- VLDX (R161), its word alone. -/
def execVldx (p : Pos) (f : Fields) (s : State) : Host.Outcome State Fault Refusal :=
  runSlot (.vldx p f) p f (semVldx p f s) s

/-- VSTX (R161), its word alone. -/
def execVstx (p : Pos) (f : Fields) (s : State) : Host.Outcome State Fault Refusal :=
  runSlot (.vstx p f) p f (semVstx p f s) s

/-- GATH (R161), its word alone. -/
def execGath (p : Pos) (f : Fields) (s : State) : Host.Outcome State Fault Refusal :=
  runSlot (.gath p f) p f (semGath p f s) s

/-- SCAT (R161), its word alone. -/
def execScat (p : Pos) (f : Fields) (s : State) : Host.Outcome State Fault Refusal :=
  runSlot (.scat p f) p f (semScat p f s) s

/-- FLD (R168), its word alone. -/
def execFld (p : Pos) (f : Fields) (s : State) : Host.Outcome State Fault Refusal :=
  runSlot (.fld p f) p f (semFld p f s) s

/-- FST (R168), its word alone. -/
def execFst (p : Pos) (f : Fields) (s : State) : Host.Outcome State Fault Refusal :=
  runSlot (.fst p f) p f (semFst p f s) s

/-- FLDV (R169), its word alone. -/
def execFldv (p : Pos) (f : Fields) (s : State) : Host.Outcome State Fault Refusal :=
  runSlot (.fldv p f) p f (semFldv p f s) s

/-- FSTV (R169), its word alone. -/
def execFstv (p : Pos) (f : Fields) (s : State) : Host.Outcome State Fault Refusal :=
  runSlot (.fstv p f) p f (semFstv p f s) s

/-- SPILL (R166), its word alone. -/
def execSpill (p : Pos) (f : Fields) (s : State) : Host.Outcome State Fault Refusal :=
  runSlot (.spill p f) p f (semSpill p f s) s

/-- FILL (R166), its word alone. -/
def execFill (p : Pos) (f : Fields) (s : State) : Host.Outcome State Fault Refusal :=
  runSlot (.fill p f) p f (semFill p f s) s

/-- VSPILL (R166), its word alone. -/
def execVspill (p : Pos) (f : Fields) (s : State) : Host.Outcome State Fault Refusal :=
  runSlot (.vspill p f) p f (semVspill p f s) s

/-- VFILL (R166), its word alone. -/
def execVfill (p : Pos) (f : Fields) (s : State) : Host.Outcome State Fault Refusal :=
  runSlot (.vfill p f) p f (semVfill p f s) s

/-- AMO (R170), its word alone. -/
def execAmo (p : Pos) (f : Fields) (s : State) : Host.Outcome State Fault Refusal :=
  runSlot (.amo p f) p f (semAmo p f s) s

/-- AMOCAS (R171), its word alone. -/
def execAmocas (p : Pos) (f : Fields) (s : State) : Host.Outcome State Fault Refusal :=
  runSlot (.amocas p f) p f (semAmocas p f s) s

/-- PROBE (R173), its word alone. -/
def execProbe (p : Pos) (f : Fields) (s : State) : Host.Outcome State Fault Refusal :=
  runSlot (.probe p f) p f (semProbe p f s) s

/-- CWB (R174), its word alone. -/
def execCwb (p : Pos) (f : Fields) (s : State) : Host.Outcome State Fault Refusal :=
  runSlot (.cwb p f) p f (semCwb p f s) s

/-- CINV (R174), its word alone. -/
def execCinv (p : Pos) (f : Fields) (s : State) : Host.Outcome State Fault Refusal :=
  runSlot (.cinv p f) p f (semCinv p f s) s

/-- CWBI (R174), its word alone. -/
def execCwbi (p : Pos) (f : Fields) (s : State) : Host.Outcome State Fault Refusal :=
  runSlot (.cwbi p f) p f (semCwbi p f s) s

/-- QFENCE (R175), its word alone. -/
def execQfence (p : Pos) (f : Fields) (s : State) : Host.Outcome State Fault Refusal :=
  runSlot (.qfence p f) p f (semQfence p f s) s

/-- VLDB (R159), its word alone. -/
def execVldb (p : Pos) (f : Fields) (s : State) : Host.Outcome State Fault Refusal :=
  runSlot (.vldb p f) p f (semVldb p f s) s

/-- TAG (R165), its word alone. -/
def execTag (p : Pos) (f : Fields) (s : State) : Host.Outcome State Fault Refusal :=
  runSlot (.tag p f) p f (semTag p f s) s

/-- TAGRD (R165), its word alone. -/
def execTagrd (p : Pos) (f : Fields) (s : State) : Host.Outcome State Fault Refusal :=
  runSlot (.tagrd p f) p f (semTagrd p f s) s

/-- VADD (R185), its word alone. -/
def execVadd (p : Pos) (f : Fields) (s : State) : Host.Outcome State Fault Refusal :=
  runSlot (.vadd p f) p f (semVadd p f s) s

/-- VSUB (R185), its word alone. -/
def execVsub (p : Pos) (f : Fields) (s : State) : Host.Outcome State Fault Refusal :=
  runSlot (.vsub p f) p f (semVsub p f s) s

/-- VMUL (R185), its word alone. -/
def execVmul (p : Pos) (f : Fields) (s : State) : Host.Outcome State Fault Refusal :=
  runSlot (.vmul p f) p f (semVmul p f s) s

/-- VMULH (R185), its word alone. -/
def execVmulh (p : Pos) (f : Fields) (s : State) : Host.Outcome State Fault Refusal :=
  runSlot (.vmulh p f) p f (semVmulh p f s) s

/-- VFMA (R186), its word alone. -/
def execVfma (p : Pos) (f : Fields) (s : State) : Host.Outcome State Fault Refusal :=
  runSlot (.vfma p f) p f (semVfma p f s) s

/-- VFMS (R186), its word alone. -/
def execVfms (p : Pos) (f : Fields) (s : State) : Host.Outcome State Fault Refusal :=
  runSlot (.vfms p f) p f (semVfms p f s) s

/-- VFNMA (R186), its word alone. -/
def execVfnma (p : Pos) (f : Fields) (s : State) : Host.Outcome State Fault Refusal :=
  runSlot (.vfnma p f) p f (semVfnma p f s) s

/-- VMIN (R185), its word alone. -/
def execVmin (p : Pos) (f : Fields) (s : State) : Host.Outcome State Fault Refusal :=
  runSlot (.vmin p f) p f (semVmin p f s) s

/-- VMAX (R185), its word alone. -/
def execVmax (p : Pos) (f : Fields) (s : State) : Host.Outcome State Fault Refusal :=
  runSlot (.vmax p f) p f (semVmax p f s) s

/-- VABS (R187), its word alone. -/
def execVabs (p : Pos) (f : Fields) (s : State) : Host.Outcome State Fault Refusal :=
  runSlot (.vabs p f) p f (semVabs p f s) s

/-- VNEG (R187), its word alone. -/
def execVneg (p : Pos) (f : Fields) (s : State) : Host.Outcome State Fault Refusal :=
  runSlot (.vneg p f) p f (semVneg p f s) s

/-- VADDS (R185), its word alone. -/
def execVadds (p : Pos) (f : Fields) (s : State) : Host.Outcome State Fault Refusal :=
  runSlot (.vadds p f) p f (semVadds p f s) s

/-- VSUBS (R185), its word alone. -/
def execVsubs (p : Pos) (f : Fields) (s : State) : Host.Outcome State Fault Refusal :=
  runSlot (.vsubs p f) p f (semVsubs p f s) s

/-- VAND (R185), its word alone. -/
def execVand (p : Pos) (f : Fields) (s : State) : Host.Outcome State Fault Refusal :=
  runSlot (.vand p f) p f (semVand p f s) s

/-- VOR (R185), its word alone. -/
def execVor (p : Pos) (f : Fields) (s : State) : Host.Outcome State Fault Refusal :=
  runSlot (.vor p f) p f (semVor p f s) s

/-- VXOR (R185), its word alone. -/
def execVxor (p : Pos) (f : Fields) (s : State) : Host.Outcome State Fault Refusal :=
  runSlot (.vxor p f) p f (semVxor p f s) s

/-- VSLL (R185), its word alone. -/
def execVsll (p : Pos) (f : Fields) (s : State) : Host.Outcome State Fault Refusal :=
  runSlot (.vsll p f) p f (semVsll p f s) s

/-- VSRL (R185), its word alone. -/
def execVsrl (p : Pos) (f : Fields) (s : State) : Host.Outcome State Fault Refusal :=
  runSlot (.vsrl p f) p f (semVsrl p f s) s

/-- VSRA (R185), its word alone. -/
def execVsra (p : Pos) (f : Fields) (s : State) : Host.Outcome State Fault Refusal :=
  runSlot (.vsra p f) p f (semVsra p f s) s

/-- VCLZ (R185), its word alone. -/
def execVclz (p : Pos) (f : Fields) (s : State) : Host.Outcome State Fault Refusal :=
  runSlot (.vclz p f) p f (semVclz p f s) s

/-- VPOPC (R185), its word alone. -/
def execVpopc (p : Pos) (f : Fields) (s : State) : Host.Outcome State Fault Refusal :=
  runSlot (.vpopc p f) p f (semVpopc p f s) s

/-- VCMP (R191), its word alone. -/
def execVcmp (p : Pos) (f : Fields) (s : State) : Host.Outcome State Fault Refusal :=
  runSlot (.vcmp p f) p f (semVcmp p f s) s

/-- VSEL (R192), its word alone. -/
def execVsel (p : Pos) (f : Fields) (s : State) : Host.Outcome State Fault Refusal :=
  runSlot (.vsel p f) p f (semVsel p f s) s

/-- VMOV (R185), its word alone. -/
def execVmov (p : Pos) (f : Fields) (s : State) : Host.Outcome State Fault Refusal :=
  runSlot (.vmov p f) p f (semVmov p f s) s

/-- VLI (R185), its word alone. -/
def execVli (p : Pos) (f : Fields) (s : State) : Host.Outcome State Fault Refusal :=
  runSlot (.vli p f) p f (semVli p f s) s

/-- VEXT (R185), its word alone. -/
def execVext (p : Pos) (f : Fields) (s : State) : Host.Outcome State Fault Refusal :=
  runSlot (.vext p f) p f (semVext p f s) s

/-- VCVT (R190), its word alone. -/
def execVcvt (p : Pos) (f : Fields) (s : State) : Host.Outcome State Fault Refusal :=
  runSlot (.vcvt p f) p f (semVcvt p f s) s

/-- VRND (R189), its word alone. -/
def execVrnd (p : Pos) (f : Fields) (s : State) : Host.Outcome State Fault Refusal :=
  runSlot (.vrnd p f) p f (semVrnd p f s) s

/-- VSCALE (R188), its word alone. -/
def execVscale (p : Pos) (f : Fields) (s : State) : Host.Outcome State Fault Refusal :=
  runSlot (.vscale p f) p f (semVscale p f s) s

/-- VRCP (R194), its word alone. -/
def execVrcp (p : Pos) (f : Fields) (s : State) : Host.Outcome State Fault Refusal :=
  runSlot (.vrcp p f) p f (semVrcp p f s) s

/-- VRSQRT (R194), its word alone. -/
def execVrsqrt (p : Pos) (f : Fields) (s : State) : Host.Outcome State Fault Refusal :=
  runSlot (.vrsqrt p f) p f (semVrsqrt p f s) s

/-- VEXP2 (R194), its word alone. -/
def execVexp2 (p : Pos) (f : Fields) (s : State) : Host.Outcome State Fault Refusal :=
  runSlot (.vexp2 p f) p f (semVexp2 p f s) s

/-- VLOG2 (R194), its word alone. -/
def execVlog2 (p : Pos) (f : Fields) (s : State) : Host.Outcome State Fault Refusal :=
  runSlot (.vlog2 p f) p f (semVlog2 p f s) s

/-- VRED (R196), its word alone. -/
def execVred (p : Pos) (f : Fields) (s : State) : Host.Outcome State Fault Refusal :=
  runSlot (.vred p f) p f (semVred p f s) s

/-- VSCAN (R196), its word alone. -/
def execVscan (p : Pos) (f : Fields) (s : State) : Host.Outcome State Fault Refusal :=
  runSlot (.vscan p f) p f (semVscan p f s) s

/-- VPERM (R197), its word alone. -/
def execVperm (p : Pos) (f : Fields) (s : State) : Host.Outcome State Fault Refusal :=
  runSlot (.vperm p f) p f (semVperm p f s) s

/-- VBCAST (R197), its word alone. -/
def execVbcast (p : Pos) (f : Fields) (s : State) : Host.Outcome State Fault Refusal :=
  runSlot (.vbcast p f) p f (semVbcast p f s) s

/-- VROT (R197), its word alone. -/
def execVrot (p : Pos) (f : Fields) (s : State) : Host.Outcome State Fault Refusal :=
  runSlot (.vrot p f) p f (semVrot p f s) s

/-- VSLIDE (R197), its word alone. -/
def execVslide (p : Pos) (f : Fields) (s : State) : Host.Outcome State Fault Refusal :=
  runSlot (.vslide p f) p f (semVslide p f s) s

/-- VIOTA (R185), its word alone. -/
def execViota (p : Pos) (f : Fields) (s : State) : Host.Outcome State Fault Refusal :=
  runSlot (.viota p f) p f (semViota p f s) s

/-- VPACK (R198), its word alone. -/
def execVpack (p : Pos) (f : Fields) (s : State) : Host.Outcome State Fault Refusal :=
  runSlot (.vpack p f) p f (semVpack p f s) s

/-- VUNPACK (R199), its word alone. -/
def execVunpack (p : Pos) (f : Fields) (s : State) : Host.Outcome State Fault Refusal :=
  runSlot (.vunpack p f) p f (semVunpack p f s) s

/-- VDOT (R202), its word alone. -/
def execVdot (p : Pos) (f : Fields) (s : State) : Host.Outcome State Fault Refusal :=
  runSlot (.vdot p f) p f (semVdot p f s) s

/-- VDOTSU (R202), its word alone. -/
def execVdotsu (p : Pos) (f : Fields) (s : State) : Host.Outcome State Fault Refusal :=
  runSlot (.vdotsu p f) p f (semVdotsu p f s) s

/-- VPSET (R193), its word alone. -/
def execVpset (p : Pos) (f : Fields) (s : State) : Host.Outcome State Fault Refusal :=
  runSlot (.vpset p f) p f (semVpset p f s) s

/-- VPGET (R193), its word alone. -/
def execVpget (p : Pos) (f : Fields) (s : State) : Host.Outcome State Fault Refusal :=
  runSlot (.vpget p f) p f (semVpget p f s) s

/-- VFIRST (R193), its word alone. -/
def execVfirst (p : Pos) (f : Fields) (s : State) : Host.Outcome State Fault Refusal :=
  runSlot (.vfirst p f) p f (semVfirst p f s) s

/-- MCALL (R212), its word alone. -/
def execMcall (p : Pos) (f : Fields) (s : State) : Host.Outcome State Fault Refusal :=
  runSlot (.mcall p f) p f (semMcall p f s) s

/-- MPSET (R211), its word alone. -/
def execMpset (p : Pos) (f : Fields) (s : State) : Host.Outcome State Fault Refusal :=
  runSlot (.mpset p f) p f (semMpset p f s) s

/-- MLOAD (R213), its word alone. -/
def execMload (p : Pos) (f : Fields) (s : State) : Host.Outcome State Fault Refusal :=
  runSlot (.mload p f) p f (semMload p f s) s

/-- SMCOPY (R214), its word alone. -/
def execSmcopy (p : Pos) (f : Fields) (s : State) : Host.Outcome State Fault Refusal :=
  runSlot (.smcopy p f) p f (semSmcopy p f s) s

/-- NCOPY (R220), its word alone. -/
def execNcopy (p : Pos) (f : Fields) (s : State) : Host.Outcome State Fault Refusal :=
  runSlot (.ncopy p f) p f (semNcopy p f s) s

/-- EGATH (R222), its word alone. -/
def execEgath (p : Pos) (f : Fields) (s : State) : Host.Outcome State Fault Refusal :=
  runSlot (.egath p f) p f (semEgath p f s) s

/-- ESCAT (R222), its word alone. -/
def execEscat (p : Pos) (f : Fields) (s : State) : Host.Outcome State Fault Refusal :=
  runSlot (.escat p f) p f (semEscat p f s) s

/-- MCAST (R223), its word alone. -/
def execMcast (p : Pos) (f : Fields) (s : State) : Host.Outcome State Fault Refusal :=
  runSlot (.mcast p f) p f (semMcast p f s) s

/-- MCASTB (R223), its word alone. -/
def execMcastb (p : Pos) (f : Fields) (s : State) : Host.Outcome State Fault Refusal :=
  runSlot (.mcastb p f) p f (semMcastb p f s) s

/-- COLL (R226), its word alone. -/
def execColl (p : Pos) (f : Fields) (s : State) : Host.Outcome State Fault Refusal :=
  runSlot (.coll p f) p f (semColl p f s) s

/-- TNLD (R225), its word alone. -/
def execTnld (p : Pos) (f : Fields) (s : State) : Host.Outcome State Fault Refusal :=
  runSlot (.tnld p f) p f (semTnld p f s) s

/-- TNST (R225), its word alone. -/
def execTnst (p : Pos) (f : Fields) (s : State) : Host.Outcome State Fault Refusal :=
  runSlot (.tnst p f) p f (semTnst p f s) s

/-- TNPF (R225), its word alone. -/
def execTnpf (p : Pos) (f : Fields) (s : State) : Host.Outcome State Fault Refusal :=
  runSlot (.tnpf p f) p f (semTnpf p f s) s

/-- EMIT (R228), its word alone. -/
def execEmit (p : Pos) (f : Fields) (s : State) : Host.Outcome State Fault Refusal :=
  runSlot (.emit p f) p f (semEmit p f s) s

/-- ESTAT (R230), its word alone. -/
def execEstat (p : Pos) (f : Fields) (s : State) : Host.Outcome State Fault Refusal :=
  runSlot (.estat p f) p f (semEstat p f s) s

/-- ACCLD (R215), its word alone. -/
def execAccld (p : Pos) (f : Fields) (s : State) : Host.Outcome State Fault Refusal :=
  runSlot (.accld p f) p f (semAccld p f s) s

/-- ACCST (R215), its word alone. -/
def execAccst (p : Pos) (f : Fields) (s : State) : Host.Outcome State Fault Refusal :=
  runSlot (.accst p f) p f (semAccst p f s) s

/-- ADRAIN (R216), its word alone. -/
def execAdrain (p : Pos) (f : Fields) (s : State) : Host.Outcome State Fault Refusal :=
  runSlot (.adrain p f) p f (semAdrain p f s) s

/-- ACLR (R217), its word alone. -/
def execAclr (p : Pos) (f : Fields) (s : State) : Host.Outcome State Fault Refusal :=
  runSlot (.aclr p f) p f (semAclr p f s) s

/-- ECANCEL (R231), its word alone. -/
def execEcancel (p : Pos) (f : Fields) (s : State) : Host.Outcome State Fault Refusal :=
  runSlot (.ecancel p f) p f (semEcancel p f s) s

/-- EBAR (R231), its word alone. -/
def execEbar (p : Pos) (f : Fields) (s : State) : Host.Outcome State Fault Refusal :=
  runSlot (.ebar p f) p f (semEbar p f s) s

end Sys2Proof.Machine
end

