-- ==== Sys2Proof/Machine/Issue.lean ====
section
/-!
DEFINITION. Issuing a bundle: the choice of the sequencer (spec/21 R415), the checks (spec/03 R89, R90), stalls (spec/01
R32), the slots and their stops (spec/11 R240, spec/23 R435, R436), loop closure, delay shadows and safe points (spec/03
R82-R86), and resumption (spec/11 R243).
-/

namespace Sys2Proof.Machine

open Sys2Proof

/-! ### The sequencer that issues -/

/-- One resident sequencer goes before another of a core (R415): the smaller key, then the one whose last bundle on the
core lies furthest back, then GANG and SEQID. -/
def issuesBefore (s : State) (a b : Ctx) : Bool :=
  match s.grid? a.gkey, s.grid? b.gkey with
  | some g, some h =>
    if g.key ≠ h.key then g.before h
    else match tabGet? a.issuedOn a.core, tabGet? b.issuedOn b.core with
      | none, some _ => true
      | some _, none => false
      | some x, some y => decide (x < y)
      | none, none => decide (a.gang < b.gang) || (a.gang == b.gang && decide (a.seqid < b.seqid))
  | some _, none => true
  | none, _ => false

/-- The first of some sequencers. -/
def firstToIssue (s : State) : List Ctx → Option Ctx
  | [] => none
  | c :: l => match firstToIssue s l with
    | none => some c
    | some d => some (if issuesBefore s d c then d else c)

/-- The sequencer that a core issues: the one it is issuing, else the choice of R415 among its ready residents. -/
def pick (s : State) (core : Nat) : Option Ctx :=
  let ready (c : Ctx) : Bool := c.core == core && c.status == .ready
  match ((s.core core).cur.bind s.ctx?).filter ready with
  | some c => some c
  | none => firstToIssue s (s.ctxs.filter ready)

/-! ### The words of a bundle -/

/-- A decoded slot: its operation in this repetition, its row and its fields as its word has them. -/
structure SlotIn where
  p : Pos
  i : Instr
  info : OpInfo
  f : Fields
  deriving DecidableEq, Repr

/-- A slot word's operation with its row. -/
def slotIn (pw : Pos × Word) : Option SlotIn :=
  match decodeSlot pw.1 pw.2 with
  | none => none
  | some i => (opInfo i).map fun info => ⟨pw.1, i, info, Fields.ofWord pw.2⟩

/-- The trace kind of a transfer (spec/23 R438). -/
def transferKind (i : Instr) : Nat :=
  match i with
  | .call _ _ | .callc _ _ => 2
  | .ret _ _ => 3
  | .uret _ _ => 4
  | _ => 1

/-- The slot operation in a repetition, its private-slice operands stepped (spec/03 R79). -/
def stepInstr (rpt : Option (BitVec 32)) (rep : Nat) (x : SlotIn) : Instr :=
  (decodeAt x.p x.info.code (stepFields rpt x.i x.info x.p rep x.f)).getD x.i

/-! ### The checks of R89 -/

/-- Ports allotted to a slot (spec/03 R75). -/
def portsOf (h : BitVec 32) (p : Pos) : Nat :=
  (if hdrCp0 h = p.index then 1 else 0) + (if hdrCp1 h = p.index then 1 else 0)

/-- A port names a slot that is not present, or none that exists. -/
def cpReserved (n : Nat) : Bool := decide (9 ≤ n) && decide (n ≤ 14)

/-- Rows 1 to 4: header and prefix. -/
def headerRows (b : Bundle) : List (Nat × Nat) :=
  let h := b.header
  let absent (n : Nat) : Bool := decide (n < 9) && !(hdrMask h).getLsbD n
  (if h.extractLsb' 20 12 ≠ 0 then [(1, 15)] else []) ++
  (if cpReserved (hdrCp0 h) || cpReserved (hdrCp1 h) then [(2, 15)] else []) ++
  (if absent (hdrCp0 h) || absent (hdrCp1 h) then [(3, 15)] else []) ++
  (match b.rpt with
   | some r => if hdrPres h .c ∨ r.extractLsb' 0 3 ≠ 0 then [(4, 15)] else []
   | none => [])

/-- Rows 5 to 18 and row 0 of each slot. Row 18 names its slot (R89) though it is checked on the bundle, for which R239 gives
15. DESIGN CHOICE, log entry 57. -/
def slotRows (b : Bundle) : List (Nat × Nat) :=
  b.words.flatMap fun pw =>
    match slotIn pw with
    | none => [(5, pw.1.index)]
    | some x =>
      (match wordFail x.i x.info x.f with
       | some r => [(r, pw.1.index)]
       | none => []) ++
      (if (commonReads x.i x.info x.f).length > portsOf b.header pw.1 then [(18, pw.1.index)] else [])

/-- Rows 19 and 20, and R149's rule. R149's rule names slot 0: DEDUCED, log entry 22. -/
def bundleRows (b : Bundle) (xs : List SlotIn) (shadow noLoops : Bool) : List (Nat × Nat) :=
  let h := b.header
  let ctl := xs.any fun x => isTransfer x.i
  (if (xs.filter fun x => (commonWrite x.info x.f).isSome).length > 1 then [(19, 15)] else []) ++
  (if (shadow && (ctl || hdrLend h)) || (ctl && hdrLend h) || (hdrLend h && noLoops) then [(20, 15)] else []) ++
  (if (xs.any fun x => isLong x.i) && (xs.any fun x => isStopOp x.i) then [(0, 0)] else [])

/-- The failure that R89 reports: the lowest row, row 0 last, then the lowest slot. -/
def reported (l : List (Nat × Nat)) : Option (Nat × Nat) :=
  l.foldl (fun a x =>
    let key (y : Nat × Nat) : Nat := (if y.1 = 0 then 99 else y.1) * 16 + y.2
    match a with
    | none => some x
    | some y => some (if key x < key y then x else y)) none

/-! ### What a core's issue comes to -/

/-- The outcome of letting a core issue: no sequencer is ready, the core stalls, a bundle or repetition issues, or a
sequencer does something else at its boundary (a trap before issue, an end, a redirection, a yield). -/
inductive IssueRes where
  | idle (s : State)
  | stalled (s : State)
  | issued (s : State) (empty phase : Bool)
  | other (s : State)

/-- The state after. -/
def IssueRes.state : IssueRes → State
  | .idle s => s
  | .stalled s => s
  | .issued s _ _ => s
  | .other s => s

/-- What the reduction engine samples of a core (spec/23 R439). -/
def note (s : State) (core : Nat) (stalled : Bool) (addr : PC) (slot reason : Nat) : State :=
  s.setCore core { s.core core with stalled := stalled, samp := (addr.toNat, slot, reason) }

/-- The sequencer stops for the Gaffer (R245, spec/05 R129): its save follows once its tokens have completed. -/
def yieldCtx (s0 : State) (c0 : Ctx) : State :=
  let s := landMgmt s0 c0.handle
  let c := s.ctx c0.handle
  releaseCore (traceStop (s.setCtx { c with status := .yielding, view := none }) c) c

/-- What a sequencer does at a safe point: a requested yield, else another resident may issue (spec/03 R86, R415). -/
def safePoint (s : State) (c : Ctx) : State := if c.yieldReq then yieldCtx s c else releaseCore s c

/-- A pending transfer takes place (spec/03 R82, R84); the bundle at its target is no re-issue (spec/23 R436). DEDUCED, log entry 21. -/
def transferNow (s : State) (c : Ctx) : State :=
  traceRec (s.setCtx { c with pc := c.target, pend := false, target := 0, bpSkip := 0 }) c.core c.xferKind 0 c.xferPc.toNat
    c.target.toNat

/-- The bundle-start view for a bundle's reads (spec/03 R77). -/
def takeView (s : State) (c : Ctx) (len : Nat) : View where
  next := c.pc + BitVec.ofNat 32 len
  cfr := s.frontier c.part (s.domainOf c)
  firstCid := s.nextCid
  loops := c.loops
  phase := c.phase
  tasks := c.tasks
  trapInfo := c.trapInfo

/-! ### Completing a bundle (R85, R82, R84, R86) -/

/-- The innermost loop closes: where issue goes on, and the loop stack. -/
def closeLoop (loops : List LoopEntry) (next : PC) : PC × List LoopEntry :=
  match loops with
  | [] => (next, [])
  | l :: ls =>
    if l.index.toNat + 1 < l.count.toNat then (l.start, { l with index := l.index + 1 } :: ls) else (next, ls)

/-- The rotating bases advance; a VROT that the bundle itself writes advances in the written value (spec/01 R29). -/
def advanceRots (c : Ctx) : Ctx :=
  let mine (n : Nat) (x : Flight) : Bool := x.file == .special && x.start == n && x.age == 0
  let fl := c.flight.map fun x =>
    if mine 0x28 x || mine 0x29 x then { x with lanes := x.lanes.map fun v => advanceRot (clampRot c.hdr.vG v) } else x
  { c with
    flight := fl
    vrot0 := if c.flight.any (mine 0x28) then c.vrot0 else advanceRot c.vrot0
    vrot1 := if c.flight.any (mine 0x29) then c.vrot1 else advanceRot c.vrot1 }

/-- A bundle has completed in full (R243 "continue as after a completed bundle"): loop closure with the rotating bases,
the delay shadow, the transfer, what slot C has left to its end, and the safe point. `began` says whether it issued in a
delay shadow and at which loop depth, `count` that it is still to be counted in its shadow. LEND closes the innermost entry
below those that the bundle itself has pushed, whose push takes effect for the next bundle (spec/05 R110); after a retire.t
it closes the innermost entry left. A transfer that becomes due goes before a retire.t's label. DESIGN CHOICE, log entry 55. -/
def completeBundle (s0 : State) (h : Nat) (header : BitVec 32) (len : Nat) (long : Bool) (began : Bool × Nat) (count : Bool) :
    State :=
  let s := leaveCtx s0 h
  let c := s.ctx h
  let next0 := match c.nextPc with | some (t, _) => t | none => c.pc + BitVec.ofNat 32 len
  let hard := match c.nextPc with | some (_, b) => b | none => false
  let own := c.loops.length - began.2
  let cl := if hdrLend header then closeLoop (c.loops.drop own) next0 else (next0, c.loops.drop own)
  let c1 := if hdrLend header then advanceRots c else c
  let safe := hdrSafe header && !long && (hdrLend header || began.2 == 0) && !began.1
  let c2 := { c1 with
    loops := c.loops.take own ++ cl.2, pc := if hard then next0 else cl.1, rep := 0, done := 0, partBundle := false,
    bpSkip := 0, nextPc := none, view := none, began := none, moved := false, shl := if began.1 && count then c.shl - 1 else c.shl,
    atSafe := safe }
  let s1 := s.setCtx c2
  let s2 := if c2.pend ∧ c2.shl = 0 then transferNow s1 c2 else s1
  let c3 := s2.ctx h
  if c3.status ≠ .ready then releaseCore (traceStop s2 c3) c3
  else if c3.barWait.isSome ∨ !safe then s2
  else safePoint s2 c3

/-- A stop that leaves a whole bundle done counts it in its delay shadow before the record (R84). -/
def countShadow (s : State) (h : Nat) (b : Bundle) (xs : List SlotIn) : State :=
  let c := s.ctx h
  let cnt := match b.rpt with | some r => rptCnt r | none => 0
  if c.rep < cnt ∨ (xs.any fun x => isTransfer x.i) then s else s.setCtx { c with shl := c.shl - 1 }

/-- A mask of slots. -/
def slotMask (l : List SlotIn) : BitVec 9 := l.foldl (fun m x => m ||| (1#9 <<< x.p.index)) 0

/-- A repetition has completed: the stop of R129 that slot C has left to the end of its bundle, else the next repetition
follows, or the bundle is complete (R79, R241). A restored context whose image moved its pc has no record of how the bundle
there began: its shadow count and loops are taken as they stand. DESIGN CHOICE, log entry 55. -/
def completeRep (s : State) (h : Nat) (b : Bundle) (xs : List SlotIn) (count : Bool) : State :=
  let c := s.ctx h
  let cnt := match b.rpt with | some r => rptCnt r | none => 0
  match c.leave with
  | some (.stop cause info) => stopAfter (if count then countShadow s h b xs else s) h cause (slotMask xs) info
  | _ =>
    if c.rep < cnt then
      s.setCtx { c with rep := c.rep + 1, done := 0, partBundle := false, bpSkip := 0, view := none, began := none }
    else
      completeBundle s h b.header (bundleLen b.header) (xs.any fun x => isLong x.i)
        (c.began.getD (decide (c.shl ≠ 0) && !(xs.any fun x => isTransfer x.i), c.loops.length)) count

/-! ### Stalls -/

/-- A stall on a token of R32. -/
def tokenKind (i : Instr) (reason : Nat) : Bool :=
  decide (reason = 1) && (match i with | .qfence _ _ | .phase _ _ => false | _ => true)

/-- A stall that a yield request abandons (spec/05 R126, R245, spec/17 R365). -/
def abandonable (i : Instr) (reason : Nat) : Bool :=
  match i with
  | .join _ _ | .tkwait _ _ | .phase _ _ => true
  | .qfence _ _ => false
  | _ => decide (reason = 1) || decide (reason = 7)

/-- The scratchpad addresses that an operation names in its enabled lanes, one for each run of bytes. -/
def spmNames (s : State) (i : Instr) : List Nat :=
  let lanes (f : Fields) (a : Nat → Nat) : List Nat :=
    ((List.range 64).filter fun j => (guardMask s.curCtx f).getLsbD j).map a
  let one (f : Fields) (a : Nat) : List Nat := if enabled s.curCtx f then [a] else []
  match i with
  | .ld p f | .st p f => one f (spmSum s p f)
  | .vldb p f | .vld p f | .vst p f => if guardMask s.curCtx f = 0 then [] else [spmSum s p f]
  | .vlds p f | .vsts p f => lanes f (strideAddr s p f)
  | .gath p f | .scat p f => lanes f (gatherAddr s p f)
  | .tag p f | .tagrd p f => one f (srcScal s p f.k1 f.src1 32)
  | .kld _ f => one f ((src64 s f.k1 f.src1 + src64 s f.k2 f.src2).toNat % 2 ^ 32)
  | .fget _ f | .fput _ f | .loopd _ f | .fork _ f | .forkr _ f =>
    one f (cSpm (cSrc1 s f) 8)
  | .accld _ f | .accst _ f | .adrain _ f | .coll _ f | .egath _ f | .emit _ f | .escat _ f | .mcast _ f | .mcastb _ f | .mload _ f | .ncopy _ f | .smcopy _ f | .tnld _ f | .tnpf _ f | .tnst _ f => one f (cSpm (cSrc1 s f) 8)
  | _ => []

/-- An operation makes a member-form access to the banks of a member whose core's clock is stopped: it does not perform before the
clock restarts, and the core stalls until it has (R164, spec/24 R447). -/
def heldAccess (s : State) (i : Instr) : Bool :=
  (s.islands.any fun x => x.2.stage == 2) &&
  (spmNames s i).any (s.memberStopped s.curCtx)

/-- What a slot comes to: an operation with an access that waits stalls the core on the scratchpad bank. -/
def slotFate (s : State) (i : Instr) : SlotRes :=
  match semOf i s with
  | .ok t => if heldAccess s i then .stall 2 else .ok t
  | .utrap a => if heldAccess s i then .stall 2 else .utrap a
  | r => r

/-! ### Committing slots -/

/-- Order in which a bundle's slots take effect: loads and commands before slot C, scratchpad stores after it; no
operand read depends on it (spec/03 R77, spec/07 R164). A kld, which spec/06 R153 leaves unordered against the M stores of its own
bundle, reads before them: DESIGN CHOICE, log entry 75. -/
def commitRank (i : Instr) : Nat :=
  match i with
  | .st _ _ | .vst _ _ | .vsts _ _ | .vstx _ _ | .scat _ _ | .tag _ _ | .spill _ _ | .vspill _ _ => 3
  | _ => match i.parts with
    | some (.c, _, _, _) => 2
    | some (.m, _, _, _) => 1
    | _ => 0

/-- One slot takes effect. The token interlocks were met before the bundle issued, so its own bundle's new token stalls
none of its slots. A queue or a limit of spec/17 R365 that a lower slot of the bundle has just used up stalls the bundle, with
the reason, or makes it illegal (none). -/
def commitOne (h : Nat) (pend0 : BitVec 32) (s : State) (x : SlotIn × Instr × SlotRes) : Except (SlotIn × Option Nat) State :=
  let got := (s.ctx h).tokPend
  let s1 := s.modCtx h fun c => { c with tokPend := pend0 }
  let back (t : State) : State := t.modCtx h fun c => { c with tokPend := c.tokPend ||| got }
  match semOf x.2.1 s1 with
  | .ok t => .ok (back t)
  | .after t cause info => .ok ((back t).modCtx h fun c => { c with leave := some (.stop cause info) })
  | .stall r => .error (x.1, some r)
  | .illegal => .error (x.1, none)
  | _ => .ok s

/-- Slots take effect in the order of `commitRank`. -/
def commitAll (h : Nat) (s : State) (xs : List (SlotIn × Instr × SlotRes)) : Except (SlotIn × Option Nat) State :=
  let pend0 := (s.ctx h).tokPend
  let order := (List.range 4).flatMap fun r => xs.filter fun x => commitRank x.2.1 == r
  order.foldl (fun a x => match a with
    | .ok t => commitOne h pend0 t x
    | .error r => .error r) (.ok s)

/-- The fault that a slot's outcome defers in a speculative task (spec/07 R177). -/
def deferredCause (spec : Bool) (r : SlotRes) : Option Nat :=
  match r with
  | .trap cause _ | .fatal cause _ => if spec && deferrable cause then some cause else none
  | _ => none

/-! ### Stops within a bundle -/

/-- A breakpoint of the cluster's unit is set on a bundle, slot and core (spec/23 R434, R435). -/
def breaksAt (s : State) (core : Nat) (pc : PC) (slot : Nat) : Bool :=
  s.dbgActive (clusterOf core) &&
  (List.range 8).any fun k =>
    let v := (s.reg (redReg (clusterOf core) (0x80 + 8 * k))).toNat
    v.testBit 48 && v % 2 ^ 32 / 4 * 4 == pc.toNat && v / 2 ^ 32 % 16 == slot && v / 2 ^ 40 % 8 == core % 8

/-- The first overlapping byte of a watch with the far bytes that an operation's command touches (R435). -/
def watchHit (s : State) (core : Nat) (i : Instr) : Option Nat :=
  if !s.dbgActive (clusterOf core) then none
  else match watchRange i s with
    | none => none
    | some (lo, n, rd, wr) =>
      (List.range 4).findSome? fun j =>
        let base := (s.reg (redReg (clusterOf core) (0xC0 + 16 * j))).toNat
        let w := (s.reg (redReg (clusterOf core) (0xC8 + 16 * j))).toNat
        let len := w % 2 ^ 32
        if w.testBit 48 ∧ len ≠ 0 ∧ ((rd ∧ w.testBit 32) ∨ (wr ∧ w.testBit 33)) ∧ lo < base + len ∧ base < lo + n then
          some (max lo base)
        else none

/-- What stops a bundle at a slot. -/
inductive StopAt where
  | brk
  | fault (fatal : Bool) (cause : Nat) (info : Word)
  | watch (addr : Nat)
  | after (cause : Nat) (info : Word)

/-- The stop at one slot, if any (R435, R436): a breakpoint before a fault, a watch after its slot. -/
def stopOf (s : State) (c : Ctx) (x : SlotIn × Instr × SlotRes) : Option StopAt :=
  let (sl, i, r) := x
  if c.bpSkip ≤ sl.p.index ∧ breaksAt s c.core c.pc sl.p.index then some .brk
  else match r with
    | .trap cause info => if (deferredCause (s.isSpec c) r).isSome then none else some (.fault false cause info)
    | .fatal cause info => if (deferredCause (s.isSpec c) r).isSome then none else some (.fault true cause info)
    | .after _ cause info => some (.after cause info)
    | .ok _ => if enabled c sl.f || isVector sl.i sl.info sl.f then (watchHit s c.core i).map .watch else none
    | _ => none

/-- A fault. -/
def StopAt.isFault : StopAt → Bool
  | .fault _ _ _ => true
  | _ => false

/-- The stop that a bundle takes: the one on the lowest slot; a stop that needs the bundle committed in full gives way when
a fault keeps the bundle from committing, and stays with the bundle until it has. The order of stalls and faults: DEDUCED, log entry 23. -/
def firstStop (s : State) (c : Ctx) (xs : List (SlotIn × Instr × SlotRes)) : Option (Nat × StopAt) :=
  let all := xs.filterMap fun x => (stopOf s c x).map fun t => (x.1.p.index, t)
  match all with
  | [] => none
  | (n, .after cause info) :: rest =>
    if rest.any fun y => y.2.isFault then rest.head? else some (n, .after cause info)
  | y :: _ => some y

/-- The slots that commit at a stop (R240). -/
def committed (st : Option (Nat × StopAt)) (xs : List (SlotIn × Instr × SlotRes)) : List (SlotIn × Instr × SlotRes) :=
  match st with
  | none => xs
  | some (n, t) =>
    xs.filter fun x =>
      match t with
      | .after _ _ => true
      | .watch _ => decide (x.1.p.index ≤ n) && !isLong x.1.i
      | _ => decide (x.1.p.index < n) && !isLong x.1.i

/-! ### Issue -/

/-- Results that a slot would put in flight, its tokens apart, whatever else it meets (spec/01 R43); an operation whose fate
is deferred has no effect (spec/07 R177). -/
def newResults (c : Ctx) (spec : Bool) (x : SlotIn × Instr × SlotRes) : Nat :=
  if (deferredCause spec x.2.2).isSome then 0 else resultCount c x.2.1 x.1.info x.1.f

/-- A load, fill or tagrd of spec/07 R176. -/
def isLoad (info : OpInfo) : Bool := info.cls == .m && (info.dst == .slices || info.dst == .vec)

/-- The slots whose results find no room, each slot in its order. -/
def overRoom : Nat → List (Nat × Nat) → List Nat
  | _, [] => []
  | room, (p, n) :: l => if n ≤ room then overRoom (room - n) l else p :: overRoom room l

/-- The loads that a speculative task's bundle defers because their results pass the limit of 32 beside `base` results in
flight, the other operations' results going first (spec/07 R176, R177). DEDUCED, log entry 56. -/
def deferLoads (c : Ctx) (spec : Bool) (base : Nat) (xs : List (SlotIn × Instr × SlotRes)) : List Nat :=
  if !spec then []
  else
    let rest := ((xs.filter fun x => !isLoad x.1.info).map (newResults c spec)).sum
    overRoom (32 - (base + rest)) ((xs.filter fun x => isLoad x.1.info).map fun x => (x.1.p.index, newResults c spec x))

/-- The stall that holds a bundle back: one on a token first, then the lowest slot's.
A disabled operation's pending token does not stall: DEDUCED, log entry 19. -/
def firstStall (xs : List (SlotIn × Instr × SlotRes)) (tok : Bool) : Option (SlotIn × Nat) :=
  xs.findSome? fun x => match x.2.2 with
    | .stall r => if !tok || tokenKind x.2.1 r then some (x.1, r) else none
    | _ => none

/-- A slot names the pending token of a command that the innermost task issued (spec/17 R369). -/
def namesOwn (s : State) (c : Ctx) (x : SlotIn) : Bool :=
  let names := commonReads x.i x.info x.f ++ (commonWrite x.info x.f).toList ++
    (match x.i with | .tkwait _ f => [f.src1.reg] | _ => [])
  match c.tasks.head? with
  | some t => s.cmds.any fun y =>
      y.ctx == c.handle && y.exec == t.exec && (match y.token with | some t => names.contains t | none => false)
  | none => false

/-- The core stalls on a slot, or its sequencer ends with its grid (spec/16 R350), is redirected (spec/17 R369) or yields
instead (R245). A disabled operation's pending token does not stall: DEDUCED, log entry 19. -/
def stallOn (s : State) (c : Ctx) (x : SlotIn) (reason : Nat) : IssueRes :=
  let onToken := tokenKind x.i reason || (match x.i with | .tkwait _ _ => true | _ => false)
  let onTask := decide (reason = 7) || (onToken && namesOwn s c x)
  if c.killCause.isSome ∧ onToken then .other (killContext s c.handle (c.killCause.getD 0))
  else if c.redirecting ∧ onTask then .other (redirectCtx s c)
  else if c.yieldReq && abandonable x.i reason then .other (yieldCtx s c)
  else .stalled (note (s.modCtx c.handle fun d => { d with stallTok := onToken, stallTask := onTask }) c.core true c.pc x.p.index
    reason)

/-- A bundle or repetition of `c` has issued: `s` is the state before it and `u` the one its slots left. Its core counts a
bundle once (spec/23 R440), and a transfer among its operations is noted for the trace (R438). -/
def markIssue (s u : State) (c : Ctx) (is : List Instr) : State :=
  let k := u.core c.core
  let u1 := (u.setCore c.core { k with
    stalled := false, samp := (c.pc.toNat, 15, 0)
    counters := if c.mid then k.counters else k.counters.setIfInBounds 1 (k.counters[1] + 1) }).modCtx c.handle fun c' =>
      { c' with issuedOn := if c.mid then c'.issuedOn else tabSet c'.issuedOn c.core s.stepNo, atSafe := false
                stallTok := false, stallTask := false }
  match is.find? isTransfer with
  | some i => u1.modCtx c.handle fun c' => { c' with xferKind := transferKind i, xferPc := c.pc }
  | none => u1

/-- The present slots take effect as far as they do, and what follows. `s` is the state before the bundle, `t` the one
after its tick and with its view; `xs` are the slots not done yet, `all` every present slot. A bundle that an earlier stop
left done in full has been counted in its shadow; one that has never issued, whatever done bits its image has, is still to be
counted (R84, R244). -/
def runSlots (s t : State) (c : Ctx) (b : Bundle) (all : List SlotIn) (xs : List (SlotIn × Instr × SlotRes)) : IssueRes :=
  let h := c.handle
  let ct := t.ctx h
  let spec := t.isSpec ct
  let st := firstStop t ct xs
  let run := committed st xs
  let t1 := run.foldl (fun u x => match deferredCause spec x.2.2 with
    | some cause => deferFault u ct cause
    | none => u) t
  match commitAll h t1 (run.filter fun x => (deferredCause spec x.2.2).isNone) with
  | .error (x, some r) => stallOn s c x r
  | .error (x, none) => .other (stopTrap s h causeIllegal 15 c.done c.partBundle (illegalInfo 0 x.p.index))
  | .ok u =>
    let done := c.done ||| slotMask (run.map (·.1))
    let u2 := markIssue s u c (run.map fun x => x.2.1)
    let full := decide (done &&& hdrMask b.header = hdrMask b.header)
    let count := !c.mid || c.partBundle || c.began.isNone
    let counted := if full && count && decide (c.shl ≠ 0) then countShadow u2 h b all else u2
    let ph := run.any fun x => match x.2.1 with | .phase _ f => enabled ct f | _ => false
    match st with
    | none => .issued (completeRep u2 h b all count) b.words.isEmpty ph
    | some (n, .brk) => .issued (stopDebug u2 h causeDebugStop n done count 0) false ph
    | some (n, .fault fatal cause info) => .issued (faultSlot u2 ct fatal cause n done count info) false ph
    | some (n, .watch a) => .issued (stopDebug counted h causeDebugStop n done (!full) (BitVec.ofNat 64 a)) false ph
    | some (_, .after cause info) => .issued (stopAfter counted h cause done info) false ph

/-- A bundle that has been fetched, from the last row of R89 on; `own` is a slot that fails a rule of its own, which gives
way to that row. -/
def issueSlots (s : State) (c : Ctx) (b : Bundle) (all : List SlotIn) (own : Option Nat) : IssueRes :=
  let h := c.handle
  let left := all.filter fun x => !c.done.getLsbD x.p.index
  let t0 := if c.mid then s else (landMgmt s h).modCtx h tickFlight
  let t := t0.modCtx h fun c' => { c' with
    view := some (takeView t0 c' (bundleLen b.header))
    began := if c.mid then c'.began else some (decide (c.shl ≠ 0), c.loops.length) }
  let ct := t.ctx h
  let spec := t.isSpec ct
  let base := ct.flight.length
  let ys := left.map fun x =>
    let i := stepInstr b.rpt c.rep x
    (x, i, slotFate t i)
  let late := if c.mid then [] else deferLoads ct spec base ys
  let xs := ys.map fun x => if late.contains x.1.p.index then (x.1, x.2.1, .trap causeIllegal (illegalInfo 21 15)) else x
  let illegal (row slot : Nat) : IssueRes :=
    .other (stopTrap s h causeIllegal 15 c.done c.partBundle (illegalInfo row slot))
  if !c.mid ∧ base + (xs.map (newResults ct spec)).sum > 32 then
    .other (stopTrapAs s h causeIllegal 15 c.done c.partBundle (s.reruns c && left.any fun x => isLoad x.info)
      (illegalInfo 21 15))
  else if own.isSome then illegal 0 (own.getD 0)
  else
    match left.findSome? fun x => (sliceFail ct b.rpt x.i x.info x.p x.f).map fun w => (x, w) with
    | some (x, w) => .other (stopTrap s h causeSliceBound x.p.index c.done c.partBundle w)
    | none =>
      match firstStall xs true with
      | some (x, r) => stallOn s c x r
      | none =>
        match xs.find? fun x => match x.2.2 with | .illegal => true | _ => false with
        | some x => illegal 0 x.1.p.index
        | none =>
          match firstStall xs false with
          | some (x, r) => stallOn s c x r
          | none =>
            match xs.findSome? fun x => match x.2.2 with | .utrap a => some a | _ => none with
            | some a => .other (userTrap s h a)
            | none => runSlots s t c b all xs

/-- The bundle at a context's pc: fetch (spec/03 R88), the stop before its checks (spec/23 R435), its checks, its issue.
The part of a bundle that is left after a stop meets no check of R89 again. -/
def issueBundle (s : State) (c : Ctx) : IssueRes :=
  let h := c.handle
  let lost : IssueRes := .other (fatalNow s h causeFetchRange 15 0 (c.pc.setWidth 64))
  match fetchBytes s c c.pc.toNat 4 with
  | none => lost
  | some hb =>
    match fetchBytes s c c.pc.toNat (bundleLen (BitVec.ofNat 32 (ofBytesLE hb))) with
    | none => lost
    | some bs =>
      match decodeBundle bs with
      | .error _ => lost
      | .ok (b, _) =>
        let all := b.words.filterMap slotIn
        if c.mid then
          if c.done &&& hdrMask b.header = hdrMask b.header then .other (completeRep s h b all (c.partBundle || (c.began.isNone && !c.moved)))
          else issueSlots s c b all none
        else if c.bpSkip ≤ 15 ∧ breaksAt s c.core c.pc 15 then .other (stopDebug s h causeDebugStop 15 0 false 0)
        else
          match reported (headerRows b ++ slotRows b ++ bundleRows b all (decide (c.shl ≠ 0)) c.loops.isEmpty) with
          | some (0, slot) => issueSlots s c b all (some slot)
          | some (row, slot) => .other (stopTrap s h causeIllegal 15 0 false (illegalInfo row slot))
          | none => issueSlots s c b all none

/-- What a ready context does first: a transfer that was left pending at a stop takes place (R84), then its bundle. -/
def issueCtx (s : State) (c : Ctx) : IssueRes :=
  if c.pend ∧ c.shl = 0 ∧ c.rep = 0 ∧ !c.mid then
    let t := transferNow s c
    issueBundle t (t.ctx c.handle)
  else issueBundle s c

/-- The management writes in flight of a core's sequencers are performed when another one issues there (spec/01 R41). -/
def landOthers (s : State) (core h : Nat) : State :=
  (s.ctxs.filter fun d => d.core == core && d.handle != h && d.mgmt.isSome).foldl (fun t d => landMgmt t d.handle) s

/-- A core issues (BUNDLE_ISSUE): while its clock is stopped nothing happens (spec/24 R447); at a bundle boundary the end of
its grid (R253) and a redirection (spec/17 R369) come first; a bwait holds its core until its episode completes (spec/05
R122). -/
def issueOn (s0 : State) (core : Nat) : IssueRes :=
  let s' : State := { s0 with cur := core }
  match pick s' core with
  | none => .idle (note (s'.setCore core { s'.core core with cur := none }) core false 0 15 8)
  | some c =>
    let s1 := landOthers s' core c.handle
    if (s1.island core).stage = 2 then .idle s1
    else
      let s := s1.setCore core { s1.core core with cur := some c.handle }
      match c.killCause with
      | some k =>
        if (c.rep = 0 ∧ !c.mid) ∨ c.stallTok then .other (killContext s c.handle k) else issueCtx s c
      | none =>
        match c.barWait with
        | some w =>
          if s.barPassed c.gkey c.gang w then
            let c1 := { c with barWait := none }
            let t := s.setCtx c1
            if c.atSafe then .other (safePoint t c1) else issueCtx t c1
          else .stalled (note s core true c.barPc 0 4)
        | none =>
          if c.redirecting ∧ atBoundary c then .other (redirectCtx s c) else issueCtx s c

/-- BUNDLE_ISSUE (R89). -/
def execBundleIssue (core : Nat) (s : State) : Host.Outcome State Fault Refusal := .next (issueOn s core).state

/-- EMPTY_BUNDLE (R87): the bundle that issues has no slot word. -/
def execEmptyBundle (core : Nat) (s : State) : Host.Outcome State Fault Refusal :=
  match issueOn s core with
  | .issued t true _ => .next t
  | _ => .refused (.notEnabled "EMPTY_BUNDLE")

/-- RESULT_LANDS (R22): the results due at the bundle that is about to issue land. -/
def execResultLands (core : Nat) (s : State) : Host.Outcome State Fault Refusal :=
  match issueOn s core with
  | .issued _ _ _ =>
    (match pick s core with
     | some c =>
       if (c.flight.any (fun x => decide (x.remaining ≤ 1)) ∨ c.mgmt.isSome) ∧ !c.mid then
         .next ((landMgmt s c.handle).modCtx c.handle landDue)
       else .refused (.notEnabled "RESULT_LANDS")
     | none => .refused (.notEnabled "RESULT_LANDS"))
  | _ => .refused (.notEnabled "RESULT_LANDS")

/-- STALL_RELEASE (R32): a bundle that stalled issues, since what it waited for has come. -/
def execStallRelease (core : Nat) (s : State) : Host.Outcome State Fault Refusal :=
  match issueOn s core with
  | .issued t _ _ => if (s.core core).stalled then .next t else .refused (.notEnabled "STALL_RELEASE")
  | _ => .refused (.notEnabled "STALL_RELEASE")

/-- PHASE_COMPLETE (R124): the waits of a phase have ended, and it releases, acquires and advances PHASE. -/
def execPhaseComplete (core : Nat) (s : State) : Host.Outcome State Fault Refusal :=
  match issueOn s core with
  | .issued t _ true => .next t
  | _ => .refused (.notEnabled "PHASE_COMPLETE")

end Sys2Proof.Machine
end

