-- ==== Sys2Proof/Machine/Claims.lean ====
section
/-!
DEFINITION. Ownership claims (spec/22 R432, R433), the reduction engine's histograms, the counters and stall ratios
(spec/23 R439-R442, spec/12 R283, R284), and the passing of time.
-/

namespace Sys2Proof.Machine

open Sys2Proof

/-! ### Claims (R432, R433) -/

/-- The identity of a party that writes registers. -/
def partyId (p : Party) : Nat :=
  match p with
  | .host port fn => 0x4000 + 0x100 * port + fn
  | .supervisor c => 0x8000 + c
  | .gaffer => 0
  | .jeldaeth => 0

/-- Physical functions and supervisors have hypervisor rank; virtual functions are guests. -/
def hyperRank (who : Nat) : Bool := decide (0x8000 ≤ who) || who % 0x100 == 0

/-- A claim. -/
def State.claim (s : State) (r : Nat) : Claim :=
  findD s.claims (fun x => x.res == r) { res := r, held := false, owner := 0, pending := none }

/-- Write a claim. -/
def State.setClaim (s : State) (c : Claim) : State := { s with claims := putBy s.claims (fun x => x.res == c.res) c }

/-- The owner of a resource; host control is held by the holder port's physical function. -/
def State.ownerOf (s : State) (r : Nat) : Option Nat :=
  if r = 0 then (if s.hostIf.valid then some (0x4000 + 0x100 * s.hostIf.holder) else none)
  else if (s.claim r).held then some (s.claim r).owner else none

/-- A party owns a resource. -/
def State.owns (s : State) (who r : Nat) : Bool := s.ownerOf r == some who

/-- PTY_CLAIM reads owner, held, rank and the pending claimant. -/
def claimWord (s : State) (r : Nat) : Word :=
  match s.ownerOf r with
  | none => 0
  | some o =>
    BitVec.ofNat 64 (o % 2 ^ 16 + 2 ^ 16 + (if hyperRank o then 2 ^ 17 else 0) +
      (match (s.claim r).pending with | some p => 2 ^ 18 + p % 2 ^ 16 * 2 ^ 32 | none => 0))

/-- A trace unit loses its owner (spec/23 R437). -/
def claimLost (s : State) (r : Nat) : State := if 72 ≤ r ∧ r < 136 then debugRelease s (r - 72) else s

/-- A resource goes to a party. -/
def grantClaim (s : State) (r who : Nat) : State :=
  s.setClaim { res := r, held := true, owner := who, pending := none }

/-- A pending claim is granted (CLAIM_GRANT_PENDING). -/
def grantPending (s : State) (r : Nat) : State :=
  match (s.claim r).pending with
  | some p => grantClaim (claimLost s r) r p
  | none => s

/-- The cluster whose sampling windows a resource waits for. -/
def claimCluster (r : Nat) : Option Nat := if 8 ≤ r ∧ r < 72 then some (r - 8) else if 72 ≤ r ∧ r < 136 then some (r - 72) else none

/-- A cluster's sampling windows run (spec/23 R439). -/
def histOn (s : State) (cl : Nat) : Bool := (s.reg (redReg cl 0)).getLsbD 0

/-- Of two claims of one instant a party's goes before another's: by hypervisor rank, then by the lower identity (R433). -/
def claimFirst (who other : Nat) : Bool :=
  if hyperRank who = hyperRank other then decide (who < other) else hyperRank who

/-- A claim operation of a party counts: a port that does not hold the lease writes nothing (R426), and no register of the claims
responds in recovery mode (spec/26 R457). -/
def partyCounts (s : State) (who : Nat) : Bool :=
  s.boot == .running && (!(decide (0x4000 ≤ who) && decide (who < 0x4200)) || s.hostIf.valid && s.hostIf.holder == who / 0x100 % 2)

/-- CLAIM (R433): a free resource is granted at once, and a claim of the same instant that goes first takes it.
DEDUCED, log entry 49. -/
def execClaim (res who : Nat) (s : State) : Host.Outcome State Fault Refusal :=
  if res = 0 ∨ res ≥ 136 ∨ !partyCounts s who then .next s
  else
    let c := s.claim res
    let grant (t : State) : State := (grantClaim t res who).setClaim { (grantClaim t res who).claim res with since := some s.nowPs }
    if !c.held then .next (grant s)
    else if c.since = some s.nowPs ∧ claimFirst who c.owner then .next (grant (claimLost s res))
    else if c.owner = who ∨ !hyperRank who ∨ hyperRank c.owner then .next s
    else match claimCluster res with
      | none => .next (grantClaim s res who)
      | some cl =>
        if c.pending.isSome then .next s
        else if histOn s cl then .next (s.setClaim { c with pending := some who })
        else .next (grantClaim (claimLost s res) res who)

/-- A resource becomes free, or goes to the claimant that waits for it. -/
def freeClaim (s : State) (r : Nat) : State :=
  let c := s.claim r
  if c.pending.isSome then grantPending s r
  else (claimLost s r).setClaim { c with held := false, owner := 0, since := none }

/-- CLAIM_RELEASE (R433). -/
def execClaimRelease (res who : Nat) (s : State) : Host.Outcome State Fault Refusal :=
  if res ≠ 0 ∧ s.owns who res ∧ partyCounts s who then .next (freeClaim s res) else .next s

/-- CLAIM_HANDOVER (R433). -/
def execClaimHandover (res who target : Nat) (s : State) : Host.Outcome State Fault Refusal :=
  if res ≠ 0 ∧ s.owns who res ∧ partyCounts s who then
    let c := s.claim res
    .next (s.setClaim { c with owner := target, since := none, pending := if c.pending = some target then none else c.pending })
  else .next s

/-! ### Counters (R440, spec/12 R283) -/

/-- Cycles of a core's island clock in the `n` steps from step `a`. -/
def cyclesFrom (core a : Nat) : Nat → Nat
  | 0 => 0
  | n + 1 => cyclesFrom core a n + Config.cycles (a + n) core

/-- Cycles of a core's island clock since the part's last reset. -/
def coreCycles (s : State) (core : Nat) : Nat := cyclesFrom core s.bootStep (s.stepNo - s.bootStep)

/-- A counter's value. Counters 0 and 3, which run while nothing happens, are kept relative to the core's cycles. -/
def counterValue (s : State) (core k : Nat) : Word :=
  let v := (s.core core).counters[k]?.getD 0
  if k = 0 ∨ k = 3 then v + BitVec.ofNat 64 (coreCycles s core) else v

/-- A write sets a counter's value. -/
def setCounter (s : State) (core k : Nat) (v : Word) : State :=
  let c := s.core core
  let w := if k = 0 ∨ k = 3 then v - BitVec.ofNat 64 (coreCycles s core) else v
  s.setCore core { c with counters := c.counters.setIfInBounds k w }

/-- The class of a cycle in which a routine has come to a micro-op, as its counter (R283): 4 COMPUTE, 5 DRAIN, 6 WEIGHT, 7 AWAIT. -/
def uopClass (r : EngineRun) (i : Option Instr) : Nat :=
  match i with
  | some (.uopMma _ _) => if r.drains = [] then 4 else 5
  | some (.uopDrn _ _) | some (.uopAclr _ _) | some (.uopMsk _ _) => 5
  | some (.uopLdw _ _) => if r.drains = [] then 6 else 5
  | _ => if r.drains = [] then 7 else 5

/-- A co-operative routine waits for the episode of its arrival (spec/12 R272). -/
def coopHeld (s : State) (x : Cmd) : Bool :=
  match coopWaits s x with
  | some w => !s.barPassed x.gkey (s.ctx x.ctx).gang w.2
  | none => false

/-- The matrix-engine command that runs on a core. -/
def runningMq (s : State) (core : Nat) : Option Cmd := s.cmds.find? fun x => x.core == core && x.queue == .mq && x.started

/-- The cycles of each class, by its counter, among the next `n` matrix-engine cycles of a running command (R283): a ROM routine's as
its schedule gives them (R263), further ones being stalls; a writable one's as the micro-op that it has come to.
DEDUCED, log entry 61. -/
def matrixShares (s : State) (x : Cmd) (n : Nat) : List (Nat × Nat) :=
  match x.instr with
  | .adrain _ _ | .accst _ _ | .aclr _ _ => [(5, n)]
  | .mload _ _ | .smcopy _ _ | .accld _ _ => [(6, n)]
  | _ =>
    if x.arg 0 < 32 then
      if coopHeld s x then [(7, n)]
      else
        let k := callCtx s x
        let a := romSums k (x.arg 0 / 4) x.count
        let b := romSums k (x.arg 0 / 4) (x.count + n)
        let c := b.1 - a.1
        let d := b.2.1 - a.2.1
        let w := b.2.2 - a.2.2
        [(4, c), (5, d), (6, w), (7, n - c - d - w)]
    else match (s.core x.core).run with
      | some r => [(uopClass r (((s.core x.core).store.find? fun y => y.index == r.index).bind fun y =>
          (y.ops[r.upc]?).bind (uopOf x.core)), n)]
      | none => [(7, n)]

/-- A ROM routine has gone on by some cycles of its schedule. -/
def romGoesOn (s : State) (x : Cmd) (n : Nat) : State :=
  match x.instr with
  | .mcall _ _ => if x.arg 0 < 32 ∧ !coopHeld s x then s.setCmd { x with count := x.count + n } else s
  | _ => s

/-- Add to a key of a histogram, or count a dropped sample (R439). -/
def histAdd (r : RedBlock) (addr slot reason n : Nat) : RedBlock :=
  if r.hist.any fun e => e.1 == addr && e.2.1 == slot && e.2.2.1 == reason then
    { r with hist := r.hist.map fun e =>
        if e.1 = addr ∧ e.2.1 = slot ∧ e.2.2.1 = reason then (addr, slot, reason, e.2.2.2 + n) else e }
  else if r.hist.length < 1023 then { r with hist := r.hist ++ [(addr, slot, reason, n)] }
  else { r with dropped := r.dropped + n }

/-- A core's counters and exact charges over some cycles in which its clock runs (R439, R440, spec/25 R451). -/
def chargeCore (s : State) (core n : Nat) : State :=
  let c := s.core core
  let up (v : Vector Word 8) (k m : Nat) : Vector Word 8 := v.setIfInBounds k (v[k]?.getD 0 + BitVec.ofNat 64 m)
  let v1 := if c.stalled then up c.counters 2 n else c.counters
  let st := c.winStall + (if c.stalled then n else 0)
  match runningMq s core with
  | none => s.setCore core { c with counters := v1, winStall := st }
  | some x =>
    let shares := (matrixShares s x n).filter fun m => m.2 != 0
    let s1 := (romGoesOn s x n).setCore core { c with
      counters := (shares.foldl (fun v m => up v m.1 m.2) v1).setIfInBounds 3 (v1[3] - BitVec.ofNat 64 n)
      winStall := st
      winComp := c.winComp + ((shares.filter fun m => m.1 == 4).map (·.2)).sum }
    let cl := clusterOf core
    if histOn s cl then
      s1.setRed (shares.foldl (fun r m => histAdd r x.pc.toNat 7 (16 + (m.1 - 4)) m.2) (s1.red cl))
    else s1

/-- While a core's clock is stopped none of its counters advances, and no cycle of its window passes (spec/25 R451):
the counters that run by themselves give back the cycles that their core's count takes in. -/
def holdCounters (s : State) (core n : Nat) : State :=
  let c := s.core core
  s.setCore core { c with
    counters := (c.counters.setIfInBounds 0 (c.counters[0] - BitVec.ofNat 64 n)).setIfInBounds 3
      (c.counters[3] - BitVec.ofNat 64 n)
    winHeld := c.winHeld + n }

/-- Some cycles of a core pass. -/
def passCycles (s : State) (core n : Nat) : State :=
  if n = 0 then s else if s.clockStopped core then holdCounters s core n else chargeCore s core n

/-- A core's 10 µs window has ended (R441). -/
def closeWindow (s : State) (core : Nat) : State :=
  let c := s.core core
  s.setCore core { c with doneStall := c.winStall, doneComp := c.winComp, doneHeld := c.winHeld,
                          winStall := 0, winComp := 0, winHeld := 0 }

/-- The cycles of a core in a step that pass before the last boundary of windows in it (log entry 2). -/
def cyclesToCut (stepNo core : Nat) : Nat := min (Config.cyclesBefore stepNo core) (Config.cycles stepNo core)

/-- Those of them that pass after the boundary before that one, where it is in the step too. -/
def cyclesInLast (stepNo core : Nat) : Nat := min (Config.cyclesBetween stepNo core) (cyclesToCut stepNo core)

/-- A step's cycles pass on a core, in the course of which `k` boundaries of windows pass. -/
def passStep (s : State) (k core : Nat) : State :=
  let n := Config.cycles s.stepNo core
  let a := cyclesToCut s.stepNo core
  let b := cyclesInLast s.stepNo core
  if k = 0 then passCycles s core n
  else if k = 1 then passCycles (closeWindow (passCycles s core a) core) core (n - a)
  else passCycles (closeWindow (passCycles (closeWindow (passCycles s core (a - b)) core) core b) core) core (n - a)

/-- A step of the model has passed (log entry 2): time goes on, and with it the counters of every core. -/
def advance (s : State) : State :=
  let t := s.nowPs + 1000 * Config.elapsed s.stepNo
  let k := t / 10000000 - s.winNo
  let stopped := (s.islands.filter fun x => x.2.stage == 2).map (·.1)
  let s1 := tickDomains (((s.cores.map (·.1)) ++ stopped).eraseDups.foldl (fun t i => passStep t k i) s)
  { s1 with
    nowPs := t, stepNo := s.stepNo + 1
    winNo := t / 10000000
    winStep := if k = 0 then s.winStep else s.stepNo
    winPrev := if k = 0 then s.winPrev else if k = 1 then s.winStep else s.stepNo }

/-- The cycles of a core in the last complete window (R441). -/
def windowCycles (s : State) (core : Nat) : Nat :=
  if s.winPrev = s.winStep then cyclesInLast s.winStep core
  else cyclesFrom core s.winPrev (s.winStep - s.winPrev) - cyclesToCut s.winPrev core + cyclesToCut s.winStep core

/-! ### Histograms (R439) -/

/-- The sampling period in ns. -/
def histPeriod (s : State) (cl : Nat) : Nat := max 100 (min 1000000 (s.reg (redReg cl 8)).toNat)

/-- The window length in periods. -/
def histLength (s : State) (cl : Nat) : Nat := max 1 ((s.reg (redReg cl 0)).extractLsb' 16 16).toNat

/-- What a core gives a sample: the bundle that it issues or that stalls it, or none where no sequencer on it is ready. -/
def coreSample (s : State) (core : Nat) : Nat × Nat × Nat :=
  if s.ctxs.any fun c => c.core == core && c.status == .ready then (s.core core).samp else (0, 15, 8)

/-- HIST_SAMPLE (R439): at the end of a sampling period every core of the cluster is sampled. -/
def execHistSample (cluster : Nat) (s : State) : Host.Outcome State Fault Refusal :=
  let r := s.red cluster
  if !histOn s cluster ∨ r.samples ≥ histLength s cluster ∨ s.now < r.winStart + (r.samples + 1) * histPeriod s cluster then
    .refused (.notEnabled "HIST_SAMPLE")
  else
    let r1 := (List.range 8).foldl (fun (a : RedBlock) i =>
      let k := coreSample s (cluster * 8 + i)
      histAdd a k.1 k.2.1 k.2.2 1) r
    .next (s.setRed { r1 with samples := r.samples + 1 })

/-- A histogram's bytes: head, entries, a zero entry. -/
def histBytes (r : RedBlock) : List Byte :=
  toBytesLE 8 r.winIndex ++ toBytesLE 8 r.winStart ++
  (r.hist.flatMap fun e => toBytesLE 8 (e.1 % 2 ^ 32 + e.2.1 % 16 * 2 ^ 32 + e.2.2.1 % 32 * 2 ^ 36) ++ toBytesLE 8 e.2.2.2) ++
  List.replicate 16 0

/-- HIST_WINDOW_END (R439, R433): the window's table is written and cleared, and a claim that waits for the boundary is
granted. -/
def execHistWindowEnd (cluster : Nat) (s : State) : Host.Outcome State Fault Refusal :=
  let r := s.red cluster
  if !histOn s cluster ∨ r.samples < histLength s cluster then .refused (.notEnabled "HIST_WINDOW_END")
  else
    let base := (s.reg (redReg cluster 0x10)).toNat / 2 ^ 15 * 2 ^ 15 + 0x4000 * (r.winIndex % 2)
    let s1 := agentWrite s (vaultBase + base) (histBytes r)
    let sts := (s1.reg (redReg cluster 0x18)).toNat
    let s2 := s1.setReg (redReg cluster 0x18)
      (BitVec.ofNat 64 ((sts % 2 ^ 32 + 1) % 2 ^ 32 + min r.dropped 0xFFFF * 2 ^ 32))
    let s3 := s2.setRed { r with
      hist := [], samples := 0, dropped := 0, winIndex := r.winIndex + 1
      winStart := r.winStart + histLength s cluster * histPeriod s cluster }
    .next (grantPending (grantPending s3 (8 + cluster)) (72 + cluster))

/-- A ratio in units of 2⁻¹⁶ (R441). -/
def ratio16 (a b : Nat) : Nat := if b = 0 then 0 else if a ≥ b then 0xFFFF else a * 2 ^ 16 / b

/-- STALL_RATIO_WINDOW (R441): at the end of a 10 µs window the core's ratios change together, to those of the window that has
ended, with its number. -/
def execStallRatioWindow (core : Nat) (s : State) : Host.Outcome State Fault Refusal :=
  let a : RegAddr := ⟨.red, clusterOf core, 0x300 + 8 * (core % 8)⟩
  let w := s.winNo - 1
  if s.winNo = 0 ∨ ((s.reg a).toNat / 2 ^ 32 % 2 ^ 32 = w % 2 ^ 32 ∧ s.reg a ≠ 0) then
    .refused (.notEnabled "STALL_RATIO_WINDOW")
  else
    let c := s.core core
    let n := windowCycles s core - c.doneHeld
    .next (s.setReg a (BitVec.ofNat 64
      (ratio16 c.doneStall n + ratio16 c.doneComp n * 2 ^ 16 + w % 2 ^ 32 * 2 ^ 32)))

/-! ### Latched counter reads (R442) -/

/-- A counter's index in a latch. DEDUCED, log entry 49. -/
def counterIndex (core k : Nat) : Nat := 8 * (core % 8) + k

/-- COUNTER_LOW_READ (R442): a function's read of a low half sets its latch in the same step. -/
def execCounterLowRead (fn core k : Nat) (s : State) : Host.Outcome State Fault Refusal :=
  let v := (counterValue s core k).toNat
  let latch : Word := BitVec.ofNat 64 (v / 2 ^ 32 + counterIndex core k % 128 * 2 ^ 32 + 2 ^ 39)
  .next (s.whenUp { s with latches := tabSet s.latches fn latch, busRead := BitVec.ofNat 64 (v % 2 ^ 32) })

/-- COUNTER_HIGH_READ (R442). -/
def execCounterHighRead (fn core k : Nat) (s : State) : Host.Outcome State Fault Refusal :=
  let l := (tabGet? s.latches fn).getD 0
  if l.getLsbD 39 ∧ (l.extractLsb' 32 7).toNat = counterIndex core k % 128 then
    .next (s.whenUp { s with latches := tabSet s.latches fn (l &&& ~~~(BitVec.ofNat 64 (2 ^ 39))), busRead := l &&& 0xFFFFFFFF })
  else .next (s.whenUp { s with busRead := BitVec.ofNat 64 ((counterValue s core k).toNat / 2 ^ 32) })

end Sys2Proof.Machine
end

