-- ==== Sys2Proof/Machine/Admit.lean ====
section
/-!
DEFINITION. Admission, closing, forcing and suspension of sessions (spec/19 R390-R396, R463, R464; spec/22 R430), and the
submission ring's enabling (R381).
-/

namespace Sys2Proof.Machine

open Sys2Proof

/-! ### Checks of the entry and its templates (R393, R463) -/

/-- The unlisted bits of an entry are zero (R390). -/
def entryZero (x : Session) : Bool :=
  let z (word lsb w : Nat) : Bool := x.field word lsb w == 0
  z 0 2 6 && z 0 14 2 && z 0 18 6 && z 0 30 2 && z 0 35 5 && z 0 46 2 && z 0 52 12 && z 8 14 18 && z 8 48 16 && z 9 5 59 &&
  (List.range 5).all fun i => z (11 + i) 0 64

/-- The numeric limits of the BAD_ENTRY row. -/
def entryLimits (s : State) (x : Session) : Bool :=
  let f := x.field
  let prim := f 9 0 2
  f 3 0 32 != 0 && f 5 0 32 != 0 && f 3 32 32 != 0 && f 5 32 32 != 0 && decide (f 3 32 32 ≤ f 3 0 32) &&
  decide (f 5 32 32 ≤ f 5 0 32) && decide (f 4 0 32 ≤ f 3 32 32) && decide (f 4 32 32 ≤ f 4 0 32) &&
  decide (f 6 0 32 ≤ f 5 32 32) && decide (f 3 32 32 ≤ f 6 32 32) && decide (f 0 40 6 ≤ 32) && decide (1 ≤ f 8 0 14) &&
  decide (f 8 0 14 ≤ 8192) && partOfDie s.prtCfg prim == x.part

/-- One template's descriptor and header, or the reason of its refusal: an image's own code, else BAD_ENTRY. -/
def checkTemplate (s : State) (part : Nat) (kind : GridKind) (a : Nat) : Except Nat (Desc × KHeader) :=
  match iaRead s part a 128 with
  | none => .error rcBadEntry
  | some bs =>
    let d := parseDesc bs
    let e := argEndOf kind d
    if !descZero bs then .error rcBadEntry
    else match checkImage s part d e with
      | .error r => .error r
      | .ok h =>
        if !descOk d h e then .error rcBadEntry
        else match readRanges s part d.ranges with
          | none => .error rcBadEntry
          | some rs => if rs.all (rangeOk part) then .ok (d, h) else .error rcBadEntry

/-- What the lane checks need of a template (R464). -/
def needOf (y : Desc × KHeader) : Nat × Nat × Bool := (y.1.members, y.2.resBanks, y.2.ordered && y.1.domN != 0)

/-! ### Wheel positions and vault (R302, R393) -/

/-- A wheel position's register. -/
def wheelReg (stack ch p : Nat) : RegAddr := ⟨.mrv, stack, 128 * ch + 4 * p⟩

/-- Free positions of a channel, ascending. -/
def freePos (s : State) (stack ch : Nat) : List Nat :=
  (List.range 32).filter fun p => s.reg (wheelReg stack ch p) == 0x1FFF

/-- The channels of a partition. -/
def partChans (part : Nat) : List (Nat × Nat) :=
  ((List.range 8).filter (partHasStack part)).flatMap fun st => (List.range 32).map fun ch => (st, ch)

/-- Assign a session's positions on every channel. -/
def takePositions (s : State) (part session n : Nat) : State :=
  (partChans part).foldl (fun t c => ((freePos s c.1 c.2).take n).foldl
    (fun u p => u.setReg (wheelReg c.1 c.2 p) (BitVec.ofNat 64 session)) t) s

/-- Return a session's positions. -/
def dropPositions (s : State) (part session : Nat) : State :=
  (partChans part).foldl (fun t c => ((List.range 32).filter fun p => s.reg (wheelReg c.1 c.2 p) == BitVec.ofNat 64 session).foldl
    (fun u p => u.setReg (wheelReg c.1 c.2 p) 0x1FFF) t) s

/-- Units of 64 KiB that a partition's sessions have reserved. -/
def vaultUsed (s : State) (part : Nat) : Nat :=
  ((s.sessions.filter fun x => x.part == part && x.holds).map (·.reserved)).sum

/-! ### Lanes (R391-R393, R464) -/

/-- The sessions that hold a lane. -/
def laneSessions (s : State) (part base width : Nat) : List Session :=
  s.sessions.filter fun x => x.part == part && x.holds && x.laneBase == base && x.width == width

/-- The candidate lanes of a width, as first cores: existing ones, then empty ones, each ascending. -/
def laneCandidates (s : State) (part width : Nat) : List Nat :=
  let all := ((List.range 64).filter (partHas part)).flatMap fun cl => (List.range (8 / width)).map fun i => cl * 8 + i * width
  let used (b : Nat) : Bool := s.sessions.any fun x => x.part == part && x.holds && decide (x.laneBase < b + width) &&
    decide (b < x.laneBase + x.width)
  (all.filter fun b => !(laneSessions s part b width).isEmpty) ++ all.filter fun b => !used b

/-- Members that round-robin placement puts on core `i` of a lane. -/
def membersOn (m width i : Nat) : Nat := m / width + (if i < m % width then 1 else 0)

/-- The density of a stream (R392). -/
def density (e d : Nat) : Nat := if d = 0 then 0 else (2 ^ 20 * e + d - 1) / d

/-- S_L of some sessions. -/
def blockOf (s : State) (part : Nat) (xs : List Session) : Nat :=
  (xs.map (·.minSlice)).foldl max (s.reg (gafReg part 0x10)).toNat

/-- The action sum, the reasoning sum and the blocking term of the sessions of a lane (R392). -/
def laneSums (s : State) (part : Nat) (xs : List Session) : Nat × Nat × Nat :=
  let sl := blockOf s part xs
  let rh := (s.reg (gafReg part 0x18)).toNat
  let e (x : Session) (c : Nat) : Nat := c + sl + 648 * x.th + rh
  let ds := xs.flatMap fun x => [x.field 3 32 32, x.field 5 32 32]
  ((xs.map fun x => density (e x (x.field 4 0 32)) (x.field 3 32 32)).sum,
   (xs.map fun x => density (e x (x.field 6 0 32)) (x.field 5 32 32)).sum,
   match ds with | [] => 0 | d :: l => density sl (l.foldl min d))

/-- A lane takes a candidate, or the reason why not. -/
def laneRefusal (s : State) (x : Session) (safedist : Nat) (base : Nat) : Option Nat :=
  let w := x.width
  let xs := x :: (laneSessions s x.part base w)
  let cap := s.reg (gafReg x.part 8)
  let sums := laneSums s x.part xs
  let needs := xs.flatMap (·.needs)
  let limit := if needs.any (·.2.2) then 44 else 48
  if x.needs.any fun n => decide (membersOn n.1 w 0 > 8) then some rcNoLane
  else if (List.range w).any fun i => decide ((needs.map fun n => n.2.1 * membersOn n.1 w i).sum > limit) then some rcBanks
  else if safedist > min 4096 (s.reg (gafReg x.part 0x20)).toNat then some rcSafepoint
  else if sums.1 > 1024 * (cap.extractLsb' 0 11).toNat then some rcUtilAct
  else if sums.2.1 > 1024 * (cap.extractLsb' 16 11).toNat then some rcUtilRea
  else if sums.1 + sums.2.1 + sums.2.2 > 1024 * (cap.extractLsb' 32 11).toNat then some rcUtilTotal
  else none

/-- The first lane that takes a candidate, or the reason of the lowest one. -/
def chooseLane (s : State) (x : Session) (safedist : Nat) : Except Nat Nat :=
  let cs := laneCandidates s x.part x.width
  match cs.find? fun b => (laneRefusal s x safedist b).isNone with
  | some b => .ok b
  | none => match cs with
    | [] => .error rcNoLane
    | b :: bs => .error ((laneRefusal s x safedist (bs.foldl min b)).getD rcNoLane)

/-! ### The commands of GAF_SES_CMD -/

/-- The selected session's number. -/
def sesSel (s : State) (part : Nat) : Nat := (s.reg (gafReg part 0x48)).toNat % 4096

/-- GAF_SES_STS after a command. -/
def sesStatus (s : State) (part result reason : Nat) : State := cmdStatus s (gafReg part 0xD8) result reason

/-- Admit a session, or say why not (R393). DEDUCED, log entry 48. -/
def admitSession (s : State) (x : Session) : Except Nat State :=
  if x.state ≠ 0 ∨ (s.part x.part).resetting then .error rcBusy
  else if !entryZero x ∨ !entryLimits s x then .error rcBadEntry
  else match checkTemplate s x.part .action ((x.words[1]?).getD 0).toNat,
      checkTemplate s x.part .reasoning ((x.words[2]?).getD 0).toNat with
    | .error r, _ => .error r
    | _, .error r => .error r
    | .ok a, .ok b =>
      let n := x.field 0 40 6
      if (partChans x.part).any fun c => decide ((freePos s c.1 c.2).length < n) then .error rcSlots
      else if vaultUsed s x.part + x.field 8 32 16 > 2048 * 16 * partDies x.part then .error rcVault
      else
        let y : Session := { part := x.part, index := x.index, words := x.words, needs := [needOf a, needOf b],
                             minSlice := max (minSlice a.2) (minSlice b.2), reserved := x.field 8 32 16 }
        match chooseLane s y (max a.2.safedist b.2.safedist) with
        | .error r => .error r
        | .ok base =>
          let z := { y with
            state := 1, laneCluster := base / 8, laneCore := base % 8, activeAt := s.now
            hostForced := !s.hostIf.valid, level := if s.hostIf.valid then 0 else 3 }
          .ok ((takePositions s x.part x.index n).setSession (refreshCopies s z))

/-- What admission reads of the templates of an entry (R463, spec/13 R292). -/
def touchTemplates (s : State) (x : Session) : State :=
  [1, 2].foldl (fun t n =>
    let a := ((x.words[n]?).getD 0).toNat
    let t1 := gafTouch t x.part [(a, 128)]
    match iaRead s x.part a 128 with
    | some bs => gafTouch t1 x.part [((parseDesc bs).image, 32), ((parseDesc bs).ranges, 512)]
    | none => t1) s

/-- SESSION_ADMIT (R393 op 1). -/
def execSessionAdmit (part : Nat) (s : State) : Host.Outcome State Fault Refusal :=
  let x := s.session part (sesSel s part)
  let t0 := if x.state = 0 ∧ !(s.part part).resetting ∧ entryZero x ∧ entryLimits s x then touchTemplates s x else s
  .next (s.whenUp (match admitSession t0 x with
    | .ok t => sesStatus t part 0 0
    | .error r => sesStatus t0 part 1 r))

/-- The jobs of a session that stand ready and have never been placed are dropped (R394). -/
def dropWaiting (s : State) (x : Session) : State :=
  (s.grids.filter fun g => g.isJob && g.part == x.part && g.session == x.index && g.status == .ready &&
      !s.ctxs.any fun c => c.gkey == g.key).foldl
    (fun t g => (freeGrid t g).setGrid { g with status := .ended, complete := true }) s

/-- An entry becomes FREE: its positions, lane share and vault reservation are returned, none of its jobs waits any more, and its
jobs are those of an earlier admission (spec/20 R411, R412). -/
def freeSession (s0 : State) (x : Session) : State :=
  let s1 := dropWaiting s0 x
  let s : State := { s1 with grids := s1.grids.map fun g =>
    if g.isJob ∧ g.part = x.part ∧ g.session = x.index then { g with past := true } else g }
  (dropPositions s x.part x.index).setSession { part := x.part, index := x.index, words := x.words, misses := x.misses }

/-- SESSION_CLOSE (R393 op 2, R394). -/
def execSessionClose (part : Nat) (s : State) : Host.Outcome State Fault Refusal :=
  let x := s.session part (sesSel s part)
  let t := if x.state = 1 then s.setSession { x with state := 2 } else if x.state = 3 then freeSession s x else s
  .next (s.whenUp (sesStatus { t with jobs := t.jobs.filter fun j => !(j.part == part && j.session == x.index) } part 0 0))

/-- SESSION_CLOSE_DONE (R393): the last running job of a closing session has ended. -/
def execSessionCloseDone (part session : Nat) (s : State) : Host.Outcome State Fault Refusal :=
  let x := s.session part session
  let busy := s.grids.any fun g => g.isJob && g.part == part && g.session == session && g.status == .ready
  if x.state ≠ 2 ∨ busy then .refused (.notEnabled "SESSION_CLOSE_DONE") else .next (freeSession s x)

/-- SESSION_FORCE_LEVEL (R396, R394 op 3): the level becomes the forced one at once, or, while an ACTIVE session is forced to L3
for want of a host, when that force ends (spec/22 R430). -/
def execSessionForceLevel (part level : Nat) (s : State) : Host.Outcome State Fault Refusal :=
  let x := s.session part (sesSel s part)
  if x.state = 0 then .next (s.whenUp (sesStatus s part 0 0))
  else
    let l := if x.hostForced ∧ x.state ≠ 3 then 3 else level % 4
    .next (s.whenUp (sesStatus (enterLevel s { x with forced := true, forcedLevel := level % 4 } l) part 0 0))

/-- SESSION_FORCE_RELEASE (R396): the level stands until the next evaluation. -/
def execSessionForceRelease (part : Nat) (s : State) : Host.Outcome State Fault Refusal :=
  let x := s.session part (sesSel s part)
  if x.state = 0 then .next (s.whenUp (sesStatus s part 0 0))
  else .next (s.whenUp (sesStatus (s.setSession { x with forced := false }) part 0 0))

/-- SESSION_SUSPEND (spec/22 R430): 64 periods after the lapse, without a host, an ACTIVE session is suspended.
DEDUCED, log entry 48. -/
def execSessionSuspend (part session : Nat) (s : State) : Host.Outcome State Fault Refusal :=
  let x := s.session part session
  if x.state ≠ 1 ∨ s.hostIf.valid ∨ s.now < max s.hostIf.lapsedAt x.activeAt + 64 * x.field 3 0 32 then
    .refused (.notEnabled "SESSION_SUSPEND")
  else
    let t := s.setSession { x with state := 3 }
    .next { t with jobs := t.jobs.filter fun j => !(j.part == part && j.session == session) }

/-- A write of GAF_DSQ_CTL (R399): setting enable from 0 to 1 zeroes both index words and clears the overrun. -/
def dsqWrite (s : State) (part : Nat) (v : Word) : State :=
  let a := gafReg part 0x38
  let old := s.reg a
  let log := max 5 (min 12 (v.toNat % 16))
  let fresh := v.getLsbD 8 && !old.getLsbD 8
  let ovr := if old.getLsbD 9 ∧ !fresh then 512 else 0
  let s1 := s.setReg a (BitVec.ofNat 64 (log + (if v.getLsbD 8 then 256 else 0) + ovr))
  if fresh then
    let base := vaultBase + (s.reg (gafReg part 0x30)).toNat
    (agentStore (agentStore s1 base 8 0) (base + 8) 8 0).setReg (gafReg part 0x40) 0
  else s1

/-- DSQ_ENABLE (R381, R399). -/
def execDsqEnable (part : Nat) (value : Word) (s : State) : Host.Outcome State Fault Refusal :=
  .next (s.whenUp (dsqWrite s part value))

end Sys2Proof.Machine
end

