-- ==== Sys2Proof/Machine/Endpoint.lean ====
section
/-!
DEFINITION. The base-die endpoint: tokens, scheduled emission, mirroring and fail-over, and the time unit (spec/20).
-/

namespace Sys2Proof.Machine

open Sys2Proof

/-! ### Entries (R401) -/

/-- The endpoint's entry of a session. -/
def State.ep (s : State) (session : Nat) : EpSession := findD s.eps (fun x => x.session == session) { session := session }

/-- Write an entry. -/
def State.setEp (s : State) (x : EpSession) : State := { s with eps := putBy s.eps (fun y => y.session == x.session) x }

/-- A field of an entry's word. -/
def EpSession.field (x : EpSession) (word lsb w : Nat) : Nat := ((x.words[word]?).getD 0).toNat / 2 ^ lsb % 2 ^ w

/-- The Gaffer entry that names a session's primary die: the one with fail-over enabled, else the one of the lowest
partition, among entries that are not FREE (R401, R412). DEDUCED, log entry 48. -/
def primaryOf (s : State) (session : Nat) : Option Session :=
  let xs := (List.range 7).filterMap fun p => (s.session? p session).filter fun x => x.holds && partPresent s.prtCfg p
  match xs.find? fun x => x.field 9 4 1 == 1 with
  | some x => some x
  | none => xs.head?

/-- The session's stream has moved to the shadow die. -/
def onShadow (e : EpSession) (x : Session) : Bool := x.field 9 4 1 == 1 && e.field 0 1 1 == 1

/-- The partition of the active die. -/
def activePart (s : State) (e : EpSession) (x : Session) : Nat :=
  partOfDie s.prtCfg (if onShadow e x then x.field 9 2 2 else x.field 9 0 2)

/-! ### Tokens (R402-R405) -/

/-- A byte of a payload. -/
def payloadByte (bs : List Byte) (i : Nat) : Nat := ((bs[i]?).getD 0).toNat

/-- The release of a stream's next job (R404). -/
def releaseOf (capture ingress period : Nat) (valid : Bool) (prev : Option Nat) : Nat :=
  let r := if valid ∧ capture ≤ ingress then capture else ingress
  match prev with | some t => max r (t + period) | none => r

/-- A token is accepted: its slot, the write index, and its job. -/
def acceptToken (s : State) (e : EpSession) (x : Session) (port : Nat) (payload : List Byte) (ring : Word) (base : Nat)
    (wi : Nat) : State :=
  let n := 2 ^ max 5 (min 12 (ring.toNat % 16))
  let z := 2 ^ max 7 (min 13 (ring.toNat / 2 ^ 8 % 16))
  let capture := ofBytesLE (payload.take 8)
  let kind := payloadByte payload 8
  let valid := (payloadByte payload 9).testBit 0
  let job := decide (kind ≤ 1)
  let action := kind == 0
  let r := if action then releaseOf capture s.now (x.field 3 0 32) valid x.prevA
    else releaseOf capture s.now (x.field 5 0 32) valid x.prevR
  let slot := base + 64 + z * (wi % n)
  let info := payload.length % 2 ^ 16 + kind % 256 * 2 ^ 16 + port % 4 * 2 ^ 24 +
    (if payload.length > z - 64 then 2 ^ 26 else 0)
  let head := toBytesLE 8 capture ++ toBytesLE 8 s.now ++ toBytesLE 8 (if job then r else 0) ++ toBytesLE 8 info ++
    List.replicate 32 0
  let s1 := agentStore (agentWrite s slot (head ++ payload.take (z - 64))) base 8 (wi + 1)
  if !job then s1
  else
    let j : Job := { id := s.nextCid, part := x.part, session := x.index, action := action, release := r,
                     tokenAt := slot - vaultBase, number := if action then x.jobsA else x.jobsR, seenAt := s.nowPs }
    let x' := if action then { x with prevA := some r, jobsA := x.jobsA + 1 } else { x with prevR := some r, jobsR := x.jobsR + 1 }
    let s2 := (s1.setSession x').setEp { e with released := e.released + 1 }
    { s2 with jobs := s2.jobs ++ [j], nextCid := s.nextCid + 1 }

/-- TOKEN_ARRIVAL (R403-R405): a token is written into its ring and releases its job, or is discarded, or is refused when
the ring is full; a message longer than the endpoint supports is refused and counted (R400). -/
def execTokenArrival (session port : Nat) (payload : List Byte) (s : State) : Host.Outcome State Fault Refusal :=
  if session ≥ 4096 ∨ port ≥ 4 ∨ s.boot ≠ .running then .refused (.notEnabled "TOKEN_ARRIVAL")
  else if payload.length > 9000 then .next ((s.bumpReg ⟨.uep, 0, 0x50⟩ 1).output (.nack session))
  else
    let e := s.ep session
    let gone : Host.Outcome State Fault Refusal := .next (s.setEp { e with discarded := e.discarded + 1 })
    match primaryOf s session with
    | none => gone
    | some p =>
      let part := activePart s e p
      let x := s.session part session
      if e.field 0 0 1 = 0 ∨ x.state ≠ 1 ∨ (s.part part).resetting then gone
      else
        let ring := (e.words[if onShadow e p then 4 else 3]?).getD 0
        let base := vaultBase + ring.toNat / 2 ^ 12 * 2 ^ 12
        let wi := s.load base 8
        if wi - s.load (base + 8) 8 ≥ 2 ^ max 5 (min 12 (ring.toNat % 16)) then
          .next ((s.setEp { e with full := e.full + 1 }).output (.nack session))
        else .next (acceptToken s e x port payload ring base wi)

/-- UNSUPPORTED_PACKET (R400, R409): a packet that uses an unsupported part of the semantic sublayer is negatively acknowledged,
another is dropped, and each is counted. -/
def execUnsupportedPacket (packet : BadPacket) (s : State) : Host.Outcome State Fault Refusal :=
  if packet.port ≥ 4 then .refused (.notEnabled "UNSUPPORTED_PACKET")
  else
    let t := s.bumpReg ⟨.uep, 0, 0x50⟩ 1
    .next (if packet.semantic then t.output (.nackPacket packet.port) else t)

/-! ### Emission (R229, R410) -/

/-- The next emission of a port: the least instant, then the least session. -/
def nextChunk (s : State) (port : Nat) : Option Chunk :=
  (s.chunks.filter fun c => c.port == port).foldl (fun a c => match a with
    | none => some c
    | some b => some (if c.instant < b.instant ∨ (c.instant = b.instant ∧ c.session < b.session) then c else b)) none

/-- The peer of a session: the IPv6 address in words 1 and 2 of its entry, the low word first (R401, R410). -/
def EpSession.peer (e : EpSession) : BitVec 128 := (e.words[2]?).getD 0 ++ (e.words[1]?).getD 0

/-- A chunk's job has emitted (R412). -/
def markSent (s : State) (c : Chunk) : State :=
  match s.grid? c.job with
  | some g => s.setGrid { g with sent := true }
  | none => s

/-- A chunk's command ends. -/
def endEmit (s : State) (c : Chunk) (ecode count : Nat) : State :=
  match c.cid.bind s.cmd? with
  | some x => finishCmd s x (ecv ecode 0 count)
  | none => s

/-- An emission of a port comes before a chunk of it: by its instant, then by its session (R410). -/
def emitsFirst (instant session : Nat) (c : Chunk) : Bool :=
  decide (instant < c.instant) || (instant == c.instant && decide (session < c.session))

/-- A hold chunk is due on a chunk's port and comes before it, but is not in the port's queue yet (R410). -/
def holdFirst (s : State) (c : Chunk) : Bool :=
  (s.holds.any fun h => portOf s h.session == c.port && decide (h.instant ≤ s.now) && emitsFirst h.instant h.session c) ||
  s.grids.any fun g => portOf s g.session == c.port && emitsFirst g.emission g.session c &&
    ((heldJob s g.part g.session).map (·.key)) == some g.key

/-- EMISSION_DEPARTURE (R410): the next chunk of a port leaves for its session's peer at the later of its instant and the end of
the one before, or is dropped as LATE when that is more than 20 ns after its instant. A hold chunk that is due takes its place in
the port's queue first. -/
def execEmissionDeparture (port : Nat) (s : State) : Host.Outcome State Fault Refusal :=
  match nextChunk s port with
  | none => .refused (.notEnabled "EMISSION_DEPARTURE")
  | some c =>
    let start := max (c.instant * 1000) (max ((tabGet? s.portFree port).getD 0) c.since)
    let late := c.late || decide (start > c.instant * 1000 + 20000)
    let s0 : State := { s with chunks := s.chunks.filter (· ≠ c) }
    let x := s.session c.part c.session
    if holdFirst s c then .refused (.notEnabled "EMISSION_DEPARTURE")
    else if late then
      if s.nowPs < c.instant * 1000 then .refused (.notEnabled "EMISSION_DEPARTURE")
      else .next (endEmit (countLateChunk s0 c.part c.session port) c ecLate 0)
    else if s.nowPs < start then .refused (.notEnabled "EMISSION_DEPARTURE")
    else
      let stop := start + (c.bytes.length + 148) * 5
      let s1 : State := { s0 with portFree := tabSet s0.portFree port stop }
      let s2 := (markSent (s1.output (.chunk port c.session start (s.ep c.session).peer c.bytes)) c).setSession
        { x with emitted := x.emitted + 1, lastLevel := x.level, lastHold := c.hold }
      .next (endEmit (s2.refresh c.part c.session) c ecOk c.bytes.length)

/-! ### Mirroring and fail-over (R411, R412) -/

/-- MIRROR_COPY (R411): after an action job that ended without a miss, the mirror source is copied into the buffer that is
not current, and the header commits it. Mirrors run in job order, so that one waits for every earlier job that has not ended or
not been mirrored. -/
def execMirrorCopy (gkey : Nat) (s : State) : Host.Outcome State Fault Refusal :=
  match s.grid? gkey with
  | none => .refused (.notEnabled "MIRROR_COPY")
  | some g =>
    let e := s.ep g.session
    let x := s.session g.part g.session
    let mine (h : Grid) : Bool := h.kind == .action && h.part == g.part && h.session == g.session && !h.past
    let ended (h : Grid) : Bool := mine h && h.status == .ended && !h.missed && !h.mirrored
    if !ended g ∨ x.field 9 4 1 = 0 ∨ onShadow e x ∨ (s.part g.part).resetting ∨
        s.grids.any (fun h => mine h && decide (h.jobNo < g.jobNo) && (ended h || h.status == .ready)) then
      .refused (.notEnabled "MIRROR_COPY")
    else
      let src := vaultBase + e.field 5 0 64 / 64 * 64
      let dst := vaultBase + e.field 6 0 64 / 64 * 64
      let len := e.field 7 0 21 / 64 * 64
      let buf := 1 - s.load (dst + 0x10) 8 % 2
      let s1 := agentWrite s (dst + 64 + buf * len) (memGetList s.mem src len)
      let gen := e.generation + 1
      let s2 := agentWrite s1 dst (toBytesLE 8 gen ++ toBytesLE 8 g.jobNo ++ toBytesLE 8 buf ++ List.replicate 40 0)
      .next ((s2.setEp { e with generation := gen }).setGrid { g with mirrored := true })

/-- Two dies lie in different quarter partitions of one pair. -/
def pairedQuarters (cfg a b : Nat) : Bool := a != b && a / 2 == b / 2 && decide (partOfDie cfg a < 4) && decide (partOfDie cfg b < 4)

/-- The reset of a partition reaches the endpoint: every session whose primary lies there is to fail over (R412). -/
def noteFailover (s : State) (part : Nat) : State :=
  (s.sessions.filter fun x => x.part == part && x.state == 1 && x.field 9 4 1 == 1).foldl (fun t x =>
    let e := t.ep x.index
    let sh := x.field 9 2 2
    let twin := t.session (partOfDie t.prtCfg sh) x.index
    if pairedQuarters t.prtCfg (x.field 9 0 2) sh ∧ twin.state = 1 ∧ e.field 0 1 1 = 0 then
      let jobs := t.grids.filter fun g => g.kind == .action && g.part == part && g.session == x.index && !g.past
      let last := jobs.foldl (fun a g => match a with
        | none => some g
        | some h => some (if h.jobNo < g.jobNo then g else h)) (none : Option Grid)
      let hold := match last with
        | some g => if !g.sent ∧ !(t.chunks.any fun c => c.hold && c.job == g.key) then some g.emission else none
        | none => none
      t.setEp { e with failAt := some t.now, failHold := hold, failLate := false }
    else t) s

/-- FAILOVER_SWITCH (R412): the active die becomes the shadow, and the shadow's Gaffer owes the hold chunk of the primary's
last action job if that had not emitted. DEDUCED, log entry 39. -/
def execFailoverSwitch (session : Nat) (s : State) : Host.Outcome State Fault Refusal :=
  let e := s.ep session
  match e.failAt, primaryOf s session with
  | some _, some x =>
    let part := partOfDie s.prtCfg (x.field 9 2 2)
    let w0 := (e.words[0]?).getD 0 ||| 2
    let s1 := s.setEp { e with words := e.words.set 0 w0, failAt := none, failHold := none, failLate := false }
    .next (match e.failHold with
      | some t => { s1 with holds := s1.holds ++ [{ part := part, session := session, instant := t, since := s.nowPs, late := e.failLate }] }
      | none => s1)
  | _, _ => .refused (.notEnabled "FAILOVER_SWITCH")

/-! ### The time unit (R406-R408) -/

/-- Clamp to an absolute bound. -/
def clampAbs (b v : Int) : Int := max (-b) (min b v)

/-- The measured offset of a usable sync: how far the count is ahead of the transmitter's, by its arrival less its departure and the
path delay. Locked counts the offsets within 4 ns (R407). -/
def syncOffset (now : Nat) (t : TimeUnit) (toRecv : Int) : TimeUnit :=
  let offset := toRecv - t.delay
  let good := if -4 ≤ offset ∧ offset ≤ 4 then t.good + 1 else 0
  { t with toRecv := toRecv, lastOffset := clampAbs (2 ^ 31 - 1) offset, good := good, locked := decide (good ≥ 16),
           holdover := false, lastSync := now }

/-- PTP_EVENT_MESSAGE (R406): a port stamps an event message with the count. A one-step Sync gives an offset, and the rate is
corrected within 200 ppm; a two-step one waits for its Follow_Up. PRESUMED, log entry 45. -/
def execPtpEventMessage (port : Nat) (message : PtpEvent) (rate : Int) (s : State) : Host.Outcome State Fault Refusal :=
  let t := s.time
  if port ≥ 4 then .refused (.notEnabled "PTP_EVENT_MESSAGE")
  else .next { s with time := match message with
    | .sync twoStep departure => if twoStep then { t with sync := some (port, s.now) }
      else { syncOffset s.now t (s.now - departure) with rate := clampAbs (200000 * 2 ^ 16) rate, sync := none }
    | .delayReq => { t with req := some (port, s.now) }
    | .pdelayReq => { t with peerReq := some (port, s.now), peerResp := none }
    | .pdelayResp twoStep time => (match t.peerReq with
      | some (q, t1) =>
        if q ≠ port then t
        else if twoStep then { t with peerResp := some (port, s.now, time) }
        else { t with delay := (s.now - t1 - time) / 2, peerReq := none }
      | none => t) }

/-- PTP_GENERAL_MESSAGE (R406): kind 8, Follow_Up, gives the departure of a two-step Sync of its port; kind 9, Delay_Resp, the
arrival of a delay request; kind 10, Pdelay_Resp_Follow_Up, the departure of a two-step response. PRESUMED, log entry 45. -/
def execPtpGeneralMessage (port kind : Nat) (origin : Int) (s : State) : Host.Outcome State Fault Refusal :=
  let t := s.time
  if port ≥ 4 then .refused (.notEnabled "PTP_GENERAL_MESSAGE")
  else .next { s with time := match kind with
    | 8 => (match t.sync with
      | some (q, a) => if q = port then { syncOffset s.now t (a - origin) with sync := none } else t
      | none => t)
    | 9 => (match t.req with
      | some (q, d) => if q = port then { t with delay := (t.toRecv + (origin - d)) / 2, req := none } else t
      | none => t)
    | 10 => (match t.peerReq, t.peerResp with
      | some (_, t1), some (q, t4, t2) =>
        if q = port then { t with delay := (t4 - t1 - (origin - t2)) / 2, peerReq := none, peerResp := none } else t
      | _, _ => t)
    | _ => t }

/-- HOLDOVER (R407): 8 sync intervals have passed without a usable sync. Log entry 45. -/
def execHoldover (s : State) : Host.Outcome State Fault Refusal :=
  if s.time.holdover ∨ s.now < s.time.lastSync + 8 * Config.syncInterval then .refused (.notEnabled "HOLDOVER")
  else .next { s with time := { s.time with holdover := true } }

/-- A step of the count from one time to another passes an instant. -/
def stepPasses (now t instant : Nat) : Bool := decide (now ≤ instant) && decide (instant < t)

/-- The emission instant of an action job that is still to be released (R386). -/
def Job.emission (s : State) (j : Job) : Nat := j.release + (s.session j.part j.session).field 6 32 32

/-- PTM_STEP (R408): the count steps forward, and every pending emission whose instant it passes is LATE: those queued, the hold
chunks that are due or owed after a fail-over, and those of jobs that wait at L3, released or not. -/
def execPtmStep (value : Word) (s : State) : Host.Outcome State Fault Refusal :=
  let v := value.toNat
  if v = 0 ∨ v > 2 ^ 32 ∨ s.boot ≠ .running then .next s
  else
    let past (i : Nat) : Bool := stepPasses s.now (s.now + v) i
    let held := s.grids.filter fun g => g.openJob && g.kind == .action && g.nextGang == 0 && past g.emission &&
      (s.session g.part g.session).level == 3
    let s1 : State := { s with
      chunks := s.chunks.map fun c => { c with late := c.late || past c.instant }
      holds := s.holds.map fun h => { h with late := h.late || past h.instant }
      jobs := s.jobs.map fun j =>
        { j with late := j.late || (j.action && (s.session j.part j.session).level == 3 && past (j.emission s)) }
      eps := s.eps.map fun e => { e with failLate := e.failLate || (match e.failHold with | some t => past t | none => false) } }
    let s2 := held.foldl (fun t g => evalLevel (holdDone t g true) g.part g.session) s1
    .next { s2 with nowPs := s.nowPs + 1000 * v }

end Sys2Proof.Machine
end

