-- ==== Sys2Proof/Machine/Memside.lean ====
section
/-!
DEFINITION. What the memory side does by itself: page walks, range entries, invalidation, swaps and clearing (spec/15
R330-R345), the directory's events (spec/14 R323-R325), the HBM4E channels (spec/13 R298-R302), and a supervisor's and a
host's stores (spec/14 R319, spec/22 R425, R431).
-/

namespace Sys2Proof.Machine

open Sys2Proof

/-! ### Walks and range entries (spec/15 R330, R333, R340) -/

/-- PAGE_WALK_COMPLETE (R333, R334): a walk of the partition's lowest die finishes; a leaf it read stays in use. -/
def execPageWalkComplete (part ia : Nat) (s : State) : Host.Outcome State Fault Refusal :=
  .next (lookupLeaf s part (partDie part) (ia % 2 ^ 48)).1

/-- A context issues bundles in its turn: it has not stopped (spec/15 R330). -/
def ctxRuns (c : Ctx) : Bool := c.status == .ready || c.status == .yielding

/-- Entry `i` of a context's sixteen range entries takes a value. -/
def setRange (c : Ctx) (i : Nat) (e : Word × Word × Word × Word) : Ctx :=
  { c with ranges := (c.ranges ++ List.replicate (16 - c.ranges.length) (0, 0, 0, 0)).set i e }

/-- RANGE_ENTRY_COMMIT (R330, R340): a write of XLT_RNG_DATA3 commits the four words, or is refused. The core's copy follows at the
next resume (R328). -/
def execRangeEntryCommit (cluster : Nat) (value : Word) (s : State) : Host.Outcome State Fault Refusal :=
  let sel := (s.reg (xltcReg cluster 0x30)).toNat
  let d (i : Nat) : Word := s.reg (xltcReg cluster (0x38 + 8 * i))
  let e := (d 0, d 1, d 2, value)
  let s1 := s.setReg (xltcReg cluster 0x50) value
  let sts (t : State) (v : Word) : Host.Outcome State Fault Refusal :=
    supAccess "RANGE_ENTRY_COMMIT" cluster s (t.setReg (xltcReg cluster 0x58) v)
  match s.ctx? (sel % 2 ^ 32) with
  | none => sts s1 2
  | some c =>
    if c.status = .ended ∨ c.part ≠ s.partOfCluster cluster then sts s1 2
    else if !rangeOk c.part e ∨ ctxRuns c then sts s1 1
    else sts (s1.setCtx (setRange c (sel / 2 ^ 32 % 16) e)) 0

/-! ### Invalidation (R342) -/

/-- A leaf overlaps granules lo to hi - 1. -/
def leafOverlaps (l : Leaf) (lo hi : Nat) : Bool :=
  decide (l.base / 2 ^ 19 < hi) && decide (lo < (l.base + 2 ^ lvlShift l.level) / 2 ^ 19)

/-- No translation of some granules is left in a partition's shares, and no run that overlaps them (R342). -/
def dropLeaves (s : State) (part lo hi : Nat) : State :=
  { s with
    leaves := s.leaves.filter fun l => !(l.part == part && leafOverlaps l lo hi)
    runs := s.runs.filter fun r => !(r.part == part && decide (r.base / 2 ^ 19 < hi) && decide (lo < r.base / 2 ^ 19 + r.len)) }

/-- XLT_INV (R341, R342): a second write while busy widens the range to cover both. -/
def execXltInv (part : Nat) (value : Word) (s : State) : Host.Outcome State Fault Refusal :=
  let g := (value.extractLsb' 19 29).toNat
  let n := (value.extractLsb' 48 16).toNat
  let r := if n = 0 then (0, 2 ^ 29) else (g, g + n)
  let p := s.part part
  .next (s.whenUp (s.setPart { p with invGran := some (match p.invGran with
    | none => r
    | some q => (min q.1 r.1, max q.2 r.2)) }))

/-- XLT_INV_DONE (R342). -/
def execXltInvDone (part : Nat) (s : State) : Host.Outcome State Fault Refusal :=
  let p := s.part part
  match p.invGran with
  | none => .refused (.notEnabled "XLT_INV_DONE")
  | some r => .next ((dropLeaves s part r.1 r.2).setPart { p with invGran := none })

/-! ### Swapping pages (R343, R344) -/

/-- A partition's swap registers: SWAP_FAR, SWAP_NEAR and SWAP_STS. -/
def xltpReg (part off : Nat) : RegAddr := partReg .xltp part off

/-- XLT_SWAP_STS. -/
def swapSts (s : State) (part busy result lines : Nat) : State :=
  s.setReg (xltpReg part 0x38) (BitVec.ofNat 64 (busy + 16 * result + 2 ^ 16 * (lines % 2 ^ 14)))

/-- The swap that runs in a partition. -/
def State.swapOf (s : State) (part : Nat) : Option Swap := s.swaps.find? fun w => w.part == part

/-- The swap engine sets or clears swp in an entry (R332). -/
def setSwp (s : State) (pte : Nat) (on : Bool) : State :=
  match pteAt s pte with
  | some e => agentStore s pte 8 (if on then e ||| 0x0200000000000000 else e &&& ~~~0x0200000000000000).toNat
  | none => s

/-- SWAP_START (R343, R344): a write of XLT_SWAP_CMD bit 0; the walks of both granules read in class SYS (R333). DEDUCED, log
entry 37. -/
def execSwapStart (part : Nat) (s : State) : Host.Outcome State Fault Refusal :=
  let gran (off : Nat) : Nat := (s.reg (xltpReg part off)).toNat / 2 ^ 19 % 2 ^ 29 * 2 ^ 19
  let far := gran 0x20
  let near := gran 0x28
  match s.swapOf part with
  | some w => .next (s.whenUp (swapSts s part 1 3 w.done))
  | none =>
    let s0 := touchWalk (touchWalk s part far) part near
    match walk s part far, walk s part near with
    | .leaf lf ef af, .leaf ln en an =>
      if lf ≠ 3 ∨ ln ≠ 3 then .next (s.whenUp (swapSts s0 part 0 1 0))
      else if !pteH ef ∨ pteH en then .next (s.whenUp (swapSts s0 part 0 2 0))
      else
        let s1 := setSwp (setSwp s0 af true) an true
        .next (s.whenUp (swapSts { s1 with swaps := s1.swaps ++
          [{ part := part, farIa := far, nearIa := near, farPte := af, nearPte := an, done := 0 }] } part 1 0 0))
    | _, _ => .next (s.whenUp (swapSts s0 part 0 1 0))

/-- The words of a line that are poisoned, by offset. -/
def poisonIn (s : State) (key : Nat) : List Nat := (s.poison.filter fun w => key ≤ w && w < key + 64).map (· - key)

/-- One line's contents, poison included, are put at a home. -/
def putLine (s : State) (key : Nat) (bs : List Byte) (bad : List Nat) : State :=
  let s1 := s.storeBytes key bs
  { s1 with poison := (bad.map (key + ·)) ++ s1.poison.filter fun w => !(key ≤ w && w < key + 64) }

/-- Exchange a line between two homes (R343). -/
def swapLines (s : State) (a b : Nat) : State :=
  let s1 := touchLine (touchLine s a) b
  let la := memGetList s1.mem a 64
  let lb := memGetList s1.mem b 64
  putLine (putLine s1 a lb (poisonIn s1 b)) b la (poisonIn s1 a)

/-- The end of a swap: addr and h of the two entries are exchanged, swp clears, and no old translation is left (R343). -/
def swapEnd (s : State) (w : Swap) : State :=
  let ef : Word := (pteAt s w.farPte).getD 0
  let en : Word := (pteAt s w.nearPte).getD 0
  let m : Word := 0x04003FFFFFFFFFFF
  let swp : Word := 0x0200000000000000
  let put (own other : Word) : Nat := (((own &&& ~~~m) ||| (other &&& m)) &&& ~~~swp).toNat
  let s1 := agentStore (agentStore s w.farPte 8 (put ef en)) w.nearPte 8 (put en ef)
  let inv (t : State) (ia : Nat) : State := dropLeaves t w.part (ia / 2 ^ 19) (ia / 2 ^ 19 + 1)
  let s2 := inv (inv s1 w.farIa) w.nearIa
  swapSts { s2 with swaps := s2.swaps.filter (· ≠ w) } w.part 0 0 8192

/-- SWAP_LINE (R343): one line of both frames is exchanged, as one step, and its progress bit is set; the engine waits
while the host link of the far frame is down, or an entry is poisoned. DEDUCED, log entry 37. -/
def execSwapLine (part : Nat) (s : State) : Host.Outcome State Fault Refusal :=
  match s.swapOf part with
  | none => .refused (.notEnabled "SWAP_LINE")
  | some w => match pteAt s w.farPte, pteAt s w.nearPte with
    | some ef, some en =>
      if hostDown s (pteAddr ef) then .refused (.notEnabled "SWAP_LINE")
      else
      let s1 := swapLines (mscTouch s part sysReq .write (pteAddr en + 64 * w.done)) (hostBase + pteAddr ef + 64 * w.done)
        (pteAddr en + 64 * w.done)
      let w1 := { w with done := w.done + 1 }
      let s2 : State := { s1 with swaps := s1.swaps.map fun x => if x.part = part then w1 else x }
      .next (if w1.done = 8192 then swapEnd s2 w1 else swapSts s2 part 1 0 w1.done)
    | _, _ => .refused (.notEnabled "SWAP_LINE")

/-! ### The clear engine (R345) -/

/-- A line of a cluster's cache or of a posted-write buffer has its home in one of some frames. -/
def homedIn (s : State) (frames : List Nat) (part cluster line recorded : Nat) : Bool :=
  frames.contains ((lineHome s part (cluster / 16) line recorded).2 / 2 ^ 19 * 2 ^ 19)

/-- The lines of some frames leave the cluster caches and the posted-write buffers, and their directory entries go, so that no
byte of the previous owner reaches a frame after it was handed over (R345). -/
def dropFrames (s : State) (frames : List Nat) : State :=
  let cached (x : CacheLine) : Bool := homedIn s frames x.part x.cluster x.line x.key
  let gone := s.lines.filter cached
  { s with
    lines := s.lines.filter fun x => !cached x
    posted := s.posted.filter fun x => !homedIn s frames x.part (clusterOf x.core) x.line x.key
    dir := s.dir.filter fun d => !(gone.any fun x => x.part == d.part && x.line == d.line) }

/-- Frames of a partition are handed to the clear engine (R345). -/
def handToClear (s : State) (part : Nat) (frames : List Nat) : State :=
  let t := dropFrames s frames
  { t with
    msc := t.msc.filter fun x => !frames.contains (x.line / 2 ^ 19 * 2 ^ 19)
    clear := (t.clear.filter fun f => !frames.contains f.frame) ++
      frames.map fun f => { part := part, frame := f, next := 0, marked := [] } }

/-- XLT_CLR_ADD (R341, R345): the memory-side cache drops every line of the frames, no copy of one is left elsewhere, and each
frame is pending. DEDUCED, log entry 37. -/
def execXltClrAdd (part : Nat) (value : Word) (s : State) : Host.Outcome State Fault Refusal :=
  let first := (value.extractLsb' 19 27).toNat * 2 ^ 19
  let frames := ((List.range (value.extractLsb' 48 16).toNat).map fun i => first + i * 2 ^ 19).filter (inPart part)
  .next (s.whenUp (handToClear s part frames))

/-- CLEAR_SWEEP_LINE (R345): the sweep passes the next line of the oldest pending frame, and skips a marked one. -/
def execClearSweepLine (part : Nat) (s : State) : Host.Outcome State Fault Refusal :=
  match s.clear.find? fun f => f.part == part with
  | none => .refused (.notEnabled "CLEAR_SWEEP_LINE")
  | some f =>
    let key := f.frame + 64 * f.next
    let s1 := if f.marked.contains f.next then s else zeroLine (mscTouch s part sysReq .write key) key
    .next { s1 with clear :=
      if f.next + 1 ≥ 8192 then s1.clear.filter fun g => !(g.part == part && g.frame == f.frame)
      else s1.clear.map fun g => if g.part = part ∧ g.frame = f.frame then { g with next := g.next + 1 } else g }

/-! ### The directory's events (spec/14 R323-R325) -/

/-- The line of an intermediate address in a cluster's partition, where its page is mapped. -/
def linePlace (s : State) (cluster line : Nat) : State × Option Place :=
  let part := s.partOfCluster cluster
  let ia := line % 2 ^ 48 / 64 * 64
  match lookupLeaf s part (cluster / 16) ia with
  | (s1, .leaf lv e0 _) => (match swapEntry s1 part ia e0 with
    | .ok e =>
      if pteH e ∧ hostDown s1 (pteAddr e) then (s1, none)
      else (s1, some { key := homeKey lv ia e, vault := false, ia := ia, nc := pteNc e })
    | .error _ => (s1, none))
  | (s1, _) => (s1, none)

/-- A cluster's copy of a line. -/
def State.copyIn (s : State) (cluster line : Nat) : Option CacheLine :=
  s.copyOf cluster (s.partOfCluster cluster) (line % 2 ^ 48 / 64 * 64)

/-- DIR_RD (R323, R324): a cluster's cache reads a line of which it lacks bytes. -/
def execDirRd (cluster line : Nat) (s : State) : Host.Outcome State Fault Refusal :=
  if ((s.copyIn cluster line).map (·.valid)) = some (BitVec.allOnes 64) then .refused (.notEnabled "DIR_RD")
  else match linePlace s cluster line with
  | (s1, some pl) => .next (fetchLine s1 cluster (s.partOfCluster cluster) pl sysReq)
  | (_, none) => .refused (.notEnabled "DIR_RD")

/-- The state after a queued command that can perform now has performed. -/
def cmdNext (s : State) (x : Cmd) : Option State :=
  if x.isE then (if engReady s x then some (engWork s x) else none)
  else if s.offReady x then some (performOff s x)
  else none

/-- A line waits in the posted-write buffers of a cluster's cores. -/
def postedIn (s : State) (cluster line : Nat) : Bool :=
  s.posted.any fun x => clusterOf x.core == cluster && x.part == s.partOfCluster cluster && x.line == line % 2 ^ 48 / 64 * 64 && !x.nc

/-- DIR_WN (R323): a cluster's copy gets its first dirty byte since it last wrote the line back, as the command does whose release
or whose 1025th line drains the line from a posted-write buffer (R310). -/
def execDirWn (cluster line : Nat) (s : State) : Host.Outcome State Fault Refusal :=
  let clean := decide (((s.copyIn cluster line).map (·.dirty)).getD 0 = 0)
  match s.cmds.findSome? fun x => (cmdNext s x).filter fun t => clean && postedIn s cluster line && !postedIn t cluster line with
  | some t => .next t
  | none => .refused (.notEnabled "DIR_WN")

/-- DIR_EVC (R324): a cluster drops a clean copy. -/
def execDirEvc (cluster line : Nat) (s : State) : Host.Outcome State Fault Refusal :=
  match s.copyIn cluster line with
  | some x => if x.dirty = 0 then .next (evictLine s x) else .refused (.notEnabled "DIR_EVC")
  | none => .refused (.notEnabled "DIR_EVC")

/-- A cluster's copy of a line holds dirty bytes. -/
def dirtyIn (s : State) (cluster line : Nat) : Bool :=
  match s.copyIn cluster line with
  | some x => decide (x.dirty ≠ 0)
  | none => false

/-- DIR_WB (R323, R324): a cluster writes a line's dirty bytes back because the line leaves, or, without `evict`, as the command
does whose release at die scope or wider brings the line home. -/
def execDirWb (cluster line : Nat) (evict : Bool) (s : State) : Host.Outcome State Fault Refusal :=
  match s.copyIn cluster line with
  | none => .refused (.notEnabled "DIR_WB")
  | some x =>
    if x.dirty = 0 then .refused (.notEnabled "DIR_WB")
    else if evict then .next (writeBack s x true)
    else match s.cmds.findSome? fun c =>
        ((cmdNext s c).filter fun _ => c.releases && clusterOf c.core == cluster).filter fun t => !dirtyIn t cluster line with
      | some t => .next t
      | none => .refused (.notEnabled "DIR_WB")

/-- The entries of a line, in whatever partition. -/
def entriesOf (s : State) (line : Nat) : List DirEntry := s.dir.filter fun d => d.line == line % 2 ^ 48 / 64 * 64

/-- What an atomic or an engine command that can perform now comes to. -/
def homeWriter (s : State) (x : Cmd) : Option State :=
  match x.instr with
  | .amo _ _ | .amocas _ _ => cmdNext s x
  | _ => if x.isE then cmdNext s x else none

/-- A command's work wrote a line at its home: the line's bytes there, or its entries, are others. -/
def wroteHome (s t : State) (x : Cmd) (line : Nat) : Bool :=
  entriesOf s line != entriesOf t line ||
  (match (linePlace s (clusterOf x.core) line).2 with
   | some pl => memGetList s.mem pl.key 64 != memGetList t.mem pl.key 64
   | none => false)

/-- DIR_HW (R323, R324): an atomic or an engine write performs at the line's home, as the command does that is the next to write
the line there. -/
def execDirHw (line : Nat) (s : State) : Host.Outcome State Fault Refusal :=
  match s.cmds.findSome? fun x => (homeWriter s x).filter fun t => wroteHome s t x line with
  | some t => .next t
  | none => .refused (.notEnabled "DIR_HW")

/-- An entry is its set's victim: the set is full, and R325 chooses it. -/
def isVictim (s : State) (d : DirEntry) : Bool :=
  let es := s.dir.filter fun e => e.home == d.home
  decide (es.length ≥ 4) && chooseVictim es == some d

/-- An event's work needs a new entry in the set of an entry, which goes to make room. -/
def displaces (s t : State) (d : DirEntry) : Bool :=
  !(t.dir.any fun e => e.part == d.part && e.line == d.line) &&
  t.dir.any fun e => e.home == d.home && !(s.dir.any fun o => o.part == e.part && o.line == e.line)

/-- DIR_VIC (R323, R325): the entry of a line is chosen as the victim of its set, because the work of a command that can perform
now needs an entry there; the work follows the back-invalidation. -/
def execDirVic (line : Nat) (s : State) : Host.Outcome State Fault Refusal :=
  match (entriesOf s line).find? fun d => isVictim s d && s.cmds.any fun x => ((cmdNext s x).filter fun t => displaces s t d).isSome with
  | none => .refused (.notEnabled "DIR_VIC")
  | some d => .next (backInvalidate s d)

/-! ### HBM4E channels (spec/13 R298-R302) -/

/-- Two requests wait in one queue. -/
def sameQueue (a b : ChanReq) : Bool := a.pos == b.pos && (a.pos.isSome || a.cls == b.cls)

/-- A request of another queue that a row-hammer event put ahead of this one waits for its bank (R301). -/
def isHeld (c : Chan) (r : ChanReq) : Bool :=
  c.reqs.any fun q => q.bank == r.bank && q.ahead.contains r.tenant && !sameQueue q r

/-- The first request of each queue that waits for a bank. -/
def bankHeads (bank : Nat) : List ChanReq → List ChanReq → List ChanReq
  | _, [] => []
  | older, r :: rs =>
    if r.bank = bank ∧ !(older.any fun q => q.bank == bank && sameQueue q r) then r :: bankHeads bank (older ++ [r]) rs
    else bankHeads bank (older ++ [r]) rs

/-- A request can start: its bank is not occupied, no older request of its queue waits for the bank, and no request of another
queue that a row-hammer event put ahead of it waits for the bank (R299, R301). Where the arrival order of the queues keeps every
request put ahead behind a request that it goes before, the events' order gives way: DESIGN CHOICE, log entry 77. -/
def canStart (c : Chan) (older : List ChanReq) (r : ChanReq) : Bool :=
  !(c.busy.any fun b => b.1 == r.bank) && !(older.any fun q => q.bank == r.bank) &&
  (!isHeld c r || (bankHeads r.bank [] c.reqs).all (isHeld c))

/-- The first request of a queue that can start. -/
def firstOf (c : Chan) (queue : List ChanReq) : Option ChanReq :=
  go [] queue
where
  go (older : List ChanReq) : List ChanReq → Option ChanReq
    | [] => none
    | r :: rs => if canStart c older r then some r else go (older ++ [r]) rs

/-- The queue of a wheel position. -/
def posQueue (c : Chan) (p : Nat) : List ChanReq := c.reqs.filter fun r => r.pos == some p
/-- The unreserved queue of a class. -/
def classQueue (c : Chan) (k : Nat) : List ChanReq := c.reqs.filter fun r => r.pos == none && r.cls == k

/-- The request that a turn serves (R300): the position's own queue, unless its tenant is charged (R301) or the position is
unassigned (R302), the unreserved queues in the order ACT, REA, SYS, BLK, then the other positions. -/
def turnServes (s : State) (c : Chan) : Option ChanReq :=
  let owner := wheelTenant s c.stack c.ch c.pos
  let own := if owner = 0x1FFF ∨ c.charged.any fun x => x.1 == owner && x.2 != 0 then none else firstOf c (posQueue c c.pos)
  match own with
  | some r => some r
  | none =>
    match [0, 1, 3, 2].findSome? fun k => firstOf c (classQueue c k) with
    | some r => some r
    | none => (List.range 31).findSome? fun i => firstOf c (posQueue c ((c.pos + 1 + i) % 32))

/-- The activations counted of a row. -/
def rowCount (c : Chan) (bank row : Nat) : Nat :=
  ((c.rows.find? fun x => x.1 == bank && x.2.1 == row).map (·.2.2)).getD 0

/-- Serving a request opens its row. DEDUCED, log entry 30. -/
def activates (c : Chan) (r : ChanReq) : Bool := !(c.opened.any fun x => x.1 == r.bank && x.2 == r.row)

/-- THE ROW-HAMMER THROTTLE (R301, R302): the bank is occupied, the event is counted and charged, and what waits for the
bank in other queues goes before the charged tenant. Sixteen turns are 16 rotations: DEDUCED, log entry 30. A request with no tenant
(a walk, a swap, the clear engine, a supervisor) shows the tenant field 0x1FFF, charges no tenant's positions and counts with all
such requests as one tenant for the order: DESIGN CHOICE, log entry 77. -/
def throttleRow (s : State) (c : Chan) (r : ChanReq) : State :=
  let mark (q : ChanReq) : ChanReq :=
    if q.bank ≠ r.bank ∨ q.tenant = r.tenant ∨ sameQueue q r then q
    else { q with ahead := r.tenant :: q.ahead }
  let c1 : Chan := { c with
    busy := (r.bank, s.nowPs) :: c.busy
    opened := c.opened.filter fun x => x.1 != r.bank
    charged := match r.tenant with
      | some t => (t, 16 * 32) :: c.charged.filter fun x => x.1 != t
      | none => c.charged
    reqs := c.reqs.map mark }
  let last := r.tenant.getD 0x1FFF % 2 ^ 13 + c.ch * 2 ^ 13 + r.bank % 32 * 2 ^ 18 + r.row % 2 ^ 18 * 2 ^ 23
  ((s.setChan c1).bumpReg ⟨.mrv, c.stack, 0x1000⟩ 1).setReg ⟨.mrv, c.stack, 0x1008⟩ (BitVec.ofNat 64 last)

/-- A turn of the wheel (R300): its request leaves the queue, its row is activated unless it is open, and the wheel goes on;
the activation that reaches the threshold throttles (R301). -/
def turnWheel (s : State) (c : Chan) : State :=
  let next (d : Chan) : Chan :=
    { d with pos := (d.pos + 1) % 32, charged := (d.charged.map fun x => (x.1, x.2 - 1)).filter fun x => x.2 != 0 }
  match turnServes s c with
  | none => s.setChan (next c)
  | some r =>
    let d := next { c with reqs := c.reqs.erase r }
    if !activates c r then s.setChan d
    else
      let n := rowCount c r.bank r.row + 1
      let e : Chan := { d with
        opened := (r.bank, r.row) :: d.opened.filter fun x => x.1 != r.bank
        rows := (r.bank, r.row, n) :: d.rows.filter fun x => !(x.1 == r.bank && x.2.1 == r.row) }
      if n = (s.reg ⟨.mrv, c.stack, 0x1010⟩).toNat then throttleRow s e r else s.setChan e

/-- WHEEL_TURN (R300). -/
def execWheelTurn (stack ch : Nat) (s : State) : Host.Outcome State Fault Refusal :=
  if stack ≥ 8 ∨ ch ≥ 32 then .refused (.notEnabled "WHEEL_TURN") else .next (turnWheel s (s.chan stack ch))

/-- ROW_HAMMER_THROTTLE (R301): the turn whose request makes the activation of this row that reaches the threshold. -/
def execRowHammerThrottle (stack ch bank row : Nat) (s : State) : Host.Outcome State Fault Refusal :=
  let c := s.chan stack ch
  match turnServes s c with
  | none => .refused (.notEnabled "ROW_HAMMER_THROTTLE")
  | some r =>
    if r.bank = bank ∧ r.row = row ∧ activates c r ∧ rowCount c bank row + 1 = (s.reg ⟨.mrv, stack, 0x1010⟩).toNat then
      .next (turnWheel s c)
    else .refused (.notEnabled "ROW_HAMMER_THROTTLE")

/-- ROW_HAMMER_REFRESH_END (R301): 320 ns after the trigger the bank is released. -/
def execRowHammerRefreshEnd (stack ch bank : Nat) (s : State) : Host.Outcome State Fault Refusal :=
  let c := s.chan stack ch
  match c.busy.find? fun b => b.1 == bank with
  | none => .refused (.notEnabled "ROW_HAMMER_REFRESH_END")
  | some b =>
    if s.nowPs < b.2 + 320000 then .refused (.notEnabled "ROW_HAMMER_REFRESH_END")
    else .next (s.setChan { c with busy := c.busy.filter fun x => x.1 != bank })

/-- REFRESH_WINDOW_END (R301): each 32 ms the bank's window ends and its counts start again. That the windows begin with the time
count is DEDUCED, log entry 30. -/
def execRefreshWindowEnd (stack ch bank : Nat) (s : State) : Host.Outcome State Fault Refusal :=
  let c := s.chan stack ch
  let n := (tabGet? c.windows bank).getD 0
  if stack ≥ 8 ∨ ch ≥ 32 ∨ bank ≥ 32 ∨ s.nowPs < (n + 1) * 32000000000 then .refused (.notEnabled "REFRESH_WINDOW_END")
  else .next (s.setChan { c with rows := c.rows.filter (fun x => x.1 != bank), windows := tabSet c.windows bank (n + 1) })

/-! ### Supervisors (spec/14 R319) -/

/-- SUPERVISOR_FENCE (R319): FENCE is a phase release and acquire at partition scope, so every dirty coherent byte of the
cluster's cache reaches home; FENCE.I (`code`) orders stores to instruction stores, which have performed. -/
def execSupervisorFence (cluster : Nat) (code : Bool) (s : State) : Host.Outcome State Fault Refusal :=
  if code then .next s
  else
    .next ((s.lines.filter fun x => x.cluster == cluster && !x.nc && x.dirty != 0).foldl (fun t x => writeBack t x false) s)

/-- Bytes of one line enter a cluster's cache as a supervisor's store. -/
def supLine (s : State) (cluster : Nat) (pl : Place) (bs : List Byte) : State :=
  drainLine s { core := 8 * cluster, ctx := 0, part := s.partOfCluster cluster, line := pl.ia / 64 * 64,
                data := List.replicate (pl.ia % 64) 0 ++ bs, mask := BitVec.ofNat 64 ((2 ^ bs.length - 1) * 2 ^ (pl.ia % 64)),
                nc := pl.nc, key := pl.key / 64 * 64 }

/-- A supervisor's store to an intermediate address, line by line, over at most `n` lines; `none` where a page is not mapped, or is
host-homed behind a port whose link is down (spec/22 R425). -/
def supStore (s : State) (cluster ia : Nat) (bs : List Byte) : Nat → Option State
  | 0 => some s
  | n + 1 =>
    if bs = [] then some s
    else
      let k := 64 - ia % 64
      match lookupLeaf s (s.partOfCluster cluster) (cluster / 16) ia with
      | (s1, .leaf lv e0 _) => (match swapEntry s1 (s.partOfCluster cluster) ia e0 with
        | .ok e =>
          if pteH e ∧ hostDown s1 (pteAddr e) then none
          else supStore (supLine s1 cluster { key := homeKey lv ia e, vault := false, ia := ia, nc := pteNc e } (bs.take k))
            cluster (ia + k) (bs.drop k) n
        | .error _ => none)
      | (_, _) => none

/-- SUPERVISOR_STORE (R319, spec/11 R255, spec/19 R385): `ia` below 2^48 is an intermediate address, written through the
cluster's cache; 2^60 on, a vault-space address of its partition; 2^61 on, an instruction-store address, 256 KiB for each
core of its cluster. The numbering of the three spaces: DESIGN CHOICE, log entry 29. -/
def execSupervisorStore (cluster ia : Nat) (data : List Byte) (s : State) : Host.Outcome State Fault Refusal :=
  let part := s.partOfCluster cluster
  if ia + data.length ≤ 2 ^ 48 then
    match supStore s cluster ia data (data.length + 1) with
    | some t => .next t
    | none => .refused (.notEnabled "SUPERVISOR_STORE")
  else if 2 ^ 60 ≤ ia ∧ vaultOk part (ia - 2 ^ 60) ∧ vaultOk part (ia - 2 ^ 60 + (data.length - 1)) then
    .next (writeBytes s 0 (vaultBase + (ia - 2 ^ 60)) data)
  else if 2 ^ 61 ≤ ia ∧ ia - 2 ^ 61 + data.length ≤ 2 ^ 21 then
    .next (s.storeBytes (codeBase + 8 * cluster * 2 ^ 18 + (ia - 2 ^ 61)) data)
  else .refused (.notEnabled "SUPERVISOR_STORE")

end Sys2Proof.Machine
end

