-- ==== Sys2Proof/Machine/Partition.lean ====
section
/-!
DEFINITION. Partition reset (spec/11 R254, spec/26 R459) and uncorrectable errors (spec/13 R303), and merging and splitting
partitions (spec/22 R418-R424, R433, spec/26 R456).
-/

namespace Sys2Proof.Machine

open Sys2Proof

/-! ### Partition reset (spec/11 R254) -/

/-- The clusters of a partition. -/
def partClusters (part : Nat) : List Nat := (List.range 64).filter (partHas part)

/-- A cluster's and a core's registers and tables are at reset: the supervisor's, the translation and the debug blocks. -/
def clusterBlock (b : Block) : Bool := b == .sup || b == .xltc || b == .red

/-- A core is at reset; the counters that run by themselves read zero. -/
def resetCore (s : State) (core : Nat) : State :=
  let k := coreCycles s core
  let c : Core := {}
  s.setCore core { c with
    counters := (c.counters.setIfInBounds 0 (0 - BitVec.ofNat 64 k)).setIfInBounds 3 (0 - BitVec.ofNat 64 k) }

/-- The memories of a partition's cores are empty: banks, accumulators, side memories and instruction stores. -/
def clearCores (s : State) (part : Nat) : State :=
  let a := 8 * 16 * partDie part
  let b := 8 * 16 * (partDie part + partDies part)
  { s with mem := memClear (memClear (memClear s.mem (accBase + a * 2 ^ 16) (accBase + b * 2 ^ 16))
      (sideBase + a * 2 ^ 14) (sideBase + b * 2 ^ 14)) (codeBase + a * 2 ^ 18) (codeBase + b * 2 ^ 18) }

/-- The parts that a partition reset covers are at reset: cores, supervisors, cluster caches, vault die, memory-side cache
slices and HBM4E channels (R254). What vaults and HBM4E hold stays (log entry 40). -/
def resetFabric (s : State) (part : Nat) : State :=
  let s1 := ((s.cores.map (·.1)).filter fun k => partHas part (clusterOf k)).foldl resetCore (clearCores s part)
  { s1 with
    posted := s1.posted.filter (·.part != part)
    lines := s1.lines.filter (·.part != part)
    dir := s1.dir.filter (·.part != part)
    msc := s1.msc.filter fun x => !partHas part (x.home / 8192)
    leaves := s1.leaves.filter (·.part != part)
    runs := s1.runs.filter (·.part != part)
    resolving := s1.resolving.filter fun y => !partHas part y.1
    chans := s1.chans.filter fun c => !partHasStack part c.stack
    trapWait := s1.trapWait.filter fun r => !partHas part r.1
    faults := s1.faults.filter fun f => !partHas part f.cluster
    faultSeq := s1.faultSeq.filter fun f => !partHas part f.1
    reds := s1.reds.filter fun r => !partHas part r.cluster
    regs := s1.regs.filter fun r => !(clusterBlock r.1.block && partHas part r.1.scope) }

/-- A grid of the partition ends with cause PART_RESET and holds nothing any more; a launch's status says so, and a job is
a deadline miss. -/
def resetGrid (s : State) (g : Grid) : State :=
  let g1 := { g with status := .ended, complete := true, cause := some (g.cause.getD causePartReset) }
  let s1 := (freeGrid s g).setGrid g1
  if g.isJob then (if g.missed then s1 else missJob (s1.setGrid { g1 with missed := true }) g)
  else writeStatus s1 g 3 causePartReset

/-- A partition resets (R254): every context ends with PART_RESET and no record, its commands go, and the partition is absent
until its reset completes; its submission numbers start again from 1 (spec/25 R450). The endpoint is told first, so that a session which fails over owes its hold chunk on the
shadow (spec/20 R412), and what the partition's jobs have queued there is dropped, but for hold chunks. The report to the owner names
the class (R239). DEDUCED, log entries 39 and 40. -/
def resetPartition (s : State) (part cls : Nat) : State :=
  let s1 := noteFailover s part
  let gone (g : Grid) : Bool := g.part == part && g.status == .ready && (s1.ctxs.any fun c => c.gkey == g.key)
  let s2 : State := { s1 with
    cmds := s1.cmds.filter fun x => (s1.ctx x.ctx).part != part
    ctxs := s1.ctxs.map fun c => if c.part = part then { c with status := .ended, dead := true, flight := [] } else c
    posted := s1.posted.filter (·.part != part)
    chunks := s1.chunks.filter fun c => c.hold || c.part != part }
  let s3 := (s2.grids.filter gone).foldl resetGrid s2
  let s4 : State := { s3 with holds := s3.holds.filter fun h => !(h.part == part && (s3.ep h.session).failAt.isSome) }
  let s5 := resetFabric s4 part
  ((s5.setPart { s5.part part with resetting := true, nextSub := 1 }).output (.ownerIrq part)).output (.partReset part cls)

/-- PARTITION_RESET (R254), classes 1 to 5. -/
def execPartitionReset (part cls : Nat) (s : State) : Host.Outcome State Fault Refusal :=
  if !partPresent s.prtCfg part ∨ part > 6 ∨ cls = 0 ∨ cls > 5 ∨ (s.part part).resetting then
    .refused (.notEnabled "PARTITION_RESET")
  else .next (resetPartition s part cls)

/-- PARTITION_RESET_DONE (R254); a partition whose supervisor images did not verify stays in reset (spec/26 R456). -/
def execPartitionResetDone (part : Nat) (s : State) : Host.Outcome State Fault Refusal :=
  if (s.part part).resetting ∧ !(s.part part).imageBad then .next (s.setPart { s.part part with resetting := false })
  else .refused (.notEnabled "PARTITION_RESET_DONE")

/-! ### Errors found in stored data (spec/13 R303, R306)

`store` is the code of R306, or 5 for a core's slice files, common file or instruction store. `addr` is the physical
address, the vault-space address, the intermediate address of a cluster-cache byte, or, in a scratchpad, 2^20 times the
context's handle plus the own-form offset. -/

/-- The key of the erring byte of a memory that holds poison. DEDUCED, log entry 41. -/
def errKey (store addr : Nat) : Nat :=
  match store with
  | 0 => spmBase + addr
  | 1 => vaultBase + addr
  | _ => addr

/-- The partition of an erring store's unit. -/
def errPart (s : State) (store unit addr : Nat) : Nat :=
  match store with
  | 0 => s.partOfCluster (clusterOf unit)
  | 1 => s.partOfKey (vaultBase + addr)
  | 2 => s.partOfCluster unit
  | 3 => partOfDie s.prtCfg (unit / 16)
  | 4 => s.partOfKey addr
  | _ => s.partOfCluster (clusterOf unit)

/-- The address that an error record gives, of the ECC word: a cluster-cache word's is the physical one of its home (R306). -/
def errAddr (s : State) (store unit addr : Nat) : Nat :=
  match store with
  | 0 => addr % 2 ^ 20 / 8 * 8
  | 2 => (match s.copyIn unit addr with | some x => x.key + addr % 64 | none => addr) / 8 * 8
  | _ => addr / 32 * 32

/-- The unit number of an error record. -/
def errUnit (store unit addr : Nat) : Nat :=
  match store with
  | 1 => addr / 2 ^ 27
  | 4 => stackOf addr * 32 + chanOf addr
  | _ => unit

/-- ECC_CORRECTED (R303): repaired in place and recorded. R306 numbers no store for a core's files, whose record names the core
and no address, with a free store number: log entry 41. -/
def execEccCorrected (store unit addr : Nat) (s : State) : Host.Outcome State Fault Refusal :=
  let part := errPart s store unit addr
  .next (if store > 4 then errRecord s part 1 ((Config.otherStore store).toNat % 8) (unit % 512) 0 0 0
    else errRecord s part 1 store (errUnit store unit addr) (errAddr s store unit addr) 0 0)

/-- ECC_UNCORRECTABLE (R303): the word is poisoned and recorded; a clean cluster-cache line is dropped, and is read from
home again when it is next used; a dirty one, or a core's files, resets the partition. -/
def execEccUncorrectable (store unit addr : Nat) (s : State) : Host.Outcome State Fault Refusal :=
  let part := errPart s store unit addr
  if store = 2 then
    match s.copyIn unit addr with
    | none => .refused (.notEnabled "ECC_UNCORRECTABLE")
    | some x => if x.dirty = 0 then .next (evictLine s x) else .next (resetPartition s part 2)
  else if store > 4 then .next (resetPartition s part 1)
  else
    let w := eccBase (errKey store addr)
    let s1 : State := { s with poison := if s.poison.contains w then s.poison else w :: s.poison }
    .next (errRecord s1 part 2 store (errUnit store unit addr) (errAddr s store unit addr) 0 0)

/-! ### Merging and splitting (spec/22 R422-R424) -/

/-- A device-wide register of the partition controller. -/
def prtReg (off : Nat) : RegAddr := ⟨.prt, 0, off⟩

/-- The partitions that a command concerns. -/
def concerned (op pair : Nat) : List Nat :=
  match op with
  | 1 => [2 * pair, 2 * pair + 1]
  | 2 => [4 + pair]
  | 3 => [4, 5]
  | _ => [6]

/-- The partitions that result. -/
def resulting (op pair : Nat) : List Nat :=
  match op with
  | 1 => [4 + pair]
  | 2 => [2 * pair, 2 * pair + 1]
  | 3 => [6]
  | _ => [4, 5]

/-- The configuration that results, where the op fits PRT_CFG (R418, R422, R424). -/
def newCfg (cfg op pair : Nat) : Option Nat :=
  match op with
  | 1 => if cfg < 4 ∧ !cfg.testBit pair then some (cfg + 2 ^ pair) else none
  | 2 => if cfg < 4 ∧ cfg.testBit pair then some (cfg - 2 ^ pair) else none
  | 3 => if cfg = 3 then some 7 else none
  | _ => if cfg = 7 then some 3 else none

/-- PRT_QSTS. -/
def qsts (s : State) (busy result reason step : Nat) : State :=
  s.setReg (prtReg 0x1010) (BitVec.ofNat 64 (busy + 16 * result + 2 ^ 8 * reason + 2 ^ 16 * step))

/-- Set or clear the draining of some partitions. -/
def setDraining (s : State) (ps : List Nat) (on : Bool) : State :=
  ps.foldl (fun t p => t.setPart { t.part p with draining := on }) s

/-- A write of PRT_QCMD with an op (R423, R424): ignored while busy, refused at once, or step 1 begins.
The step an immediate refusal reports: DEDUCED, log entry 32. -/
def startCmd (s : State) (op pair : Nat) : State :=
  match s.partCmd with
  | some _ => s
  | none =>
    let ps := concerned op pair
    if (newCfg s.prtCfg op pair).isNone then qsts s 0 1 1 0
    else if s.sessions.any fun x => ps.contains x.part && x.state != 0 then qsts s 0 1 2 0
    else setDraining (qsts { s with partCmd := some { op := op, pair := pair, step := 1, began := s.nowPs } } 1 0 0 1) ps true

/-- MERGE_PAIR (R423). -/
def execMergePair (pair : Nat) (s : State) : Host.Outcome State Fault Refusal := .next (s.whenUp (startCmd s 1 (pair % 2)))
/-- SPLIT_PAIR (R423). -/
def execSplitPair (pair : Nat) (s : State) : Host.Outcome State Fault Refusal := .next (s.whenUp (startCmd s 2 (pair % 2)))
/-- MERGE_W (R423). -/
def execMergeW (s : State) : Host.Outcome State Fault Refusal := .next (s.whenUp (startCmd s 3 0))
/-- SPLIT_W (R423). -/
def execSplitW (s : State) : Host.Outcome State Fault Refusal := .next (s.whenUp (startCmd s 4 0))

/-- A ring's indices differ. -/
def indexDiff (s : State) (wr rd : RegAddr) : Bool := s.reg wr != s.reg rd

/-- The first condition of R424 that fails for a partition, by its code; a grid is resident or saved while it has contexts. -/
def notQuiet (s : State) (p : Nat) : Option Nat :=
  let ctl := s.reg (gafReg p 0x38)
  let ring := ctl.getLsbD 8 &&
    decide ((s.reg (gafReg p 0x40)).toNat < s.load (vaultBase + (s.reg (gafReg p 0x30)).toNat) 8)
  if s.sessions.any fun x => x.part == p && x.state != 0 then some 2
  else if ring || s.queues.any (fun q => q.part == p && decide (q.ri < q.last)) then some 3
  else if s.grids.any fun g => g.part == p && g.status == .ready && s.ctxs.any (fun c => c.gkey == g.key) then some 4
  else if indexDiff s (errReg p 0x250) (errReg p 0x258) || (partClusters p).any fun cl =>
      indexDiff s ⟨.sup, cl, 0x10⟩ ⟨.sup, cl, 0x18⟩ || indexDiff s (xltcReg cl 0x10) (xltcReg cl 0x18) then some 5
  else if (s.part p).resetting then some 6
  else none

/-- The first condition that fails for any of some partitions: the least code. -/
def unquiet (s : State) (ps : List Nat) : Option Nat :=
  (ps.filterMap (notQuiet s)).foldl (fun a c => match a with | none => some c | some b => some (min b c)) none

/-- PARTITION_QUIET (R423, R424): step 2 begins. -/
def execPartitionQuiet (s : State) : Host.Outcome State Fault Refusal :=
  match s.partCmd with
  | none => .refused (.notEnabled "PARTITION_QUIET")
  | some c =>
    if c.step ≠ 1 ∨ (unquiet s (concerned c.op c.pair)).isSome then .refused (.notEnabled "PARTITION_QUIET")
    else .next (qsts { s with partCmd := some { c with step := 2 } } 1 0 0 2)

/-- PRT_QTIMEOUT in ps, at least 1,000 ns. -/
def quiesceLimit (s : State) : Nat := 1000 * max 1000 ((s.reg (prtReg 0x1018)).toNat % 2 ^ 32)

/-- QUIESCE_TIMEOUT (R424): the command is refused with the first reason, and consumption resumes. -/
def execQuiesceTimeout (s : State) : Host.Outcome State Fault Refusal :=
  match s.partCmd with
  | none => .refused (.notEnabled "QUIESCE_TIMEOUT")
  | some c =>
    match unquiet s (concerned c.op c.pair) with
    | none => .refused (.notEnabled "QUIESCE_TIMEOUT")
    | some r =>
      if c.step ≠ 1 ∨ s.nowPs < c.began + quiesceLimit s then .refused (.notEnabled "QUIESCE_TIMEOUT")
      else .next (setDraining (qsts { s with partCmd := none } 0 1 r 1) (concerned c.op c.pair) false)

/-- PRT_ILV of a partition's dies (R422). -/
def ilvWord (p : Nat) : Word :=
  BitVec.ofNat 64 (16 * partDie p + 16 * partDies p * 2 ^ 6 + 2 * partDie p * 2 ^ 16 + 2 * partDies p * 2 ^ 20)

/-- Step 2 (R423): the cluster caches write everything back and hold nothing, the memory-side slices drop every line, which goes to
its channel when it holds writes, and every entry, and no translation is left. -/
def flushPart (s : State) (p : Nat) : State :=
  let s1 := (s.posted.filter (·.part == p)).foldl drainLine { s with posted := s.posted.filter (·.part != p) }
  let s2 := (s1.lines.filter fun x => x.part == p && x.dirty != 0).foldl mergeHome s1
  let s3 := (s2.msc.filter fun x => x.dirty && partHas p (x.home / 8192)).foldl (fun t x => chanPush t sysReq x.line) s2
  dropLeaves { s3 with
    lines := s3.lines.filter (·.part != p)
    dir := s3.dir.filter (·.part != p)
    msc := s3.msc.filter fun x => !partHas p (x.home / 8192) } p 0 (2 ^ 29)

/-- The bytes of a measurement. DEDUCED, log entry 41. -/
def measBytes (m : BitVec 256) : List Byte := toBytesLE 32 m.toNat

/-- The bytes of PRT_CFG and PRT_ILV (spec/26 R456 step 5). -/
def cfgBytes (s : State) : List Byte :=
  ([0x1000, 0x1020, 0x1028, 0x1030, 0x1038].map fun o => toBytesLE 8 (s.reg (prtReg o)).toNat).flatten

/-- meas3 is extended by the partition configuration. -/
def extendMeas3 (s : State) (base : BitVec 256) : State :=
  { s with meas := s.meas.set 3 (Config.sha3 (measBytes base ++ cfgBytes s)) }

/-- A register block of R421, one for each partition; the management launch's registers are of each partition too (spec/24 R444). -/
def partBlock (b : Block) : Bool := b == .prtm || b == .xltp || b == .lhr || b == .gaf || b == .dvf

/-- Every per-partition register, table and record of some dies is at reset (R421); the partition-control claim of each
resulting partition is that of its lowest die, and the claims of its other dies are released (R433).
DEDUCED, log entry 39. -/
def resetParts (s : State) (old new : List Nat) : State :=
  let dies := old.flatMap fun p => (List.range (partDies p)).map (partDie p + ·)
  let s1 : State := { s with
    regs := s.regs.filter fun r => !(partBlock r.1.block && dies.contains r.1.scope)
    sessions := s.sessions.filter fun x => !old.contains x.part
    domains := s.domains.filter fun d => !old.contains d.part
    jobs := s.jobs.filter fun j => !old.contains j.part
    swaps := s.swaps.filter fun w => !old.contains w.part
    parts := s.parts.filter fun p => !(old ++ new).contains p.part
    clear := s.clear.map fun f =>
      if old.contains f.part then { f with part := partOfDie s.prtCfg (stackOf f.frame / 2) } else f }
  let keep := new.map partDie
  (dies.filter fun d => !keep.contains d).foldl (fun t d => if (t.claim (1 + d)).held then freeClaim t (1 + d) else t) s1

/-- PARTITION_FLUSH_DONE (R423): the flush of step 2, the rewrite of step 3 in one commit, and step 4. -/
def execPartitionFlushDone (s : State) : Host.Outcome State Fault Refusal :=
  match s.partCmd with
  | none => .refused (.notEnabled "PARTITION_FLUSH_DONE")
  | some c =>
    match c.step, newCfg s.prtCfg c.op c.pair with
    | 2, some cfg =>
      let old := concerned c.op c.pair
      let s1 := old.foldl flushPart s
      let s2 := (s1.setReg (prtReg 0x1000) (BitVec.ofNat 64 cfg)).setReg (prtReg 0x1040) (BitVec.ofNat 64 cfg)
      let s3 := (List.range 4).foldl (fun t d => t.setReg (prtReg (0x1020 + 8 * d)) (ilvWord (partOfDie cfg d))) s2
      let s4 := extendMeas3 (resetParts s3 old (resulting c.op c.pair)) (s3.meas[3]?.getD 0)
      .next (qsts { s4 with partCmd := none } 0 0 0 4)
    | _, _ => .refused (.notEnabled "PARTITION_FLUSH_DONE")

end Sys2Proof.Machine
end

