-- ==== Sys2Proof/Machine/Boot.lean ====
section
/-!
DEFINITION. Boot, attestation and the reset kinds (spec/26 R456-R459).
-/

namespace Sys2Proof.Machine

open Sys2Proof

/-! ### The boot sequence (R456, R457) -/

/-- A Jeldaeth image passes step 2: its signature verifies, and its security version is not below the fused minimum (R456). -/
def imageAccepted (i : List Byte) : Bool := Config.imageSigned i && decide (Config.fusedVersion.toNat ≤ (Config.imageVersion i).toNat)

/-- Bytes of the staging window of recovery mode in vault 0 (R457). -/
def stageLen : Nat := 2 ^ 26

/-- Steps 3 to 5 with an accepted image (R456): the measurements, the time unit, the supervisor images, of which one whose signature
does not verify leaves its partition in reset, and every partition register at its reset value. -/
def bootOn (s : State) (image : List Byte) : State :=
  let m0 := s.meas[0]?.getD 0
  let m1 := Config.sha3 (measBytes m0 ++ measBytes (Config.sha3 image))
  let images := (List.range 64).map fun i => (s.supImages[i]?).getD []
  let m2 := Config.sha3 (measBytes m1 ++ measBytes (Config.sha3 images.flatten))
  let bad (die : Nat) : Bool := (List.range 16).any fun i => !Config.imageSigned ((images[16 * die + i]?).getD [])
  let s1 : State := { s with meas := [m0, m1, m2, 0], boot := .running }
  let s2 := (List.range 4).foldl (fun t d => if bad d then t.setPart { t.part d with resetting := true, imageBad := true } else t) s1
  extendMeas3 s2 m2

/-- Step 2 with the images to try in order (R456, R457). -/
def bootFrom (s : State) (images : List (List Byte)) : State :=
  match images.find? imageAccepted with
  | some i => bootOn s i
  | none => { s with boot := .recovery }

/-- The sequence from step 1 (R456): a failed self-test holds the part in reset, and no host port trains. -/
def bootPart (s : State) : State :=
  if Config.selfTest then bootFrom { s with meas := [Config.sha3 Config.romBytes, 0, 0, 0] } [s.flashA, s.flashB]
  else { s with boot := .held, hostIf := { s.hostIf with up0 := false, up1 := false } }

/-- The whole part at reset, with what outlives it: flash, and the model's own fields (R459). -/
def freshPart (s : State) : State :=
  { State.reset with
    agenda := s.agenda, cur := s.cur, stepNo := s.stepNo, bootStep := s.stepNo, winStep := s.stepNo, winPrev := s.stepNo, outputs := s.outputs
    busRead := s.busRead, flashA := s.flashA, flashB := s.flashB, supImages := s.supImages }

/-- POWER_ON (R456, R459): the supply ramps, of a part that is off or after it has been taken from a running one. -/
def execPowerOn (s : State) : Host.Outcome State Fault Refusal := .next (bootPart (freshPart s))

/-- PACKAGE_RESET (R459): PERST on both ports, or a watchdog. -/
def execPackageReset (s : State) : Host.Outcome State Fault Refusal :=
  if s.boot = .off then .refused (.notEnabled "PACKAGE_RESET") else .next (bootPart (freshPart s))

/-- A lease renewal in recovery mode restarts the sequence at step 2 with the staged image; flash takes it only after it has
passed (R457). The image goes to slot A: DEDUCED, log entry 35. -/
def recoverPart (s : State) : State :=
  let image := memGetList s.mem vaultBase stageLen
  if imageAccepted image then bootOn { s with flashA := image } image else s

/-! ### Attestation (R458) -/

/-- A host interface register of a port. -/
def hifReg (port off : Nat) : RegAddr := ⟨.hif, port, off⟩

/-- HIF_ATT_STS of a port. -/
def attSts (s : State) (port v : Nat) : State := s.setReg (hifReg port 0xB0) (BitVec.ofNat 64 v)

/-- The signed 256 bytes of a report. -/
def reportHead (s : State) (port : Nat) : List Byte :=
  let w (o : Nat) : List Byte := toBytesLE 8 (s.reg (hifReg port o)).toNat
  toBytesLE 4 0x5A514154 ++ toBytesLE 2 1 ++ toBytesLE 2 2676 ++ w 0x80 ++ w 0x88 ++ w 0x90 ++ w 0x98 ++
  toBytesLE 8 s.now ++ toBytesLE 4 Config.fusedVersion.toNat ++ toBytesLE 4 s.prtCfg ++ toBytesLE 8 0 ++
  measBytes (Config.identityHash (s.meas[1]?.getD 0)) ++ (s.meas.flatMap measBytes) ++ List.replicate 32 0

/-- The port holds the lease (spec/22 R426). -/
def State.isHolder (s : State) (port : Nat) : Bool := s.hostIf.valid && s.hostIf.holder == port

/-- ATTESTATION_REQUEST (R458): the nonce, the measurements and the time are taken in one step. -/
def execAttestationRequest (port : Nat) (value : Word) (s : State) : Host.Outcome State Fault Refusal :=
  if !s.isHolder port ∨ !value.getLsbD 0 ∨ (s.hostIf.attBusy.any fun x => x.1 == port) then .next s
  else
    let buf := (s.reg (hifReg port 0xA0)).toNat / 2 ^ 12 * 2 ^ 12
    if buf + 2676 > 2 ^ 33 then .next (attSts s port 0x10)
    else
      let h := s.hostIf
      .next (attSts { s with hostIf := { h with attBusy := h.attBusy ++ [(port, buf, reportHead s port)] } } port 1)

/-- ATTESTATION_DONE (R458): the report reaches the buffer before busy clears. -/
def execAttestationDone (port : Nat) (s : State) : Host.Outcome State Fault Refusal :=
  match s.hostIf.attBusy.find? fun x => x.1 == port with
  | none => .refused (.notEnabled "ATTESTATION_DONE")
  | some x =>
    let s1 := agentWrite s (vaultBase + x.2.1) (x.2.2 ++ (List.range 2420).map fun i => ((Config.signature x.2.2)[i]?).getD 0)
    let h := s.hostIf
    .next (attSts { s1 with hostIf := { h with attBusy := h.attBusy.filter fun y => y.1 != port } } port 0)

/-! ### Resets of a link and of a virtual function (R459) -/

/-- SINGLE_PORT_PERST (R459): that port's link resets, and comes up again by HOST_LINK_UP. DEDUCED, log entry 35. -/
def execSinglePortPerst (port : Nat) (s : State) : Host.Outcome State Fault Refusal :=
  let h := s.hostIf
  if port ≥ 2 then .refused (.notEnabled "SINGLE_PORT_PERST")
  else .next { s with hostIf := if port = 0 then { h with up0 := false } else { h with up1 := false } }

/-- A queue pair's four indices and last doorbell are zero (spec/22 R429). -/
def zeroQueue (s : State) (q : HostQueue) (state : Nat) : State :=
  let base := vaultBase + q.base.toNat
  let s1 := agentWrite s base (List.replicate 24 0)
  s1.setQueue { q with ri := 0, cwi := 0, last := 0, state := state }

/-- The queue pair is disabled. -/
def disableQueue (s : State) (q : HostQueue) : State := zeroQueue s { q with cfg := q.cfg &&& ~~~0x10#64 } 0

/-- The leaves below a table, with their levels, as a walk takes them (spec/15 R331, R333). -/
def tableLeaves (s : State) (part : Nat) : Nat → Nat → Nat → List (Nat × Word)
  | 0, _, _ => []
  | fuel + 1, level, table =>
    (List.range (lvlCount level)).flatMap fun i =>
      match pteAt s (table + 8 * i) with
      | none => []
      | some e =>
        if !e.getLsbD 63 ∨ e.extractLsb' 46 4 ≠ 0 then []
        else if e.getLsbD 62 then (if level = 0 ∨ pteAddr e % 2 ^ lvlShift level ≠ 0 then [] else [(level, e)])
        else if level ≥ 3 ∨ e.extractLsb' 50 12 ≠ 0 ∨ pteAddr e % (8 * lvlCount (level + 1)) ≠ 0 ∨ !inPart part (pteAddr e) then []
        else tableLeaves s part fuel (level + 1) (pteAddr e)

/-- The frames of a virtual function in a partition's memory: those of the leaves that name it alone (spec/15 R332, R345). -/
def vfFrames (s : State) (part vf : Nat) : List Nat :=
  let root := s.reg (partReg .xltp part 0)
  if !root.getLsbD 63 then []
  else ((tableLeaves s part 4 0 ((root.extractLsb' 15 31).toNat * 2 ^ 15)).filter fun x =>
      !x.2.getLsbD 56 && pteVf x.2 == vf && !pteH x.2 && inPart part (pteAddr x.2)).flatMap fun x =>
    (List.range (2 ^ (lvlShift x.1 - 19))).map fun i => pteAddr x.2 + i * 2 ^ 19

/-- The frames of a virtual function go to the clear engines of the partitions (spec/15 R345). -/
def clearVf (s : State) (vf : Nat) : State :=
  ((List.range 7).filter (partPresent s.prtCfg)).foldl (fun t p => handToClear t p (vfFrames s p vf).eraseDups) s

/-- VF_RESET (R459, spec/22 R433): a virtual function's queue pairs are reset and disabled and its claims released, and its
frames are handed to the clear engine (spec/15 R345). DEDUCED, log entry 34. -/
def execVfReset (vf : Nat) (s : State) : Host.Outcome State Fault Refusal :=
  if vf ≥ 64 then .refused (.notEnabled "VF_RESET")
  else
    let s1 := (s.queues.filter fun q => (q.cfg.extractLsb' 8 6).toNat == vf).foldl disableQueue s
    let mine (c : Claim) : Bool := c.held && (c.owner == 0x4000 + vf + 1 || c.owner == 0x4100 + vf + 1)
    .next (clearVf ((s1.claims.filter mine).foldl (fun t c => freeClaim t c.res) s1) vf)

end Sys2Proof.Machine
end

