-- ==== Sys2Proof/Machine/Hostio.lean ====
section
/-!
DEFINITION. The host ports (spec/22 R425-R431): the lease, links, queue pairs, cross-side queues and the window onto vault
memory.
-/

namespace Sys2Proof.Machine

open Sys2Proof

/-! ### The lease (R426, R430) -/

/-- HIF_LEASE_TTL in ns, within its limits (R427). -/
def leaseTtl (s : State) : Nat := max 1000000 (min 1000000000 ((s.reg (hifReg 0 8)).toNat % 2 ^ 32))

/-- A port becomes holder where there was none: suspended sessions become ACTIVE, the forces of R430 are released, and
levels are evaluated (R430, spec/19 R394). -/
def hostReturns (s : State) : State :=
  let s1 : State := { s with sessions := s.sessions.map fun x =>
      { x with state := if x.state = 3 then 1 else x.state, hostForced := false } }
  (s1.sessions.filter fun x => x.state == 1).foldl (fun t x => evalLevel t x.part x.index) s1

/-- The device runs without a host from now on: every ACTIVE session is forced to L3 (R430). -/
def hostLapses (s : State) : State :=
  let s1 : State := { s with hostIf := { s.hostIf with valid := false, lapsedAt := s.now } }
  (s1.sessions.filter fun x => x.state == 1).foldl (fun t x =>
    enterLevel t { t.session x.part x.index with hostForced := true } 3) s1

/-- LEASE_RENEW (R426; spec/26 R457 in recovery mode); a renewal of port 0 at the instant at which port 1 took the free lease
takes it instead. -/
def execLeaseRenew (port : Nat) (s : State) : Host.Outcome State Fault Refusal :=
  let h := s.hostIf
  if port ≥ 2 ∨ s.boot = .off ∨ s.boot = .held then .refused (.notEnabled "LEASE_RENEW")
  else if s.boot = .recovery then .next (recoverPart s)
  else if !h.valid then
    let t : State := { s with hostIf := { h with
      holder := port, valid := true, epoch := h.epoch + 1, exp := s.now + leaseTtl s
      takenAt := if port = 1 then some s.nowPs else none } }
    .next (hostReturns t)
  else if h.holder = port then .next { s with hostIf := { h with exp := s.now + leaseTtl s } }
  else if port = 0 ∧ h.takenAt = some s.nowPs then .next { s with hostIf := { h with holder := 0, takenAt := none } }
  else .next s

/-- A queue pair has completions that the host has not read (R428). -/
def unreadQueue (s : State) (q : HostQueue) : Bool := decide (s.load (vaultBase + q.base.toNat + 0x10) 8 < q.cwi)

/-- LEASE_EXPIRY (R426): the armed other port takes over, and every pending queue interrupt is raised on it; else the
device runs without a host. -/
def execLeaseExpiry (s : State) : Host.Outcome State Fault Refusal :=
  let h := s.hostIf
  if !h.valid ∨ s.now < h.exp then .refused (.notEnabled "LEASE_EXPIRY")
  else
    let other := 1 - h.holder
    if (s.reg (hifReg other 0x20)).getLsbD 0 then
      let s1 : State := { s with hostIf := { h with holder := other, epoch := h.epoch + 1, exp := s.now + leaseTtl s } }
      .next ((s.queues.filter (unreadQueue s)).foldl (fun t q => t.output (.queueIrq other q.q)) s1)
    else .next (hostLapses s)

/-! ### Links (R425) -/

/-- A port's link comes up or goes down. -/
def setLink (s : State) (port : Nat) (up : Bool) : State :=
  let h := s.hostIf
  { s with hostIf := if port = 0 then { h with up0 := up } else { h with up1 := up } }

/-- HOST_LINK_DOWN (R425, R430): host-homed memory behind the port meets HOST_DOWN from now on (spec/15 R333). -/
def execHostLinkDown (port : Nat) (s : State) : Host.Outcome State Fault Refusal :=
  if port ≥ 2 then .refused (.notEnabled "HOST_LINK_DOWN") else .next (setLink s port false)

/-- HOST_LINK_UP (R425); a part held in reset trains no port (spec/26 R456). -/
def execHostLinkUp (port : Nat) (s : State) : Host.Outcome State Fault Refusal :=
  if port ≥ 2 ∨ s.boot = .held then .refused (.notEnabled "HOST_LINK_UP") else .next (setLink s port true)

/-! ### Queue pairs (R427-R429) -/

/-- The selected queue pair's number; both ports see one register (R426). -/
def queueSel (s : State) : Nat := (s.reg (hifReg 0 0x28)).toNat % 64

/-- DOORBELL (R429): a write of HIF_SQ_DB. DEDUCED, log entry 31. -/
def execDoorbell (port : Nat) (value : Word) (s : State) : Host.Outcome State Fault Refusal :=
  let q := s.queue (queueSel s)
  let w := value.toNat
  if !s.isHolder port ∨ q.state = 2 then .next s
  else if w < q.last then .next (s.setQueue { q with ignored := min (q.ignored + 1) 0xFFFF })
  else if w - q.ri ≤ ringSize q.cfg then .next (s.setQueue { q with last := w })
  else .next (s.setQueue { q with state := 2 })

/-- QUEUE_RESET (R429): a write of HIF_Q_RESET. -/
def execQueueReset (port : Nat) (s : State) : Host.Outcome State Fault Refusal :=
  let q := s.queue (queueSel s)
  if !s.isHolder port then .next s else .next (zeroQueue s q (if q.cfg.getLsbD 4 then 1 else 0))

/-- A write of HIF_Q_BASE (R427). -/
def queueBase (q : HostQueue) (v : Word) : HostQueue := { q with base := v &&& ~~~0xFFF#64 }

/-- A write of HIF_Q_CFG (R427): while enable is 1, it changes only enable. A queue that has overrun stays so until
HIF_Q_RESET (R429). DEDUCED, log entry 31. -/
def queueCfg (q : HostQueue) (v : Word) : HostQueue :=
  let on := v.getLsbD 4
  let state := if q.state = 2 then 2 else if on then 1 else 0
  if q.cfg.getLsbD 4 then { q with cfg := (q.cfg &&& ~~~0x10#64) ||| (v &&& 0x10#64), state := state }
  else if v.extractLsb' 5 3 = 7 then q
  else { q with state := state
                cfg := BitVec.ofNat 64 (max 5 (min 12 (v.toNat % 16)) + v.toNat / 16 % 2 ^ 10 * 16) }

/-- HIF_Q_STS of a queue pair (R427, R428, R430): PAUSED without a host, and while its partition is absent, resetting (spec/11 R254)
or draining. -/
def queueSts (s : State) (q : HostQueue) : Word :=
  let st := if !q.cfg.getLsbD 4 then 0 else if q.state = 2 then 2
    else if !s.hostIf.valid || !partOpen s q.part then 3 else 1
  BitVec.ofNat 64 (st + q.ignored * 2 ^ 32)

/-! ### Cross-side queues (R431) -/

/-- A register of cross-side queue `q`: its base, configuration and status.
The per-queue registers' place: DEDUCED, log entry 31. -/
def csqReg (q off : Nat) : RegAddr := ⟨.hif, 0x100 + q, off⟩

/-- The write index of a cross-side queue, in its ring's first word (R431, spec/20 R403). -/
def csqWrite (s : State) (q : Nat) : Nat := s.load (vaultBase + (s.reg (csqReg q 0x60)).toNat) 8

/-- CSQ_UPDATE (R431): a write index has been advanced; more than the ring holds is an overrun, and a device-to-host update
raises its vector on the holder port, if there is one. -/
def execCsqUpdate (queue : Nat) (s : State) : Host.Outcome State Fault Refusal :=
  let cfg := s.reg (csqReg queue 0x68)
  let base := vaultBase + (s.reg (csqReg queue 0x60)).toNat
  let wi := csqWrite s queue
  let s1 : State := { s with csqSeen := tabSet s.csqSeen queue wi }
  if queue ≥ 64 ∨ !cfg.getLsbD 4 ∨ wi ≤ (tabGet? s.csqSeen queue).getD 0 then .refused (.notEnabled "CSQ_UPDATE")
  else if (s.reg (csqReg queue 0x70)).getLsbD 0 then .next s1
  else if wi - s.load (base + 8) 8 > ringSize cfg then .next (s1.setReg (csqReg queue 0x70) 1)
  else if cfg.getLsbD 5 ∨ !s.hostIf.valid then .next s1
  else .next (s1.output (.msix s.hostIf.holder (cfg.extractLsb' 8 8).toNat))

/-- A write of HIF_CSQ_CFG (R427, R431): enabling clears the overrun, and updates count from the index that the ring then
holds. -/
def csqCfg (s : State) (q : Nat) (v : Word) : State :=
  let old := s.reg (csqReg q 0x68)
  let s1 := if v.getLsbD 4 ∧ !old.getLsbD 4 then
      { s.setReg (csqReg q 0x70) 0 with csqSeen := tabSet s.csqSeen q (csqWrite s q) } else s
  s1.setReg (csqReg q 0x68) (BitVec.ofNat 64 (max 5 (min 12 (v.toNat % 16)) + v.toNat / 16 % 4 * 16 +
    v.toNat / 2 ^ 8 % 2 ^ 8 * 2 ^ 8))

/-! ### The window onto vault memory (R425) -/

/-- HOST_BAR2_WRITE (R425, R426; spec/26 R457): the holder writes vault memory; in recovery mode any port with its link up
writes the staging window; another port's write is ignored. DEDUCED, log entry 33. -/
def execHostBar2Write (port vault : Nat) (data : List Byte) (s : State) : Host.Outcome State Fault Refusal :=
  let up := if port = 0 then s.hostIf.up0 else s.hostIf.up1
  if port ≥ 2 ∨ !up ∨ vault + data.length > 2 ^ 33 then .refused (.notEnabled "HOST_BAR2_WRITE")
  else if s.boot = .recovery then
    (if vault + data.length ≤ stageLen then .next (agentWrite s (vaultBase + vault) data) else .next s)
  else if s.isHolder port then .next (agentWrite s (vaultBase + vault) data)
  else .next s

end Sys2Proof.Machine
end

