-- ==== Sys2Proof/Machine/Regs.lean ====
section
/-!
DEFINITION. The memory-mapped registers: who may write each, what a write stores or starts, and what a read gives (spec/11
R257, spec/13 R294, R302, spec/14 R326, spec/15 R340, R341, spec/17 R373, spec/19 R390, R399, spec/20 R401, R408, R409,
spec/22 R421, R422, R427, R432, spec/23 R434, spec/24 R444, spec/26 R458).
-/

namespace Sys2Proof.Machine

open Sys2Proof

/-! ### Helpers -/

/-- The state that an event leads to, or the same state where it cannot occur. -/
def afterEvent (s : State) (o : Host.Outcome State Fault Refusal) : State := match o with | .next t => t | _ => s

/-- A value with some bits dropped. -/
def dropLow (v : Word) (n : Nat) : Word := BitVec.ofNat 64 (v.toNat / 2 ^ n * 2 ^ n)

/-- Bits lo to lo + n - 1 of a value, in place. -/
def keepBits (v : Word) (lo n : Nat) : Word := BitVec.ofNat 64 (v.toNat / 2 ^ lo % 2 ^ n * 2 ^ lo)

/-- A ring control register: a clamped ring_log, enable and irq_en. -/
def ringCtl (v : Word) : Word := BitVec.ofNat 64 (max 5 (min 12 (v.toNat % 16))) ||| keepBits v 8 2

/-- A read index, clamped to its write index. -/
def setRd (s : State) (wr rd : RegAddr) (v : Word) : State :=
  s.setReg rd (BitVec.ofNat 64 (min v.toNat (s.reg wr).toNat))

/-- An interrupt that is enabled while its ring's indices differ (spec/11 R256, spec/13 R306, spec/15 R340). -/
def raiseRing (s : State) (ctl wr rd : RegAddr) (o : Output) : State :=
  if (s.reg ctl).getLsbD 9 ∧ s.reg wr ≠ s.reg rd then s.output o else s

/-- A party owns a claim. -/
def partyOwns (s : State) (who : Party) (r : Nat) : Bool :=
  match who with
  | .host _ _ | .supervisor _ => s.owns (partyId who) r
  | _ => false

/-- A party owns the partition-control claim of a partition (R432). -/
def ownsPart (s : State) (who : Party) (part : Nat) : Bool := partyOwns s who (1 + partDie part)

/-! ### Per-cluster blocks -/

/-- Writes of the supervisor registers (spec/11 R257). DEDUCED, log entry 36. -/
def writeSup (s : State) (cl off : Nat) (v : Word) : State :=
  let r (o : Nat) : RegAddr := supReg cl o
  let ctx := v.toNat / 2 ^ 32
  match off with
  | 0x00 => s.setReg (r 0) (dropLow v 12)
  | 0x08 => raiseRing (s.setReg (r 8) (ringCtl v)) (r 8) (r 0x10) (r 0x18) (.supIrq cl)
  | 0x18 => setRd s (r 0x10) (r 0x18) v
  | 0x20 => s.setReg (r 0x20) (dropLow v 6)
  | 0x28 =>
    match v.toNat % 16 with
    | 1 => afterEvent s (execCtxSaveCmd cl ctx s)
    | 2 => afterEvent s (execCtxRestoreCmd cl ctx s)
    | 3 => afterEvent s (execCtxEndCmd cl ctx s)
    | _ => s
  | _ => s

/-- XLT_RNG_DATA0-3 take the words of the entry that XLT_RNG_SEL now names (spec/15 R340); where it names no context they stay
as they are. -/
def selectRange (s : State) (cl : Nat) : State :=
  let sel := (s.reg (xltcReg cl 0x30)).toNat
  match s.ctx? (sel % 2 ^ 32) with
  | none => s
  | some c =>
    if c.status = .ended ∨ c.part ≠ s.partOfCluster cl then s
    else
      let e := (c.ranges[sel / 2 ^ 32 % 16]?).getD (0, 0, 0, 0)
      (((s.setReg (xltcReg cl 0x38) e.1).setReg (xltcReg cl 0x40) e.2.1).setReg (xltcReg cl 0x48) e.2.2.1).setReg
        (xltcReg cl 0x50) e.2.2.2

/-- Writes of a cluster's translation registers (spec/15 R339, R340). DEDUCED, log entry 36. -/
def writeXltc (s : State) (cl off : Nat) (v : Word) : State :=
  let r (o : Nat) : RegAddr := xltcReg cl o
  let seq := v.toNat % 2 ^ 32
  match off with
  | 0x00 => s.setReg (r 0) (dropLow v 12)
  | 0x08 => ringFaults (raiseRing (s.setReg (r 8) (ringCtl v)) (r 8) (r 0x10) (r 0x18) (.supIrq cl)) cl
  | 0x18 => ringFaults (setRd s (r 0x10) (r 0x18) v) cl
  | 0x20 =>
    match v.toNat / 2 ^ 32 % 16 with
    | 1 => afterEvent s (execFqReplay cl seq s)
    | 2 => afterEvent s (execFqRefuse cl seq (v.toNat / 2 ^ 40 % 2 ^ 8) s)
    | 3 => afterEvent s (execFqExhausted cl seq s)
    | _ => s
  | 0x30 => selectRange (s.setReg (r 0x30) (keepBits v 0 36)) cl
  | 0x38 | 0x40 | 0x48 => s.setReg (r off) v
  | 0x50 => afterEvent s (execRangeEntryCommit cl v s)
  | _ => s

/-- RED_CTL: a window length of 0 is 1; histograms turned on begin a window (spec/23 R434, R439). -/
def redCtl (s : State) (cl : Nat) (v : Word) : State :=
  let w := max 1 (v.toNat / 2 ^ 16 % 2 ^ 16)
  let s1 := if v.getLsbD 0 ∧ !histOn s cl then s.setRed { s.red cl with hist := [], samples := 0, dropped := 0, winStart := s.now }
    else s
  s1.setReg (redReg cl 0) (BitVec.ofNat 64 (v.toNat % 8 + w * 2 ^ 16))

/-- Writes of the debug, trace and reduction registers by the trace unit's owner (spec/23 R434). -/
def writeTrace (s : State) (cl off : Nat) (v : Word) : State :=
  let r (o : Nat) : RegAddr := redReg cl o
  let ctx := v.toNat / 2 ^ 32
  match off with
  | 0x00 => redCtl s cl v
  | 0x08 => s.setReg (r 8) (BitVec.ofNat 64 (max 100 (min 1000000 v.toNat)))
  | 0x10 => s.setReg (r 0x10) (dropLow v 15)
  | 0x20 => s.setReg (r 0x20) (dropLow v 12)
  | 0x28 => s.setReg (r 0x28) (BitVec.ofNat 64 (max 5 (min 12 (v.toNat % 16))) ||| keepBits (s.reg (r 0x28)) 32 16)
  | 0x38 => setRd s (r 0x30) (r 0x38) v
  | 0x40 => s.setReg (r 0x40) v
  | 0x48 => raiseRing (ringDebug (s.setReg (r 0x48) (ringCtl v)) cl) (r 0x48) (r 0x50) (r 0x58) (.ownerIrq (s.partOfCluster cl))
  | 0x58 => ringDebug (setRd s (r 0x50) (r 0x58) v) cl
  | 0x60 => s.setReg (r 0x60) (dropLow v 6)
  | 0x68 =>
    match v.toNat % 16 with
    | 1 => afterEvent s (execDbgSave cl ctx s)
    | 2 => afterEvent s (execDbgRestore cl ctx s)
    | 3 => afterEvent s (execDbgResume cl ctx s)
    | _ => s
  | _ =>
    if 0x80 ≤ off ∧ off < 0xC0 ∧ off % 8 = 0 then
      s.setReg (r off) (keepBits v 2 30 ||| keepBits v 32 4 ||| keepBits v 40 3 ||| keepBits v 48 1)
    else if 0xC0 ≤ off ∧ off < 0x100 ∧ off % 16 = 0 then s.setReg (r off) v
    else if 0xC0 ≤ off ∧ off < 0x100 ∧ off % 16 = 8 then s.setReg (r off) (keepBits v 0 34 ||| keepBits v 48 1)
    else s

/-- Writes of the counter bank by its owner (spec/23 R434, R442). -/
def writeCounter (s : State) (cl off : Nat) (v : Word) : State :=
  if off < 0x300 then (if off % 8 = 0 then setCounter s (8 * cl + (off - 0x100) / 64) ((off - 0x100) / 8 % 8) v else s)
  else if off = 0x340 then s.setReg (redReg cl 0x340) (keepBits v 0 7)
  else if off = 0x348 then
    { s with latches := tabSet s.latches (s.reg (redReg cl 0x340)).toNat (keepBits v 0 40) }
  else s

/-- The offsets that the counter-bank claim governs. -/
def counterOff (off : Nat) : Bool := (decide (0x100 ≤ off) && decide (off < 0x300)) || off == 0x340 || off == 0x348

/-! ### Per-partition blocks -/

/-- Policies of a traffic class: a code of 11 is stored as 01 (spec/13 R293). -/
def clampPolicy (v : Nat) : Nat := if v % 4 = 3 then 1 else v % 4

/-- Writes of a partition's memory registers (spec/13 R294). -/
def writePrtm (s : State) (part off : Nat) (v : Word) : State :=
  let n := v.toNat
  let r (o : Nat) : RegAddr := errReg part o
  if off % 8 ≠ 0 then s
  else if off < 0x220 then s.setReg (r off) (keepBits v 0 15)
  else if off < 0x240 then
    s.setReg (r off) (BitVec.ofNat 64 (clampPolicy n + clampPolicy (n / 4) * 4 + clampPolicy (n / 16) * 16))
  else match off with
    | 0x240 => s.setReg (r 0x240) (dropLow v 12)
    | 0x248 =>
      raiseRing (s.setReg (r 0x248) (ringCtl v ||| keepBits (s.reg (r 0x248)) 32 16)) (r 0x248) (r 0x250) (r 0x258)
        (.ownerIrq part)
    | 0x258 => setRd s (r 0x250) (r 0x258) v
    | _ => s

/-- Writes of a partition's translation registers (spec/15 R341). -/
def writeXltp (s : State) (part off : Nat) (v : Word) : State :=
  match off with
  | 0x00 => s.setReg (xltpReg part 0) (keepBits v 15 31 ||| keepBits v 63 1)
  | 0x08 => afterEvent s (execXltInv part v s)
  | 0x20 => s.setReg (xltpReg part 0x20) (keepBits v 19 29)
  | 0x28 => s.setReg (xltpReg part 0x28) (keepBits v 19 29)
  | 0x30 => if v.getLsbD 0 then afterEvent s (execSwapStart part s) else s
  | 0x40 => afterEvent s (execXltClrAdd part v s)
  | _ => s

/-- A register of a partition's Lehr block. -/
def lhrReg (part off : Nat) : RegAddr := partReg .lhr part off

/-- The domain that LHR_DOM_SEL names. DEDUCED, log entry 36. -/
def domSel (s : State) (part : Nat) : Nat := (s.reg (lhrReg part 0)).toNat % 4096

/-- The key of the grid of a partition that a GRID names (spec/25 R450): the latest, or 0 for none. -/
def gridNamed (s : State) (part grid : Nat) : Nat :=
  ((s.grids.filter fun g => g.part == part && g.id == grid).getLast?.map (·.key)).getD 0

/-- A write of LHR_DOM_CFG by the Gaffer (spec/17 R373): ignored while the domain holds an uncommitted task; binding returns
the counters to zero. -/
def writeDomCfg (s : State) (part : Nat) (v : Word) : State :=
  let dom := domSel s part
  let g := v.toNat / 2 ^ 32
  let old := s.dom? part dom
  if (s.frontierTask part dom).isSome then s
  else
    let zero : Domain := { part := part, dom := dom, bound := false, ordered := false, gkey := 0, cfgGrid := 0, nextSeq := 1,
                           commits := 0, conflicts := 0, others := 0, discards := 0 }
    let was := match old with | some d => d.bound | none => false
    let d := if v.getLsbD 0 ∧ !was then zero else old.getD zero
    let d1 := { d with bound := v.getLsbD 0, ordered := v.getLsbD 1, cfgGrid := BitVec.ofNat 32 g,
                       gkey := gridNamed s part g }
    { s with domains := putBy s.domains (fun x => x.part == part && x.dom == dom) d1 }

/-- Caps of GAF_UCAP, each at most 1024. -/
def clampCaps (v : Nat) : Nat :=
  min 1024 (v % 2 ^ 11) + min 1024 (v / 2 ^ 16 % 2 ^ 11) * 2 ^ 16 + min 1024 (v / 2 ^ 32 % 2 ^ 11) * 2 ^ 32

/-- Word `i` of a session entry is written (spec/19 R390, R399): the RO fields keep what they hold, and an entry that is not
FREE takes only words 7 and 8. -/
def writeSesWord (s : State) (part i : Nat) (v : Word) : State :=
  let x := s.session part (sesSel s part)
  if i = 10 ∨ (x.state ≠ 0 ∧ i ≠ 7 ∧ i ≠ 8) then s
  else
    let w : Word := if i = 0 then v &&& ~~~0x000000073F000003#64 else v
    s.setSession { x with words := x.words.set i w }

/-- A write of GAF_SES_CMD (spec/19 R399). -/
def sesCmd (s : State) (part : Nat) (v : Word) : State :=
  match v.toNat % 16 with
  | 1 => afterEvent s (execSessionAdmit part s)
  | 2 => afterEvent s (execSessionClose part s)
  | 3 =>
    if v.getLsbD 10 then afterEvent s (execSessionForceRelease part s)
    else afterEvent s (execSessionForceLevel part (v.toNat / 2 ^ 8 % 4) s)
  | _ => s

/-- Writes of a partition's Gaffer registers (spec/19 R399). -/
def writeGaf (s : State) (part off : Nat) (v : Word) : State :=
  let n := v.toNat
  let r (o : Nat) : RegAddr := gafReg part o
  match off with
  | 0x00 => if v.getLsbD 16 then s.setReg (r 0) (s.reg (r 0) &&& ~~~0x10000#64) else s
  | 0x08 => s.setReg (r 8) (BitVec.ofNat 64 (clampCaps n))
  | 0x10 => s.setReg (r 0x10) v
  | 0x18 => s.setReg (r 0x18) v
  | 0x20 => s.setReg (r 0x20) (BitVec.ofNat 64 (min 4096 n))
  | 0x28 => s.setReg (r 0x28) (BitVec.ofNat 64 (n % 2 ^ 32 + max 1 (n / 2 ^ 32 % 2 ^ 8) * 2 ^ 32))
  | 0x30 => s.setReg (r 0x30) (dropLow v 12)
  | 0x38 => dsqWrite s part v
  | 0x48 => s.setReg (r 0x48) (keepBits v 0 12)
  | 0xD0 => sesCmd s part v
  | 0xE0 => s.setReg (r 0xE0) (keepBits v 0 6 ||| keepBits v 8 3)
  | _ => if 0x50 ≤ off ∧ off < 0xD0 ∧ off % 8 = 0 then writeSesWord s part ((off - 0x50) / 8) v else s

/-- Writes of a partition's island registers over MMIO (spec/24 R444). -/
def writeDvf (s : State) (part off : Nat) (v : Word) : State :=
  let i := (s.reg (partReg .dvf part 8)).toNat % 512
  match off with
  | 0x00 => s.setReg (partReg .dvf part 0) (keepBits v 0 32)
  | 0x08 => s.setReg (partReg .dvf part 8) (keepBits v 0 9)
  | 0x10 | 0x28 => if partHas part (i / 8) then busWrite s i off v else s
  | _ => s

/-! ### Device-wide blocks -/

/-- The endpoint's selected session. DEDUCED, log entry 36. -/
def uepSel (s : State) : Nat := (s.reg ⟨.uep, 0, 0⟩).toNat % 4096

/-- A party owns the partition-control claim of the partition that holds a session's primary die (spec/20 R401). -/
def ownsPrimary (s : State) (who : Party) (session : Nat) : Bool :=
  (List.range 7).any fun p =>
    partPresent s.prtCfg p && ownsPart s who p &&
    (match primaryOf s session with
     | some x => partOfDie s.prtCfg (x.field 9 0 2) == p
     | none => partOfDie s.prtCfg ((s.session p session).field 9 0 2) == p)

/-- A ring word of an entry, its logs within their limits (spec/20 R401). -/
def clampRing (v : Word) : Word :=
  BitVec.ofNat 64 (v.toNat / 2 ^ 12 * 2 ^ 12 + max 7 (min 13 (v.toNat / 2 ^ 8 % 16)) * 2 ^ 8 + max 5 (min 12 (v.toNat % 16)))

/-- Word `i` of an endpoint entry is written (spec/20 R401): while enable is 1, only enable and the active die
change. The mirror length's bit 20 holds the limit of 1 MiB: log entry 36. -/
def writeEpWord (s : State) (i : Nat) (v : Word) : State :=
  let e := s.ep (uepSel s)
  let on := e.field 0 0 1 == 1
  let w0 := (e.words[0]?).getD 0
  let w : Word := match i with
    | 0 => if on then (w0 &&& ~~~3#64) ||| keepBits v 0 2 else keepBits v 0 4
    | 3 | 4 => clampRing v
    | 5 | 6 => dropLow v 6
    | 7 => BitVec.ofNat 64 (min 0x100000 (v.toNat % 2 ^ 32 / 64 * 64))
    | _ => v
  if on ∧ i ≠ 0 then s else s.setEp { e with words := e.words.set i w }

/-- Writes of the endpoint's registers (spec/20 R409). -/
def writeUep (s : State) (who : Party) (off : Nat) (v : Word) : State :=
  if off = 0 then s.setReg ⟨.uep, 0, 0⟩ (keepBits v 0 12)
  else if off % 8 = 0 ∧ off ≤ 0x40 ∧ ownsPrimary s who (uepSel s) then writeEpWord s (off / 8 - 1) v
  else s

/-- Writes of the time unit (spec/20 R408). -/
def writePtm (s : State) (off : Nat) (v : Word) : State :=
  match off with
  | 0x08 => { s with time := { s.time with rate := clampAbs (200000 * 2 ^ 16) v.toInt } }
  | 0x10 => afterEvent s (execPtmStep v s)
  | _ => s

/-- A write of PRT_QCMD (spec/22 R422). -/
def partCommand (s : State) (v : Word) : State :=
  let pair := v.toNat / 2 ^ 8 % 2
  match v.toNat % 8 with
  | 1 => afterEvent s (execMergePair pair s)
  | 2 => afterEvent s (execSplitPair pair s)
  | 3 => afterEvent s (execMergeW s)
  | 4 => afterEvent s (execSplitW s)
  | _ => s

/-- Writes of the partition controller (spec/22 R422). -/
def writePrt (s : State) (off : Nat) (v : Word) : State :=
  match off with
  | 0x1008 => partCommand s v
  | 0x1018 => s.setReg (prtReg 0x1018) (BitVec.ofNat 64 (max 1000 (v.toNat % 2 ^ 32)))
  | _ => s

/-- Writes of the host interface by the holder port (spec/22 R427, spec/26 R458). -/
def writeHif (s : State) (port off : Nat) (v : Word) : State :=
  let q := s.queue (queueSel s)
  let c := (s.reg (hifReg 0 0x58)).toNat % 64
  match off with
  | 0x08 => s.setReg (hifReg 0 8) (BitVec.ofNat 64 (max 1000000 (min 1000000000 (v.toNat % 2 ^ 32))))
  | 0x28 => s.setReg (hifReg 0 0x28) (keepBits v 0 6)
  | 0x30 => s.setQueue (queueBase q v)
  | 0x38 => s.setQueue (queueCfg q v)
  | 0x40 => afterEvent s (execDoorbell port v s)
  | 0x50 => afterEvent s (execQueueReset port s)
  | 0x58 => s.setReg (hifReg 0 0x58) (keepBits v 0 6)
  | 0x60 => s.setReg (csqReg c 0x60) (dropLow v 12)
  | 0x68 => csqCfg s c v
  | 0x80 | 0x88 | 0x90 | 0x98 => s.setReg (hifReg port off) v
  | 0xA0 => s.setReg (hifReg port 0xA0) (dropLow v 12)
  | 0xA8 => afterEvent s (execAttestationRequest port v s)
  | _ => s

/-- A write of PTY_CLAIM[r] (spec/22 R432). -/
def writeClaim (s : State) (who : Party) (r : Nat) (v : Word) : State :=
  match who with
  | .gaffer | .jeldaeth => s
  | _ =>
    match v.toNat % 4 with
    | 1 => afterEvent s (execClaim r (partyId who) s)
    | 2 => afterEvent s (execClaimRelease r (partyId who) s)
    | 3 => afterEvent s (execClaimHandover r (partyId who) (v.toNat / 2 ^ 16 % 2 ^ 16) s)
    | _ => s

/-! ### The write -/

/-- The partition whose block a die's registers are: none while the die is not its partition's lowest (spec/22 R421). -/
def blockPart (s : State) (die : Nat) : Option Nat :=
  let p := partOfDie s.prtCfg die
  if die < 4 ∧ partDie p = die then some p else none

/-- A supervisor of a partition. -/
def supervises (s : State) (who : Party) (part : Nat) : Bool :=
  match who with
  | .supervisor c => s.partOfCluster c == part
  | _ => false

/-- A write of a per-partition block (spec/22 R421). -/
def writePartBlock (s : State) (who : Party) (b : Block) (part off : Nat) (v : Word) : State :=
  match b with
  | .prtm => if ownsPart s who part then writePrtm s part off v else s
  | .xltp => if ownsPart s who part || supervises s who part then writeXltp s part off v else s
  | .gaf => if ownsPart s who part then writeGaf s part off v else s
  | .dvf => if ownsPart s who part then writeDvf s part off v else s
  | .lhr =>
    if off = 0 then s.setReg (lhrReg part 0) (keepBits v 0 12)
    else if off = 8 ∧ who = .gaffer then writeDomCfg s part v
    else s
  | _ => s

/-- A write of the host interface (spec/22 R426, R427): RENEW and the port's own HIF_STBY from any port, the rest from the
holder. -/
def writePort (s : State) (who : Party) (port off : Nat) (v : Word) : State :=
  match who with
  | .host p _ =>
    if p ≠ port then s
    else if off = 0x10 then afterEvent s (execLeaseRenew port s)
    else if s.boot ≠ .running then s
    else if off = 0x20 then s.setReg (hifReg port 0x20) (keepBits v 0 1)
    else if s.isHolder port then writeHif s port off v
    else s
  | _ => s

/-- REGISTER_WRITE: a party writes a register. A write that its block does not take from that party, and one to an offset
without a writable register, changes nothing, nor does one of a port that does not hold the lease (spec/22 R426); in recovery mode only the lease answers (spec/26 R457). -/
def writeReg (s : State) (who : Party) (a : RegAddr) (v : Word) : State :=
  if a.block = .hif then writePort s who a.scope a.off v
  else if s.boot ≠ .running ∨ !partyCounts s (partyId who) then s
  else match a.block with
    | .sup => if who = .supervisor a.scope then writeSup s a.scope a.off v else s
    | .xltc => if who = .supervisor a.scope then writeXltc s a.scope a.off v else s
    | .mrv =>
      if who = .gaffer ∧ a.scope < 8 ∧ a.off < 0x1000 ∧ a.off % 4 = 0 then s.setReg a (keepBits v 0 13) else s
    | .uep => if a.scope = 0 then writeUep s who a.off v else s
    | .ptm => if who = .jeldaeth ∧ a.scope = 0 then writePtm s a.off v else s
    | .prt => if partyOwns s who 0 ∧ a.scope = 0 then writePrt s a.off v else s
    | .pty => if a.scope = 0 ∧ a.off % 8 = 0 ∧ a.off / 8 < 136 then writeClaim s who (a.off / 8) v else s
    | .red =>
      if a.scope ≥ 64 then s
      else if counterOff a.off then (if partyOwns s who (8 + a.scope) then writeCounter s a.scope a.off v else s)
      else if partyOwns s who (72 + a.scope) then writeTrace s a.scope a.off v
      else s
    | b => match blockPart s a.scope with
      | some p => writePartBlock s who b p a.off v
      | none => s

/-- REGISTER_WRITE (R294 and the blocks' own rules); a supervisor that waits for a write of action 3 writes nothing meanwhile
(spec/16 R350). -/
def execRegisterWrite (who : Party) (reg : RegAddr) (value : Word) (s : State) : Host.Outcome State Fault Refusal :=
  match who with
  | .supervisor c => supAccess "REGISTER_WRITE" c s (writeReg s who reg value)
  | _ => .next (writeReg s who reg value)

/-! ### What a read gives -/

/-- Sums of the lane that GAF_LANE_SEL names (spec/19 R399). -/
def laneUtil (s : State) (part : Nat) : Word :=
  let v := (s.reg (gafReg part 0xE0)).toNat
  let base := 8 * (v % 64) + v / 2 ^ 8 % 8
  match s.sessions.find? fun x => x.part == part && x.holds && x.laneBase == base with
  | none => 0
  | some x =>
    let t := laneSums s part (laneSessions s part base x.width)
    BitVec.ofNat 64 (t.1 % 2 ^ 21 + t.2.1 % 2 ^ 21 * 2 ^ 21 + t.2.2 % 2 ^ 21 * 2 ^ 42)

/-- Word `i` of a session entry as it reads (spec/19 R390). -/
def readSesWord (x : Session) (i : Nat) : Word :=
  let w := (x.words[i]?).getD 0
  if i = 0 then
    (w &&& ~~~0x000000073F000003#64) |||
      BitVec.ofNat 64 (x.state + (if x.holds then x.laneCluster * 2 ^ 24 + x.laneCore * 2 ^ 32 else 0))
  else if i = 10 then
    BitVec.ofNat 64 (x.level + (if x.forced || x.hostForced then 4 else 0) + x.misses % 2 ^ 32 * 2 ^ 32)
  else w

/-- Reads of the Gaffer's block. -/
def readGaf (s : State) (part off : Nat) : Word :=
  if off = 0 then
    s.reg (gafReg part 0) ||| BitVec.ofNat 64 (s.sessions.filter fun x => x.part == part && (x.state == 1 || x.state == 3)).length
  else if 0x50 ≤ off ∧ off < 0xD0 ∧ off % 8 = 0 then readSesWord (s.session part (sesSel s part)) ((off - 0x50) / 8)
  else if off = 0xD0 then 0
  else if off = 0xE8 then laneUtil s part
  else s.reg (gafReg part off)

/-- Reads of the Lehr's block (spec/17 R373). -/
def readLhr (s : State) (part off : Nat) : Word :=
  let d := s.dom? part (domSel s part)
  let bit (b : Bool) (n : Nat) : Nat := if b then n else 0
  match off with
  | 0x08 => match d with
    | some x => BitVec.ofNat 64 (bit x.bound 1 + bit x.ordered 2 + x.cfgGrid.toNat * 2 ^ 32)
    | none => 0
  | 0x10 => s.frontier part (domSel s part)
  | 0x18 => match d with | some x => x.commits | none => 0
  | 0x20 => match d with | some x => BitVec.ofNat 64 (x.conflicts.toNat + x.others.toNat * 2 ^ 32) | none => 0
  | 0x28 => match d with | some x => x.discards | none => 0
  | 0x30 =>
    let mine := s.domains.filter fun x => x.part == part
    BitVec.ofNat 64 ((mine.filter fun x => x.bound && x.ordered).length +
      (mine.filter fun x => (s.frontierTask part x.dom).isSome).length * 2 ^ 32)
  | _ => s.reg (lhrReg part off)

/-- Reads of a partition's translation registers (spec/15 R341). -/
def readXltp (s : State) (part off : Nat) : Word :=
  match off with
  | 0x10 => if (s.part part).invGran.isSome then 1 else 0
  | 0x08 | 0x30 | 0x40 => 0
  | 0x48 => BitVec.ofNat 64 ((s.clear.filter fun f => f.part == part).length + bitmapsUsed s part * 2 ^ 32)
  | _ => s.reg (xltpReg part off)

/-- Reads of the island registers over MMIO (spec/24 R444). -/
def readDvf (s : State) (part off : Nat) : Word :=
  let i := (s.reg (partReg .dvf part 8)).toNat % 512
  let x := s.island i
  if off ≤ 8 then s.reg (partReg .dvf part off)
  else if !partHas part (i / 8) then 0
  else match off with
    | 0x10 => x.req
    | 0x18 => x.cur
    | 0x20 => x.sts (s.islandTemp i)
    | 0x28 => BitVec.ofNat 64 x.tHi
    | _ => if 0x30 ≤ off ∧ off < 0x70 ∧ off % 8 = 0 then s.reg (redReg (i / 8) (0x300 + (off - 0x30))) else 0

/-- Reads of the debug, trace and counter block (spec/23 R434). -/
def readRed (s : State) (cl off : Nat) : Word :=
  if 0x100 ≤ off ∧ off < 0x300 then counterValue s (8 * cl + (off - 0x100) / 64) ((off - 0x100) / 8 % 8)
  else if off = 0x348 then (tabGet? s.latches (s.reg (redReg cl 0x340)).toNat).getD 0
  else if off = 0x68 then 0
  else s.reg (redReg cl off)

/-- Reads of the host interface (spec/22 R427). -/
def readHif (s : State) (port off : Nat) : Word :=
  let h := s.hostIf
  let c := (s.reg (hifReg 0 0x58)).toNat % 64
  match off with
  | 0x00 => BitVec.ofNat 64 (h.holder + (if h.valid then 2 else 0) + h.epoch.toNat * 2 ^ 32)
  | 0x18 => BitVec.ofNat 64 h.exp
  | 0x30 => (s.queue (queueSel s)).base
  | 0x38 => (s.queue (queueSel s)).cfg
  | 0x48 => queueSts s (s.queue (queueSel s))
  | 0x60 | 0x68 | 0x70 => s.reg (csqReg c off)
  | 0x10 | 0x40 | 0x50 | 0xA8 => 0
  | 0x08 | 0x28 | 0x58 => s.reg (hifReg 0 off)
  | _ => s.reg (hifReg port off)

/-- Reads of the endpoint (spec/20 R409). -/
def readUep (s : State) (off : Nat) : Word :=
  let e := s.ep (uepSel s)
  if 8 ≤ off ∧ off ≤ 0x40 ∧ off % 8 = 0 then
    (if off = 0x40 then keepBits ((e.words[7]?).getD 0) 0 21 ||| BitVec.ofNat 64 (e.generation % 2 ^ 32 * 2 ^ 32)
     else (e.words[off / 8 - 1]?).getD 0)
  else if off = 0x48 then BitVec.ofNat 64 (e.released.toNat + e.discarded.toNat * 2 ^ 32 + e.full.toNat * 2 ^ 48)
  else s.reg ⟨.uep, 0, off⟩

/-- Reads of the time unit (spec/20 R408). -/
def readPtm (s : State) (off : Nat) : Word :=
  match off with
  | 0x00 => BitVec.ofNat 64 s.now
  | 0x08 => BitVec.ofInt 64 s.time.rate
  | 0x18 =>
    BitVec.ofNat 64 ((if s.time.locked then 1 else 0) + (if s.time.holdover then 2 else 0) +
      (BitVec.ofInt 32 s.time.lastOffset).toNat * 2 ^ 32)
  | _ => 0

/-- A register that responds gives a value (R294, R341, R399, R422, R434). -/
def regValue (s : State) (a : RegAddr) : Word :=
  match a.block with
  | .sup => if a.off = 0x28 then 0 else s.reg a
  | .xltc =>
    if a.off = 0x20 then 0
    else if a.off = 0x28 then s.reg a ||| BitVec.ofNat 64 (s.faults.filter fun f => f.cluster == a.scope && f.unres).length
    else s.reg a
  | .mrv => s.reg a
  | .uep => readUep s a.off
  | .ptm => readPtm s a.off
  | .prt => if a.off = 0x1008 then 0 else s.reg a
  | .pty => claimWord s (a.off / 8)
  | .red => readRed s a.scope a.off
  | .hif => readHif s a.scope a.off
  | b => match blockPart s a.scope with
    | none => 0
    | some p => match b with
      | .xltp => readXltp s p a.off
      | .gaf => readGaf s p a.off
      | .lhr => readLhr s p a.off
      | .dvf => readDvf s p a.off
      | _ => s.reg (partReg b p a.off)

/-- What a read of a register gives; every party may read. Before the part has booted nothing responds, but HIF_LEASE in recovery
mode (spec/26 R457). -/
def readReg (s : State) (a : RegAddr) : Option Word :=
  if s.boot = .running ∨ (s.boot = .recovery ∧ a.block = .hif ∧ a.off = 0) then some (regValue s a) else none

end Sys2Proof.Machine
end

