-- ==== Sys2Proof/Machine/Events.lean ====
section
/-!
DEFINITION. What a step of the model runs, and how a word is placed where the next step fetches it.
-/

namespace Sys2Proof.Machine

open Sys2Proof

/-- The next thing that happens: the agenda's head, or, while it is empty, the current core's issue.
The agenda is the model's own: DESIGN CHOICE, log entry 8. -/
def nextInstr (s : State) : Instr := match s.agenda with | i :: _ => i | [] => .bundleIssue s.cur

/-- The state without what is about to happen. -/
def popAgenda (s : State) : State := { s with agenda := s.agenda.tail }

/-- Let a step's time pass. The time that passes is free (log entry 2). -/
def elapse (o : Host.Outcome State Fault Refusal) : Host.Outcome State Fault Refusal :=
  match o with
  | .next t => .next (advance t)
  | .fault r => .fault r
  | .refused r => .refused r

/-! ### Placing a word (log entry 11) -/

/-- Bytes of the longest bundle, with a word of slack. -/
def placeLen : Nat := 96

/-- A context stands at the start of a bundle, with nothing that comes before its issue. -/
def clearBoundary (c : Ctx) : Ctx :=
  { c with rep := 0, shl := 0, pend := false, target := 0, done := 0, partBundle := false, barWait := none,
           killCause := none, nextPc := none, view := none, bpSkip := 0, began := none, leave := none,
           tasks := c.tasks.map fun t => { t with gone := false } }

/-- A kernel of one member that is loaded on a core: its grid, its gang and its context, with full windows. -/
def loadMember (s : State) : State :=
  let hdr : KHeader := { aG := 16, vG := 16, banks := 1, barriers := 1, codeLen := placeLen }
  let c : Ctx := { handle := s.nextCtx, gkey := s.nextKey, gang := 0, seqid := 0, core := s.cur, hdr := hdr, bankList := [0],
                   part := s.partOfCluster (clusterOf s.cur) }
  let gang : Gang := { index := 0, status := .running, members := [s.nextCtx], bars := [{}], barCore := s.cur }
  let g : Grid := { key := s.nextKey, part := c.part, kind := .launch, status := .ready, sub := 1, desc := {}, hdr := hdr,
                    gangs := [gang], nextGang := 1, setUp := true }
  let k := s.core s.cur
  let s1 : State := { s with boot := .running, nextCtx := s.nextCtx + 1, nextKey := s.nextKey + 1, ctxs := c :: s.ctxs,
                             grids := g :: s.grids }
  s1.setCore s.cur { k with
    cur := some c.handle
    code := { gkey := c.gkey, ibase := 0, len := placeLen, off := 2 ^ 18 - placeLen } :: k.code }

/-- A bundle's bytes stand at the pc of the context that the current core issues next; where none is ready, one is loaded.
DESIGN CHOICE, log entry 11. -/
def placeWord (s0 : State) (nbits w : Nat) : State :=
  let s : State := { s0 with agenda := [], islands := tabSet s0.islands s0.cur { s0.island s0.cur with stage := 0 } }
  let s1 := match pick s s.cur with | some _ => s | none => loadMember s
  match pick s1 s1.cur with
  | none => s1
  | some c =>
    let s2 := s1.setCtx (clearBoundary c)
    let k := s2.core s2.cur
    let off := match s2.codeOf c with
      | some g => if g.ibase ≤ c.pc.toNat ∧ c.pc.toNat < g.ibase + g.len then some (g.off + (c.pc.toNat - g.ibase)) else none
      | none => none
    let code := match off with
      | some _ => k.code.map fun g => if g.gkey = c.gkey then { g with len := max g.len (c.pc.toNat - g.ibase + placeLen) } else g
      | none => { gkey := c.gkey, ibase := c.pc.toNat, len := placeLen, off := 2 ^ 18 - placeLen } ::
          k.code.filter fun g => g.gkey != c.gkey
    let s3 := s2.setCore s2.cur { k with cur := some c.handle, code := code }
    s3.storeBytes (codeBase + s3.cur * 2 ^ 18 + off.getD (2 ^ 18 - placeLen)) (toBytesLE 80 (w % 2 ^ nbits))

end Sys2Proof.Machine
end

