-- ==== Sys2Proof/Machine/Dispatch.lean ====
section
/-! DEFINITION. The dispatch of every operation and event of the opcode table to its meaning. -/

namespace Sys2Proof.Machine

open Sys2Proof

def exec (i : Instr) (s : State) : Host.Outcome State Fault Refusal :=
  match i with
  | .br p f => Sys2Proof.Machine.execBr p f s
  | .jmp p f => Sys2Proof.Machine.execJmp p f s
  | .call p f => Sys2Proof.Machine.execCall p f s
  | .callc p f => Sys2Proof.Machine.execCallc p f s
  | .ret p f => Sys2Proof.Machine.execRet p f s
  | .loop p f => Sys2Proof.Machine.execLoop p f s
  | .loopd p f => Sys2Proof.Machine.execLoopd p f s
  | .loopx p f => Sys2Proof.Machine.execLoopx p f s
  | .fork p f => Sys2Proof.Machine.execFork p f s
  | .forkr p f => Sys2Proof.Machine.execForkr p f s
  | .join p f => Sys2Proof.Machine.execJoin p f s
  | .take p f => Sys2Proof.Machine.execTake p f s
  | .retire p f => Sys2Proof.Machine.execRetire p f s
  | .retireT p f => Sys2Proof.Machine.execRetireT p f s
  | .yield p f => Sys2Proof.Machine.execYield p f s
  | .fget p f => Sys2Proof.Machine.execFget p f s
  | .fput p f => Sys2Proof.Machine.execFput p f s
  | .phase p f => Sys2Proof.Machine.execPhase p f s
  | .binit p f => Sys2Proof.Machine.execBinit p f s
  | .barrive p f => Sys2Proof.Machine.execBarrive p f s
  | .bwait p f => Sys2Proof.Machine.execBwait p f s
  | .frd p f => Sys2Proof.Machine.execFrd p f s
  | .lvlrd p f => Sys2Proof.Machine.execLvlrd p f s
  | .emrd p f => Sys2Proof.Machine.execEmrd p f s
  | .srd p f => Sys2Proof.Machine.execSrd p f s
  | .swr p f => Sys2Proof.Machine.execSwr p f s
  | .ecall p f => Sys2Proof.Machine.execEcall p f s
  | .trap p f => Sys2Proof.Machine.execTrap p f s
  | .uret p f => Sys2Proof.Machine.execUret p f s
  | .dbrk p f => Sys2Proof.Machine.execDbrk p f s
  | .tkwait p f => Sys2Proof.Machine.execTkwait p f s
  | .cli p f => Sys2Proof.Machine.execCli p f s
  | .clui p f => Sys2Proof.Machine.execClui p f s
  | .cadd p f => Sys2Proof.Machine.execCadd p f s
  | .csub p f => Sys2Proof.Machine.execCsub p f s
  | .cmul p f => Sys2Proof.Machine.execCmul p f s
  | .cand p f => Sys2Proof.Machine.execCand p f s
  | .cor p f => Sys2Proof.Machine.execCor p f s
  | .cxor p f => Sys2Proof.Machine.execCxor p f s
  | .csll p f => Sys2Proof.Machine.execCsll p f s
  | .csrl p f => Sys2Proof.Machine.execCsrl p f s
  | .csra p f => Sys2Proof.Machine.execCsra p f s
  | .ccmp p f => Sys2Proof.Machine.execCcmp p f s
  | .cmov p f => Sys2Proof.Machine.execCmov p f s
  | .cpset p f => Sys2Proof.Machine.execCpset p f s
  | .cpget p f => Sys2Proof.Machine.execCpget p f s
  | .add p f => Sys2Proof.Machine.execAdd p f s
  | .sub p f => Sys2Proof.Machine.execSub p f s
  | .mul p f => Sys2Proof.Machine.execMul p f s
  | .mulh p f => Sys2Proof.Machine.execMulh p f s
  | .div p f => Sys2Proof.Machine.execDiv p f s
  | .rem p f => Sys2Proof.Machine.execRem p f s
  | .and p f => Sys2Proof.Machine.execAnd p f s
  | .or p f => Sys2Proof.Machine.execOr p f s
  | .xor p f => Sys2Proof.Machine.execXor p f s
  | .sll p f => Sys2Proof.Machine.execSll p f s
  | .srl p f => Sys2Proof.Machine.execSrl p f s
  | .sra p f => Sys2Proof.Machine.execSra p f s
  | .min p f => Sys2Proof.Machine.execMin p f s
  | .max p f => Sys2Proof.Machine.execMax p f s
  | .abs p f => Sys2Proof.Machine.execAbs p f s
  | .clz p f => Sys2Proof.Machine.execClz p f s
  | .popc p f => Sys2Proof.Machine.execPopc p f s
  | .ext p f => Sys2Proof.Machine.execExt p f s
  | .xtr p f => Sys2Proof.Machine.execXtr p f s
  | .ins p f => Sys2Proof.Machine.execIns p f s
  | .li p f => Sys2Proof.Machine.execLi p f s
  | .lea p f => Sys2Proof.Machine.execLea p f s
  | .cmp p f => Sys2Proof.Machine.execCmp p f s
  | .sel p f => Sys2Proof.Machine.execSel p f s
  | .pand p f => Sys2Proof.Machine.execPand p f s
  | .por p f => Sys2Proof.Machine.execPor p f s
  | .pxor p f => Sys2Proof.Machine.execPxor p f s
  | .pset p f => Sys2Proof.Machine.execPset p f s
  | .pget p f => Sys2Proof.Machine.execPget p f s
  | .xfer p f => Sys2Proof.Machine.execXfer p f s
  | .fadd p f => Sys2Proof.Machine.execFadd p f s
  | .fsub p f => Sys2Proof.Machine.execFsub p f s
  | .fmul p f => Sys2Proof.Machine.execFmul p f s
  | .fma p f => Sys2Proof.Machine.execFma p f s
  | .fdiv p f => Sys2Proof.Machine.execFdiv p f s
  | .fmin p f => Sys2Proof.Machine.execFmin p f s
  | .fmax p f => Sys2Proof.Machine.execFmax p f s
  | .fcmp p f => Sys2Proof.Machine.execFcmp p f s
  | .fcvt p f => Sys2Proof.Machine.execFcvt p f s
  | .icvt p f => Sys2Proof.Machine.execIcvt p f s
  | .kld p f => Sys2Proof.Machine.execKld p f s
  | .kmov p f => Sys2Proof.Machine.execKmov p f s
  | .kbind p f => Sys2Proof.Machine.execKbind p f s
  | .kfmt p f => Sys2Proof.Machine.execKfmt p f s
  | .kadd p f => Sys2Proof.Machine.execKadd p f s
  | .ksub p f => Sys2Proof.Machine.execKsub p f s
  | .kli p f => Sys2Proof.Machine.execKli p f s
  | .kclr p f => Sys2Proof.Machine.execKclr p f s
  | .ld p f => Sys2Proof.Machine.execLd p f s
  | .st p f => Sys2Proof.Machine.execSt p f s
  | .vld p f => Sys2Proof.Machine.execVld p f s
  | .vst p f => Sys2Proof.Machine.execVst p f s
  | .vlds p f => Sys2Proof.Machine.execVlds p f s
  | .vsts p f => Sys2Proof.Machine.execVsts p f s
  | .vldx p f => Sys2Proof.Machine.execVldx p f s
  | .vstx p f => Sys2Proof.Machine.execVstx p f s
  | .gath p f => Sys2Proof.Machine.execGath p f s
  | .scat p f => Sys2Proof.Machine.execScat p f s
  | .fld p f => Sys2Proof.Machine.execFld p f s
  | .fst p f => Sys2Proof.Machine.execFst p f s
  | .fldv p f => Sys2Proof.Machine.execFldv p f s
  | .fstv p f => Sys2Proof.Machine.execFstv p f s
  | .spill p f => Sys2Proof.Machine.execSpill p f s
  | .fill p f => Sys2Proof.Machine.execFill p f s
  | .vspill p f => Sys2Proof.Machine.execVspill p f s
  | .vfill p f => Sys2Proof.Machine.execVfill p f s
  | .amo p f => Sys2Proof.Machine.execAmo p f s
  | .amocas p f => Sys2Proof.Machine.execAmocas p f s
  | .probe p f => Sys2Proof.Machine.execProbe p f s
  | .cwb p f => Sys2Proof.Machine.execCwb p f s
  | .cinv p f => Sys2Proof.Machine.execCinv p f s
  | .cwbi p f => Sys2Proof.Machine.execCwbi p f s
  | .qfence p f => Sys2Proof.Machine.execQfence p f s
  | .vldb p f => Sys2Proof.Machine.execVldb p f s
  | .tag p f => Sys2Proof.Machine.execTag p f s
  | .tagrd p f => Sys2Proof.Machine.execTagrd p f s
  | .vadd p f => Sys2Proof.Machine.execVadd p f s
  | .vsub p f => Sys2Proof.Machine.execVsub p f s
  | .vmul p f => Sys2Proof.Machine.execVmul p f s
  | .vmulh p f => Sys2Proof.Machine.execVmulh p f s
  | .vfma p f => Sys2Proof.Machine.execVfma p f s
  | .vfms p f => Sys2Proof.Machine.execVfms p f s
  | .vfnma p f => Sys2Proof.Machine.execVfnma p f s
  | .vmin p f => Sys2Proof.Machine.execVmin p f s
  | .vmax p f => Sys2Proof.Machine.execVmax p f s
  | .vabs p f => Sys2Proof.Machine.execVabs p f s
  | .vneg p f => Sys2Proof.Machine.execVneg p f s
  | .vadds p f => Sys2Proof.Machine.execVadds p f s
  | .vsubs p f => Sys2Proof.Machine.execVsubs p f s
  | .vand p f => Sys2Proof.Machine.execVand p f s
  | .vor p f => Sys2Proof.Machine.execVor p f s
  | .vxor p f => Sys2Proof.Machine.execVxor p f s
  | .vsll p f => Sys2Proof.Machine.execVsll p f s
  | .vsrl p f => Sys2Proof.Machine.execVsrl p f s
  | .vsra p f => Sys2Proof.Machine.execVsra p f s
  | .vclz p f => Sys2Proof.Machine.execVclz p f s
  | .vpopc p f => Sys2Proof.Machine.execVpopc p f s
  | .vcmp p f => Sys2Proof.Machine.execVcmp p f s
  | .vsel p f => Sys2Proof.Machine.execVsel p f s
  | .vmov p f => Sys2Proof.Machine.execVmov p f s
  | .vli p f => Sys2Proof.Machine.execVli p f s
  | .vext p f => Sys2Proof.Machine.execVext p f s
  | .vcvt p f => Sys2Proof.Machine.execVcvt p f s
  | .vrnd p f => Sys2Proof.Machine.execVrnd p f s
  | .vscale p f => Sys2Proof.Machine.execVscale p f s
  | .vrcp p f => Sys2Proof.Machine.execVrcp p f s
  | .vrsqrt p f => Sys2Proof.Machine.execVrsqrt p f s
  | .vexp2 p f => Sys2Proof.Machine.execVexp2 p f s
  | .vlog2 p f => Sys2Proof.Machine.execVlog2 p f s
  | .vred p f => Sys2Proof.Machine.execVred p f s
  | .vscan p f => Sys2Proof.Machine.execVscan p f s
  | .vperm p f => Sys2Proof.Machine.execVperm p f s
  | .vbcast p f => Sys2Proof.Machine.execVbcast p f s
  | .vrot p f => Sys2Proof.Machine.execVrot p f s
  | .vslide p f => Sys2Proof.Machine.execVslide p f s
  | .viota p f => Sys2Proof.Machine.execViota p f s
  | .vpack p f => Sys2Proof.Machine.execVpack p f s
  | .vunpack p f => Sys2Proof.Machine.execVunpack p f s
  | .vdot p f => Sys2Proof.Machine.execVdot p f s
  | .vdotsu p f => Sys2Proof.Machine.execVdotsu p f s
  | .vpset p f => Sys2Proof.Machine.execVpset p f s
  | .vpget p f => Sys2Proof.Machine.execVpget p f s
  | .vfirst p f => Sys2Proof.Machine.execVfirst p f s
  | .mcall p f => Sys2Proof.Machine.execMcall p f s
  | .mpset p f => Sys2Proof.Machine.execMpset p f s
  | .mload p f => Sys2Proof.Machine.execMload p f s
  | .smcopy p f => Sys2Proof.Machine.execSmcopy p f s
  | .ncopy p f => Sys2Proof.Machine.execNcopy p f s
  | .egath p f => Sys2Proof.Machine.execEgath p f s
  | .escat p f => Sys2Proof.Machine.execEscat p f s
  | .mcast p f => Sys2Proof.Machine.execMcast p f s
  | .mcastb p f => Sys2Proof.Machine.execMcastb p f s
  | .coll p f => Sys2Proof.Machine.execColl p f s
  | .tnld p f => Sys2Proof.Machine.execTnld p f s
  | .tnst p f => Sys2Proof.Machine.execTnst p f s
  | .tnpf p f => Sys2Proof.Machine.execTnpf p f s
  | .emit p f => Sys2Proof.Machine.execEmit p f s
  | .estat p f => Sys2Proof.Machine.execEstat p f s
  | .accld p f => Sys2Proof.Machine.execAccld p f s
  | .accst p f => Sys2Proof.Machine.execAccst p f s
  | .adrain p f => Sys2Proof.Machine.execAdrain p f s
  | .aclr p f => Sys2Proof.Machine.execAclr p f s
  | .ecancel p f => Sys2Proof.Machine.execEcancel p f s
  | .ebar p f => Sys2Proof.Machine.execEbar p f s
  | .bundleIssue core => Sys2Proof.Machine.execBundleIssue core s
  | .emptyBundle core => Sys2Proof.Machine.execEmptyBundle core s
  | .resultLands core => Sys2Proof.Machine.execResultLands core s
  | .stallRelease core => Sys2Proof.Machine.execStallRelease core s
  | .phaseComplete core => Sys2Proof.Machine.execPhaseComplete core s
  | .engineCommandStart cid => Sys2Proof.Machine.execEngineCommandStart cid s
  | .engineCommandComplete cid => Sys2Proof.Machine.execEngineCommandComplete cid s
  | .collStart cid => Sys2Proof.Machine.execCollStart cid s
  | .uopEnd core u => Sys2Proof.Machine.execUopEnd core u s
  | .uopNop core u => Sys2Proof.Machine.execUopNop core u s
  | .uopSeti core u => Sys2Proof.Machine.execUopSeti core u s
  | .uopSetp core u => Sys2Proof.Machine.execUopSetp core u s
  | .uopMad core u => Sys2Proof.Machine.execUopMad core u s
  | .uopLoop core u => Sys2Proof.Machine.execUopLoop core u s
  | .uopEndl core u => Sys2Proof.Machine.execUopEndl core u s
  | .uopLdw core u => Sys2Proof.Machine.execUopLdw core u s
  | .uopMma core u => Sys2Proof.Machine.execUopMma core u s
  | .uopAclr core u => Sys2Proof.Machine.execUopAclr core u s
  | .uopMsk core u => Sys2Proof.Machine.execUopMsk core u s
  | .uopDrn core u => Sys2Proof.Machine.execUopDrn core u s
  | .uopBwt core u => Sys2Proof.Machine.execUopBwt core u s
  | .uopBar core u => Sys2Proof.Machine.execUopBar core u s
  | .offcoreCommandPerform cid => Sys2Proof.Machine.execOffcoreCommandPerform cid s
  | .ctxKilled ctx => Sys2Proof.Machine.execCtxKilled ctx s
  | .sequencerEnd ctx => Sys2Proof.Machine.execSequencerEnd ctx s
  | .gridEnd gkey => Sys2Proof.Machine.execGridEnd gkey s
  | .trapRecordEnqueue cluster => Sys2Proof.Machine.execTrapRecordEnqueue cluster s
  | .contextSave ctx => Sys2Proof.Machine.execContextSave ctx s
  | .pageWalkComplete part ia => Sys2Proof.Machine.execPageWalkComplete part ia s
  | .faultEntryCreate cid => Sys2Proof.Machine.execFaultEntryCreate cid s
  | .fqReplay cluster seq => Sys2Proof.Machine.execFqReplay cluster seq s
  | .fqRefuse cluster seq code => Sys2Proof.Machine.execFqRefuse cluster seq code s
  | .fqExhausted cluster seq => Sys2Proof.Machine.execFqExhausted cluster seq s
  | .rangeEntryCommit cluster value => Sys2Proof.Machine.execRangeEntryCommit cluster value s
  | .xltInv part value => Sys2Proof.Machine.execXltInv part value s
  | .xltInvDone part => Sys2Proof.Machine.execXltInvDone part s
  | .swapStart part => Sys2Proof.Machine.execSwapStart part s
  | .swapLine part => Sys2Proof.Machine.execSwapLine part s
  | .xltClrAdd part value => Sys2Proof.Machine.execXltClrAdd part value s
  | .clearSweepLine part => Sys2Proof.Machine.execClearSweepLine part s
  | .ctxSaveCmd cluster ctx => Sys2Proof.Machine.execCtxSaveCmd cluster ctx s
  | .ctxRestoreCmd cluster ctx => Sys2Proof.Machine.execCtxRestoreCmd cluster ctx s
  | .ctxEndCmd cluster ctx => Sys2Proof.Machine.execCtxEndCmd cluster ctx s
  | .taskCommit part dom => Sys2Proof.Machine.execTaskCommit part dom s
  | .lehrStallAbort part dom => Sys2Proof.Machine.execLehrStallAbort part dom s
  | .abortRedirect ctx => Sys2Proof.Machine.execAbortRedirect ctx s
  | .launchConsume part => Sys2Proof.Machine.execLaunchConsume part s
  | .hostQueueConsume queue => Sys2Proof.Machine.execHostQueueConsume queue s
  | .launchRelease gkey => Sys2Proof.Machine.execLaunchRelease gkey s
  | .gangPlace gkey => Sys2Proof.Machine.execGangPlace gkey s
  | .sliceExpiry gkey gang => Sys2Proof.Machine.execSliceExpiry gkey gang s
  | .yieldLate gkey gang => Sys2Proof.Machine.execYieldLate gkey gang s
  | .tokenArrival session port payload => Sys2Proof.Machine.execTokenArrival session port payload s
  | .unsupportedPacket packet => Sys2Proof.Machine.execUnsupportedPacket packet s
  | .jobRelease job => Sys2Proof.Machine.execJobRelease job s
  | .deadlineMiss gkey => Sys2Proof.Machine.execDeadlineMiss gkey s
  | .holdChunkEmit part session => Sys2Proof.Machine.execHoldChunkEmit part session s
  | .emissionDeparture port => Sys2Proof.Machine.execEmissionDeparture port s
  | .mirrorCopy gkey => Sys2Proof.Machine.execMirrorCopy gkey s
  | .failoverSwitch session => Sys2Proof.Machine.execFailoverSwitch session s
  | .sessionAdmit part => Sys2Proof.Machine.execSessionAdmit part s
  | .sessionClose part => Sys2Proof.Machine.execSessionClose part s
  | .sessionCloseDone part session => Sys2Proof.Machine.execSessionCloseDone part session s
  | .sessionForceLevel part level => Sys2Proof.Machine.execSessionForceLevel part level s
  | .sessionForceRelease part => Sys2Proof.Machine.execSessionForceRelease part s
  | .sessionSuspend part session => Sys2Proof.Machine.execSessionSuspend part session s
  | .dsqEnable part value => Sys2Proof.Machine.execDsqEnable part value s
  | .ptpEventMessage port message rate => Sys2Proof.Machine.execPtpEventMessage port message rate s
  | .holdover => Sys2Proof.Machine.execHoldover s
  | .ptmStep value => Sys2Proof.Machine.execPtmStep value s
  | .dirRd cluster line => Sys2Proof.Machine.execDirRd cluster line s
  | .dirWn cluster line => Sys2Proof.Machine.execDirWn cluster line s
  | .dirEvc cluster line => Sys2Proof.Machine.execDirEvc cluster line s
  | .dirWb cluster line evict => Sys2Proof.Machine.execDirWb cluster line evict s
  | .dirHw line => Sys2Proof.Machine.execDirHw line s
  | .dirVic line => Sys2Proof.Machine.execDirVic line s
  | .wheelTurn stack ch => Sys2Proof.Machine.execWheelTurn stack ch s
  | .rowHammerThrottle stack ch bank row => Sys2Proof.Machine.execRowHammerThrottle stack ch bank row s
  | .rowHammerRefreshEnd stack ch bank => Sys2Proof.Machine.execRowHammerRefreshEnd stack ch bank s
  | .eccUncorrectable store unit addr => Sys2Proof.Machine.execEccUncorrectable store unit addr s
  | .partitionReset part cls => Sys2Proof.Machine.execPartitionReset part cls s
  | .partitionResetDone part => Sys2Proof.Machine.execPartitionResetDone part s
  | .mergePair pair => Sys2Proof.Machine.execMergePair pair s
  | .splitPair pair => Sys2Proof.Machine.execSplitPair pair s
  | .mergeW => Sys2Proof.Machine.execMergeW s
  | .splitW => Sys2Proof.Machine.execSplitW s
  | .partitionQuiet => Sys2Proof.Machine.execPartitionQuiet s
  | .quiesceTimeout => Sys2Proof.Machine.execQuiesceTimeout s
  | .partitionFlushDone => Sys2Proof.Machine.execPartitionFlushDone s
  | .leaseRenew port => Sys2Proof.Machine.execLeaseRenew port s
  | .leaseExpiry => Sys2Proof.Machine.execLeaseExpiry s
  | .doorbell port value => Sys2Proof.Machine.execDoorbell port value s
  | .queueReset port => Sys2Proof.Machine.execQueueReset port s
  | .csqUpdate queue => Sys2Proof.Machine.execCsqUpdate queue s
  | .hostLinkDown port => Sys2Proof.Machine.execHostLinkDown port s
  | .claim res who => Sys2Proof.Machine.execClaim res who s
  | .claimRelease res who => Sys2Proof.Machine.execClaimRelease res who s
  | .claimHandover res who target => Sys2Proof.Machine.execClaimHandover res who target s
  | .dbgSave cluster ctx => Sys2Proof.Machine.execDbgSave cluster ctx s
  | .dbgRestore cluster ctx => Sys2Proof.Machine.execDbgRestore cluster ctx s
  | .dbgResume cluster ctx => Sys2Proof.Machine.execDbgResume cluster ctx s
  | .histSample cluster => Sys2Proof.Machine.execHistSample cluster s
  | .histWindowEnd cluster => Sys2Proof.Machine.execHistWindowEnd cluster s
  | .stallRatioWindow core => Sys2Proof.Machine.execStallRatioWindow core s
  | .counterLowRead fn core k => Sys2Proof.Machine.execCounterLowRead fn core k s
  | .counterHighRead fn core k => Sys2Proof.Machine.execCounterHighRead fn core k s
  | .dvfRequest island value => Sys2Proof.Machine.execDvfRequest island value s
  | .voltageStep island => Sys2Proof.Machine.execVoltageStep island s
  | .clockRestart island => Sys2Proof.Machine.execClockRestart island s
  | .thermalThrottle island => Sys2Proof.Machine.execThermalThrottle island s
  | .throttleClear island celsius => Sys2Proof.Machine.execThrottleClear island celsius s
  | .attestationRequest port value => Sys2Proof.Machine.execAttestationRequest port value s
  | .attestationDone port => Sys2Proof.Machine.execAttestationDone port s
  | .powerOn => Sys2Proof.Machine.execPowerOn s
  | .packageReset => Sys2Proof.Machine.execPackageReset s
  | .singlePortPerst port => Sys2Proof.Machine.execSinglePortPerst port s
  | .vfReset vf => Sys2Proof.Machine.execVfReset vf s
  | .registerWrite who reg value => Sys2Proof.Machine.execRegisterWrite who reg value s
  | .hostLinkUp port => Sys2Proof.Machine.execHostLinkUp port s
  | .eccCorrected store unit addr => Sys2Proof.Machine.execEccCorrected store unit addr s
  | .refreshWindowEnd stack ch bank => Sys2Proof.Machine.execRefreshWindowEnd stack ch bank s
  | .ptpGeneralMessage port kind origin => Sys2Proof.Machine.execPtpGeneralMessage port kind origin s
  | .supervisorFence cluster code => Sys2Proof.Machine.execSupervisorFence cluster code s
  | .supervisorStore cluster ia data => Sys2Proof.Machine.execSupervisorStore cluster ia data s
  | .hostBar2Write port vault data => Sys2Proof.Machine.execHostBar2Write port vault data s

end Sys2Proof.Machine
end

