-- ==== Sys2Proof/Machine/Step.lean ====
section
/-!
DEFINITION. One step of the part, and the placing of an instruction where the next step fetches it.
-/

namespace Sys2Proof.Machine

open Sys2Proof

/-- One step: what happens next happens, and time goes on. -/
def step (s : State) : Host.Outcome State Fault Refusal := elapse (exec (nextInstr s) (popAgenda s))

/-- `s` with an instruction's words where `step` fetches its next bundle. -/
def State.withFetchWord (s : State) (nbits w : Nat) : State := placeWord s nbits w

end Sys2Proof.Machine
end

