-- ==== Sys2Proof/WellFormed.lean ====
section
/-!
DEFINITION. What a well-formed instruction and a well-formed bundle are: the checks of spec/03 R89 that a word or a bundle
decides by itself, and the fields of micro-ops (spec/12 R277, R280). The machine makes the same checks when it issues a
bundle; an ill-formed word traps there.
-/

namespace Sys2Proof

open Sys2Proof.Machine

/-- The slot that holds a word is of the operation's class (R64, R91). -/
def Instr.placed (i : Instr) : Bool :=
  match i.parts with
  | some (cls, _, p, _) => p.cls == cls
  | none => true

/-- A slot word passes rows 6 to 17 of R89 and its operation's own rules. -/
def Instr.fieldsOk (i : Instr) : Bool :=
  match i.parts, opInfo i with
  | some (_, _, _, f), some info => (wordFail i info f).isNone
  | some _, none => false
  | none, _ => true

/-- retire.t is retire with mod bit 0 set, and retire the one with it clear (spec/05 R116). -/
def Instr.spelled (i : Instr) : Bool :=
  match i with
  | .retireT _ f => f.mod.getLsbD 0
  | .retire _ f => !f.mod.getLsbD 0
  | _ => true

/-- The fields, flags and immediate bits that a micro-op does not use are zero (R277). -/
def MicroOp.unusedZero (op : Nat) (u : MicroOp) : Bool :=
  let use := uopUses op u.flags.toNat
  u.zero == 0 && ([u.f0, u.f1, u.f2, u.f3, u.f4, u.f5].mapIdx fun j f => use.1.testBit j || f == 0).all id &&
  (u.flags.toNat &&& use.2.1) == u.flags.toNat && (u.imm.toNat &&& use.2.2) == u.imm.toNat

/-- A well-formed instruction: a slot operation in a slot of its class whose fields pass the checks, a micro-op without
stray bits, or an event. -/
def Instr.wf (i : Instr) : Bool :=
  i.placed && i.fieldsOk && i.spelled && (match i.uopParts with | some (_, op, u) => u.unusedZero op | none => true)

/-- A bundle that passes every check of R89 by itself: outside a delay shadow, with a loop open when LEND is set. -/
def Bundle.wf (b : Bundle) : Bool :=
  headerRows b == [] && slotRows b == [] && bundleRows b (b.words.filterMap slotIn) false false == []

end Sys2Proof
end

