-- ==== Sys2Proof/Safety.lean ====
section
/-!
DEFINITION. What a safe run is, in the terms that the statements use: the invariants of the state, an execution of the
machine, and what lets a slot operation have its effect.
-/

namespace Sys2Proof.Safety

open Sys2Proof Sys2Proof.Machine

/-- The memory is in its canonical form. -/
abbrev memoryOk (s : State) : Prop := Memory.wf s.mem = true

/-- The partition configuration is one of the five of spec/22 R418. -/
abbrev cfgOk (s : State) : Prop := s.prtCfg = 0 ∨ s.prtCfg = 1 ∨ s.prtCfg = 2 ∨ s.prtCfg = 3 ∨ s.prtCfg = 7

/-- One step of the machine leads from a state to another. -/
def Steps (s t : State) : Prop := step s = .next t

/-- A state that some number of steps leads to. -/
inductive Reaches (s : State) : State → Prop where
  | here : Reaches s s
  | more {t u : State} : Reaches s t → Steps t u → Reaches s u

/-- The machine makes no step: what is to happen next is not enabled in this state. -/
def Stops (s : State) : Prop := ∃ r, step s = .refused r

/-! ### What lets a slot operation have its effect -/

/-- The operation is one that a slot word holds. -/
def slotInstr (i : Instr) : Bool := i.parts.isSome

/-- Its word passes the checks of spec/03 R89 rows 6 to 17 and of its own static rules. -/
def passes (i : Instr) : Bool :=
  match i.parts, opInfo i with
  | some (_, _, _, f), some info => (wordFail i info f).isNone
  | _, _ => false

/-- Its private slices lie in the windows of the sequencer that issues (spec/03 R90). -/
def inWindow (i : Instr) (s : State) : Bool :=
  match i.parts, opInfo i with
  | some (_, _, p, f), some info => (sliceFail s.curCtx none i info p f).isNone
  | _, _ => false

/-- Its guard enables it, in at least one lane of a vector operation (spec/03 R74). -/
def guardOn (i : Instr) (s : State) : Bool :=
  match i.parts, opInfo i with
  | some (_, _, _, f), some info =>
    if isVector i info f then decide (guardMask s.curCtx f ≠ 0) else enabled s.curCtx f
  | _, _ => false

/-- No register that it reads, writes or names as its token is a pending token (spec/01 R32). -/
def tokensFree (i : Instr) (s : State) : Bool :=
  match i.parts, opInfo i with
  | some (_, _, _, f), some info => !tokenStall s.curCtx i info f
  | _, _ => false

/-- Nothing keeps a slot operation from having its effect but what its own rule says. -/
def issues (i : Instr) (s : State) : Bool := passes i && inWindow i s && guardOn i s && tokensFree i s

/-- The same but for the guard. -/
def issuesOff (i : Instr) (s : State) : Bool := passes i && inWindow i s && !guardOn i s

/-- What the registers of a state's contexts and cores do not hold, and memory: everything but the contexts. -/
def sameButCtxs (s t : State) : Prop := t = { s with ctxs := t.ctxs }

/-- The contexts of two states agree but for the results in flight of the context that issues. -/
def onlyFlight (s t : State) : Prop :=
  ∃ fl : Ctx → List Flight, t = s.modCur fun c => { c with flight := fl c }

/-- An operation that only computes a result from registers: every one of slots A, V and K, and in slot C the arithmetic,
the moves, the reads of the scheduler and of special registers, and the reads and writes of predicates. -/
def computes (i : Instr) : Bool :=
  match i with
  | .cli _ _ | .clui _ _ | .cadd _ _ | .csub _ _ | .cmul _ _ | .cand _ _ | .cor _ _ | .cxor _ _ | .csll _ _ | .csrl _ _
  | .csra _ _ | .cmov _ _ | .ccmp _ _ | .cpget _ _ | .cpset _ _ | .frd _ _ | .lvlrd _ _ | .emrd _ _ | .srd _ _ => true
  | _ => match i.parts with
    | some (cls, _, _, _) => cls == .a || cls == .v || cls == .k
    | none => false

/-! ### What lets an event happen -/

/-- A core's matrix engine has come to a micro-op of the routine that a call's command runs, and its clock runs. -/
def uopAt (s : State) (core : Nat) (i : Instr) (r : EngineRun) (x : Cmd) : Prop :=
  s.clockStopped core = false ∧ (s.core core).run = some r ∧ s.cmd? r.cid = some x ∧
    ∃ y, ((s.core core).store.find? fun y => y.index == r.index) = some y ∧ (y.ops[r.upc]?).bind (uopOf core) = some i

/-- No island's clock is stopped. -/
def noneStopped (s : State) : Prop := (s.islands.any fun x => x.2.stage == 2) = false

/-- What a micro-op finds when it issues, no clock being stopped: the rows of running DRNs that have been written by then, all of
them where it waits for every DRN, met no fault. -/
def uopFinds (s : State) (core : Nat) (r : EngineRun) (x : Cmd) (all : Bool) (t : State) (r1 : EngineRun) : Prop :=
  noneStopped s ∧ r1 = { r with drains := r.drains.drop (landed s core r all) } ∧
    ∃ s1, landRows s x (r.drains.take (landed s core r all)) = (s1, none) ∧ t = setRun s1 core (some r1)

/-- A core's choice of sequencer to issue; what others of the core have in flight for the management registers is performed. -/
def issuing (s : State) (core : Nat) (c : Ctx) : State :=
  let s1 := landOthers { s with cur := core } core c.handle
  s1.setCore core { s1.core core with cur := some c.handle }

/-- The context that a core issues next stands at the start of a bundle, which its code holds, with nothing to come before
it: no end, no wait, no redirection, no pending transfer. -/
def freshBundle (s : State) (core : Nat) (c : Ctx) (b : Bundle) : Prop :=
  pick { s with cur := core } core = some c ∧ ((issuing s core c).island core).stage ≠ 2 ∧ c.killCause = none ∧ c.barWait = none ∧
    c.redirecting = false ∧ c.pend = false ∧ c.done = 0 ∧ c.partBundle = false ∧
    ∃ hb bs rest, fetchBytes (issuing s core c) c c.pc.toNat 4 = some hb ∧
      fetchBytes (issuing s core c) c c.pc.toNat (bundleLen (BitVec.ofNat 32 (ofBytesLE hb))) = some bs ∧
      decodeBundle bs = .ok (b, rest) ∧ breaksAt (issuing s core c) c.core c.pc 15 = false

end Sys2Proof.Safety
end

