-- ==== Sys2Proof/Certificates/Slice0/Obligations.lean ====
section
/-!
DEFINITION. The statements about the model, one per obligation. A statement that says what an instruction or an event does
says it as an equation: under hypotheses on the state and the operands alone, executing it answers exactly that next state.
-/

open Sys2Proof Sys2Proof.Machine Sys2Proof.Safety

/-- R135: with a and b the sources extended under R132, add, sub, lea, mul and mulh, and, or, xor, sll, srl, sra, min,
max and abs give the results of the rule's table, in flight to the destination slices; add and sub wrap, clamp as
signed or clamp as unsigned by their sat field. Nothing else of the state changes. -/
def Obligations.ScalarIntegerOperations : Prop :=
  (∀ (p : Pos) (f : Fields) (s : State),
    let W := f.dst.bits
    let x := f.mod.getLsbD 0
    let a := srcExt s p f.k1 f.src1 x W
    let b := srcExt s p f.k2 f.src2 x W
    let sat := (f.mod.extractLsb' 2 2).toNat
    let top : Int := 2 ^ (W - 1)
    (issues (.add p f) s = true → exec (.add p f) s = .next (putScal s p f.dst 1
      (if sat = 0 then (a + b) % 2 ^ W
       else if sat = 2 then min (a + b) (2 ^ W - 1)
       else (max (-top) (min (top - 1) (signed W a + signed W b)) % 2 ^ W).toNat))) ∧
    (issues (.sub p f) s = true → exec (.sub p f) s = .next (putScal s p f.dst 1
      (if sat = 0 then (a + (2 ^ W - b)) % 2 ^ W
       else if sat = 2 then a - b
       else (max (-top) (min (top - 1) (signed W a - signed W b)) % 2 ^ W).toNat))) ∧
    (issues (.lea p f) s = true → exec (.lea p f) s = .next (putScal s p f.dst 1
      ((a + b * 2 ^ (f.mod.extractLsb' 1 3).toNat) % 2 ^ W))) ∧
    (issues (.mul p f) s = true → exec (.mul p f) s = .next (putScal s p f.dst 3 (a * b % 2 ^ W))) ∧
    (issues (.mulh p f) s = true → exec (.mulh p f) s = .next (putScal s p f.dst 3
      (if f.mod.getLsbD 1 then a * b / 2 ^ W else (signed W a * signed W b / 2 ^ W % 2 ^ W).toNat)))) ∧
  (∀ (p : Pos) (f : Fields) (s : State),
    let W := f.dst.bits
    let x := f.mod.getLsbD 0
    let u := f.mod.getLsbD 1
    let a := srcExt s p f.k1 f.src1 x W
    let b := srcExt s p f.k2 f.src2 x W
    let less : Bool := if u then decide (a < b) else decide (signed W a < signed W b)
    (issues (.and p f) s = true → exec (.and p f) s = .next (putScal s p f.dst 1 (a &&& b))) ∧
    (issues (.or p f) s = true → exec (.or p f) s = .next (putScal s p f.dst 1 (a ||| b))) ∧
    (issues (.xor p f) s = true → exec (.xor p f) s = .next (putScal s p f.dst 1 (a ^^^ b))) ∧
    (issues (.sll p f) s = true → exec (.sll p f) s = .next (putScal s p f.dst 1 (if b ≥ W then 0 else a * 2 ^ b % 2 ^ W))) ∧
    (issues (.srl p f) s = true → exec (.srl p f) s = .next (putScal s p f.dst 1 (if b ≥ W then 0 else a / 2 ^ b))) ∧
    (issues (.sra p f) s = true → exec (.sra p f) s = .next (putScal s p f.dst 1
      (if b ≥ W then (if signed W a < 0 then 2 ^ W - 1 else 0) else (signed W a / 2 ^ b % 2 ^ W).toNat))) ∧
    (issues (.min p f) s = true → exec (.min p f) s = .next (putScal s p f.dst 1 (if less then a else b))) ∧
    (issues (.max p f) s = true → exec (.max p f) s = .next (putScal s p f.dst 1 (if less then b else a))) ∧
    (issues (.abs p f) s = true → exec (.abs p f) s = .next (putScal s p f.dst 1 (signed W a).natAbs)))

/-- R136: div and rem use truncating division on the sources extended under R132, signed or unsigned by the u bit: the
quotient rounds towards zero and the remainder takes the sign of the dividend; a zero divisor gives all ones and the
dividend; the most negative value over -1 gives itself and 0. Neither traps: the next state is the result in flight
and nothing else. -/
def Obligations.ScalarDivision : Prop :=
  ∀ (p : Pos) (f : Fields) (s : State),
    let W := f.dst.bits
    let x := f.mod.getLsbD 0
    let a := srcExt s p f.k1 f.src1 x W
    let b := srcExt s p f.k2 f.src2 x W
    (issues (.div p f) s = true → exec (.div p f) s = .next (putScal s p f.dst 12
      (if b = 0 then 2 ^ W - 1
       else if f.mod.getLsbD 1 then a / b
       else ((signed W a).tdiv (signed W b) % 2 ^ W).toNat))) ∧
    (issues (.rem p f) s = true → exec (.rem p f) s = .next (putScal s p f.dst 12
      (if b = 0 then a
       else if f.mod.getLsbD 1 then a % b
       else ((signed W a).tmod (signed W b) % 2 ^ W).toNat)))

/-- R137, R138, R139, R141, R143 and R144: clz and popc count over the bits of src1 at its own width; ext, xtr and ins
move bit fields; li writes sext(imm23, W); sel chooses by bit 0 of a predicate; pget writes a predicate's low bits;
xfer copies from the other bench, its scalar file or its vector file lane by lane. The position of xtr is extended
by the x bit as R132 says of every source; that ins, whose mod field has no x bit, reads its position zero-extended
is the model's reading (DEDUCED, log entry 17). -/
def Obligations.ScalarFieldsAndMoves : Prop :=
  (∀ (p : Pos) (f : Fields) (s : State),
    let W := f.dst.bits
    let x := f.mod.getLsbD 0
    let w := srcWidth f.k1 f.src1 W
    let a := srcScal s p f.k1 f.src1 W
    let pos := fun y : Bool => srcExt s p f.k2 f.src2 y W
    (issues (.clz p f) s = true → exec (.clz p f) s = .next (putScal s p f.dst 1
      ((if a = 0 then w else w - 1 - Nat.log2 a) % 2 ^ W))) ∧
    (issues (.popc p f) s = true → exec (.popc p f) s = .next (putScal s p f.dst 1
      ((List.range w).countP (fun i => a.testBit i) % 2 ^ W))) ∧
    (issues (.ext p f) s = true → exec (.ext p f) s = .next (putScal s p f.dst 1 (extTo x w W a))) ∧
    (issues (.xtr p f) s = true → exec (.xtr p f) s = .next (putScal s p f.dst 1
      (((if x then signed w a else ((a % 2 ^ w : Nat) : Int)) / 2 ^ min (pos x) 64 % 2 ^ W).toNat))) ∧
    (issues (.ins p f) s = true → exec (.ins p f) s = .next (putScal s p f.dst 1
      (insI w W (s.curCtx.readScal p.bench f.dst.start.toNat f.dst.slices) a (pos false)))) ∧
    (issues (.li p f) s = true → exec (.li p f) s = .next (putScal s p f.dst 1 (f.wide % 2 ^ W).toNat)) ∧
    (issues (.sel p f) s = true → exec (.sel p f) s = .next (putScal s p f.dst 1
      (if (s.curCtx.pred (f.mod.extractLsb' 0 6).toNat).getLsbD 0
       then srcExt s p f.k1 f.src1 (f.mod.getLsbD 6) W else srcExt s p f.k2 f.src2 (f.mod.getLsbD 6) W))) ∧
    (issues (.pget p f) s = true → exec (.pget p f) s = .next (putScal s p f.dst 1
      ((s.curCtx.pred f.src1.start.toNat).toNat % 2 ^ W)))) ∧
  (∀ (p : Pos) (f : Fields) (s : State), issues (.xfer p f) s = true →
    exec (.xfer p f) s = .next
      (if f.mod.getLsbD 0 then
         putVec s p f.dst 2 (guardMask s.curCtx f) fun i =>
           s.curCtx.readLane (!p.bench) i f.src1.start.toNat f.src1.slices
       else putScal s p f.dst 2 (s.curCtx.readScal (!p.bench) f.src1.start.toNat f.src1.slices)))

/-- R145, R146, R148: fadd, fsub, fmul, fdiv and fma decode their operands, form the exact result and round it once into
the format under rm, fma with the destination as its addend; fmin and fmax return the lesser or the greater operand;
fcvt rounds a value of another format; icvt converts to an integer with saturation or from a signed or unsigned
integer. When a rounded finite value overflows its format is the model's reading (DEDUCED, log entry 51). -/
def Obligations.ScalarFloat : Prop :=
  ∀ (p : Pos) (f : Fields) (s : State),
    let fm := fmtOf f
    let rm := RMode.ofBits (f.mod.extractLsb' 0 2)
    let a := srcVal s p f.k1 f.src1 fm
    let b := srcVal s p f.k2 f.src2 fm
    let d := fm.decode (s.curCtx.readScal p.bench f.dst.start.toNat f.dst.slices)
    let sf := (Fmt.ofCode (f.mod.extractLsb' 2 4)).getD .fp32
    (issues (.fadd p f) s = true → exec (.fadd p f) s = .next (putScal s p f.dst 2 (fm.encode rm (FVal.add rm a b)))) ∧
    (issues (.fsub p f) s = true → exec (.fsub p f) s = .next (putScal s p f.dst 2 (fm.encode rm (FVal.add rm a b.neg)))) ∧
    (issues (.fmul p f) s = true → exec (.fmul p f) s = .next (putScal s p f.dst 3 (fm.encode rm (FVal.mul a b)))) ∧
    (issues (.fma p f) s = true → exec (.fma p f) s = .next (putScal s p f.dst 4
      (fm.encode rm (FVal.add rm (FVal.mul a b) d)))) ∧
    (issues (.fdiv p f) s = true → exec (.fdiv p f) s = .next (putScal s p f.dst 12 (divRound fm rm a b))) ∧
    (issues (.fmin p f) s = true → exec (.fmin p f) s = .next (putScal s p f.dst 1
      (fm.encode .rne (FVal.minmax false a b)))) ∧
    (issues (.fmax p f) s = true → exec (.fmax p f) s = .next (putScal s p f.dst 1
      (fm.encode .rne (FVal.minmax true a b)))) ∧
    (issues (.fcvt p f) s = true → exec (.fcvt p f) s = .next (putScal s p f.dst 3
      (fm.encode rm (srcVal s p f.k1 f.src1 sf)))) ∧
    (issues (.icvt p f) s = true → f.mod.getLsbD 2 = true → exec (.icvt p f) s = .next (putScal s p f.dst 3
      (toIntSat f.dst.bits (f.mod.getLsbD 3) rm a % 2 ^ f.dst.bits).toNat)) ∧
    (issues (.icvt p f) s = true → f.mod.getLsbD 2 = false → f.k1 ≠ .imm → exec (.icvt p f) s = .next
      (putScal s p f.dst 3 (fm.encode rm (.ofInt
        (if f.mod.getLsbD 3 then ((srcScal s p f.k1 f.src1 64 % 2 ^ f.src1.bits : Nat) : Int)
         else signed f.src1.bits (srcScal s p f.k1 f.src1 64)))))) ∧
    (issues (.icvt p f) s = true → f.mod.getLsbD 2 = false → f.k1 = .imm → exec (.icvt p f) s = .next
      (putScal s p f.dst 3 (fm.encode rm (.ofInt f.src1.imm))))

/-- R108 and R147, and of R140, R142 and R143 the results: ccmp, cmp and fcmp set a predicate to all ones if their
condition holds and to zero otherwise, and condition codes 6 and 7 raise an illegal-bundle trap; pand, por and pxor
combine two predicates with the complements of the mod bits; pset writes a scalar source. Each write is in flight
for one bundle. -/
def Obligations.PredicateResults : Prop :=
  ∀ (p : Pos) (f : Fields) (s : State),
    let n := f.dst.start.toNat
    let code := (f.mod.extractLsb' 0 3).toNat
    let all : Mask := BitVec.allOnes 64
    let W := 4 * ((f.mod.extractLsb' 3 4).toNat + 1)
    let a := srcExt s p f.k1 f.src1 (decide (code < 4)) W
    let b := srcExt s p f.k2 f.src2 (decide (code < 4)) W
    let fa := srcVal s p f.k1 f.src1 (fmtOf f)
    let fb := srcVal s p f.k2 f.src2 (fmtOf f)
    let ca := src64 s f.k1 f.src1
    let cb := src64 s f.k2 f.src2
    let q1 := s.curCtx.pred f.src1.start.toNat
    let q2 := s.curCtx.pred f.src2.start.toNat
    let inv (b : Bool) (q : Mask) : Mask := if b then ~~~q else q
    (issues (.cmp p f) s = true → exec (.cmp p f) s = .next (putPred s p n 1 (boolMask
      (match code with
       | 0 => decide (a = b)
       | 1 => decide (a ≠ b)
       | 2 => decide (signed W a < signed W b)
       | 3 => decide (signed W b ≤ signed W a)
       | 4 => decide (a < b)
       | 5 => decide (b ≤ a)
       | _ => false)) all)) ∧
    (issues (.fcmp p f) s = true → exec (.fcmp p f) s = .next (putPred s p n 1 (boolMask (fpCond code fa fb)) all)) ∧
    (issues (.ccmp p f) s = true → exec (.ccmp p f) s = .next (putPred s p n 1 (boolMask
      (match code with
       | 0 => decide (ca = cb)
       | 1 => decide (ca ≠ cb)
       | 2 => decide (ca.toInt < cb.toInt)
       | 3 => decide (cb.toInt ≤ ca.toInt)
       | 4 => decide (ca < cb)
       | _ => decide (cb ≤ ca))) all)) ∧
    (issues (.pand p f) s = true → exec (.pand p f) s = .next (putPred s p n 1
      (inv (f.mod.getLsbD 2) (inv (f.mod.getLsbD 0) q1 &&& inv (f.mod.getLsbD 1) q2)) all)) ∧
    (issues (.por p f) s = true → exec (.por p f) s = .next (putPred s p n 1
      (inv (f.mod.getLsbD 2) (inv (f.mod.getLsbD 0) q1 ||| inv (f.mod.getLsbD 1) q2)) all)) ∧
    (issues (.pxor p f) s = true → exec (.pxor p f) s = .next (putPred s p n 1
      (inv (f.mod.getLsbD 2) (inv (f.mod.getLsbD 0) q1 ^^^ inv (f.mod.getLsbD 1) q2)) all)) ∧
    (issues (.pset p f) s = true → exec (.pset p f) s = .next (putPred s p n 1
      (BitVec.ofNat 64 (srcScal s p f.k1 f.src1 64)) all)) ∧
    (6 ≤ code → ∀ i ∈ ([.ccmp p f, .cmp p f, .fcmp p f] : List Instr), ∃ row, exec i s = .next
      (stopTrap s s.curCtx.handle causeIllegal 15 0 false (illegalInfo row p.index)))

/-- R182, R185, R191, R192: in each lane that the guard enables, the integer form of every lane-wise vector operation
puts its result in flight: sums, products, multiply-adds with the destination, order, absolute value, saturating
sums, viota, bitwise operations, shifts, counts, extraction, moves, vli and vsel. The other lanes keep their slices,
by the mask. The widths that the model takes for common and special sources are its reading (DEDUCED, log entry 12). -/
def Obligations.VectorIntegerOperations : Prop :=
  (∀ (p : Pos) (f : Fields) (s : State), f.fmt = 0 →
    let W := f.dst.bits
    let x := f.mod.getLsbD 0
    let u := f.mod.getLsbD 1
    let a := laneExt s p f.k1 f.src1 x W
    let b := laneExt s p f.k2 f.src2 x W
    let d := fun lane : Nat => s.curCtx.readLane p.bench lane f.dst.start.toNat f.dst.slices
    let less := fun lane : Nat => if u then decide (a lane < b lane) else decide (signed W (a lane) < signed W (b lane))
    let top : Int := 2 ^ (W - 1)
    let clamp := fun v : Int => (max (-top) (min (top - 1) v) % 2 ^ W).toNat
    let out := fun (lat : Nat) (g : Nat → Nat) => putVec s p f.dst lat (guardMask s.curCtx f) g
    (issues (.vadd p f) s = true → exec (.vadd p f) s = .next (out 2 fun l => (a l + b l) % 2 ^ W)) ∧
    (issues (.vsub p f) s = true → exec (.vsub p f) s = .next (out 2 fun l => (a l + (2 ^ W - b l)) % 2 ^ W)) ∧
    (issues (.vmul p f) s = true → exec (.vmul p f) s = .next (out 5 fun l => a l * b l % 2 ^ W)) ∧
    (issues (.vmulh p f) s = true → exec (.vmulh p f) s = .next (out 5 fun l =>
      if u then a l * b l / 2 ^ W else (signed W (a l) * signed W (b l) / 2 ^ W % 2 ^ W).toNat)) ∧
    (issues (.vfma p f) s = true → exec (.vfma p f) s = .next (out 5 fun l =>
      (((a l * b l : Nat) + (d l : Int)) % 2 ^ W).toNat)) ∧
    (issues (.vfms p f) s = true → exec (.vfms p f) s = .next (out 5 fun l =>
      (((a l * b l : Nat) - (d l : Int)) % 2 ^ W).toNat)) ∧
    (issues (.vfnma p f) s = true → exec (.vfnma p f) s = .next (out 5 fun l =>
      (((d l : Int) - (a l * b l : Nat)) % 2 ^ W).toNat)) ∧
    (issues (.vmin p f) s = true → exec (.vmin p f) s = .next (out 2 fun l => if less l then a l else b l)) ∧
    (issues (.vmax p f) s = true → exec (.vmax p f) s = .next (out 2 fun l => if less l then b l else a l)) ∧
    (issues (.vabs p f) s = true → exec (.vabs p f) s = .next (out 2 fun l => (signed W (a l)).natAbs)) ∧
    (issues (.vneg p f) s = true → exec (.vneg p f) s = .next (out 2 fun l => (2 ^ W - a l) % 2 ^ W)) ∧
    (issues (.vadds p f) s = true → exec (.vadds p f) s = .next (out 2 fun l =>
      if u then min (a l + b l) (2 ^ W - 1) else clamp (signed W (a l) + signed W (b l)))) ∧
    (issues (.vsubs p f) s = true → exec (.vsubs p f) s = .next (out 2 fun l =>
      if u then a l - b l else clamp (signed W (a l) - signed W (b l)))) ∧
    (issues (.viota p f) s = true → exec (.viota p f) s = .next (out 2 fun l => (a l + l * b l) % 2 ^ W))) ∧
  (∀ (p : Pos) (f : Fields) (s : State),
    let W := f.dst.bits
    let x := f.mod.getLsbD 0
    let a := laneExt s p f.k1 f.src1 x W
    let b := laneExt s p f.k2 f.src2 x W
    let w := f.src1.bits
    let a0 := srcLane s p f.k1 f.src1 64
    let n := srcLane s p f.k2 f.src2 W
    let q := s.curCtx.pred (f.mod.extractLsb' 0 6).toNat
    let y := f.mod.getLsbD 6
    let out := fun (g : Nat → Nat) => putVec s p f.dst 2 (guardMask s.curCtx f) g
    (issues (.vand p f) s = true → exec (.vand p f) s = .next (out fun l => a l &&& b l)) ∧
    (issues (.vor p f) s = true → exec (.vor p f) s = .next (out fun l => a l ||| b l)) ∧
    (issues (.vxor p f) s = true → exec (.vxor p f) s = .next (out fun l => a l ^^^ b l)) ∧
    (issues (.vsll p f) s = true → exec (.vsll p f) s = .next (out fun l =>
      if b l ≥ W then 0 else a l * 2 ^ b l % 2 ^ W)) ∧
    (issues (.vsrl p f) s = true → exec (.vsrl p f) s = .next (out fun l => if b l ≥ W then 0 else a l / 2 ^ b l)) ∧
    (issues (.vsra p f) s = true → exec (.vsra p f) s = .next (out fun l =>
      if b l ≥ W then (if signed W (a l) < 0 then 2 ^ W - 1 else 0) else (signed W (a l) / 2 ^ b l % 2 ^ W).toNat)) ∧
    (issues (.vclz p f) s = true → exec (.vclz p f) s = .next (out fun l =>
      (if a0 l = 0 then w else w - 1 - Nat.log2 (a0 l)) % 2 ^ W)) ∧
    (issues (.vpopc p f) s = true → exec (.vpopc p f) s = .next (out fun l =>
      (List.range w).countP (fun i => (a0 l).testBit i) % 2 ^ W)) ∧
    (issues (.vext p f) s = true → exec (.vext p f) s = .next (out fun l =>
      ((if x then signed w (a0 l) else ((a0 l % 2 ^ w : Nat) : Int)) / 2 ^ min (n l) 64 % 2 ^ W).toNat)) ∧
    (issues (.vmov p f) s = true → exec (.vmov p f) s = .next (out a)) ∧
    (issues (.vli p f) s = true → exec (.vli p f) s = .next (out fun _ => (f.wide % 2 ^ W).toNat)) ∧
    (issues (.vsel p f) s = true → exec (.vsel p f) s = .next (out fun l =>
      if q.getLsbD l then laneExt s p f.k1 f.src1 y W l else laneExt s p f.k2 f.src2 y W l)))

/-- R186 to R190 and R194: in each enabled lane the float or tapered form of a vector operation forms the exact result
and rounds it once into the format; vfma, vfms and vfnma take the destination as addend; vscale multiplies by a
power of two; vrnd rounds to an integer; vrcp, vrsqrt, vexp2 and vlog2 give a bracketing value, which of the two is
free (log entry 1); vcvt converts between any two formats and the integers. The sign of a zero of vrnd (log entry
18), and when a rounded finite value overflows its format, vcvt's among them (log entry 51), are the model's
readings (DEDUCED). -/
def Obligations.VectorFloat : Prop :=
  (∀ (p : Pos) (f : Fields) (s : State), f.fmt ≠ 0 →
    let fm := fmtOf f
    let rm := RMode.ofBits (f.mod.extractLsb' 0 2)
    let a := laneVal s p f.k1 f.src1 fm
    let b := laneVal s p f.k2 f.src2 fm
    let d := fun lane : Nat => fm.decode (s.curCtx.readLane p.bench lane f.dst.start.toNat f.dst.slices)
    let e := fun lane : Nat => match f.k2 with
      | .imm => f.src2.imm
      | _ => signed f.src2.bits (srcLane s p f.k2 f.src2 16 lane)
    let k := (s.curCtx.scales[(f.mod.extractLsb' 2 4).toNat]?.getD 0).toInt
    let app := fun (op : Approx) (lane : Nat) =>
      if f.k1 = .imm then approxVal fm op (fm.encode .rne (.ofInt f.src1.imm)) (.ofInt f.src1.imm)
      else approx fm op (srcLane s p f.k1 f.src1 64 lane)
    let out := fun (lat : Nat) (g : Nat → Nat) => putVec s p f.dst lat (guardMask s.curCtx f) g
    (issues (.vadd p f) s = true → exec (.vadd p f) s = .next (out 2 fun l => fm.encode rm (FVal.add rm (a l) (b l)))) ∧
    (issues (.vsub p f) s = true → exec (.vsub p f) s = .next (out 2 fun l =>
      fm.encode rm (FVal.add rm (a l) (b l).neg))) ∧
    (issues (.vmul p f) s = true → exec (.vmul p f) s = .next (out 5 fun l => fm.encode rm (FVal.mul (a l) (b l)))) ∧
    (issues (.vfma p f) s = true → exec (.vfma p f) s = .next (out 5 fun l =>
      fm.encode rm (FVal.add rm (FVal.mul (a l) (b l)) (d l)))) ∧
    (issues (.vfms p f) s = true → exec (.vfms p f) s = .next (out 5 fun l =>
      fm.encode rm (FVal.add rm (FVal.mul (a l) (b l)) (d l).neg))) ∧
    (issues (.vfnma p f) s = true → exec (.vfnma p f) s = .next (out 5 fun l =>
      fm.encode rm (FVal.add rm (FVal.mul (a l) (b l)).neg (d l)))) ∧
    (issues (.vmin p f) s = true → exec (.vmin p f) s = .next (out 2 fun l =>
      fm.encode .rne (FVal.minmax false (a l) (b l)))) ∧
    (issues (.vmax p f) s = true → exec (.vmax p f) s = .next (out 2 fun l =>
      fm.encode .rne (FVal.minmax true (a l) (b l)))) ∧
    (issues (.vabs p f) s = true → exec (.vabs p f) s = .next (out 2 fun l => match a l with
      | .fin _ m x => fm.encode .rne (.fin false m x)
      | .inf _ => fm.encode .rne (.inf false)
      | .nan => fm.nanCode)) ∧
    (issues (.vneg p f) s = true → exec (.vneg p f) s = .next (out 2 fun l => fm.encode .rne (a l).neg)) ∧
    (issues (.vscale p f) s = true → exec (.vscale p f) s = .next (out 3 fun l =>
      fm.encode rm ((a l).scale (e l + k)))) ∧
    (issues (.vrnd p f) s = true → exec (.vrnd p f) s = .next (out 3 fun l => match a l with
      | .fin neg m x => fm.encode rm (.fin neg (roundInt rm neg m x).natAbs 0)
      | v => fm.encode .rne v)) ∧
    (issues (.vrcp p f) s = true → exec (.vrcp p f) s = .next (out 8 (app .rcp))) ∧
    (issues (.vrsqrt p f) s = true → exec (.vrsqrt p f) s = .next (out 8 (app .rsqrt))) ∧
    (issues (.vexp2 p f) s = true → exec (.vexp2 p f) s = .next (out 8 (app .exp2))) ∧
    (issues (.vlog2 p f) s = true → exec (.vlog2 p f) s = .next (out 8 (app .log2)))) ∧
  (∀ (p : Pos) (f : Fields) (s : State), issues (.vcvt p f) s = true →
    let sc := f.mod.extractLsb' 2 4
    let rm := RMode.ofBits (f.mod.extractLsb' 0 2)
    let raw := fun lane : Nat => srcLane s p f.k1 f.src1 64 lane
    let v := fun lane : Nat =>
      if f.k1 = .imm then FVal.ofInt f.src1.imm
      else if sc = 0 then .ofInt (if f.mod.getLsbD 6 then ((raw lane % 2 ^ f.src1.bits : Nat) : Int)
        else signed f.src1.bits (raw lane))
      else ((Fmt.ofCode sc).getD .fp32).decode (raw lane)
    exec (.vcvt p f) s = .next (putVec s p f.dst 3 (guardMask s.curCtx f) fun l =>
      if f.fmt = 0 then (toIntSat f.dst.bits (f.mod.getLsbD 6) rm (v l) % 2 ^ f.dst.bits).toNat
      else (fmtOf f).encode rm (v l)))

/-- R183, R193 and R191: vcmp and vpset write, in the enabled lanes only, the bit of each lane; vpget writes 1, all ones
or 0 into a lane by its bit; vfirst writes the number of the lowest set bit, or 64. -/
def Obligations.VectorPredicates : Prop :=
  ∀ (p : Pos) (f : Fields) (s : State),
    let n := f.dst.start.toNat
    let on := guardMask s.curCtx f
    let code := (f.mod.extractLsb' 0 3).toNat
    let W := 4 * ((f.mod.extractLsb' 3 4).toNat + 1)
    let a := laneExt s p f.k1 f.src1 (decide (code < 4)) W
    let b := laneExt s p f.k2 f.src2 (decide (code < 4)) W
    let fa := laneVal s p f.k1 f.src1 (fmtOf f)
    let fb := laneVal s p f.k2 f.src2 (fmtOf f)
    let q := s.curCtx.pred f.src1.start.toNat
    let V := f.dst.bits
    (issues (.vcmp p f) s = true → f.fmt = 0 → exec (.vcmp p f) s = .next (putPred s p n 2 (laneMask fun l =>
      match code with
      | 0 => decide (a l = b l)
      | 1 => decide (a l ≠ b l)
      | 2 => decide (signed W (a l) < signed W (b l))
      | 3 => decide (signed W (b l) ≤ signed W (a l))
      | 4 => decide (a l < b l)
      | 5 => decide (b l ≤ a l)
      | _ => false) on)) ∧
    (issues (.vcmp p f) s = true → f.fmt ≠ 0 → exec (.vcmp p f) s = .next
      (putPred s p n 2 (laneMask fun l => fpCond code (fa l) (fb l)) on)) ∧
    (issues (.vpset p f) s = true → exec (.vpset p f) s = .next
      (putPred s p n 2 (laneMask fun l => decide (srcLane s p f.k1 f.src1 64 l ≠ 0)) on)) ∧
    (issues (.vpget p f) s = true → exec (.vpget p f) s = .next (putVec s p f.dst 2 on fun l =>
      if q.getLsbD l then (if f.mod.getLsbD 0 then 2 ^ V - 1 else 1) else 0)) ∧
    (issues (.vfirst p f) s = true → exec (.vfirst p f) s = .next (putVec s p f.dst 2 on fun _ =>
      ((List.range 64).find? q.getLsbD).getD 64 % 2 ^ V))

/-- R196 to R199, R201, R202: reductions and scans fold the lanes in order, permutations, rotations and slides read
other lanes as they stood at issue, vpack and vunpack join and split elements across lanes, and vdot and vdotsu add
the products of packed elements to the destination. -/
def Obligations.VectorAcrossLanes : Prop :=
  (∀ (p : Pos) (f : Fields) (s : State),
    let on := guardMask s.curCtx f
    let n := fun lane : Nat => srcLane s p f.k2 f.src2 f.dst.bits lane
    let a := fun lane : Nat => srcLane s p f.k1 f.src1 f.dst.bits lane
    let out := fun (lat : Nat) (g : Nat → Nat) => putVec s p f.dst lat on g
    (issues (.vred p f) s = true → exec (.vred p f) s = .next (out 6 fun _ => reduceLanes s p f (List.range 64))) ∧
    (issues (.vscan p f) s = true → exec (.vscan p f) s = .next (out 6 fun l =>
      reduceLanes s p f (List.range (l + 1)))) ∧
    (issues (.vperm p f) s = true → exec (.vperm p f) s = .next (out 3 fun l => a (n l % 64))) ∧
    (issues (.vbcast p f) s = true → exec (.vbcast p f) s = .next (out 3 fun l => a (n l % 64))) ∧
    (issues (.vrot p f) s = true → exec (.vrot p f) s = .next (out 3 fun l => a ((l + n l) % 64))) ∧
    (issues (.vslide p f) s = true → f.mod.getLsbD 0 = false → exec (.vslide p f) s = .next (out 3 fun l =>
      if n l ≤ l then a (l - n l) else 0)) ∧
    (issues (.vslide p f) s = true → f.mod.getLsbD 0 = true → exec (.vslide p f) s = .next (out 3 fun l =>
      if l + n l ≤ 63 then a (l + n l) else 0))) ∧
  (∀ (p : Pos) (f : Fields) (s : State),
    let on := guardMask s.curCtx f
    let g := 2 ^ (f.mod.extractLsb' 0 3).toNat
    let d := fun lane : Nat => s.curCtx.readLane p.bench lane f.dst.start.toNat f.dst.slices
    let a := fun lane : Nat => srcLane s p f.k1 f.src1 64 lane
    let b := fun lane : Nat => srcLane s p f.k2 f.src2 64 lane
    let out := fun (lat : Nat) (m : Mask) (v : Nat → Nat) => putVec s p f.dst lat m v
    (issues (.vpack p f) s = true → exec (.vpack p f) s = .next (out 3 (on &&& BitVec.ofNat 64 (2 ^ (64 / g) - 1)) fun j =>
      (List.range g).foldl (fun acc t => acc + packElem (f.mod.extractLsb' 3 2).toNat f.src1.bits (f.dst.bits / g)
        (srcLane s p f.k1 f.src1 f.src1.bits (g * j + t)) * 2 ^ (f.dst.bits / g * t)) 0)) ∧
    (issues (.vunpack p f) s = true → exec (.vunpack p f) s = .next (out 3 on fun l =>
      let e := f.src1.bits / g
      extTo (f.mod.getLsbD 3) e f.dst.bits (a (l / g) / 2 ^ (e * (l % g)) % 2 ^ e))) ∧
    (issues (.vdot p f) s = true → exec (.vdot p f) s = .next (out 5 on fun l => dotLane f false (d l) (a l) (b l))) ∧
    (issues (.vdotsu p f) s = true → exec (.vdotsu p f) s = .next (out 5 on fun l => dotLane f true (d l) (a l) (b l))))

/-- R157, R159, R160, R161: ld, vldb, vld, vlds, vldx and gath, where the bytes of every enabled lane are readable, put
the loaded value, extended into the destination by the x bit, in flight for four bundles, and change nothing else.
vld reads packed sub-byte elements bit by bit. -/
def Obligations.ScratchpadLoads : Prop :=
  ∀ (p : Pos) (f : Fields) (s : State),
    let c := s.curCtx
    let fm := fmtOf f
    let W := f.dst.bits
    let x := f.mod.getLsbD 0
    let on := guardMask c f
    let sum := (srcScal s p f.k1 f.src1 32 + srcScal s p f.k2 f.src2 32 * 2 ^ (f.mod.extractLsb' 1 3).toNat) % 2 ^ 32
    let down := fun a : Nat => a / fm.bytes * fm.bytes
    let base := if fm.isByte then down sum else sum
    let vec := fun (bs : Nat → List Byte) (g : Nat → Nat → Nat) =>
      putVec s p f.dst 4 on fun i => g i (if on.getLsbD i then ofBytesLE (bs i) else 0)
    let whole := fun _ v : Nat => loadVal fm x W v
    (∀ bs, issues (.ld p f) s = true → spmRead s c (down sum) fm.bytes = .ok bs →
      exec (.ld p f) s = .next (putScal s p f.dst 4 (loadVal fm x W (ofBytesLE bs)))) ∧
    (∀ bs, issues (.vldb p f) s = true → spmRead s c (down sum) fm.bytes = .ok bs →
      exec (.vldb p f) s = .next (putVec s p f.dst 4 on fun _ => loadVal fm x W (ofBytesLE bs))) ∧
    (∀ bs : Nat → List Byte, issues (.vld p f) s = true →
      (∀ i, i < 64 → on.getLsbD i = true → spmRead s c ((base + (fm.span i).1) % 2 ^ 32) (fm.span i).2.1 = .ok (bs i)) →
      exec (.vld p f) s = .next (vec bs fun i v => loadVal fm x W (v / 2 ^ (fm.span i).2.2 % 2 ^ fm.memBits))) ∧
    (∀ bs : Nat → List Byte, issues (.vlds p f) s = true →
      (∀ i, i < 64 → on.getLsbD i = true → spmRead s c (strideAddr s p f i % 2 ^ 32) fm.bytes = .ok (bs i)) →
      exec (.vlds p f) s = .next (vec bs whole)) ∧
    (∀ bs : Nat → List Byte, issues (.vldx p f) s = true →
      (∀ i, i < 64 → on.getLsbD i = true → indexAddr s p f i < 2 ^ 20 ∧
        spmRead s c (indexAddr s p f i % 2 ^ 32) fm.bytes = .ok (bs i)) →
      exec (.vldx p f) s = .next (vec bs whole)) ∧
    (∀ bs : Nat → List Byte, issues (.gath p f) s = true →
      (∀ i, i < 64 → on.getLsbD i = true → spmRead s c (gatherAddr s p f i % 2 ^ 32) fm.bytes = .ok (bs i)) →
      exec (.gath p f) s = .next (vec bs whole))

/-- R159 to R162: st, vst, vsts, vstx and scat, where the bytes of every enabled lane exist, write the little-endian
bytes of the destination field's data at the computed addresses, lane 0 first, so that a higher lane wins; vst of a
sub-byte format changes the bits of its enabled lanes only. -/
def Obligations.ScratchpadStores : Prop :=
  ∀ (p : Pos) (f : Fields) (s : State),
    let c := s.curCtx
    let fm := fmtOf f
    let on := guardMask c f
    let lanes := (List.range 64).filter fun i => on.getLsbD i
    let sum := (srcScal s p f.k1 f.src1 32 + srcScal s p f.k2 f.src2 32 * 2 ^ (f.mod.extractLsb' 1 3).toNat) % 2 ^ 32
    let down := fun a : Nat => a / fm.bytes * fm.bytes
    let data := fun i : Nat => c.readLane p.bench i f.dst.start.toNat f.dst.slices
    let cells := fun k : Nat → List Nat => lanes.flatMap fun i => (k i).zip (toBytesLE fm.bytes (data i))
    (∀ k, issues (.st p f) s = true → spmRange s c (down sum) fm.bytes = some k →
      exec (.st p f) s = .next (spmWrite s c
        (k.zip (toBytesLE fm.bytes (c.readScal p.bench f.dst.start.toNat f.dst.slices))))) ∧
    (∀ k : Nat → List Nat, issues (.vst p f) s = true → fm.isByte = true →
      (∀ i ∈ lanes, spmRange s c (down sum + i * fm.bytes) fm.bytes = some (k i)) →
      exec (.vst p f) s = .next (spmWrite s c (cells k))) ∧
    (issues (.vst p f) s = true → fm.isByte = false →
      (∀ i ∈ lanes, (spmRange s c (sum + (fm.span i).1) (fm.span i).2.1).isSome = true) →
      exec (.vst p f) s = .next
        (spmWrite s c (packedCells s (runKey s c sum) fm on data) (packedBits (runKey s c sum) fm on))) ∧
    (∀ k : Nat → List Nat, issues (.vsts p f) s = true →
      (∀ i ∈ lanes, spmRange s c (strideAddr s p f i) fm.bytes = some (k i)) →
      exec (.vsts p f) s = .next (spmWrite s c (cells k))) ∧
    (∀ k : Nat → List Nat, issues (.vstx p f) s = true →
      (∀ i ∈ lanes, indexAddr s p f i < 2 ^ 20 ∧ spmRange s c (indexAddr s p f i) fm.bytes = some (k i)) →
      exec (.vstx p f) s = .next (spmWrite s c (cells k))) ∧
    (∀ k : Nat → List Nat, issues (.scat p f) s = true →
      (∀ i ∈ lanes, spmRange s c (gatherAddr s p f i) fm.bytes = some (k i)) →
      exec (.scat p f) s = .next (spmWrite s c (cells k)))

/-- R165, R166: spill, fill, vspill and vfill move nibbles at a nibble address; tag empties one word and tagrd reads a
tag. R153: kld, kmov, kadd, ksub, kli, kbind, kfmt and kclr put values in flight to the scale registers and KB, sums
clamped to -128 .. 127; a kfmt with a code above 9 is an illegal bundle; that a disabled one is not is the model's
reading (DEDUCED, log entry 62). -/
def Obligations.SpillsTagsAndScaleFile : Prop :=
  (∀ (p : Pos) (f : Fields) (s : State),
    let c := s.curCtx
    let n := srcScal s p f.k1 f.src1 33 % 2 ^ 33
    let w := f.dst.slices
    let on := guardMask c f
    let lanes := (List.range 64).filter fun i => on.getLsbD i
    let data := fun i : Nat => c.readLane p.bench i f.dst.start.toNat w
    let word := srcScal s p f.k1 f.src1 32 / 8 * 8
    (∀ k, issues (.spill p f) s = true → nibKeys s n w = some k →
      exec (.spill p f) s = .next (spmWrite s c
        (nibCells s.mem k n w (c.readScal p.bench f.dst.start.toNat w)) (nibBits k n w))) ∧
    (∀ bs, issues (.fill p f) s = true → readNibs s n w = .ok bs →
      exec (.fill p f) s = .next (putScal s p f.dst 4 (ofBytesLE bs))) ∧
    (∀ k : Nat → List Nat, issues (.vspill p f) s = true → (∀ i ∈ lanes, nibKeys s (n + i * w) w = some (k i)) →
      exec (.vspill p f) s = .next (spmWrite s c (lanes.foldl (fun mc i =>
        let new := nibCells mc.1 (k i) (n + i * w) w (data i)
        (new.foldl (fun m x => memSet m x.1 x.2) mc.1, mc.2 ++ new)) (s.mem, [])).2 (lanes.flatMap fun i => nibBits (k i) (n + i * w) w))) ∧
    (∀ bs : Nat → List Byte, issues (.vfill p f) s = true →
      (∀ i, i < 64 → on.getLsbD i = true → readNibs s (n + i * w) w = .ok (bs i)) →
      exec (.vfill p f) s = .next (putVec s p f.dst 4 on fun i => if on.getLsbD i then ofBytesLE (bs i) else 0)) ∧
    (∀ k, issues (.tag p f) s = true → spmRange s c word 8 = some k →
      ∃ t, exec (.tag p f) s = .next t ∧ tagFull t (tagKey s c word) = false ∧
        (∀ j, j / 8 ≠ tagKey s c word / 8 → tagFull t j = tagFull s j) ∧ t = { s with emptyTags := t.emptyTags }) ∧
    (∀ k, issues (.tagrd p f) s = true → spmRange s c word 8 = some k →
      exec (.tagrd p f) s = .next (putScal s p f.dst 4 (if tagFull s (tagKey s c word) then 1 else 0)))) ∧
  (∀ (p : Pos) (f : Fields) (s : State),
    let n := f.dst.start.toNat
    let k := (s.curCtx.scales[(f.mod.extractLsb' 0 4).toNat]?.getD 0).toInt
    let v := src64 s f.k1 f.src1
    let b := v.toNat % 4096
    let clamp := fun x : Int => max (-128) (min 127 x)
    (∀ bs, issues (.kld p f) s = true →
      spmRead s s.curCtx ((v + src64 s f.k2 f.src2).toNat % 2 ^ 32) ((f.mod.extractLsb' 0 2).toNat + 1) = .ok bs →
      exec (.kld p f) s = .next ((List.range ((f.mod.extractLsb' 0 2).toNat + 1)).foldl
        (fun t j => putScale t p (n + j) 3 ((bs[j]?.getD 0).toInt)) s)) ∧
    (issues (.kmov p f) s = true → exec (.kmov p f) s = .next (putScale s p n 1 k)) ∧
    (issues (.kadd p f) s = true → exec (.kadd p f) s = .next (putScale s p n 1 (clamp (k + v.toInt)))) ∧
    (issues (.ksub p f) s = true → exec (.ksub p f) s = .next (putScale s p n 1 (clamp (k - v.toInt)))) ∧
    (issues (.kli p f) s = true → exec (.kli p f) s = .next (putScale s p n 1 (clamp f.src1.imm))) ∧
    (issues (.kbind p f) s = true → exec (.kbind p f) s = .next (putKb s p 1 (v &&& 0xFFF) 0xFFF)) ∧
    (issues (.kfmt p f) s = true → b % 16 ≤ 9 → b / 16 % 16 ≤ 9 → b / 256 ≤ 9 →
      exec (.kfmt p f) s = .next (putKb s p 1 (BitVec.ofNat 64 (b * 4096)) 0xFFF000)) ∧
    (issues (.kfmt p f) s = true → (b % 16 > 9 ∨ b / 16 % 16 > 9 ∨ b / 256 > 9) →
      exec (.kfmt p f) s = .next (stopTrap s s.curCtx.handle causeIllegal 15 0 false (illegalInfo 0 p.index))) ∧
    (issues (.kclr p f) s = true →
      exec (.kclr p f) s = .next ((List.range 16).foldl (fun t j => putScale t p j 1 0) s)))

/-- R107: cli, clui, cadd, csub, cmul, cand, cor, cxor, csll, csrl, csra, cmov, cpset and cpget compute the 64-bit
results of the rule, wrapping modulo 2^64, the shifts by the low six bits of src2; cpget of a predicate from 48 on
raises an illegal-bundle trap, and predicate 0 reads all ones. -/
def Obligations.CommonArithmetic : Prop :=
  ∀ (p : Pos) (f : Fields) (s : State),
    let a := src64 s f.k1 f.src1
    let b := src64 s f.k2 f.src2
    let n := (b.extractLsb' 0 6).toNat
    let out := fun v : Word => putCommon s p f.dst.reg 1 v
    (issues (.cli p f) s = true → exec (.cli p f) s = .next (out (BitVec.ofInt 64 f.wide))) ∧
    (issues (.clui p f) s = true → exec (.clui p f) s = .next (out
      ((s.curCtx.common f.src1.reg <<< 23) ||| f.imm23.setWidth 64))) ∧
    (issues (.cadd p f) s = true → exec (.cadd p f) s = .next (out (a + b))) ∧
    (issues (.csub p f) s = true → exec (.csub p f) s = .next (out (a - b))) ∧
    (issues (.cmul p f) s = true → exec (.cmul p f) s = .next (putCommon s p f.dst.reg 3 (a * b))) ∧
    (issues (.cand p f) s = true → exec (.cand p f) s = .next (out (a &&& b))) ∧
    (issues (.cor p f) s = true → exec (.cor p f) s = .next (out (a ||| b))) ∧
    (issues (.cxor p f) s = true → exec (.cxor p f) s = .next (out (a ^^^ b))) ∧
    (issues (.csll p f) s = true → exec (.csll p f) s = .next (out (a <<< n))) ∧
    (issues (.csrl p f) s = true → exec (.csrl p f) s = .next (out (a >>> n))) ∧
    (issues (.csra p f) s = true → exec (.csra p f) s = .next (out (a.sshiftRight n))) ∧
    (issues (.cmov p f) s = true → exec (.cmov p f) s = .next (out a)) ∧
    (issues (.cpget p f) s = true → exec (.cpget p f) s = .next (out (s.curCtx.pred (f.mod.extractLsb' 0 6).toNat))) ∧
    (issues (.cpset p f) s = true → exec (.cpset p f) s = .next (putPred s p f.dst.start.toNat 1 a (BitVec.allOnes 64))) ∧
    (48 ≤ (f.mod.extractLsb' 0 6).toNat → ∃ row, exec (.cpget p f) s = .next
      (stopTrap s s.curCtx.handle causeIllegal 15 0 false (illegalInfo row p.index))) ∧
    s.curCtx.pred 0 = BitVec.allOnes 64

/-- R127, R230: frd reads a frontier or all ones, lvlrd and emrd the session's copies, srd a special register, estat the
state of the engines. R38, R128: swr puts a writable special register's value in flight, and a management register's
for a management sequencer, which is performed when it lands (R452), and ignores any other number. R211: mpset puts
a matrix parameter in flight. -/
def Obligations.SchedulerAndSpecialRegisters : Prop :=
  (∀ (p : Pos) (f : Fields) (s : State),
    let c := s.curCtx
    let a := src64 s f.k1 f.src1
    let out := fun v : Word => putCommon s p f.dst.reg 1 v
    (issues (.frd p f) s = true → exec (.frd p f) s = .next (out (match s.frontierTask c.part (a.toNat % 4096) with
      | some t => BitVec.ofNat 64 t.1
      | none => BitVec.allOnes 64))) ∧
    (issues (.lvlrd p f) s = true → exec (.lvlrd p f) s = .next (out (match s.sessionOf c with
      | some x => x.copyLevel
      | none => 0))) ∧
    (issues (.emrd p f) s = true → exec (.emrd p f) s = .next (out (match s.sessionOf c with
      | some x => x.copyEmit
      | none => 0))) ∧
    (issues (.srd p f) s = true → exec (.srd p f) s = .next (out (s.special c f.src1.start.toNat))) ∧
    (issues (.estat p f) s = true → exec (.estat p f) s = .next (out (estatVal s c a)))) ∧
  (∀ (p : Pos) (f : Fields) (s : State),
    let n := f.src1.start.toNat
    let b := src64 s f.k2 f.src2
    (issues (.swr p f) s = true → (n = 0x11 ∨ n = 0x20 ∨ n = 0x28 ∨ n = 0x29) →
      exec (.swr p f) s = .next (putSpecial s p n 1 b)) ∧
    (issues (.swr p f) s = true → 0x40 ≤ n → n < 0x80 → s.isMgmt s.curCtx = true →
      exec (.swr p f) s = .next (s.modCur fun c => { c with mgmt := some (n, b) })) ∧
    (∀ (t : State) (c : Ctx) (m : Nat) (v : Word), t.ctx? c.handle = some c → c.mgmt = some (m, v) →
      landMgmt t c.handle = mgmtWrite (t.setCtx { c with mgmt := none }) { c with mgmt := none } m v) ∧
    (issues (.swr p f) s = true → n ≠ 0x11 → n ≠ 0x20 → n ≠ 0x28 → n ≠ 0x29 →
      (n < 0x40 ∨ 0x80 ≤ n ∨ s.isMgmt s.curCtx = false) → exec (.swr p f) s = .next s) ∧
    (issues (.mpset p f) s = true → exec (.mpset p f) s = .next
      (putSpecial s p (0x80 + f.dst.start.toNat % 8) 1 (src64 s f.k1 f.src1))))

/-- R82, R104, R109: br, jmp, ret, call and callc leave a transfer pending to their target with two shadow bundles; a
call links the bundle after them (R105). R110 to R112: loop pushes an entry or skips its body, and is an illegal
bundle on a full stack; loopd pushes a nest or skips it, and is an illegal bundle where its descriptor has no level
or 7, or its levels do not fit; loopx leaves levels with a pending transfer, and is an illegal bundle where it names
more levels than the stack holds. How the bundle after the shadow is found is the model's choice (DESIGN CHOICE, log
entries 66 and 67), and that loopd takes the low 32 bits of its source as its descriptor's address is its reading
(DEDUCED, log entry 44). -/
def Obligations.TransfersAndLoops : Prop :=
  (∀ (p : Pos) (f : Fields) (s : State),
    let c := s.curCtx
    let near := c.pc + BitVec.ofInt 32 (4 * f.wide)
    let far := BitVec.ofNat 32 ((src64 s f.k1 f.src1).toNat % 2 ^ 32 / 4 * 4)
    let go := fun (t : State) (tgt : PC) => t.modCur fun d => { d with pend := true, target := tgt, shl := 2 }
    let link := putCommon s p f.dst.reg 1 ((afterBundle s c (afterBundle s c c.nextAddr)).setWidth 64)
    (issues (.br p f) s = true → exec (.br p f) s = .next (go s near)) ∧
    (issues (.jmp p f) s = true → exec (.jmp p f) s = .next (go s far)) ∧
    (issues (.ret p f) s = true → exec (.ret p f) s = .next (go s far)) ∧
    (issues (.call p f) s = true → exec (.call p f) s = .next (go link near)) ∧
    (issues (.callc p f) s = true → exec (.callc p f) s = .next (go link far))) ∧
  (∀ (p : Pos) (f : Fields) (s : State),
    let c := s.curCtx
    let n := (c.common f.src1.reg).toInt
    let a := (src64 s f.k1 f.src1).toNat % 2 ^ 32 / 8 * 8
    let k := (f.mod.extractLsb' 0 3).toNat + 1
    let label := match f.k1 with
      | .common => BitVec.ofNat 32 ((src64 s f.k1 f.src1).toNat % 2 ^ 32 / 4 * 4)
      | _ => c.pc + BitVec.ofInt 32 (4 * f.src1.imm)
    (issues (.loop p f) s = true → c.loops.length < 6 → 0 < n →
      exec (.loop p f) s = .next (s.modCur fun d =>
        { d with loops := ⟨BitVec.ofNat 32 (min n.toNat (2 ^ 32 - 1)), d.nextAddr, 0⟩ :: d.loops })) ∧
    (issues (.loop p f) s = true → c.loops.length < 6 → n ≤ 0 →
      exec (.loop p f) s = .next (setNext s (c.pc + BitVec.ofInt 32 (4 * f.wide)) false)) ∧
    (issues (.loop p f) s = true → 6 ≤ c.loops.length →
      exec (.loop p f) s = .next (stopTrap s c.handle causeIllegal 15 0 false (illegalInfo 0 p.index))) ∧
    (∀ (w : Word) (ws : List Word) (bs rest : List Byte), issues (.loopd p f) s = true →
      spmRead s c a 8 = .ok bs → w = BitVec.ofNat 64 (ofBytesLE (bs.take 8)) →
      let m := (w.extractLsb' 0 3).toNat
      1 ≤ m → m ≤ 6 → c.loops.length + m ≤ 6 → spmRead s c (a + 8) (8 * m) = .ok rest →
      ws = (List.range m).map (fun i => BitVec.ofNat 64 (ofBytesLE ((rest.drop (8 * i)).take 8))) →
      exec (.loopd p f) s = .next
        (if ws.any fun x => x.extractLsb' 0 32 == 0 then setNext s (c.pc + ((w.extractLsb' 32 32) &&& ~~~3)) false
         else s.modCur fun d => { d with loops := (ws.map (nestEntry c)).reverse ++ d.loops })) ∧
    (∀ (w : Word) (bs : List Byte), issues (.loopd p f) s = true →
      spmRead s c a 8 = .ok bs → w = BitVec.ofNat 64 (ofBytesLE (bs.take 8)) →
      let m := (w.extractLsb' 0 3).toNat
      m = 0 ∨ m = 7 ∨ 6 < c.loops.length + m →
      exec (.loopd p f) s = .next (stopTrap s c.handle causeIllegal 15 0 false (illegalInfo 0 p.index))) ∧
    (issues (.loopx p f) s = true → k ≤ c.loops.length →
      exec (.loopx p f) s = .next (s.modCur fun d =>
        { d with loops := d.loops.drop k, pend := true, target := label, shl := 2 })) ∧
    (issues (.loopx p f) s = true → c.loops.length < k →
      exec (.loopx p f) s = .next (stopTrap s c.handle causeIllegal 15 0 false (illegalInfo 0 p.index))))

/-- R113 to R118, R360, R362: fork and forkr read a task descriptor, push the task and write whether it was taken, and
are illegal bundles where the descriptor names no barrier slot in join mode; take delivers a task to its register or
zero, and is an illegal bundle at depth 6; join goes on at a count of zero, and is an illegal bundle on a slot that
is not in join mode and in an ordered task; retire completes the sequencer's tasks and ends it; retire.t completes
its innermost task and goes on at its label. That the descriptor's address is the low 32 bits of the source is the
model's reading (DEDUCED, log entry 44). -/
def Obligations.Tasks : Prop :=
  ∀ (p : Pos) (f : Fields) (s : State),
    let c := s.curCtx
    let at32 := (src64 s f.k1 f.src1).toNat % 2 ^ 32 / 32 * 32
    let slot := (src64 s f.k1 f.src1).toNat
    let forks := fun (i : Instr) (range : Bool) => ∀ (bs : List Byte) (d : TaskDesc) (b : Barrier),
      issues i s = true → spmRead s c at32 32 = .ok bs →
      d = ⟨BitVec.ofNat 64 (ofBytesLE ((bs.drop 0).take 8)), BitVec.ofNat 64 (ofBytesLE ((bs.drop 8).take 8)),
        BitVec.ofNat 64 (ofBytesLE ((bs.drop 16).take 8)), BitVec.ofNat 64 (ofBytesLE ((bs.drop 24).take 8))⟩ →
      s.bar? c.gkey c.gang (d.w0.extractLsb' 44 9).toNat = some b → b.joinMode = true →
      exec i s = .next (match forkTask s c range d with
        | some t => putPred t p f.dst.start.toNat 1 (BitVec.allOnes 64) (BitVec.allOnes 64)
        | none => putPred s p f.dst.start.toNat 1 0 (BitVec.allOnes 64))
    let illegal := Host.Outcome.next (stopTrap s c.handle causeIllegal 15 0 false (illegalInfo 0 p.index))
    forks (.fork p f) false ∧ forks (.forkr p f) true ∧
    (∀ (i : Instr) (bs : List Byte), i = .fork p f ∨ i = .forkr p f → issues i s = true → spmRead s c at32 32 = .ok bs →
      (∀ b, s.bar? c.gkey c.gang ((BitVec.ofNat 64 (ofBytesLE (bs.take 8))).extractLsb' 44 9).toNat = some b →
        b.joinMode = false) →
      exec i s = illegal) ∧
    (issues (.take p f) s = true → c.loops.length < 6 → exec (.take p f) s = .next (match takeTask s c f.dst.reg with
      | some (e, t) => putCommon t p f.dst.reg 1 (takeValue e)
      | none => (putCommon s p f.dst.reg 1 0).modCur fun d => { d with pend := false, target := 0, shl := 2 })) ∧
    (issues (.take p f) s = true → 6 ≤ c.loops.length → exec (.take p f) s = illegal) ∧
    (∀ b, issues (.join p f) s = true → s.bar? c.gkey c.gang slot = some b → b.joinMode = true → c.inOrdered = false →
      exec (.join p f) s = .next s) ∧
    (issues (.join p f) s = true →
      (c.inOrdered = true ∨ ∀ b, s.bar? c.gkey c.gang slot = some b → b.joinMode = false) →
      exec (.join p f) s = illegal) ∧
    (issues (.retire p f) s = true → exec (.retire p f) s = .next
      ((c.tasks.foldl (fun t x => completeTask t c x) s).modCur fun d =>
        { d with tasks := [], flight := [], leave := some .retire })) ∧
    (issues (.retireT p f) s = true → c.tasks = [] → exec (.retireT p f) s = .next (setNext s (labelOf s f) true)) ∧
    (∀ x rest, issues (.retireT p f) s = true → c.tasks = x :: rest → exec (.retireT p f) s = .next
      (setNext ((completeTask s c x).modCur fun d =>
        { d with tasks := rest, loops := d.loops.drop (d.loops.length - x.depth) }) (labelOf s f) true))

/-- R119, R120: fget reads a full word, and takes the user-level trap FUTURE_EMPTY on an empty one; fput fills an empty
word and keeps a full one. R122: binit sets a quiet slot, barrive arrives, bwait arrives and waits unless its
arrival completes the episode; binit on a slot that is not quiet, barrive and bwait on one in join mode, and each of
them on a slot that is not declared, are illegal bundles. R124: phase releases, acquires and counts the phase. R125:
tkwait goes on. R129: yield stops the sequencer for the Gaffer. That the address of fget and fput is the low 32 bits
of the source, and that a waiting phase stalls as it does, are the model's readings (DEDUCED, log entry 44). -/
def Obligations.Synchronisation : Prop :=
  ∀ (p : Pos) (f : Fields) (s : State),
    let c := s.curCtx
    let a := (src64 s f.k1 f.src1).toNat % 2 ^ 32 / 8 * 8
    let v := src64 s f.k2 f.src2
    let b := (src64 s f.k1 f.src1).toNat
    let put := fun y : Barrier => s.modBar c.gkey c.gang b fun _ => y
    let arrived := fun y : Barrier => orderStores (put y) c.handle
    let illegal := Host.Outcome.next (stopTrap s c.handle causeIllegal 15 0 false (illegalInfo 0 p.index))
    (∀ k, issues (.fget p f) s = true → spmRange s c a 8 = some k → tagFull s (tagKey s c a) = false →
      exec (.fget p f) s = .next (userTrap s c.handle a)) ∧
    (∀ k bs, issues (.fget p f) s = true → spmRange s c a 8 = some k → tagFull s (tagKey s c a) = true →
      spmRead s c a 8 = .ok bs →
      exec (.fget p f) s = .next (putCommon s p f.dst.reg 1 (BitVec.ofNat 64 (ofBytesLE bs)))) ∧
    (∀ k, issues (.fput p f) s = true → spmRange s c a 8 = some k → tagFull s (tagKey s c a) = true →
      exec (.fput p f) s = .next s) ∧
    (∀ k, issues (.fput p f) s = true → spmRange s c a 8 = some k → tagFull s (tagKey s c a) = false →
      exec (.fput p f) s = .next (setTag (spmWrite s c (k.zip (toBytesLE 8 v.toNat))) (tagKey s c a) true)) ∧
    (∀ x, issues (.binit p f) s = true → s.bar? c.gkey c.gang b = some x → x.count = 0 → x.waiters = 0 →
      exec (.binit p f) s = .next (put
        { x with joinMode := decide (v.toNat = 0), target := min v.toNat 65535 })) ∧
    (issues (.binit p f) s = true →
      (∀ x, s.bar? c.gkey c.gang b = some x → x.count ≠ 0 ∨ x.waiters ≠ 0) → exec (.binit p f) s = illegal) ∧
    (∀ i : Instr, i = .barrive p f ∨ i = .bwait p f → issues i s = true →
      (∀ x, s.bar? c.gkey c.gang b = some x → x.joinMode = true) → exec i s = illegal) ∧
    (∀ x, issues (.barrive p f) s = true → s.bar? c.gkey c.gang b = some x → x.joinMode = false →
      exec (.barrive p f) s = .next (arrived (x.arrive false))) ∧
    (∀ x, issues (.bwait p f) s = true → s.bar? c.gkey c.gang b = some x → x.joinMode = false →
      exec (.bwait p f) s = .next
        (if x.count + 1 ≥ x.target then arrived (x.arrive true)
         else (arrived (x.arrive true)).modCur fun d => { d with barWait := some ⟨b, x.episode⟩, barPc := d.pc })) ∧
    (issues (.phase p f) s = true → leadWaits s c = false → s.offBusy c = false →
      let t := orderStores
        (phaseAcquire (phaseRelease s c (min (f.mod.extractLsb' 0 2).toNat 2)) c (min (f.mod.extractLsb' 0 2).toNat 2)) c.handle
      exec (.phase p f) s = .next ((putPred t p f.dst.start.toNat 1 (boolMask t.curCtx.lost) (BitVec.allOnes 64)).modCur
        fun d => { d with phase := d.phase + 1, lost := false })) ∧
    (issues (.phase p f) s = true → (leadWaits s c = true ∨ s.offBusy c = true) → exec (.phase p f) s = .next s) ∧
    (issues (.tkwait p f) s = true → exec (.tkwait p f) s = .next s) ∧
    (issues (.yield p f) s = true → exec (.yield p f) s = .next (s.modCur fun d => { d with leave := some .yield }))

/-- R129, R236, R240: ecall and trap stop the sequencer with a trap record of their cause whose info is their immediate,
dbrk with a debug record while the cluster has an active debug owner, and has no effect otherwise. R121: uret clears
the active trap and leaves a transfer to the trapping bundle pending with two shadow bundles; without an active trap
it is an illegal bundle. What the record holds of the bundle is the model's reading of R240 (DEDUCED, log entries 15
and 21). -/
def Obligations.StopsAndReturn : Prop :=
  ∀ (p : Pos) (f : Fields) (s : State),
    let c := s.curCtx
    let imm := f.imm23.setWidth 64
    let done : BitVec 9 := 1#9 <<< p.index
    (issues (.ecall p f) s = true → exec (.ecall p f) s = .next (stopTrap s c.handle 0x03 0 done false imm)) ∧
    (issues (.trap p f) s = true → exec (.trap p f) s = .next (stopTrap s c.handle 0x04 0 done false imm)) ∧
    (issues (.dbrk p f) s = true → s.dbgActive (clusterOf c.core) = true →
      exec (.dbrk p f) s = .next (stopDebug s c.handle 0x05 0 done false (BitVec.ofNat 64 f.src1.toBits.toNat))) ∧
    (issues (.dbrk p f) s = true → s.dbgActive (clusterOf c.core) = false → exec (.dbrk p f) s = .next s) ∧
    (issues (.uret p f) s = true → c.trapInfo.getLsbD 63 = true →
      exec (.uret p f) s = .next (s.modCtx c.handle fun d =>
        { d with trapInfo := d.trapInfo &&& ~~~(BitVec.ofNat 64 (2 ^ 63)), pend := true,
                 target := BitVec.ofNat 32 (d.trapInfo.toNat % 2 ^ 32 / 4 * 4), shl := 2 })) ∧
    (issues (.uret p f) s = true → c.trapInfo.getLsbD 63 = false →
      exec (.uret p f) s = .next (stopTrap s c.handle causeIllegal 15 0 false (illegalInfo 0 p.index)))

/-- R32, R167 to R174: an off-core command enters its core's queue with the operands it reads at issue, and its token
becomes pending; qfence goes on when none of the named queues holds a command of the sequencer. R205, R207, R209: an
engine command captures its operands or the words of its descriptor and resolves its wait operand; aclr takes no
token; ebar waits for the commands of its mask, and ecancel cancels those not started. Far addresses are translated
when a command performs (DEDUCED, log entry 25). -/
def Obligations.CommandsIssue : Prop :=
  (∀ (p : Pos) (f : Fields) (s : State),
    let c := s.curCtx
    let b := (fmtOf f).bytes
    let v1 := srcScal s p f.k1 f.src1 64
    let v2 := srcScal s p f.k2 f.src2 64
    let d := srcScal s p f.k2 f.src2 (fmtOf f).width
    let at1 := fun n : Nat => BitVec.ofNat 64 (v1 / n * n)
    let line := BitVec.ofNat 64 (srcScal s p f.k1 f.src1 32 / 64 * 64)
    let enters := fun (i : Instr) (q : Nat) (token : Option Nat) (args : List Word) =>
      issues i s = true → s.queueLen c.core (.off q) < 16 → s.mySlot c = none → s.isSpec c = false →
        (∀ h, rangeHit c (v1 / b * b) = some h → h.tiered = false) →
        exec i s = .next (pushCmd s c (mkCmd s c i p (.off q) token args))
    let qf := (f.mod.extractLsb' 1 2).toNat
    let qa := (f.mod.extractLsb' 0 2).toNat
    let tok := some f.dst.reg
    enters (.fld p f) qf tok [BitVec.ofNat 64 ((v1 + v2) % 2 ^ 64 / b * b)] ∧
    enters (.fst p f) qf tok [at1 b, BitVec.ofNat 64 d] ∧
    enters (.fldv p f) qf tok [line, BitVec.ofNat 64 (v2 / 64 * 64)] ∧
    enters (.fstv p f) qf tok [line, BitVec.ofNat 64 (v2 / 64 * 64)] ∧
    enters (.amo p f) qa tok [at1 b, BitVec.ofNat 64 d] ∧
    enters (.amocas p f) qa tok [at1 b, BitVec.ofNat 64 d, c.common f.dst.reg] ∧
    enters (.probe p f) qf tok [BitVec.ofNat 64 v1, BitVec.ofNat 64 (min v2 (2 ^ 32 - 1))] ∧
    enters (.cwb p f) qf none [BitVec.ofNat 64 v1, BitVec.ofNat 64 (min v2 0x100000)] ∧
    enters (.cinv p f) qf none [BitVec.ofNat 64 v1, BitVec.ofNat 64 (min v2 0x100000)] ∧
    enters (.cwbi p f) qf none [BitVec.ofNat 64 v1, BitVec.ofNat 64 (min v2 0x100000)] ∧
    (issues (.qfence p f) s = true →
      (∀ x ∈ s.cmds, x.ctx = c.handle → ∀ q, x.queue = .off q → f.mod.getLsbD q = false) →
      exec (.qfence p f) s = .next s)) ∧
  (∀ (p : Pos) (f : Fields) (s : State),
    let c := s.curCtx
    let a := (src64 s f.k1 f.src1).toNat % 2 ^ 32 / 8 * 8
    let wait := waitOf s c f
    let enter := fun x : Cmd => match s.mySlot c with
      | none => pushCmd s c x
      | some (ix, y) =>
        let ls := (y.wlines ++ linesAfter s c x).eraseDups
        if 256 < ls.length then stopTrap s c.handle causeIllegal 15 0 false (illegalInfo 0 p.index)
        else (pushCmd s c x).modSlot c.core ix fun z => { z with wlines := ls }
    let enters := fun (i : Instr) (q : Queue) (args : List Word) =>
      exec i s = .next (enter { mkCmd s c i p q (some f.dst.reg) args with waitCid := wait.1, dep := wait.2 })
    let desc := fun (i : Instr) (q : Queue) (depth n : Nat) (extra : List Word) => ∀ bs : List Byte,
      issues i s = true → s.isSpec c = false → s.queueLen c.core q < depth → spmRead s c a (8 * n) = .ok bs →
      enters i q (BitVec.ofNat 64 a ::
        (List.range n).map (fun j => BitVec.ofNat 64 (ofBytesLE ((bs.drop (8 * j)).take 8))) ++ extra)
    (issues (.mcall p f) s = true → s.isSpec c = false → s.queueLen c.core .mq < 8 →
      enters (.mcall p f) .mq (src64 s f.k1 f.src1 :: c.mp.toList ++
        [c.kb.setWidth 64, boundScale c 0, boundScale c 4, boundScale c 8])) ∧
    desc (.mload p f) .mq 8 1 [] ∧ desc (.smcopy p f) .mq 8 1 [] ∧ desc (.ncopy p f) .xq 16 9 [] ∧
    desc (.egath p f) .xq 16 4 [] ∧ desc (.escat p f) .xq 16 4 [] ∧ desc (.mcast p f) .xq 16 3 [] ∧
    desc (.mcastb p f) .xq 16 3 [] ∧ desc (.coll p f) .cq 4 4 [] ∧ desc (.tnld p f) .xq 16 6 [] ∧
    desc (.tnst p f) .xq 16 6 [] ∧ desc (.tnpf p f) .xq 16 6 [] ∧ desc (.emit p f) .tq 4 2 [] ∧
    desc (.accld p f) .mq 8 1 [] ∧ desc (.accst p f) .mq 8 1 [] ∧
    desc (.adrain p f) .mq 8 1 [c.kb.setWidth 64, boundScale c 8] ∧
    (issues (.aclr p f) s = true → s.isSpec c = false → s.queueLen c.core .mq < 8 →
      exec (.aclr p f) s = .next (enter
        (mkCmd s c (.aclr p f) p .mq none [src64 s f.k1 f.src1, src64 s f.k2 f.src2]))) ∧
    (issues (.ebar p f) s = true → s.isSpec c = false →
      exec (.ebar p f) s = .next (pushCmd s c { mkCmd s c (.ebar p f) p .none (some f.dst.reg) [] with
        after := (maskedCmds s c.handle (src64 s f.k1 f.src1)).map (·.cid) })) ∧
    (issues (.ecancel p f) s = true → s.isSpec c = false →
      let gone := (maskedCmds s c.handle (src64 s f.k1 f.src1)).filter fun x => !x.started
      let t := gone.foldl cancelCmd s
      exec (.ecancel p f) s = .next (pushCmd t c { mkCmd t c (.ecancel p f) p .none (some f.dst.reg) [] with
        after := (maskedCmds t c.handle (src64 s f.k1 f.src1)).map (·.cid), count := gone.length })))

/-- R74, R84: an operation that its guard disables, in every lane of a vector operation, changes nothing; a transfer
operation still leaves its two shadow bundles with no transfer pending. That it does so with a pending token among
its registers is the model's reading (DEDUCED, log entry 19), and so is that a disabled kfmt with an immediate code
above 9 has none of its effect (DEDUCED, log entry 62). -/
def Obligations.DisabledOperations : Prop :=
  ∀ (i : Instr) (s : State), passes i = true → inWindow i s = true → guardOn i s = false →
    exec i s = .next (if isTransfer i then s.modCur fun c => { c with pend := false, target := 0, shl := 2 } else s)

/-- R89, R90: a word that fails a check of rows 6 to 17, or its own operation's rule (row 0), raises an illegal-bundle
trap that names the row and the slot; one that passes and whose slices lie outside the window raises a slice-bound
trap. Which rows some widths fail is the model's reading (DEDUCED, log entries 12 to 14 and 16). -/
def Obligations.FailingWords : Prop :=
  ∀ (i : Instr) (s : State) (cls : Cls) (code : Nat) (p : Pos) (f : Fields) (info : OpInfo),
    i.parts = some (cls, code, p, f) → opInfo i = some info →
    (∀ row, wordFail i info f = some row →
      exec i s = .next (stopTrap s s.curCtx.handle causeIllegal 15 0 false (illegalInfo row p.index))) ∧
    (∀ w, wordFail i info f = none → sliceFail s.curCtx none i info p f = some w →
      exec i s = .next (stopTrap s s.curCtx.handle causeSliceBound p.index 0 false w))

/-- R32: an enabled operation that reads, writes or names as its token a register whose completion is pending has no
effect: it waits. -/
def Obligations.PendingTokens : Prop :=
  ∀ (i : Instr) (s : State), slotInstr i = true → passes i = true → inWindow i s = true → guardOn i s = true →
    tokensFree i s = false → exec i s = .next s

/-- R22, R41, the frame of the operations whose results land: those of slots A, V and K, and those of slot C that only
compute. Every register, flag, special register, accumulator and byte of memory stays as it was; what changes is the
list of results in flight of the context that issues. kld and kfmt, which can also fault, are stated by
SpillsTagsAndScaleFile. -/
def Obligations.ResultsOnlyGoInFlight : Prop :=
  ∀ (i : Instr) (s : State), computes i = true → issues i s = true →
    (∀ p f, i ≠ .kfmt p f ∧ i ≠ .kld p f) → ∃ t, exec i s = .next t ∧ onlyFlight s t

/-- R159 to R162, R165, R166, where no stored data is poisoned: nothing but memory changes, and beside it the note of
the bytes of which a load may still see the old value (R164); every byte outside the ones stored to, at the
addresses that the meanings compute, keeps its value; tag changes the tags alone. -/
def Obligations.StoresKeepOtherBytes : Prop :=
  ∀ (p : Pos) (f : Fields) (s : State), memoryOk s → s.poison = [] →
    let c := s.curCtx
    let fm := fmtOf f
    let lanes := (List.range 64).filter fun i => (guardMask c f).getLsbD i
    let a0 := alignDown (spmSum s p f) fm.bytes
    let n := nibAddr s p f
    let w := f.dst.slices
    let onlyAt := fun (i : Instr) (at' : Nat → Prop) =>
      ∃ t, exec i s = .next t ∧ t = { s with mem := t.mem, loose := t.loose } ∧
        ∀ a, ¬at' a → (∀ j, at' j → a ∉ (mirrorCells s [(j, 0)]).map (·.1)) → memGet t.mem a = memGet s.mem a
    (∀ k, issues (.st p f) s = true → spmRange s c a0 fm.bytes = some k →
      onlyAt (.st p f) (· ∈ k)) ∧
    (∀ k : Nat → List Nat, issues (.vst p f) s = true → fm.isByte = true →
      (∀ i ∈ lanes, spmRange s c (a0 + i * fm.bytes) fm.bytes = some (k i)) →
      onlyAt (.vst p f) fun a => ∃ i ∈ lanes, a ∈ k i) ∧
    (∀ k : Nat → List Nat, issues (.vst p f) s = true → fm.isByte = false →
      (∀ i ∈ lanes, spmRange s c (spmSum s p f + (fm.span i).1) (fm.span i).2.1 = some (k i)) →
      onlyAt (.vst p f) fun a => ∃ i ∈ lanes, a ∈ k i) ∧
    (∀ k : Nat → List Nat, issues (.vsts p f) s = true →
      (∀ i ∈ lanes, spmRange s c (strideAddr s p f i) fm.bytes = some (k i)) →
      onlyAt (.vsts p f) fun a => ∃ i ∈ lanes, a ∈ k i) ∧
    (∀ k : Nat → List Nat, issues (.vstx p f) s = true →
      (∀ i ∈ lanes, indexAddr s p f i < 2 ^ 20 ∧ spmRange s c (indexAddr s p f i) fm.bytes = some (k i)) →
      onlyAt (.vstx p f) fun a => ∃ i ∈ lanes, a ∈ k i) ∧
    (∀ k : Nat → List Nat, issues (.scat p f) s = true →
      (∀ i ∈ lanes, spmRange s c (gatherAddr s p f i) fm.bytes = some (k i)) →
      onlyAt (.scat p f) fun a => ∃ i ∈ lanes, a ∈ k i) ∧
    (∀ k, issues (.spill p f) s = true → nibKeys s n w = some k →
      onlyAt (.spill p f) (· ∈ k)) ∧
    (∀ k : Nat → List Nat, issues (.vspill p f) s = true → (∀ i ∈ lanes, nibKeys s (n + i * w) w = some (k i)) →
      onlyAt (.vspill p f) fun a => ∃ i ∈ lanes, a ∈ k i) ∧
    (∀ k, issues (.tag p f) s = true → spmRange s c (srcScal s p f.k1 f.src1 32 / 8 * 8) 8 = some k →
      ∃ t, exec (.tag p f) s = .next t ∧ t = { s with emptyTags := t.emptyTags })

/-- R176, R177: an access of every scratchpad operation outside the sequencer's banks is the fatal context error
SPM_RANGE, which a speculative task defers: ld, vldb, st, tag, tagrd, kld, fget, fput, both reads of loopd, fork and
forkr, the loads and stores of lanes at the first lane that fails, with vldx and vstx on an address that is not of
own form, and the spills and fills; an ld of a poisoned byte is POISON_READ. That the info is the access's first
byte, and which lane it names, are the model's readings (DEDUCED, log entry 20), and that a C operation's address is
the low 32 bits of its source another (DEDUCED, log entry 44). -/
def Obligations.ScratchpadRange : Prop :=
  ∀ (p : Pos) (f : Fields) (s : State),
    let c := s.curCtx
    let fm := fmtOf f
    let n := fm.bytes
    let a := alignDown (spmSum s p f) n
    let w := alignDown (srcScal s p f.k1 f.src1 32) 8
    let on := fun i : Nat => (guardMask c f).getLsbD i
    let lanes := (List.range 64).filter on
    let base := if fm.isByte then a else spmSum s p f
    let nib := nibAddr s p f
    let nw := f.dst.slices
    let code := fun k : Nat => (src64 s f.k1 f.src1).toNat % 2 ^ 32 / k * k
    let scale := (src64 s f.k1 f.src1 + src64 s f.k2 f.src2).toNat % 2 ^ 32
    let fatal := fun at' : Nat =>
      Host.Outcome.next (if s.isSpec c then deferFault s c causeSpmRange
        else fatalNow s c.handle causeSpmRange p.index 0 (BitVec.ofNat 64 at'))
    let bad := fun (i : Instr) (at' len : Nat) => issues i s = true → spmRange s c at' len = none → exec i s = fatal at'
    let load := fun (i : Instr) (at' len : Nat → Nat) => ∀ l, issues i s = true →
      (lanes.find? fun j => !(spmRead s c (at' j % 2 ^ 32) (len j)).isOk) = some l →
      spmRange s c (at' l % 2 ^ 32) (len l) = none → exec i s = fatal (at' l % 2 ^ 32)
    let store := fun (i : Instr) (at' len : Nat → Nat) => ∀ l, issues i s = true →
      (lanes.find? fun j => (spmRange s c (at' j) (len j)).isNone) = some l → exec i s = fatal (at' l % 2 ^ 32)
    let own := fun i : Instr => ∀ l, issues i s = true →
      (lanes.find? fun j => decide (2 ^ 20 ≤ indexAddr s p f j)) = some l → exec i s = fatal (indexAddr s p f l)
    let inOwn : Prop := ∀ j ∈ lanes, indexAddr s p f j < 2 ^ 20
    bad (.ld p f) a n ∧ bad (.vldb p f) a n ∧ bad (.st p f) a n ∧ bad (.tag p f) w 8 ∧ bad (.tagrd p f) w 8 ∧
    bad (.kld p f) scale ((f.mod.extractLsb' 0 2).toNat + 1) ∧ bad (.fget p f) (code 8) 8 ∧ bad (.fput p f) (code 8) 8 ∧
    bad (.loopd p f) (code 8) 8 ∧
    (∀ bs, issues (.loopd p f) s = true → spmRead s c (code 8) 8 = .ok bs →
      let m := ofBytesLE (bs.take 8) % 8
      1 ≤ m → m ≤ 6 → c.loops.length + m ≤ 6 → spmRange s c (code 8 + 8) (8 * m) = none →
      exec (.loopd p f) s = fatal (code 8 + 8)) ∧
    bad (.fork p f) (code 32) 32 ∧ bad (.forkr p f) (code 32) 32 ∧
    load (.vld p f) (fun j => base + (fm.span j).1) (fun j => (fm.span j).2.1) ∧
    load (.vlds p f) (strideAddr s p f) (fun _ => n) ∧ load (.gath p f) (gatherAddr s p f) (fun _ => n) ∧
    own (.vldx p f) ∧ own (.vstx p f) ∧ (inOwn → load (.vldx p f) (indexAddr s p f) (fun _ => n)) ∧
    (fm.isByte = true → store (.vst p f) (fun j => base + j * n) (fun _ => n)) ∧
    (fm.isByte = false → store (.vst p f) (fun j => base + (fm.span j).1) (fun j => (fm.span j).2.1)) ∧
    store (.vsts p f) (strideAddr s p f) (fun _ => n) ∧ store (.scat p f) (gatherAddr s p f) (fun _ => n) ∧
    (inOwn → store (.vstx p f) (indexAddr s p f) (fun _ => n)) ∧
    (issues (.spill p f) s = true → nibKeys s nib nw = none → exec (.spill p f) s = fatal (nib / 2 % 2 ^ 32)) ∧
    (issues (.fill p f) s = true → nibKeys s nib nw = none → exec (.fill p f) s = fatal (nib / 2 % 2 ^ 32)) ∧
    (∀ l, issues (.vspill p f) s = true → (lanes.find? fun j => (nibKeys s (nib + j * nw) nw).isNone) = some l →
      exec (.vspill p f) s = fatal ((nib + l * nw) / 2 % 2 ^ 32)) ∧
    (∀ l, issues (.vfill p f) s = true → (lanes.find? fun j => !(readNibs s (nib + j * nw) nw).isOk) = some l →
      nibKeys s (nib + l * nw) nw = none → exec (.vfill p f) s = fatal ((nib + l * nw) / 2 % 2 ^ 32)) ∧
    (∀ b, issues (.ld p f) s = true → spmRead s c a n = .poison b → s.isSpec c = false →
      exec (.ld p f) s = .next
        (fatalNow (poisonNote s c causePoisonRead (BitVec.ofNat 64 b)) c.handle causePoisonRead p.index 0 (BitVec.ofNat 64 b)))

/-- R22, R23: a result of any file issued with latency L leaves its context as it was for every bundle before the L-th
after its own, and from that one on its register, the slices of the scalar file, those of the enabled lanes of the
vector file, the bits of a predicate that it writes, a common, scale, special or matrix-parameter register or KB,
holds the new value; other slices, lanes and the other bench keep theirs. R24: of two results the later by landing,
and in one bundle the one of the younger issue, then of the later slot, then of the higher repetition, lands last.
R27: a VROT write clamps its size to the window and takes step and base modulo it. R26, R28: a vector operand that
starts below the size of the rotating region reads through the base modulo the size. R29: a bundle without LEND
leaves the bases, one with LEND advances both by their steps, and a VROT that the bundle itself writes advances in
the written value. -/
def Obligations.ResultsLand : Prop :=
  (∀ (c : Ctx) (x y : Flight) (L M : Nat), c.flight = [] → 0 < L → x.remaining = L → y.remaining = M → x.width ≤ 16 →
    (x.wrap = 0 ∧ x.start + x.width ≤ 256 ∨ 16 ≤ x.wrap ∧ x.wrap ≤ 256) →
    let after := fun n : Nat => tickFlight^[n] (c.writeAt x)
    let d := after L
    let v := x.lanes.headD 0
    let at' := fun j : Nat => if x.wrap = 0 then x.start + j else (x.start + j) % x.wrap
    let slice := fun (file : BitVec 1024) (k : Nat) => file.toNat / 16 ^ k % 16
    let new := fun (l : Word) (old k : Nat) => match (List.range x.width).find? fun j => at' j == k with
      | some j => l.toNat / 16 ^ j % 16
      | none => old
    let S := min (v.extractLsb' 16 5).toNat c.hdr.vG * 16
    let rot : Word := if S = 0 then 0
      else BitVec.ofNat 64 (S / 16 * 2 ^ 16 + (v.extractLsb' 8 8).toNat % S * 2 ^ 8 + (v.extractLsb' 0 8).toNat % S)
    (∀ n < L, after n = { c with flight := [{ x with remaining := L - n, age := x.age + n }] }) ∧ d.flight = [] ∧
    (∀ b, x.file = .scal b → (∀ k < 256, slice (d.scal b) k = new v (slice (c.scal b) k) k) ∧ d.scal (!b) = c.scal (!b)) ∧
    (∀ b, x.file = .vec b → d.vec (!b) = c.vec (!b) ∧ ∀ i < 64, ∀ k < 256, slice ((d.vec b)[i]?.getD 0) k =
      if x.mask.getLsbD i then new ((x.lanes[i]?).getD 0) (slice ((c.vec b)[i]?.getD 0) k) k
      else slice ((c.vec b)[i]?.getD 0) k) ∧
    (x.file = .common → d = { c with com := c.com.setIfInBounds x.start v, tokErr := c.tokErr &&& ~~~(1#32 <<< x.start) }) ∧
    (x.file = .pred → d = if x.start = 0 then c else { c with
      preds := c.preds.setIfInBounds x.start ((c.preds[x.start]?.getD 0 &&& ~~~x.mask) ||| (v &&& x.mask)) }) ∧
    (x.file = .scale → x.start < 16 → d = { c with scales := c.scales.setIfInBounds x.start (v.setWidth 8) }) ∧
    (x.file = .scale → x.start = 16 → d = { c with kb := v.setWidth 32 &&& 0x00FFFFFF }) ∧
    (x.file = .special → 0x80 ≤ x.start → d = { c with mp := c.mp.setIfInBounds (x.start - 0x80) v }) ∧
    (x.file = .special → x.start = 0x11 → d = { c with lead := min v.toNat 15 }) ∧
    (x.file = .special → x.start = 0x20 → d = { c with trapVec := BitVec.ofNat 32 (v.toNat % 2 ^ 32 / 4 * 4) }) ∧
    (x.file = .special → x.start = 0x28 → d = { c with vrot0 := rot }) ∧
    (x.file = .special → x.start = 0x29 → d = { c with vrot1 := rot }) ∧
    (L < M → tickFlight^[M] ((c.writeAt x).writeAt y) = landOne (landOne c x) y ∧
      tickFlight^[M] ((c.writeAt y).writeAt x) = landOne (landOne c x) y) ∧
    (L = M → (y.age < x.age ∨ y.age = x.age ∧ (x.slot < y.slot ∨ x.slot = y.slot ∧ x.rep < y.rep)) →
      tickFlight^[L] ((c.writeAt x).writeAt y) = landOne (landOne c x) y ∧
      tickFlight^[L] ((c.writeAt y).writeAt x) = landOne (landOne c x) y)) ∧
  ((∀ (c : Ctx) (b : Bool) (i start w : Nat), i < 64 → start + w ≤ 256 → w ≤ 16 →
    let r := c.vrot b
    let S := 16 * (r.extractLsb' 16 5).toNat
    let lane := ((c.vec b)[i]?.getD 0).toNat
    let at' := fun j : Nat => if S ≠ 0 ∧ start < S then (start + j + (r.extractLsb' 0 8).toNat) % S else start + j
    c.readLane b i start w < 16 ^ w ∧ ∀ j < w, c.readLane b i start w / 16 ^ j % 16 = lane / 16 ^ at' j % 16) ∧
  (∀ (s : State) (h len depth : Nat) (header : BitVec 32) (c : Ctx) (long shadow count : Bool), s.ctx? h = some c →
    c.status = .ready → c.leave = none →
    let d := (completeBundle s h header len long (shadow, depth) count).ctx h
    let size := fun r : Word => 16 * (r.extractLsb' 16 5).toNat
    let step := fun r : Word => (r.extractLsb' 8 8).toNat
    let next := fun r : Word => if size r = 0 then r
      else BitVec.ofNat 64 (size r / 16 * 2 ^ 16 + step r * 2 ^ 8 + ((r.extractLsb' 0 8).toNat + size r - step r) % size r)
    (hdrLend header = false → d.vrot0 = c.vrot0 ∧ d.vrot1 = c.vrot1 ∧ d.flight = c.flight) ∧
    (hdrLend header = true → (∀ x ∈ c.flight, x.file = .special → x.age = 0 → x.start ≠ 0x28 ∧ x.start ≠ 0x29) →
      d.vrot0 = next c.vrot0 ∧ d.vrot1 = next c.vrot1 ∧ d.flight = c.flight) ∧
    (∀ x v, hdrLend header = true → c.flight = [x] → x.file = .special → x.age = 0 → x.lanes = [v] →
      x.start = 0x28 ∨ x.start = 0x29 → d.flight = [{ x with lanes := [next (clampRot c.hdr.vG v)] }])))

/-- R82, R84, R85: a bundle without LEND goes on at the next in memory order, or at a pending transfer's target once the
last bundle of its shadow has issued; one with LEND goes back to the innermost loop's start with its index advanced
until its count is reached, and then leaves the loop, where the entries that the bundle itself has pushed stay
(DESIGN CHOICE, log entry 55). R116, R129: a sequencer that its bundle retires ends with it, and one that yields
stops. -/
def Obligations.BundleEnds : Prop :=
  ∀ (s : State) (h : Nat) (header : BitVec 32) (len : Nat) (c : Ctx) (own : List LoopEntry) (e : LoopEntry)
    (es : List LoopEntry), s.ctx? h = some c → c.status = .ready → c.nextPc = none →
    let next := c.pc + BitVec.ofNat 32 len
    let after := fun (long shadow : Bool) (depth : Nat) (count : Bool) =>
      (completeBundle s h header len long (shadow, depth) count).ctx h
    (c.leave = none → hdrLend header = false → c.pend = false → ∀ long shadow depth count,
      (after long shadow depth count).pc = next ∧ (after long shadow depth count).loops = c.loops ∧
      (after long shadow depth count).shl = if shadow && count then c.shl - 1 else c.shl) ∧
    (c.leave = none → hdrLend header = false → c.pend = true → c.shl = 1 → ∀ long depth,
      (after long true depth true).pc = c.target ∧ (after long true depth true).pend = false ∧
      (after long true depth true).shl = 0) ∧
    (c.leave = none → hdrLend header = true → c.loops = own ++ e :: es → c.pend = false →
      ∀ long, let d := after long false (es.length + 1) false
        (e.index.toNat + 1 < e.count.toNat → d.pc = e.start ∧ d.loops = own ++ { e with index := e.index + 1 } :: es) ∧
        (e.count.toNat ≤ e.index.toNat + 1 → d.pc = next ∧ d.loops = own ++ es)) ∧
    (∀ long shadow depth count, let d := after long shadow depth count
      (c.leave = some .retire → d.status = .retired ∧ d.flight = [] ∧ d.leave = none) ∧
      (c.leave = some .yield → d.status = .yielding ∧ d.leave = none))

/-- R236, R238, R240, R256: taking a trap stops its context at its resumable position with the done mask, and its
record, with the cause, slot, done mask, position, pending transfer, core and info, waits for its cluster's ring; no
other context changes; a management write in flight is performed first (R41). R120: a user-level trap goes to
TRAPVEC with TRAPINFO active, or is fatal while one is active, without a handler or in a delay shadow. What the
record holds of a bundle above a committed transfer is the model's reading (DEDUCED, log entries 15 and 21). -/
def Obligations.TrapEntry : Prop :=
  ∀ (s : State) (h cause slot addr : Nat) (done : BitVec 9) (part : Bool) (info : Word) (c : Ctx), s.ctx? h = some c →
    let t := stopTrap s h cause slot done part info
    let u := userTrap s h addr
    (c.mgmt = none →
      t.ctx? h = some { c with status := .trapped, done := done, partBundle := part, view := none, imgAt := none, mirror := false }) ∧
    (∀ n v, c.mgmt = some (n, v) → t = stopTrap
      (mgmtWrite (s.setCtx { c with mgmt := none }) { c with mgmt := none } n v) h cause slot done part info) ∧
    (∃ r, t.trapWait = s.trapWait ++ [(clusterOf c.core, r)] ∧ r.pc = c.pc ∧ r.cause = cause ∧ r.slot = slot ∧ r.done = done ∧
      r.rep = c.rep ∧ r.shl = c.shl ∧ r.pend = c.pend ∧ r.sev = 0 ∧ r.ctx = c.handle ∧ r.async = false ∧ r.core = c.core ∧
      r.res = c.res ∧ r.target = (if c.pend then c.target else 0) ∧ r.info = info ∧
      r.spec = specBit cause (s.reruns c)) ∧
    (∀ h', h' ≠ h → t.ctx? h' = s.ctx? h') ∧
    (c.trapInfo.getLsbD 63 = false → c.trapVec ≠ 0 → c.shl = 0 →
      u.ctx? h = some { c with
        trapInfo := BitVec.ofNat 64 (2 ^ 63 + 8 * 2 ^ 56 + (addr % 2 ^ 24) * 2 ^ 32 + c.pc.toNat), pc := c.trapVec,
        rep := 0, done := 0, partBundle := false, bpSkip := 0, view := none, began := none, leave := none } ∧ u.trapWait = s.trapWait) ∧
    (c.trapInfo.getLsbD 63 = true ∨ c.trapVec = 0 ∨ c.shl ≠ 0 → u = fatalNow s h causeUtrapFatal 15 0 c.trapInfo)

/-- R89, R77, R41: a bundle that passes every check, whose operations all take effect and which no breakpoint or watch
stops, commits its slots over the context whose results have moved one bundle on, and completes the repetition; so
does a bundle without slots. R32, R126: a bundle with an operation that waits issues nothing and stalls its core, on
the slot and with the reason that R439 samples; R120: an empty future takes the user-level trap and nothing of its
bundle commits; an operation that breaks its own rule is an illegal bundle. The order in which the stalls and faults
of one bundle are met is the model's reading (DEDUCED, log entry 23), and so are the reasons of a waiting qfence and
phase (DEDUCED, log entry 44). -/
def Obligations.BundleIssues : Prop :=
  (∀ (s : State) (core : Nat) (c : Ctx) (b : Bundle) (u : State),
    let all := b.words.filterMap slotIn
    let t0 := (landMgmt (issuing s core c) c.handle).modCtx c.handle tickFlight
    let t := t0.modCtx c.handle fun c' =>
      { c' with view := some (takeView t0 c' (bundleLen b.header)), began := some (decide (c.shl ≠ 0), c.loops.length) }
    let ct := t.ctx c.handle
    let xs := all.map fun x => (x, stepInstr b.rpt c.rep x, slotFate t (stepInstr b.rpt c.rep x))
    let after := completeRep (markIssue (issuing s core c) u c (xs.map fun x => x.2.1)) c.handle b all true
    freshBundle s core c b →
    reported (headerRows b ++ slotRows b ++ bundleRows b all (decide (c.shl ≠ 0)) c.loops.isEmpty) = none →
    ct.flight.length + (xs.map (newResults ct (t.isSpec ct))).sum ≤ 32 →
    (∀ x ∈ all, sliceFail ct b.rpt x.i x.info x.p x.f = none) →
    (∀ x ∈ xs, ∃ w, x.2.2 = .ok w) →
    firstStop t ct xs = none →
    commitAll c.handle t xs = .ok u →
    exec (.bundleIssue core) s = .next after ∧
    (b.words = [] → exec (.emptyBundle core) s = .next after) ∧
    ((s.core core).stalled = true → exec (.stallRelease core) s = .next after) ∧
    ((∃ x ∈ xs, ∃ p f, x.2.1 = .phase p f ∧ enabled ct f = true) → exec (.phaseComplete core) s = .next after) ∧
    ((c.flight.any fun x => decide (x.remaining ≤ 1)) = true ∨ c.mgmt.isSome = true → pick s core = some c →
      exec (.resultLands core) s = .next ((landMgmt s c.handle).modCtx c.handle landDue))) ∧
  (∀ (s : State) (core : Nat) (c : Ctx) (b : Bundle),
    let all := b.words.filterMap slotIn
    let s0 := issuing s core c
    let t0 := (landMgmt s0 c.handle).modCtx c.handle tickFlight
    let t := t0.modCtx c.handle fun c' =>
      { c' with view := some (takeView t0 c' (bundleLen b.header)), began := some (decide (c.shl ≠ 0), c.loops.length) }
    let ct := t.ctx c.handle
    let xs := all.map fun x => (x, stepInstr b.rpt c.rep x, slotFate t (stepInstr b.rpt c.rep x))
    let legal : Prop := ∀ x ∈ xs, x.2.2 ≠ .illegal
    freshBundle s core c b →
    reported (headerRows b ++ slotRows b ++ bundleRows b all (decide (c.shl ≠ 0)) c.loops.isEmpty) = none →
    ct.flight.length + (xs.map (newResults ct (t.isSpec ct))).sum ≤ 32 →
    (∀ x ∈ all, sliceFail ct b.rpt x.i x.info x.p x.f = none) →
    (∀ x r, firstStall xs true = some (x, r) ∨ firstStall xs true = none ∧ legal ∧ firstStall xs false = some (x, r) →
      c.yieldReq = false →
      ∃ onToken onTask, exec (.bundleIssue core) s = .next (note (s0.modCtx c.handle fun d =>
        { d with stallTok := onToken, stallTask := onTask }) c.core true c.pc x.p.index r)) ∧
    (∀ a, legal → firstStall xs false = none →
      (xs.findSome? fun x => match x.2.2 with | .utrap a => some a | _ => none) = some a →
      exec (.bundleIssue core) s = .next (userTrap s0 c.handle a)) ∧
    (∀ x ∈ xs, firstStall xs true = none → x.2.2 = .illegal → (∀ y ∈ xs, y.2.2 = .illegal → y = x) →
      exec (.bundleIssue core) s = .next (stopTrap s0 c.handle causeIllegal 15 0 false (illegalInfo 0 x.1.p.index))))

/-- R64, R67, R77, R79: when the core in turn issues next a bundle of one slot word that passes the checks, a step is
the execution of the operation that the word decodes to, with its operands stepped for the repetition, over the
context whose results have moved one bundle on, and with it the issue's count and the end of the bundle; then time
goes on. -/
def Obligations.StepRunsTheDecodedOperation : Prop :=
  ∀ (s : State) (c : Ctx) (b : Bundle) (p : Pos) (word : Word) (x : SlotIn) (w : State),
    let s0 := issuing s s.cur c
    let t0 := (landMgmt s0 c.handle).modCtx c.handle tickFlight
    let t := t0.modCtx c.handle fun c' =>
      { c' with view := some (takeView t0 c' (bundleLen b.header)), began := some (decide (c.shl ≠ 0), c.loops.length) }
    let i := stepInstr b.rpt c.rep x
    let ct := t.ctx c.handle
    let t1 := t.modCtx c.handle fun d => { d with tokPend := ct.tokPend }
    s.agenda = [] → freshBundle s s.cur c b → b.words = [(p, word)] → slotIn (p, word) = some x →
    reported (headerRows b ++ slotRows b ++ bundleRows b [x] (decide (c.shl ≠ 0)) c.loops.isEmpty) = none →
    sliceFail ct b.rpt x.i x.info x.p x.f = none → passes i = true → inWindow i t1 = true →
    semOf i t1 = .ok w → (∃ v, slotFate t i = .ok v) →
    ct.flight.length + newResults ct (t.isSpec ct) (x, i, slotFate t i) ≤ 32 → firstStop t ct [(x, i, slotFate t i)] = none →
    decodeSlot p word = some x.i ∧ (b.rpt = none → i = x.i) ∧ exec i t1 = .next w ∧
      step s = .next (advance (completeRep
        (markIssue s0 (w.modCtx c.handle fun d => { d with tokPend := d.tokPend ||| ct.tokPend }) c [i]) c.handle b [x] true))

/-- R22, R32, R41, R124: results land, and a management write in flight is performed, before the bundle that issues, a
stalled bundle issues, a phase completes with the bundle that holds it, and a bundle's issue is what the core's
choice of sequencer gives. For a bundle without slots, and for one whose only operation is an enabled phase that
need not wait, that each of the events completes is said of the state and the bundle alone. R77: what the commit of
a bundle's only operation does is what executing that operation by itself does, over the tokens that were pending
when the bundle issued; the per-operation statements reach an issued bundle through this. -/
def Obligations.IssueEvents : Prop :=
  (∀ (s : State) (core : Nat) (c : Ctx) (b : Bundle),
    let t0 := (landMgmt (issuing s core c) c.handle).modCtx c.handle tickFlight
    let t := t0.modCtx c.handle fun c' =>
      { c' with view := some (takeView t0 c' (bundleLen b.header)), began := some (decide (c.shl ≠ 0), c.loops.length) }
    let ct := t.ctx c.handle
    let pend := ct.tokPend
    let t1 := t.modCtx c.handle fun d => { d with tokPend := pend }
    let empty := completeRep (markIssue (issuing s core c) t c []) c.handle b [] true
    (freshBundle s core c b → b.words = [] → ct.flight.length ≤ 32 →
      reported (headerRows b ++ slotRows b ++ bundleRows b [] (decide (c.shl ≠ 0)) c.loops.isEmpty) = none →
      exec (.bundleIssue core) s = .next empty ∧ exec (.emptyBundle core) s = .next empty ∧
      ((s.core core).stalled = true → exec (.stallRelease core) s = .next empty) ∧
      (pick s core = some c → (c.flight.any fun x => decide (x.remaining ≤ 1)) = true ∨ c.mgmt.isSome = true →
        exec (.resultLands core) s = .next ((landMgmt s c.handle).modCtx c.handle landDue))) ∧
    (∀ (p : Pos) (f : Fields) (word : Word) (x : SlotIn),
      freshBundle s core c b → b.words = [(p, word)] → slotIn (p, word) = some x →
      stepInstr b.rpt c.rep x = .phase p f →
      reported (headerRows b ++ slotRows b ++ bundleRows b [x] (decide (c.shl ≠ 0)) c.loops.isEmpty) = none →
      sliceFail ct b.rpt x.i x.info x.p x.f = none → ct.flight.length + resultCount ct (.phase p f) x.info x.f ≤ 32 →
      t.dbgActive (clusterOf ct.core) = false → enabled ct f = true →
      (∀ v ∈ [t, t1], issues (.phase p f) v = true ∧ leadWaits v v.curCtx = false ∧ v.offBusy v.curCtx = false) →
      ∃ w, exec (.phase p f) t1 = .next w ∧ exec (.phaseComplete core) s = .next (completeRep (markIssue (issuing s core c)
        (w.modCtx c.handle fun d => { d with tokPend := d.tokPend ||| pend }) c [.phase p f]) c.handle b [x] true)) ∧
    (∀ (t : State) (e ph : Bool), issueOn s core = .issued t e ph →
      exec (.bundleIssue core) s = .next t ∧ (ph = true → exec (.phaseComplete core) s = .next t) ∧
      (e = true → exec (.emptyBundle core) s = .next t) ∧
      ((s.core core).stalled = true → exec (.stallRelease core) s = .next t)) ∧
    exec (.bundleIssue core) s = .next (issueOn s core).state) ∧
  (∀ (h : Nat) (t : State) (x : SlotIn) (i : Instr) (r : SlotRes) (w : State),
    let pend := (t.ctx h).tokPend
    let t1 := t.modCtx h fun c => { c with tokPend := pend }
    passes i = true → inWindow i t1 = true → semOf i t1 = .ok w →
    exec i t1 = .next w ∧
    commitAll h t [(x, i, r)] = .ok (w.modCtx h fun c => { c with tokPend := c.tokPend ||| pend }))

/-- R205 to R207, R226, R227: an engine command starts when its order and its wait operand let it, fails when what it
waited on failed or its descriptor is bad, and completes with its work; a collective starts when its members agree
and fails them all when they do not; an off-core command performs. That descriptor faults are found at the start and
a collective's sources are read when it starts is the model's reading (DEDUCED, log entry 28). -/
def Obligations.EngineCommands : Prop :=
  ∀ (cid : Nat) (s : State) (x : Cmd), s.cmd? cid = some x →
    let s1 := if x.queue = .mq then zeroEngine s x.core x.gkey else s
    let ms := maskMembers (x.word 2)
    let peers := collPeers s x
    let parts := ms.filterMap (collOf s peers)
    (∀ r w, coopWaits s x = some (r, w) → s.clockStopped x.core = false → s.barPassed x.gkey (s.ctx x.ctx).gang w = true →
      exec (.engineCommandStart cid) s = .next (coopReads s x r)) ∧
    (engTurn s x = true → x.waitCid = none → x.dep = true →
      exec (.engineCommandStart cid) s = .next (finishCmd s x (ecv ecDep 0 0))) ∧
    (engTurn s x = true → x.waitCid = none → x.dep = false → descGood s1 x = true →
      exec (.engineCommandStart cid) s = .next
        (match x.instr with
         | .mcall _ _ => startCall s1 x
         | .emit _ _ => startEmit s1 x
         | .coll _ _ => present s1 x
         | _ => startMoving s1 x)) ∧
    (engTurn s x = true → x.waitCid = none → x.dep = false → descGood s1 x = false →
      exec (.engineCommandStart cid) s = .next (failEng s1 x (badDesc x) 0)) ∧
    (engReady s x = true → exec (.engineCommandComplete cid) s = .next (engWork s x)) ∧
    (x.queue = .cq → x.started = false → x.progress = 1 → (∀ y ∈ peers, s.clockStopped y.core = false) →
      (∀ y ∈ peers, y.word 1 = x.word 1 ∧ y.word 2 = x.word 2) →
      parts.length = ms.length → (∀ y ∈ parts, ∃ v, collSource s y (collFm x) = .ok v) →
      exec (.collStart cid) s = .next (collBegin s x parts)) ∧
    (x.queue = .cq → x.started = false → x.progress = 1 → (∀ y ∈ peers, s.clockStopped y.core = false) →
      (∃ y ∈ peers, y.word 1 ≠ x.word 1 ∨ y.word 2 ≠ x.word 2) →
      exec (.collStart cid) s = .next
        (collEnd s x (maskMembers (peers.foldl (fun m y => m ||| y.word 2) 0)) ecMismatch)) ∧
    (s.offReady x = true → exec (.offcoreCommandPerform cid) s = .next (performOff s x))

/-- R168 to R174, R176: an off-core command whose turn has come performs: the values of fld and fst, the copies of fldv
and fstv in their two halves, the table of amo, the comparison of amocas, the answers of probe, the maintenance of
one line by cwb, cinv and cwbi, and the fates VAULT_RANGE, FAR_FAULT, SPM_RANGE and POISON_READ after the token has
completed; a speculative task defers its fault. R172: an atomic through a tiered range entry raises HOST_ATOMIC at
issue, and waits in a speculative task. That an address is translated as the command performs (log entry 25) and the
lines before a fault (log entry 26) are the model's readings (DEDUCED); which of an old and a new byte a copy moves
is free (DESIGN CHOICE, log entry 3). -/
def Obligations.OffcoreResults : Prop :=
  (∀ (cid : Nat) (s : State) (x : Cmd) (p : Pos) (f : Fields), s.cmd? cid = some x → s.offReady x = true →
    let out := fun (t : State) => exec (.offcoreCommandPerform cid) s = .next t
    let fm := fmtOf f
    let n := fm.bytes
    let lines := lineBytes f
    let vault := f.mod.getLsbD 0
    let a := x.arg 0
    let far := x.arg 1
    let c := s.cmdCtx x
    let part := (s.ctx x.ctx).part
    let val := fun bs => BitVec.ofNat 64 (loadVal fm (f.mod.getLsbD 3) 64 (ofBytesLE bs))
    let data := toBytesLE n (x.arg 1)
    let vaultAt : Place := { key := vaultBase + a, vault := true, ia := a, nc := false }
    let inVault := fun b len => vaultOk part b = true ∧ vaultOk part (b + len - 1) = true
    let fate := fun (t : State) cause i => out (fatalCmd (finishCmd t x 0) x cause (BitVec.ofNat 64 i))
    let poisoned := fun (t : State) k i =>
      let pl := t.errPlace k
      fate (errRecord t (t.partOfKey k) 4 pl.1 pl.2.1 pl.2.2 x.ctx 0) causePoisonRead i
    let touched := fun (t : State) (pl : Place) =>
      let sm := mscTouch t part (ctxReq s x.ctx none) .atomic pl.key
      if pl.vault then sm else touchLine sm pl.key
    let op := (f.mod.extractLsb' 2 3).toNat
    let w := fm.width
    let b := x.arg 1
    let dirty := fun (l : CacheLine) => l.dirty ≠ 0
    -- fld
    (x.instr = .fld p f →
      (∀ bs, vault = true → inVault a n → x.task = none → readBytes s (vaultBase + a) n = .ok bs → out (finishCmd s x (val bs))) ∧
      (∀ s1 s2 pl bs, vault = false → resolveFar s c a .read = (s1, .place pl) → cmdRead s1 x pl n = (s2, .ok bs) →
        out (finishCmd s2 x (val bs))) ∧
      (vault = true → x.ord = false → ¬inVault a n → fate s causeVaultRange a) ∧
      (∀ s1 code lv ia, vault = false → x.ord = false → resolveFar s c a .read = (s1, .fault code lv ia) →
        fate s1 causeFarFault a) ∧
      (∀ k, vault = true → inVault a n → x.task = none → x.ord = false → readBytes s (vaultBase + a) n = .error k →
        poisoned s k (a + (k - (vaultBase + a)))) ∧
      (∀ s1 s2 pl k, vault = false → x.ord = false → resolveFar s c a .read = (s1, .place pl) →
        cmdRead s1 x pl n = (s2, .error k) → poisoned s2 k (a + (k - pl.key))) ∧
      (∀ s1 code lv ia ix e, vault = false → resolveFar s c a .read = (s1, .fault code lv ia) → x.ord = true →
        x.task = some ix → (s1.slot x.core ix).task = some e → s1.nonSpec (s1.ctx x.ctx).part e = false →
        out ((keepToken s1 x).modSlot x.core ix fun y => { y with deferred := some (y.deferred.getD causeFarFault) }))) ∧
    -- fst
    (x.instr = .fst p f →
      (vault = true → inVault a n → x.task = none → x.ord = false →
        out (finishCmd (writeBytes s x.ctx (vaultBase + a) data) x 0)) ∧
      (∀ ix, vault = true → inVault a n → x.task = some ix → out (finishCmd (bufferBytes s x.core ix vaultAt data) x 0)) ∧
      (∀ s1 pl, vault = false → resolveFar s c a .write = (s1, .place pl) →
        (pl.vault = false → x.task = none → x.ord = false → out (finishCmd (postWrite s1 (s1.cmdCtx x) pl data) x 0)) ∧
        (∀ ix, x.task = some ix → out (finishCmd (bufferBytes s1 x.core ix pl data) x 0)) ∧
        (x.task = none → x.ord = true → out (finishCmd s1 x 0))) ∧
      (vault = true → x.ord = false → ¬inVault a n → fate s causeVaultRange a) ∧
      (∀ s1 code lv ia, vault = false → x.ord = false → resolveFar s c a .write = (s1, .fault code lv ia) →
        fate s1 causeFarFault a)) ∧
    -- fldv
    (x.instr = .fldv p f →
      (∀ ks (ls : Nat → List Byte), ownRange s c a lines = some ks → x.started = false → vault = true → x.task = none →
        (∀ j < lines / 64, inVault (far + 64 * j) 64 ∧ readBytes s (vaultBase + (far + 64 * j)) 64 = .ok (ls j)) →
        let cells := ks.zip ((List.range (lines / 64)).flatMap ls)
        out (loosen (s.setCmd { x with started := true, snap := cells }) x.cid cells)) ∧
      (∀ ks s1 bs, ownRange s c a lines = some ks → x.started = false → readLines s x vault far (lines / 64) = (s1, some bs) →
        out (loosen (s1.setCmd { x with started := true, snap := ks.zip bs }) x.cid (ks.zip bs))) ∧
      (∀ ks, ownRange s c a lines = some ks → x.started = true →
        out (finishCmd (cmdStore s x.ctx x.snap) x (BitVec.ofNat 64 lines))) ∧
      (ownRange s c a lines = none → x.ord = false → fate s causeSpmRange a)) ∧
    -- fstv
    (x.instr = .fstv p f →
      (∀ ks bs, ownRange s c a lines = some ks → readKeys s (memGet s.mem) ks = .ok bs →
        (x.started = false → out (s.setCmd { x with started := true, snap := (ks.zip bs).filter fun d => d.2 ≠ 0 })) ∧
        (x.started = true → lines = 64 → vault = true → inVault far 64 → x.task = none → x.ord = false →
          out (finishCmd (writeBytes s x.ctx (vaultBase + far) ((ks.map (movedByte s x.snap)).take 64)) x 64)) ∧
        (∀ s1, x.started = true → writeLines s x vault far (ks.map (movedByte s x.snap)) (lines / 64) = (s1, true) →
          out (finishCmd s1 x (BitVec.ofNat 64 lines)))) ∧
      (∀ ks j, ownRange s c a lines = some ks → readKeys s (memGet s.mem) ks = .error j → x.ord = false →
        poisoned s ((ks[j]?).getD 0) (a + j)) ∧
      (ownRange s c a lines = none → x.ord = false → fate s causeSpmRange a)) ∧
    -- amo, amocas
    (∀ s1 pl bs, resolveFar s c a .atomic = (s1, .place pl) → readBytes (touched s1 pl) pl.key n = .ok bs →
      let t := touched s1 pl
      let old := ofBytesLE bs
      let put := fun v => out (finishCmd (engineWrite t x.ctx part pl (toBytesLE n v)) x (BitVec.ofNat 64 old))
      (x.instr = .amo p f → (op = 0 → put ((old + b) % 2 ^ w)) ∧
        (op = 1 → put (if signed w old ≤ signed w b then old else b)) ∧
        (op = 2 → put (if signed w old ≥ signed w b then old else b)) ∧
        (op = 3 → put (min old b)) ∧ (op = 4 → put (max old b)) ∧
        (op = 5 → put (old &&& b)) ∧ (op = 6 → put (old ||| b)) ∧ (op = 7 → put (old ^^^ b))) ∧
      (x.instr = .amocas p f →
        (f.mod.getLsbD 2 = true ∨ old = x.arg 2 % 2 ^ w → put b) ∧
        (f.mod.getLsbD 2 = false → old ≠ x.arg 2 % 2 ^ w →
          out (finishCmd (if pl.vault ∨ pl.nc then t else dirHomeWrite t part (pl.ia / 64 * 64)) x (BitVec.ofNat 64 old))))) ∧
    (x.instr = .amo p f ∨ x.instr = .amocas p f → x.ord = false →
      (∀ s1 code lv ia, resolveFar s c a .atomic = (s1, .fault code lv ia) → fate s1 causeFarFault a) ∧
      (∀ s1 pl k, resolveFar s c a .atomic = (s1, .place pl) → readBytes (touched s1 pl) pl.key n = .error k →
        poisoned (touched s1 pl) k (a + (k - pl.key)))) ∧
    -- probe
    (x.instr = .probe p f →
      let va := (a + x.progress) % 2 ^ 64
      let page := va / 2 ^ 19 * 2 ^ 19
      let acc : Acc := if vault then .both else .read
      (x.arg 1 ≤ x.progress → out (finishCmd s x 0)) ∧
      (∀ s1 pl, x.progress < x.arg 1 → x.arg 1 ≤ x.progress + (2 ^ 19 - va % 2 ^ 19) → resolveFar s c va acc = (s1, .place pl) →
        out (finishCmd s1 { x with progress := x.progress + (2 ^ 19 - va % 2 ^ 19) } 0)) ∧
      (∀ s1 code lv ia, x.progress < x.arg 1 → resolveFar s c va acc = (s1, .fault code lv ia) →
        (code = 1 ∨ code = 5 →
          out (s1.setCmd { x with fault := some (code, va), faultAt := (ia / 2 ^ 19 * 2 ^ 19, lv) })) ∧
        (code ≠ 1 → code ≠ 5 → out (finishCmd s1 x (BitVec.ofNat 64 (page + code)))))) ∧
    -- cwb, cinv, cwbi
    (x.instr = .cwb p f ∨ x.instr = .cinv p f ∨ x.instr = .cwbi p f → x.arg 1 = 0 → out (finishCmd s x 0)) ∧
    (0 < x.arg 1 → a % 64 + x.arg 1 ≤ 64 →
      (ncLine s x (a / 64 * 64) = none → x.instr = .cwb p f ∨ x.instr = .cinv p f ∨ x.instr = .cwbi p f → out (finishCmd s x 0)) ∧
      (∀ l, ncLine s x (a / 64 * 64) = some l →
        (x.instr = .cwb p f → dirty l → out (finishCmd (writeBack s l false) x 0)) ∧
        (x.instr = .cwb p f → ¬dirty l → out (finishCmd s x 0)) ∧
        (x.instr = .cinv p f → out (finishCmd (dropLine s l.cluster l.part l.line) x 0)) ∧
        (x.instr = .cwbi p f → dirty l → out (finishCmd (writeBack s l true) x 0)) ∧
        (x.instr = .cwbi p f → ¬dirty l → out (finishCmd (dropLine s l.cluster l.part l.line) x 0))))) ∧
  (∀ (p : Pos) (f : Fields) (s : State) (h : RangeHit),
    let a := alignDown (farOp s p f.k1 f.src1) (fmtOf f).bytes
    let trap := stopTrap s s.curCtx.handle causeHostAtomic p.index 0 true (BitVec.ofNat 64 a)
    rangeHit s.curCtx a = some h → h.tiered = true →
    (issues (.amo p f) s = true → exec (.amo p f) s = .next (if s.isSpec s.curCtx then s else trap)) ∧
    (issues (.amocas p f) s = true → exec (.amocas p f) s = .next (if s.isSpec s.curCtx then s else trap)))

/-- R208, R213 to R217, R219 to R227, R231, R267, R273: as it completes, each engine command has its bytes, accumulator
words or routine with the completion value and count, after the release that it asks for: ebar, ecancel, aclr,
smcopy, accld, accst, adrain, mload, ncopy with the addresses of its hops, egath, escat, mcast, mcastb, tnld, tnst,
tnpf, coll and mcall; a copy that faults fails with the bytes before it. The model's own readings (DEDUCED): mload
and aclr (log entry 27), a multicast's checks and a collective's sources (28), tnpf (50), the ROM routines (24), the
fate of a copy on poison (71). Which of an old and a new byte is moved is free (DESIGN CHOICE, log entry 3), and the
bits that no element fills are zero (DESIGN CHOICE, log entry 65). -/
def Obligations.EngineResults : Prop :=
  ∀ (cid : Nat) (s : State) (x : Cmd) (p : Pos) (f : Fields), s.cmd? cid = some x → engReady s x = true →
    let out := fun (t : State) => exec (.engineCommandComplete cid) s = .next t
    let ok := fun (t : State) count => out (finishCmd t x (ecv ecOk 0 count))
    let rel := fun (t : State) => if x.mods.getLsbD 6 then engineRelease t x (x.mods.extractLsb' 3 2).toNat else t
    let c := s.cmdCtx x
    let v := srcView s x
    let w := x.word 0
    let row := bitsOf w 32 7
    let rows := bitsOf w 40 7 + 1
    let col := bitsOf w 48 7
    let cols := bitsOf w 56 7 + 1
    let at32 := bitsOf w 0 32
    let cell := fun j => (row + j / cols, col + j % cols)
    -- ebar, ecancel, aclr
    (x.instr = .ebar p f → ok (rel s) 0) ∧
    (x.instr = .ecancel p f → ok s x.count) ∧
    (x.instr = .aclr p f → out (finishCmd (if x.arg 1 = 0 then s else clearRows s x.core (x.arg 0) (x.arg 1)) x 0)) ∧
    -- smcopy
    (x.instr = .smcopy p f → (bitsOf w 48 15 = 0 → ok s 0) ∧
      (∀ bs, 0 < bitsOf w 48 15 → spmRead v c at32 (bitsOf w 48 15) = .ok bs →
        ok (s.storeBytes (sideKey x.core + bitsOf w 32 14) bs) (bitsOf w 48 15))) ∧
    -- accld, accst, adrain
    (x.instr = .accld p f → ∀ bs, spmRead v c at32 (4 * rows * cols) = .ok bs →
      ok (s.setAccs x.core ((List.range (rows * cols)).map fun j =>
        ((cell j).1, (cell j).2, ofBytesLE ((bs.drop (4 * j)).take 4)))) (4 * rows * cols)) ∧
    (x.instr = .accst p f → ∀ ks,
      let bs := (List.range (rows * cols)).flatMap fun j => toBytesLE 4 (s.acc x.core (cell j).1 (cell j).2)
      spmRange s c at32 bs.length = some ks → ok (cmdStore s x.ctx (ks.zip bs)) (4 * rows * cols)) ∧
    (x.instr = .adrain p f → ∀ ks,
      let fo := (Fmt.ofCode (BitVec.ofNat 4 (x.arg 2 / 2 ^ 20))).getD .fp32
      let bs := packCodes fo ((List.range (rows * cols)).map fun j =>
        drainCode (x.mods.getLsbD 0) fo ((x.args[3]?).getD 0).toInt (s.acc x.core (cell j).1 (cell j).2))
      spmRange s c at32 bs.length = some ks →
      let t := cmdStore s x.ctx (ks.zip bs)
      ok (if x.mods.getLsbD 1 then clearBlock t x.core row rows col cols else t) bs.length) ∧
    -- mload
    (x.instr = .mload p f →
      let idx := bitsOf w 0 6
      let L := bitsOf w 16 11
      let k := s.core x.core
      let own := (k.store.find? fun r => r.index == idx).map fun r => r.ops.length
      let accepted := 32 ≤ idx ∧ 1 ≤ L ∧ L ≤ 1024 ∧ bitsOf w 6 10 = 0 ∧ bitsOf w 27 37 = 0 ∧
        (∀ r ∈ k.store, r.index = idx → r.gkey = x.gkey) ∧ L ≤ 1024 - k.usedOps + own.getD 0
      (¬accepted → out (finishCmd s x (ecv ecRefused 0 0))) ∧
      (∀ bs, accepted → spmRead v c (x.arg 0 + 8) (8 * L) = .ok bs →
        let ops := (List.range L).map fun i => BitVec.ofNat 64 (ofBytesLE ((bs.drop (8 * i)).take 8))
        ((∀ i < L, uopOk L i ((ops[i]?).getD 0) = true) →
          ok (s.setCore x.core { k with store := k.store.filter (fun y => y.index != idx) ++
            [{ index := idx, gkey := x.gkey, ops := ops }] }) L) ∧
        ((∃ i < L, uopOk L i ((ops[i]?).getD 0) = false) → out (finishCmd s x (ecv ecRefused 0 0))))) ∧
    -- ncopy, egath, escat
    (x.instr = .ncopy p f →
      let probe := (x.word 3).testBit 59 && (bitsOf (x.word 3) 62 2 == 2 || bitsOf (x.word 3) 60 2 == 2)
      let count := ncopyCount x
      (∀ t j, copyRun s {} x (ncopyHop x) x.progress (ncopyTotal x - x.progress) = (t, j, none) →
        out (finishCmd (rel t) x (ecv ecOk 0 (ncopyTotal x)))) ∧
      (∀ t j e wr, copyRun s {} x (ncopyHop x) x.progress (ncopyTotal x - x.progress) = (t, j, some (e, wr)) →
        out (copyFail t x probe j j e wr)) ∧
      (∀ i : Nat → Nat, (∀ t < 6, i t < count t) →
        let j := i 0 + count 0 * (i 1 + count 1 * (i 2 + count 2 * (i 3 + count 3 * (i 4 + count 4 * i 5))))
        let off := fun lsb => (i 0 : Int) + i 1 * signed 32 (bitsOf (x.word 4) lsb 32) + i 2 * signed 32 (bitsOf (x.word 5) lsb 32)
          + i 3 * signed 32 (bitsOf (x.word 6) lsb 32) + i 4 * signed 32 (bitsOf (x.word 7) lsb 32)
          + i 5 * signed 32 (bitsOf (x.word 8) lsb 32)
        (ncopyHop x j).sa = (((x.word 0 : Int) + off 0) % 2 ^ 64).toNat ∧
        (ncopyHop x j).da = (((x.word 1 : Int) + off 32) % 2 ^ 64).toNat)) ∧
    (∀ scatter : Bool, x.instr = (if scatter then .escat p f else .egath p f) →
      let b := bitsOf (x.word 2) 32 16
      let k := bitsOf (x.word 2) 48 16
      let loc := bitsOf (x.word 1) 0 32
      let space := bitsOf (x.word 3) 62 2
      (k = 0 → out (finishCmd (rel s) x (ecv ecOk 0 0))) ∧
      (∀ idx t j, 0 < k → idxList s x = .ok idx → ownForm loc = true →
        let hop := fun (j : Nat) =>
          let r := (x.word 0 + (idx[j / b]?.getD 0) * bitsOf (x.word 2) 0 32 + j % b) % 2 ^ 64
          if scatter then Hop.mk 0 (loc + j) space r else Hop.mk space r 0 (loc + j)
        copyRun s {} x hop x.progress (k * b - x.progress) = (t, j, none) →
        out (finishCmd (rel t) x (ecv ecOk 0 (k * b))))) ∧
    -- mcast, mcastb
    (∀ bar : Bool, x.instr = (if bar then .mcastb p f else .mcast p f) →
      let n := bitsOf (x.word 1) 0 32
      let src := bitsOf w 0 32
      let off := bitsOf w 32 20
      let ms := maskMembers (x.word 2)
      let dst := fun m => 2 ^ 31 + m * 2 ^ 24 + off
      let arrived := fun (t : State) => rel (if bar then t.arrive c.gkey c.gang (bitsOf (x.word 1) 32 9) else t)
      (n = 0 → ok (arrived s) 0) ∧
      (∀ ks bs, 0 < n → ownRange s c src n = some ks → readKeys s (movedByte s x.snap) ks = .ok bs →
        (∀ m ∈ ms, (spmRange s c (dst m) n).isSome = true) →
        ok (arrived (ms.foldl (fun t m => match spmRange t c (dst m) n with
          | some dks => cmdStore t x.ctx (dks.zip bs)
          | none => t) s)) (n * ms.length))) ∧
    -- tnld, tnst, tnpf
    (∀ (op : Nat) (h : Handle) (t : State) (j : Nat),
      (op = 0 ∧ x.instr = .tnld p f ∨ op = 1 ∧ x.instr = .tnst p f ∨ op = 2 ∧ x.instr = .tnpf p f) → handleOf s x = some h →
      let n := tileCount x
      let loc := bitsOf w 32 32
      (n = 0 → out (finishCmd (rel s) x (ecv ecOk 0 0))) ∧
      (0 < n → op = 2 ∨ ownForm loc = true → tileRun s {} x h op loc x.progress (n - x.progress) = (t, j, none) →
        out (finishCmd (rel t) x (ecv ecOk 0 (if op = 2 then 0 else packedBytes h.fmt n))))) ∧
    -- coll
    (x.instr = .coll p f → x.progress = 2 →
      let bs := (x.args.drop 5).map fun w => w.setWidth 8
      (bs = [] → out (finishCmd (rel s) x (ecv ecOk 0 0))) ∧
      (∀ ks, bs ≠ [] → ownRange s c (bitsOf w 32 32) bs.length = some ks →
        out (finishCmd (rel (cmdStore s x.ctx (ks.zip bs))) x (ecv ecOk 0 bs.length)))) ∧
    (x.instr = .coll p f → x.progress ≠ 2 → ∀ y, (collFix s x).cmd? x.cid = some y →
      out (putColl (collFix s x) y)) ∧
    -- mcall
    (x.instr = .mcall p f →
      let k := callCtx s x
      let idx := x.arg 0
      let mine := (s.core x.core).run.filter fun r => r.cid == x.cid
      let s1 := if mine.isSome then setRun s x.core none else s
      (∀ ws, idx < 24 → romTile (srcView s1 x) k (idx / 4) (idx % 4) = .ok ws →
        out (finishCmd (rel (s1.setAccs x.core ws)) x (ecv ecOk 0 0))) ∧
      (∀ e, idx < 24 → romTile (srcView s1 x) k (idx / 4) (idx % 4) = .error e → out (failEng s1 x e 0)) ∧
      (∀ ws, 24 ≤ idx → idx < 28 →
        romTile (if x.progress = 0 then { s1 with loose := [] } else srcView s1 x) k 6 (idx % 4) = .ok ws →
        out (finishCmd (rel (s1.setAccs x.core ws)) x (ecv ecOk 0 0))) ∧
      (∀ t, 28 ≤ idx → idx < 32 → runCdrain s1 k (idx % 4) = (t, none) → out (finishCmd (rel t) x (ecv ecOk 0 0))) ∧
      (∀ t, 32 ≤ idx → landRows s1 x ((mine.map (·.drains)).getD []) = (t, none) →
        out (finishCmd (rel t) x (ecv ecOk 0 0))) ∧
      (∀ t e, 32 ≤ idx → landRows s1 x ((mine.map (·.drains)).getD []) = (t, some e) → out (failEng t x e 0)))

/-- R275 to R282: every micro-op of a writable routine completes when the routine has come to it: what it does to the
routine's registers, to the accumulators, to the weight buffers and to where the routine goes on, with the forms of
no rows or columns (R281; an ACLR of no rows clears none, wherever its row stands) and a BWT that waits and that
goes on; in a grid that a fatal error has ended a micro-op has no other effect than that the routine goes on
(DEDUCED, log entry 46). A drain's rows are noted for their landing (R282), and its order against later loads is
free (DESIGN CHOICE, log entry 61). An LDW with both T and S set takes the sparse form (DEDUCED, log entry 73). -/
def Obligations.MicroOps : Prop :=
  ∀ (core : Nat) (u : MicroOp) (s : State) (r : EngineRun) (x : Cmd),
    let step := fun (i : Instr) (all : Bool) (P : Prop) (out : State → EngineRun → State) => ∀ t r1,
      uopAt s core i r x → s.gridKilled x.gkey = false → uopFinds s core r x all t r1 → P → exec i s = .next (out t r1)
    let goOn := fun (t : State) (r' : EngineRun) => setRun t core (some { r' with upc := r'.upc + 1 })
    let setIx := fun (v : State → EngineRun → BitVec 32) (t : State) (r' : EngineRun) =>
      goOn t { r' with ix := r'.ix.setIfInBounds u.f0.toNat (v t r') }
    let fails := fun (t : State) (_ : EngineRun) => failRun t core x (descFail x)
    let im := u.imm.toNat
    let lc := (u.flags.extractLsb' 0 2).toNat
    let n := r.lc[lc]?.getD 0
    let ix := fun f : BitVec 3 => (r.reg f).toNat
    let wb := if u.flags.getLsbD 0 then r.wb1 else r.wb0
    let rows0 := ix u.f0
    let rows1 := ix u.f1
    let cb := ix u.f2
    let fits := rows0 + rows1 ≤ 128
    let span := if u.flags.getLsbD 2 then 128 else 64
    let call := callCtx s x
    (∀ s1, uopAt s core (.uopEnd core u) r x → noneStopped s → landRows s x r.drains = (s1, none) →
      exec (.uopEnd core u) s = .next (setRun s1 core (some { r with upc := 2048, drains := [] }))) ∧
    step (.uopNop core u) false True goOn ∧
    step (.uopSeti core u) false True (setIx fun _ _ => u.imm) ∧
    step (.uopSetp core u) false True
      (setIx fun _ _ => BitVec.ofNat 32 (call.bits (im % 8) (im / 2 ^ 8 % 64) (im / 2 ^ 16 % 32 + 1))) ∧
    step (.uopMad core u) false True
      (setIx fun _ r' => r'.reg u.f1 + (if u.flags.getLsbD 0 then 1 else r'.reg u.f2) * u.imm) ∧
    step (.uopLoop core u) false (r.reg u.f0 = 0) (fun t r' => setRun t core (some { r' with upc := im % 1024 })) ∧
    step (.uopLoop core u) false (r.reg u.f0 ≠ 0) (fun t r' => goOn t { r' with lc := r'.lc.setIfInBounds lc (r.reg u.f0) }) ∧
    step (.uopEndl core u) false (1 < n.toNat) (fun t r' =>
      setRun t core (some { r' with lc := r'.lc.setIfInBounds lc (n - 1), upc := im % 1024 })) ∧
    step (.uopEndl core u) false (n.toNat ≤ 1) (fun t r' => goOn t { r' with lc := r'.lc.setIfInBounds lc 0 }) ∧
    (∀ t r1 m, uopAt s core (.uopLdw core u) r x → s.gridKilled x.gkey = false → uopFinds s core r x false t r1 →
      call.fmtsOk = true →
      ((List.range span).mapM fun kk => (List.range 64).mapM fun nn =>
        ldwElem { t with loose := [] } (callCtx t x) u rows0 rows1 cb (ix u.f3) (ix u.f4) kk nn) = Except.ok m →
      exec (.uopLdw core u) s = .next (goOn t
        (let b : WeightBuf := { rows := m, validN := min (call.bits 2 8 8 - ix u.f3) 64, k0 := cb, span := span }
         if u.flags.getLsbD 0 then { r1 with wb1 := b } else { r1 with wb0 := b }))) ∧
    (∀ t r1 ws, uopAt s core (.uopMma core u) r x → s.gridKilled x.gkey = false → uopFinds s core r x true t r1 →
      call.fmtsOk = true → 0 < cb → ix u.f3 + cb ≤ 128 → ix u.f4 + wb.validN ≤ 128 →
      mmaTile { t with loose := [] } (callCtx t x) r1 u wb = Except.ok ws →
      exec (.uopMma core u) s = .next (goOn (t.setAccs core ws) r1)) ∧
    step (.uopMma core u) true (call.fmtsOk = true ∧ cb = 0) goOn ∧
    step (.uopAclr core u) false (rows1 = 0) goOn ∧
    step (.uopAclr core u) false (0 < rows1 ∧ fits) (fun t r' => goOn (clearRows t core rows0 rows1) r') ∧
    step (.uopMsk core u) false (rows1 = 0) goOn ∧
    step (.uopMsk core u) false (0 < rows1 ∧ fits ∧ cb ≤ 127) (fun t r' =>
      goOn (t.setAccs core ((List.range (rows1 * (128 - cb))).filterMap fun j =>
        if ((j % (128 - cb) : Nat) : Int) > ((j / (128 - cb) : Nat) : Int) + (r.reg u.f3).toInt
        then some (rows0 + j / (128 - cb), cb + j % (128 - cb), maskWord call) else none)) r') ∧
    step (.uopDrn core u) false (rows1 = 0 ∨ ix u.f3 = 0) goOn ∧
    step (.uopDrn core u) false
      (0 < rows1 ∧ 0 < ix u.f3 ∧ fits ∧ cb + ix u.f3 ≤ 128 ∧ packsOk (call.fmt 20) (ix u.f3) = true) (fun t r' =>
      goOn (if u.flags.getLsbD 3 then clearBlock t core rows0 rows1 cb (ix u.f3) else t) { r' with
        drains := r'.drains ++ (List.range rows1).map fun i =>
          { space := lc, addr := call.mp (im % 8) + ix u.f4 + i * ix u.f5, cls := (u.imm.extractLsb' 8 2).toNat,
            bytes := drainRow t core (u.flags.getLsbD 2) ((call.fmt 20).getD .fp32) call.ko (rows0 + i) cb (ix u.f3) } }) ∧
    (∀ t r1 b, uopAt s core (.uopBwt core u) r x → s.gridKilled x.gkey = false → uopFinds s core r x false t r1 →
      r.waiting = none → t.bar? (callCtx t x).c.gkey (callCtx t x).c.gang (im % 512) = some b → b.joinMode = false →
      exec (.uopBwt core u) s = .next
        (let t1 := t.modBar (callCtx t x).c.gkey (callCtx t x).c.gang (im % 512) fun _ => b.arrive true
         if b.count + 1 ≥ b.target then goOn t1 r1 else setRun t1 core (some { r1 with waiting := some ⟨im % 512, b.episode⟩ }))) ∧
    (∀ t r1 w, uopAt s core (.uopBwt core u) r x → s.gridKilled x.gkey = false → uopFinds s core r x false t r1 →
      r.waiting = some w → t.barPassed (callCtx t x).c.gkey (callCtx t x).c.gang w = true →
      exec (.uopBwt core u) s = .next (goOn t { r1 with waiting := none })) ∧
    (∀ t r1, uopAt s core (.uopBar core u) r x → s.gridKilled x.gkey = false →
      uopFinds s core r x (u.flags.getLsbD 0) t r1 → t.barMode (callCtx t x).c (im % 512) = true →
      (u.flags.getLsbD 0 = true → relReady t x = true) →
      exec (.uopBar core u) s = .next (goOn
        ((if u.flags.getLsbD 0 then engineRelease t x (u.flags.extractLsb' 1 2).toNat else t).arrive (callCtx t x).c.gkey (callCtx t x).c.gang
          (im % 512)) r1)) ∧
    step (.uopAclr core u) false (0 < rows1 ∧ ¬fits) fails ∧
    step (.uopMsk core u) false (0 < rows1 ∧ (¬fits ∨ 127 < cb)) fails ∧
    step (.uopDrn core u) false
      (0 < rows1 ∧ 0 < ix u.f3 ∧ (¬fits ∨ 128 < cb + ix u.f3 ∨ packsOk (call.fmt 20) (ix u.f3) = false)) fails ∧
    step (.uopLdw core u) false (call.fmtsOk = false) fails ∧
    step (.uopMma core u) true
      (call.fmtsOk = false ∨ 0 < cb ∧ (128 < ix u.f3 + cb ∨ 128 < ix u.f4 + wb.validN)) fails ∧
    (∀ i ∈ ([.uopNop core u, .uopSeti core u, .uopSetp core u, .uopMad core u, .uopLoop core u, .uopEndl core u,
        .uopLdw core u, .uopMma core u, .uopAclr core u, .uopMsk core u, .uopDrn core u, .uopBwt core u,
        .uopBar core u] : List Instr), uopAt s core i r x → s.gridKilled x.gkey = true →
      exec i s = .next (setRun s core (some { r with upc := r.upc + 1, waiting := none })))

/-- R336 to R340: a command held on a fault joins the unresolved entry of its cluster that covers it, or makes the next
one, with the place and the level at which its walk stopped; a resolve by a supervisor that does not wait (R350)
replays, refuses or exhausts an entry's waiters and clears the no-match flag, or sets it. -/
def Obligations.FaultEntries : Prop :=
  ∀ (s : State) (cid : Nat) (x : Cmd) (code va cluster seq n : Nat) (e : FaultEntry),
    let cl := clusterOf x.core
    let place := x.faultAt
    let mine := s.faults.filter fun e => e.cluster == cl && e.unres
    let cover := mine.find? fun e => e.ia == place.1 && (!x.needsWrite || e.wr)
    let next := (tabGet? s.faultSeq cl).getD 0
    let s1 := s.setCmd { x with entry := some next }
    let s2 := s.setCmd { x with entry := some e.seq }
    let s3 : State := { s2 with faults := s2.faults.map fun d =>
      if d.cluster = cl ∧ d.seq = e.seq then { d with waiters := d.waiters ++ [cid] } else d }
    (s.cmd? cid = some x → x.fault = some (code, va) → x.entry = none → cover = none → mine.length < 32 →
      exec (.faultEntryCreate cid) s = .next (ringFaults { s1 with
        faultSeq := tabSet s1.faultSeq cl ((next + 1) % 2 ^ 32)
        faults := s1.faults ++ [{ cluster := cl, seq := next, ia := place.1, va := BitVec.ofNat 64 va, ctx := x.ctx, code := code,
                                  wr := x.needsWrite, eng := x.isE, slot := x.slot, token := x.token.getD 0, core := x.core,
                                  level := place.2, waiters := [cid], rung := false }] } cl)) ∧
    (s.cmd? cid = some x → x.fault = some (code, va) → x.entry = none → cover = some e →
      exec (.faultEntryCreate cid) s = .next (s3.setReg (xltcReg cl 0x28)
        (s3.reg (xltcReg cl 0x28) + BitVec.ofNat 64 (2 ^ 32)))) ∧
    (s.faultEntry? cluster seq = some e → s.supWaits cluster = false →
      exec (.fqReplay cluster seq) s = .next (s.whenUp (replayFault (matched s cluster) e)) ∧
      exec (.fqRefuse cluster seq n) s = .next (s.whenUp (refuseFault (matched s cluster) e (n % 256))) ∧
      exec (.fqExhausted cluster seq) s = .next (s.whenUp (exhaustFault (matched s cluster) e))) ∧
    (s.faultEntry? cluster seq = none → s.supWaits cluster = false →
      exec (.fqReplay cluster seq) s = .next (s.whenUp (noMatch s cluster)) ∧
      exec (.fqRefuse cluster seq n) s = .next (s.whenUp (noMatch s cluster)) ∧
      exec (.fqExhausted cluster seq) s = .next (s.whenUp (noMatch s cluster)))

/-- R256, R257, R437: a save, a restore with its resumption, an end and a resume of a stopped context by the supervisor
and by the debug owner, and the results they report; that a save waits, busy, while a token is pending; and the
entry of a waiting trap record into its cluster's ring. That an operation of the supervisor on a context stopped for
debug reports 2, and that a waiting save reads as busy, are the model's readings (DEDUCED, log entry 47); a stop and
a resume by the debug unit keep the context's banks on its core (R437, R461; DEDUCED, log entry 58), and a save
brings its writes and its cluster's dirty lines home (DEDUCED, log entry 52). -/
def Obligations.StoppedContexts : Prop :=
  ∀ (s : State) (cl h : Nat) (c : Ctx), s.ctxIn cl h = some c → s.supWaits cl = false →
    let img := (s.reg (supReg cl 0x20)).toNat
    let dbg := (s.reg (redReg cl 0x60)).toNat
    let sup := supReg cl 0x30
    let red := redReg cl 0x70
    let out := fun (i : Instr) (t : State) => exec i s = .next (s.whenUp t)
    let back := fun at' (c' : Ctx) => resumeCtx (restoreBanks s c at') { c' with stallTask := c'.redirecting && !c'.mid }
    (c.status = .trapped → c.tokPend = 0 → out (.ctxSaveCmd cl h) (cmdStatus (saveStopped s c img) sup 0 0)) ∧
    (c.status = .debug → c.tokPend = 0 → out (.dbgSave cl h) (cmdStatus (saveStopped s c dbg) red 0 0)) ∧
    (saveStopped s c img).ctx? h = some { c with imgAt := some img, mirror := true } ∧
    (c.status = .trapped → c.tokPend ≠ 0 → out (.ctxSaveCmd cl h) (s.setReg sup 1)) ∧
    (c.status = .debug → c.tokPend ≠ 0 → out (.dbgSave cl h) (s.setReg red 1)) ∧
    (∀ c', c.status = .trapped → c.imgAt.isSome = true → readImage s c img = .ok c' →
      out (.ctxRestoreCmd cl h) (cmdStatus (back img c') sup 0 0)) ∧
    (∀ c', c.status = .debug → c.imgAt.isSome = true → readImage s c dbg = .ok c' →
      out (.dbgRestore cl h) (cmdStatus (back dbg c') red 0 0)) ∧
    (∀ r, c.status = .trapped → c.imgAt.isSome = true → readImage s c img = .error r →
      out (.ctxRestoreCmd cl h) (cmdStatus s sup 3 r)) ∧
    (c.status = .trapped → c.imgAt = none → out (.ctxRestoreCmd cl h) (cmdStatus s sup 4 0)) ∧
    (c.status = .debug → out (.dbgResume cl h) (cmdStatus (resumeCtx s c) red 0 0)) ∧
    out (.ctxEndCmd cl h) (cmdStatus (endCmd s c) sup 0 0) ∧
    (c.status ≠ .trapped → out (.ctxSaveCmd cl h) (cmdStatus s sup 2 0) ∧ out (.ctxRestoreCmd cl h) (cmdStatus s sup 2 0)) ∧
    (c.status ≠ .debug → out (.dbgSave cl h) (cmdStatus s red 2 0) ∧ out (.dbgRestore cl h) (cmdStatus s red 2 0) ∧
      out (.dbgResume cl h) (cmdStatus s red 2 0)) ∧
    (∀ r rest t, popTrap cl s.trapWait = some (r, rest) →
      ringPush s (supReg cl 0) (supReg cl 8) (supReg cl 0x10) (supReg cl 0x18) ((s.reg (supReg cl 8)).getLsbD 8) (recBytes r)
        = some t →
      exec (.trapRecordEnqueue cl) s = .next
        (let t1 : State := { t with trapWait := rest }
         if (s.reg (supReg cl 8)).getLsbD 9 then t1.output (.supIrq cl) else t1))

/-- R369, R370, R365: at a boundary, or where its bundle stalls for its task, an aborted or discarded task's sequencer
goes to its take's path for no task; R367: a frontier task that has finished, whose far commands have completed and
that has no deferred fault commits; R366: after 2000 ns in which a domain could not go on, its stalled task that is
last by its key is aborted. R116, R253, R350: a member of a grid that a fatal error is ending ends at a bundle
boundary, where it stalls on a token or where it is stopped; a retired sequencer ends once no token of it is
pending, and gives its banks back unless a fatal error is ending its grid; a grid ends once every sequencer of it
has ended and no command of it is left, and a launch's status is written, 1 and 0 after a normal end and 3 with the
cause after a fatal error; a job that a fatal error ends is a miss. R398, R397: a job whose absolute deadline has
come is counted as a miss and ended; a hold chunk that is due enters the chunks to emit. The address of the bundle
after the take's shadow (R105) is found by the model's own choice (DESIGN CHOICE, log entries 66 and 67); what
happens to a job not yet placed (log entry 48) and which contexts action 3 of R339 ends at once (log entry 53) are
its readings (DEDUCED). -/
def Obligations.TaskEvents : Prop :=
  (∀ (s : State) (h part dom core ix t0 : Nat) (c : Ctx) (r : RunTask) (rest : List RunTask) (x : SpecSlot) (e : DequeEntry)
    (d : Domain),
    (s.ctx? h = some c → c.redirecting = true → c.tasks = r :: rest → c.status = .ready →
      (c.shl = 0 ∧ c.rep = 0 ∧ c.pend = false ∧ c.done = 0 ∧ c.partBundle = false) ∨ c.stallTask = true →
      exec (.abortRedirect h) s = .next (s.setCtx { c with
        loops := c.loops.drop (c.loops.length - r.depth)
        tasks := rest
        com := c.com.setIfInBounds r.takeReg 0
        tokErr := c.tokErr &&& ~~~(1#32 <<< r.takeReg)
        pc := fallthrough s c (afterBundle s c r.takePc)
        pend := false, target := 0, shl := 0, rep := 0, done := 0, partBundle := false, barWait := none, bpSkip := 0
        began := none, leave := none, nextPc := none, stallTok := false, stallTask := false })) ∧
    (s.frontierSlot part dom = some (core, ix, x) → x.task = some e → x.state = .finished → x.deferred = none →
      s.slotQuiet core ix = true → exec (.taskCommit part dom) s = .next (commitSlot s part dom core ix x e)) ∧
    (s.dom? part dom = some d → d.deadFrom = some t0 → domainDead s d = true → t0 + 2000 ≤ s.now →
      (core, ix, e) ∈ stalledTasks s part dom →
      (∀ y ∈ stalledTasks s part dom, y ≠ (core, ix, e) →
        taskBefore (y.2.2.ts.toNat, y.2.2.seq) (e.ts.toNat, e.seq) = true ∧
        taskBefore (e.ts.toNat, e.seq) (y.2.2.ts.toNat, y.2.2.seq) = false) →
      exec (.lehrStallAbort part dom) s = .next
        (settleAll ((abortSlot s core ix false false).modDom part dom fun d => { d with deadFrom := some s.now })))) ∧
  (∀ (s : State) (h k n : Nat) (c : Ctx) (g : Grid),
    (s.ctx? h = some c → c.killCause = some k → c.atStart = true ∨ c.stallTok = true ∨ c.status ≠ .ready →
      c.status ≠ .ended → c.status ≠ .retired →
      exec (.ctxKilled h) s = .next (killContext s h k)) ∧
    (s.ctx? h = some c → c.status = .retired → c.tokPend = 0 →
      let s1 := s.setCtx { c with status := .ended }
      exec (.sequencerEnd h) s = .next (noteComplete
        (settleGang (if s.gridKilled c.gkey then s1 else freeBanks s1 h) c.gkey c.gang) c.gkey)) ∧
    (s.grid? n = some g → g.status = .ready → (∀ c ∈ s.ctxs, c.gkey = n → c.status = .ended) →
      (g.cause.isSome = true ∨ g.desc.gangs ≤ g.nextGang) → (∀ x ∈ s.cmds, x.gkey ≠ n) →
      (g.openJob = true → g.cause = none → otherFirst s g s.nowPs = false) →
      let u := noteComplete s n
      let s1 := (freeGrid u g).setGrid { g with status := .ended, complete := true }
      (g.isJob = false → g.cause = none → exec (.gridEnd n) s = .next (writeStatus s1 g 1 0)) ∧
      (∀ w, g.isJob = false → g.cause = some w → exec (.gridEnd n) s = .next (writeStatus s1 g 3 w)) ∧
      (g.isJob = true → g.cause = none → exec (.gridEnd n) s = .next s1) ∧
      (g.isJob = true → g.missed = true → exec (.gridEnd n) s = .next s1) ∧
      (∀ w, g.isJob = true → g.missed = false → g.cause = some w → exec (.gridEnd n) s = .next
        (missJob (s1.setGrid { g with status := .ended, complete := true, missed := true }) g)))) ∧
  (∀ (s : State) (n part session : Nat) (g : Grid) (c : Ctx) (due : HoldDue),
    let s1 := missJob (s.setGrid { g with missed := true }) g
    let open' : Prop := s.grid? n = some g ∧ g.openJob = true ∧ g.status = .ready ∧ g.missed = false ∧ g.cause = none ∧
      g.deadline ≤ s.now ∧ otherFirst s g g.missAt = false ∧ (g.kind = .action → g.nextGang = 0 → (s.session g.part g.session).level ≠ 3)
    (open' → (s1.ctxs.find? fun c => c.gkey == n && c.status != .ended && !c.dead) = some c →
      exec (.deadlineMiss n) s = .next (noteDone (endCmd s1 c) g.part)) ∧
    (open' → (s1.ctxs.find? fun c => c.gkey == n && c.status != .ended && !c.dead) = none →
      exec (.deadlineMiss n) s = .next (noteDone (match s1.grid? n with
        | some g' => s1.setGrid { g' with cause := some causeCtxKilled }
        | none => s1) g.part)) ∧
    ((s.holds.find? fun h => h.part == part && h.session == session && decide (h.instant ≤ s.now)) = some due →
      exec (.holdChunkEmit part session) s = .next { s with
        holds := s.holds.filter (· ≠ due), chunks := s.chunks ++ [holdChunk s due] }) ∧
    (∀ g', (s.holds.find? fun h => h.part == part && h.session == session && decide (h.instant ≤ s.now)) = none →
      heldJob s part session = some g' →
      exec (.holdChunkEmit part session) s = .next (evalLevel (holdDone s g' g'.late) part session)))

/-- R381, R382, R428: the consumption of a ring's and of a queue's next entry with its read index, a ring's overrun, and
the release of a pending launch whose time has come and before which no other event of its instant goes, set up or
refused with its status. R404, R463: at its release instant the first due job of a session that is ACTIVE leaves the
waiting jobs, takes the next submission number and the next key, and its grid is set up, or it is a miss where the
set-up is refused or its lane has too few free slots; a job of a session that is not ACTIVE any more is dropped.
What a read of the Gaffer brings into the memory-side cache is the model's reading (DEDUCED, log entry 38). -/
def Obligations.LaunchesAndJobReleases : Prop :=
  (∀ (s : State) (part qn n : Nat) (g g' : Grid) (t : State),
    let ctl := s.reg (gafReg part 0x38)
    let base := vaultBase + (s.reg (gafReg part 0x30)).toNat
    let size := ringSize ctl
    let ri := (s.reg (gafReg part 0x40)).toNat
    let entry := base + 64 + 128 * (ri % size)
    let q := s.queue qn
    let qbase := vaultBase + q.base.toNat
    let qentry := qbase + 0x100 + 128 * (q.ri % ringSize q.cfg)
    (partOpen s part = true → ctl.getLsbD 8 = true → ctl.getLsbD 9 = false → ri < s.load base 8 →
      s.load base 8 ≤ ri + size →
      exec (.launchConsume part) s = .next
        ((agentStore (enterLaunch s part (memGetList s.mem entry 128) (.ring (entry + 0x70))) (base + 8) 8 (ri + 1)).setReg
          (gafReg part 0x40) (BitVec.ofNat 64 (ri + 1)))) ∧
    (partOpen s part = true → ctl.getLsbD 8 = true → ctl.getLsbD 9 = false → ri + size < s.load base 8 →
      exec (.launchConsume part) s = .next (s.setReg (gafReg part 0x38) (ctl ||| 0x200))) ∧
    (q.state = 1 → q.cfg.getLsbD 4 = true → s.hostIf.valid = true → partOpen s q.part = true → q.ri < q.last →
      q.outstanding + (q.cwi - s.load (qbase + 0x10) 8) < ringSize q.cfg →
      exec (.hostQueueConsume qn) s = .next
        ((agentStore (enterLaunch s q.part (memGetList s.mem qentry 128) (.queue qn q.ri (qentry + 0x70))) qbase 8 (q.ri + 1)).setQueue
          { q with ri := q.ri + 1, outstanding := q.outstanding + 1 })) ∧
    (s.grid? n = some g → g.status = .pending → g.kind = .launch → g.release ≤ s.now → (s.part g.part).resetting = false →
      otherFirst s g g.eventAt = false → setupGrid (setupTouch s g) { g with complete := false } (!g.complete) = .ok (t, g') →
      exec (.launchRelease n) s = .next (noteDone (t.setGrid g') g.part)) ∧
    (∀ r, s.grid? n = some g → g.status = .pending → g.kind = .launch → g.release ≤ s.now → (s.part g.part).resetting = false →
      otherFirst s g g.eventAt = false → setupGrid (setupTouch s g) { g with complete := false } (!g.complete) = .error r →
      exec (.launchRelease n) s = .next
        (noteDone (writeStatus ((setupTouch s g).setGrid { g with status := .refused, complete := false }) g 2 r) g.part))) ∧
  (∀ (s : State) (id : Nat) (j : Job) (bs : List Byte) (g g' : Grid) (t : State),
    let s0 : State := { s with jobs := s.jobs.filter fun y => y.id != id }
    let sub := takeSub s0 j.part
    let s1 : State := { sub.1 with nextKey := s.nextKey + 1 }
    let y := s.session j.part j.session
    let r := setupTouch (gafTouch s1 j.part [(((y.words[if j.action then 1 else 2]?).getD 0).toNat, 128)]) g
    let missed := missJob (r.setGrid { g with status := .refused, missed := true, complete := true }) g
    let level (u : State) : State := if j.action then evalLevel u j.part j.session else u
    (s.jobs.find? fun y => y.id == id) = some j → j.release ≤ s.now → (s.part j.part).resetting = false →
    s.headJob j = true → otherFirst s (j.asGrid s) (j.asGrid s).eventAt = false →
    (y.state = 1 → jobGrid s0 y j sub.2 = some (bs, g) → setupGrid r g (descZero bs) = .ok (t, g') →
      exec (.jobRelease id) s = .next (noteDone (level (if laneRoom r g' then t.setGrid g' else missed)) j.part)) ∧
    (∀ w, y.state = 1 → jobGrid s0 y j sub.2 = some (bs, g) → setupGrid r g (descZero bs) = .error w →
      exec (.jobRelease id) s = .next (noteDone (level missed) j.part)) ∧
    (y.state ≠ 1 → exec (.jobRelease id) s = .next (noteDone s0 j.part)))

/-- R383, R387 to R389, R247: a grid's next gang is placed in the first cluster from the cursor on that takes it, once
no waiting grid with a smaller key can be placed; where none takes it, the least urgent gang on the cores it could
use is asked to yield; the end of a slice; a late yield; and the save of a yielding context that has no pending
token into its save area (its place and a launch's turn after its slice: log entries 59 and 60; that the save brings
its writes and its cluster's dirty lines home: DEDUCED, log entry 52). -/
def Obligations.Placement : Prop :=
  ∀ (s : State) (n i h : Nat) (g : Grid) (x : Gang) (c : Ctx) (t : State),
    let first : Prop := ∀ r ∈ aheadOf s g, placeNext s r = none
    (s.grid? n = some g → waits s g = true → first → placeNext s g = some t → exec (.gangPlace n) s = .next t) ∧
    (∀ gi, nextGangOf (s.setGrid (withLevel s g)) (withLevel s g) = some gi →
      placeNext s g = placeFirst (s.setGrid (withLevel s g)) (withLevel s g) gi
        (clusterOrder (withLevel s g).part (s.part (withLevel s g).part).cursorCluster)) ∧
    (∀ y, s.grid? n = some g → waits s g = true → first → placeNext s g = none → displaced s g = some y →
      exec (.gangPlace n) s = .next (askYield s y.1 y.2)) ∧
    (s.grid? n = some g → g.gang? i = some x → g.isJob = false → x.status = .running → x.placedAt + g.slice ≤ s.now →
      (∃ r ∈ s.grids, r.part = g.part ∧ r.isJob = false ∧ r.keyDeadline = g.keyDeadline ∧ waits s r = true ∧
        gangOn s g x (neededCores s r) = true) →
      exec (.sliceExpiry n i) s = .next (askYield s g { x with turn := true })) ∧
    (∀ at', s.grid? n = some g → g.gang? i = some x → x.yieldAt = some at' → x.status = .yielding → x.yieldLate = false →
      yieldPast g.hdr at' s.now = true →
      exec (.yieldLate n i) s = .next ((s.setGrid (g.setGang { x with yieldLate := true })).bumpReg (gafReg g.part 0x100) 1)) ∧
    (s.ctx? h = some c → c.status = .yielding → c.tokPend = 0 →
      let u := (phaseRelease s c 2).modCtx h fun d => { d with status := .saved, yieldReq := false }
      exec (.contextSave h) s = .next (settleGang (saveArea u (u.ctx h)) c.gkey c.gang))

/-- R393, R394, R396, R399, R430: the operations of GAF_SES_CMD with the result they report, where a forced level stands
beneath that of a host that is gone; the end of a closing session's last job, the suspension of a session without a
host, and the enabling of a submission ring. From when the suspension counts, and that a forced level stands beneath
L3 of a host that is gone, are the model's readings (DEDUCED, log entry 48), and so is what the templates that an
admission reads bring into the memory-side cache (DEDUCED, log entry 38). -/
def Obligations.Sessions : Prop :=
  ∀ (s : State) (part session level : Nat) (value : Word),
    let x := s.session part (sesSel s part)
    let y := s.session part session
    let sts (t : State) (result reason : Nat) : Host.Outcome State Fault Refusal :=
      .next (s.whenUp (cmdStatus t (gafReg part 0xD8) result reason))
    let drop (t : State) (i : Nat) : State :=
      { t with jobs := t.jobs.filter fun j => !(j.part == part && j.session == i) }
    let t0 := if x.state = 0 ∧ (s.part part).resetting = false ∧ entryZero x = true ∧ entryLimits s x = true
      then touchTemplates s x else s
    (∀ t, admitSession t0 x = .ok t → exec (.sessionAdmit part) s = sts t 0 0) ∧
    (∀ r, admitSession t0 x = .error r → exec (.sessionAdmit part) s = sts t0 1 r) ∧
    (exec (.sessionClose part) s = sts (drop (if x.state = 1 then s.setSession { x with state := 2 }
      else if x.state = 3 then freeSession s x else s) x.index) 0 0) ∧
    (y.state = 2 → (∀ g ∈ s.grids, g.isJob = true → g.part = part → g.session = session → g.status ≠ .ready) →
      exec (.sessionCloseDone part session) s = .next (freeSession s y)) ∧
    (exec (.sessionForceLevel part level) s =
      sts (if x.state = 0 then s else enterLevel s { x with forced := true, forcedLevel := level % 4 }
        (if x.hostForced = true ∧ x.state ≠ 3 then 3 else level % 4)) 0 0) ∧
    (exec (.sessionForceRelease part) s = sts (if x.state = 0 then s else s.setSession { x with forced := false }) 0 0) ∧
    (y.state = 1 → s.hostIf.valid = false → max s.hostIf.lapsedAt y.activeAt + 64 * y.field 3 0 32 ≤ s.now →
      exec (.sessionSuspend part session) s = .next (drop (s.setSession { y with state := 3 }) session)) ∧
    exec (.dsqEnable part value) s = .next (s.whenUp (dsqWrite s part value))

/-- R456 to R459: power-on, at any time, and a package reset run the boot sequence over a fresh part that keeps the
flash images; an attestation is requested by the holder and its report, with its signature a free value (log entry
4), reaches the buffer; a single port's PERST takes its link down (DEDUCED, log entry 35); a virtual function's
reset disables its queue pairs, frees its claims and hands its frames to the clear engine (DEDUCED, log entry 34,
which says which frames are a function's). That a fresh part's memory reads zero is the model's choice (DESIGN
CHOICE, log entry 3). -/
def Obligations.BootAndResets : Prop :=
  ∀ (s : State) (port vf : Nat) (value : Word) (x : Nat × Nat × List Byte),
    let h := s.hostIf
    let buf := (s.reg (hifReg port 0xA0)).toNat / 2 ^ 12 * 2 ^ 12
    (exec .powerOn s = .next (bootPart (freshPart s))) ∧
    (s.boot ≠ .off → exec .packageReset s = .next (bootPart (freshPart s))) ∧
    ((freshPart s).flashA = s.flashA ∧ (freshPart s).flashB = s.flashB ∧ (freshPart s).mem = [] ∧ (freshPart s).regs = [] ∧
      (freshPart s).ctxs = [] ∧ (freshPart s).grids = [] ∧ (freshPart s).sessions = []) ∧
    (s.isHolder port = true → value.getLsbD 0 = true → (∀ y ∈ h.attBusy, y.1 ≠ port) → buf + 2676 ≤ 2 ^ 33 →
      exec (.attestationRequest port value) s = .next
        ({ s with hostIf := { h with attBusy := h.attBusy ++ [(port, buf, reportHead s port)] } }.setReg (hifReg port 0xB0) 1)) ∧
    (s.isHolder port = true → value.getLsbD 0 = true → (∀ y ∈ h.attBusy, y.1 ≠ port) → 2 ^ 33 < buf + 2676 →
      exec (.attestationRequest port value) s = .next (s.setReg (hifReg port 0xB0) 0x10)) ∧
    ((h.attBusy.find? fun y => y.1 == port) = some x →
      exec (.attestationDone port) s = .next
        (let s1 := agentWrite s (vaultBase + x.2.1)
          (x.2.2 ++ (List.range 2420).map fun i => ((Config.signature x.2.2)[i]?).getD 0)
         { s1 with hostIf := { h with attBusy := h.attBusy.filter fun y => y.1 != port } }.setReg (hifReg port 0xB0) 0)) ∧
    (exec (.singlePortPerst 0) s = .next { s with hostIf := { h with up0 := false } }) ∧
    (exec (.singlePortPerst 1) s = .next { s with hostIf := { h with up1 := false } }) ∧
    (vf < 64 → exec (.vfReset vf) s = .next
      (let s1 := (s.queues.filter fun q => (q.cfg.extractLsb' 8 6).toNat == vf).foldl disableQueue s
       clearVf ((s1.claims.filter fun c => c.held && (c.owner == 0x4000 + vf + 1 || c.owner == 0x4100 + vf + 1)).foldl
         (fun t c => freeClaim t c.res) s1) vf))

/-- R425, R426, R430, R457: a renewal takes the lease where there is no holder, keeps it for its holder and does nothing
for the other port, but that port 0 goes before a port 1 that took the free lease at the same instant; an expiry
hands the lease over when that is armed, and else leaves the device without a host; the links go down and up; the
holder writes vault memory through its window. R428, R429, R431: a doorbell, a queue reset and an advanced write
index of a cross-side queue. What a write from the other port and a doorbell in overrun do are the model's readings
(DEDUCED, log entries 31 and 33), and so is how it tells that two renewals are of one instant (DEDUCED, log entry
49). -/
def Obligations.LeaseAndHostQueues : Prop :=
  (∀ (s : State) (port vault : Nat) (data : List Byte),
    let h := s.hostIf
    let other := 1 - h.holder
    (port < 2 → s.boot = .running → h.valid = false → exec (.leaseRenew port) s = .next (hostReturns
      { s with hostIf := { h with
          holder := port, valid := true, epoch := h.epoch + 1, exp := s.now + leaseTtl s
          takenAt := if port = 1 then some s.nowPs else none } })) ∧
    (port < 2 → s.boot = .running → h.valid = true → h.holder = port →
      exec (.leaseRenew port) s = .next { s with hostIf := { h with exp := s.now + leaseTtl s } }) ∧
    (port < 2 → s.boot = .running → h.valid = true → h.holder ≠ port → (port = 1 ∨ h.takenAt ≠ some s.nowPs) →
      exec (.leaseRenew port) s = .next s) ∧
    (s.boot = .running → h.valid = true → h.holder ≠ 0 → h.takenAt = some s.nowPs →
      exec (.leaseRenew 0) s = .next { s with hostIf := { h with holder := 0, takenAt := none } }) ∧
    (port < 2 → s.boot = .recovery → exec (.leaseRenew port) s = .next (recoverPart s)) ∧
    (h.valid = true → h.exp ≤ s.now → (s.reg (hifReg other 0x20)).getLsbD 0 = true →
      exec .leaseExpiry s = .next
        (let s1 : State := { s with hostIf := { h with holder := other, epoch := h.epoch + 1, exp := s.now + leaseTtl s } }
         (s.queues.filter (unreadQueue s)).foldl (fun t q => t.output (.queueIrq other q.q)) s1)) ∧
    (h.valid = true → h.exp ≤ s.now → (s.reg (hifReg other 0x20)).getLsbD 0 = false →
      exec .leaseExpiry s = .next (hostLapses s)) ∧
    (port < 2 → exec (.hostLinkDown port) s = .next (setLink s port false)) ∧
    (port < 2 → s.boot ≠ .held → exec (.hostLinkUp port) s = .next (setLink s port true)) ∧
    (port < 2 → (if port = 0 then h.up0 else h.up1) = true → vault + data.length ≤ 2 ^ 33 → s.boot ≠ .recovery →
      exec (.hostBar2Write port vault data) s =
        .next (if s.isHolder port then agentWrite s (vaultBase + vault) data else s))) ∧
  (∀ (s : State) (port queue : Nat) (value : Word),
    let q := s.queue (queueSel s)
    let w := value.toNat
    let cfg := s.reg (csqReg queue 0x68)
    let base := vaultBase + (s.reg (csqReg queue 0x60)).toNat
    (s.isHolder port = true → q.state ≠ 2 → w < q.last →
      exec (.doorbell port value) s = .next (s.setQueue { q with ignored := min (q.ignored + 1) 0xFFFF })) ∧
    (s.isHolder port = true → q.state ≠ 2 → q.last ≤ w → w - q.ri ≤ ringSize q.cfg →
      exec (.doorbell port value) s = .next (s.setQueue { q with last := w })) ∧
    (s.isHolder port = true → q.state ≠ 2 → q.last ≤ w → ringSize q.cfg < w - q.ri →
      exec (.doorbell port value) s = .next (s.setQueue { q with state := 2 })) ∧
    (s.isHolder port = false ∨ q.state = 2 → exec (.doorbell port value) s = .next s) ∧
    (s.isHolder port = true → exec (.queueReset port) s = .next (zeroQueue s q (if q.cfg.getLsbD 4 then 1 else 0))) ∧
    (s.isHolder port = false → exec (.queueReset port) s = .next s) ∧
    (queue < 64 → cfg.getLsbD 4 = true → (tabGet? s.csqSeen queue).getD 0 < s.load base 8 →
      let s1 : State := { s with csqSeen := tabSet s.csqSeen queue (s.load base 8) }
      exec (.csqUpdate queue) s = .next
        (if (s.reg (csqReg queue 0x70)).getLsbD 0 = true then s1
         else if s.load base 8 - s.load (base + 8) 8 > ringSize cfg then s1.setReg (csqReg queue 0x70) 1
         else if cfg.getLsbD 5 = true ∨ s.hostIf.valid = false then s1
         else s1.output (.msix s.hostIf.holder (cfg.extractLsb' 8 8).toNat))))

/-- R433, R426: a claim of a free resource is granted at once, and a claim of the same instant that goes before it takes
the resource; a hyper-ranked claim on a guest's resource takes it, but waits for the boundary on a cluster whose
sampling windows run; any other claim changes nothing; an owner's release frees the resource or hands it to the
claimant that waits, and its handover names the new owner; from any other party, and from a port that does not hold
the lease, they change nothing. How the model tells one instant is its reading (DEDUCED, log entry 49). -/
def Obligations.Claims : Prop :=
  ∀ (s : State) (res who target : Nat),
    let c := s.claim res
    let first : Prop := c.since = some s.nowPs ∧ claimFirst who c.owner = true
    let stamp (t : State) : State := (grantClaim t res who).setClaim { (grantClaim t res who).claim res with since := some s.nowPs }
    (0 < res → res < 136 → partyCounts s who = true →
      (c.held = false → exec (.claim res who) s = .next (stamp s)) ∧
      (c.held = true → first → exec (.claim res who) s = .next (stamp (claimLost s res))) ∧
      (c.held = true → ¬ first → c.owner ≠ who → hyperRank who = true → hyperRank c.owner = false →
        (∀ cl, claimCluster res = some cl → c.pending = none → histOn s cl = true →
          exec (.claim res who) s = .next (s.setClaim { c with pending := some who })) ∧
        (∀ cl, claimCluster res = some cl → c.pending = none → histOn s cl = false →
          exec (.claim res who) s = .next (grantClaim (claimLost s res) res who)) ∧
        (∀ cl, claimCluster res = some cl → c.pending ≠ none → exec (.claim res who) s = .next s) ∧
        (claimCluster res = none → exec (.claim res who) s = .next (grantClaim s res who))) ∧
      (c.held = true → ¬ first → (c.owner = who ∨ hyperRank who = false ∨ hyperRank c.owner = true) →
        exec (.claim res who) s = .next s)) ∧
    (0 < res → s.owns who res = true → partyCounts s who = true →
      (c.pending = none → exec (.claimRelease res who) s =
        .next ((claimLost s res).setClaim { c with held := false, owner := 0, since := none })) ∧
      (∀ p, c.pending = some p → exec (.claimRelease res who) s = .next (grantPending s res)) ∧
      exec (.claimHandover res who target) s = .next (s.setClaim { c with
        owner := target, since := none, pending := if c.pending = some target then none else c.pending })) ∧
    (partyCounts s who = false → exec (.claim res who) s = .next s) ∧
    (s.owns who res = false ∨ partyCounts s who = false →
      exec (.claimRelease res who) s = .next s ∧ exec (.claimHandover res who target) s = .next s)

/-- R439, R441, R442: a sample of every core of a cluster at a period's end, the end of a window, a core's ratios at the
end of ten microseconds, with the number of the last complete window, and the latched read of a counter by halves:
the high half that follows a low half of the same counter by the same function comes from the same moment. Each of
the five events completes under conditions on the state alone, and a step keeps the number of the window in
progress. The number that a latch keeps of its counter is the model's reading (DEDUCED, log entry 49), and the
cycles of a step are free (DESIGN CHOICE, log entry 2). -/
def Obligations.HistogramsAndCounters : Prop :=
  ∀ (s : State) (cl core fn k : Nat),
    let r := s.red cl
    let a : RegAddr := ⟨.red, clusterOf core, 0x300 + 8 * (core % 8)⟩
    let w := s.now / 10000 - 1
    let c := s.core core
    let n := windowCycles s core - c.doneHeld
    let v := (counterValue s core k).toNat
    let l := (tabGet? s.latches fn).getD 0
    let base := (s.reg (redReg cl 0x10)).toNat / 2 ^ 15 * 2 ^ 15 + 0x4000 * (r.winIndex % 2)
    let s1 := agentWrite s (vaultBase + base) (histBytes r)
    let old := (s1.reg (redReg cl 0x18)).toNat
    let s2 := s1.setReg (redReg cl 0x18) (BitVec.ofNat 64 ((old % 2 ^ 32 + 1) % 2 ^ 32 + min r.dropped 0xFFFF * 2 ^ 32))
    let ready := fun core => s.ctxs.any fun d => d.core == core && d.status == .ready
    let seen := fun core => if ready core then (s.core core).samp else (0, 15, 8)
    (histOn s cl = true → r.samples < histLength s cl → r.winStart + (r.samples + 1) * histPeriod s cl ≤ s.now →
      exec (.histSample cl) s = .next (s.setRed
        { (List.range 8).foldl (fun (b : RedBlock) i =>
            histAdd b (seen (cl * 8 + i)).1 (seen (cl * 8 + i)).2.1 (seen (cl * 8 + i)).2.2 1) r with
          samples := r.samples + 1 })) ∧
    (histOn s cl = true → histLength s cl ≤ r.samples →
      exec (.histWindowEnd cl) s = .next (grantPending (grantPending (s2.setRed { r with
        hist := [], samples := 0, dropped := 0, winIndex := r.winIndex + 1
        winStart := r.winStart + histLength s cl * histPeriod s cl }) (8 + cl)) (72 + cl))) ∧
    (∀ t, step s = .next t → t.winNo = t.now / 10000) ∧
    (s.winNo = s.now / 10000 → 10000 ≤ s.now → (s.reg a).toNat / 2 ^ 32 % 2 ^ 32 ≠ w % 2 ^ 32 ∨ s.reg a = 0 →
      exec (.stallRatioWindow core) s = .next (s.setReg a (BitVec.ofNat 64
        (ratio16 c.doneStall n + ratio16 c.doneComp n * 2 ^ 16 + w % 2 ^ 32 * 2 ^ 32)))) ∧
    (s.boot = .running → exec (.counterLowRead fn core k) s = .next { s with
      latches := tabSet s.latches fn (BitVec.ofNat 64 (v / 2 ^ 32 + counterIndex core k % 128 * 2 ^ 32 + 2 ^ 39))
      busRead := BitVec.ofNat 64 (v % 2 ^ 32) }) ∧
    (s.boot = .running → l.getLsbD 39 = true → (l.extractLsb' 32 7).toNat = counterIndex core k % 128 →
      exec (.counterHighRead fn core k) s = .next { s with
        latches := tabSet s.latches fn (l &&& ~~~(BitVec.ofNat 64 (2 ^ 39))), busRead := l &&& 0xFFFFFFFF }) ∧
    (s.boot = .running → l.getLsbD 39 = false ∨ (l.extractLsb' 32 7).toNat ≠ counterIndex core k % 128 →
      exec (.counterHighRead fn core k) s = .next { s with busRead := BitVec.ofNat 64 (v / 2 ^ 32) }) ∧
    (s.boot ≠ .running → exec (.counterLowRead fn core k) s = .next s ∧ exec (.counterHighRead fn core k) s = .next s)

/-- R445 to R448: a request that fails a rule changes the island's result alone and one that passes starts its first
phase; a voltage step of 10 mV once its 100 ns have passed; the clock's restart at the new frequency once its 400 ns
have passed; the throttle to the floor at 110 degrees and its end. What a throttle does to a change in progress, and
that a request for the present point is busy until its next event, are the model's readings (DEDUCED, log entry 42). -/
def Obligations.Islands : Prop :=
  ∀ (s : State) (i celsius : Nat) (value : Word),
    let x := s.island i
    let f := (value.extractLsb' 0 6).toNat
    let v := (value.extractLsb' 8 7).toNat
    let takes := fun (stage : Nat) => if stage = 0 then 0 else if stage = 2 then 400000 else 100000
    let first := if v > x.v10 then 1 else if f ≠ x.f50 then 2 else 3
    let up := if x.v10 + 1 < x.toV then 1 else if x.toF ≠ x.f50 then 2 else 0
    let low := if x.toV < x.v10 then x.v10 - 1 else x.v10
    let down := if low > x.toV then 3 else 0
    let after := if x.toV < x.v10 then 3 else 0
    let hot := if x.stage = 2 ∨ x.f50 ≠ 24 then 2 else if x.v10 > 55 then 3 else 0
    (i < 512 → s.boot = .running → requestCode s i f v = 0 → exec (.dvfRequest i value) s = .next (s.setIsland i { x with
      req := BitVec.ofNat 64 (v * 256 + f), toF := f, toV := v, stage := first, forced := false, result := 0, code := 0
      nextAt := if f = x.f50 ∧ v = x.v10 then s.nowPs else s.nowPs + takes first })) ∧
    (i < 512 → s.boot = .running → requestCode s i f v ≠ 0 → exec (.dvfRequest i value) s = .next (s.setIsland i
      { x with result := 1, code := requestCode s i f v })) ∧
    (i < 512 → s.boot ≠ .running → exec (.dvfRequest i value) s = .next s) ∧
    (x.stage = 1 → x.nextAt ≤ s.nowPs → exec (.voltageStep i) s = .next (s.setIsland i { x with
      v10 := x.v10 + 1, stage := up, nextAt := x.nextAt + takes up })) ∧
    (x.stage = 3 → x.nextAt ≤ s.nowPs → exec (.voltageStep i) s = .next (s.setIsland i { x with
      v10 := low, stage := down, nextAt := x.nextAt + takes down })) ∧
    (x.stage = 2 → x.nextAt ≤ s.nowPs → exec (.clockRestart i) s = .next (s.setIsland i { x with
      f50 := x.toF, stage := after, nextAt := x.nextAt + takes after })) ∧
    (i < 512 → x.stage = 0 ∨ x.forced = false → exec (.thermalThrottle i) s = .next (s.setIsland i { x with
      throttled := true, toF := 24, toV := 55, forced := true, stage := hot, nextAt := s.nowPs + takes hot
      result := if x.stage ≠ 0 then 1 else x.result, code := if x.stage ≠ 0 then 4 else x.code })) ∧
    (i < 512 → x.stage ≠ 0 → x.forced = true → exec (.thermalThrottle i) s = .next s) ∧
    (x.throttled = true → celsius < x.tHi →
      exec (.throttleClear i celsius) s = .next (s.setIsland i { x with throttled := false }))

/-- R400, R403 to R405: a token for a session whose entry is enabled and which is ACTIVE is accepted where its ring has
room, and refused and counted where it has none; any other is discarded and counted; a message that is too long is
refused and counted, and so is a packet of an unsupported part of the semantic sublayer; any other packet is dropped
and counted. How a packet enters the model is its reading (DEDUCED, log entry 69), and so is which of two endpoints
of a session counts (DEDUCED, log entry 48). -/
def Obligations.Tokens : Prop :=
  ∀ (s : State) (session port : Nat) (payload : List Byte) (p : Session),
    let e := s.ep session
    let part := activePart s e p
    let ring := (e.words[if onShadow e p then 4 else 3]?).getD 0
    let base := vaultBase + ring.toNat / 2 ^ 12 * 2 ^ 12
    let slots := 2 ^ max 5 (min 12 (ring.toNat % 16))
    let used := s.load base 8 - s.load (base + 8) 8
    let here : Prop := session < 4096 ∧ port < 4 ∧ s.boot = .running ∧ payload.length ≤ 9000
    let open' : Prop := e.field 0 0 1 ≠ 0 ∧ (s.session part session).state = 1 ∧ (s.part part).resetting = false
    (here → primaryOf s session = some p → open' → used < slots → exec (.tokenArrival session port payload) s =
      .next (acceptToken s e (s.session part session) port payload ring base (s.load base 8))) ∧
    (here → primaryOf s session = some p → open' → slots ≤ used → exec (.tokenArrival session port payload) s =
      .next ((s.setEp { e with full := e.full + 1 }).output (.nack session))) ∧
    (here → primaryOf s session = some p → ¬open' → exec (.tokenArrival session port payload) s =
      .next (s.setEp { e with discarded := e.discarded + 1 })) ∧
    (here → primaryOf s session = none → exec (.tokenArrival session port payload) s =
      .next (s.setEp { e with discarded := e.discarded + 1 })) ∧
    (session < 4096 → port < 4 → s.boot = .running → 9000 < payload.length → exec (.tokenArrival session port payload) s =
      .next ((s.bumpReg ⟨.uep, 0, 0x50⟩ 1).output (.nack session))) ∧
    (port < 4 → exec (.unsupportedPacket ⟨port, true⟩) s =
      .next ((s.bumpReg ⟨.uep, 0, 0x50⟩ 1).output (.nackPacket port))) ∧
    (port < 4 → exec (.unsupportedPacket ⟨port, false⟩) s = .next (s.bumpReg ⟨.uep, 0, 0x50⟩ 1))

/-- R229, R410 to R412: a port's next chunk leaves for its session's peer at the later of its instant and the end of the
chunk before, or is dropped as LATE where that is more than 20 ns after its instant, once the hold chunks that are
due before it stand in the port's queue; a mirror copy goes to the buffer that is not current before its header
commits it, in job order; a fail-over makes the shadow active and gives it the hold chunk that the primary owed
(DEDUCED, log entry 39). That the mirror copy's length keeps bit 20 is the model's reading (DEDUCED, log entry 36). -/
def Obligations.EmissionsAndFailover : Prop :=
  ∀ (s : State) (port n session : Nat) (c : Chunk) (g : Grid) (x : Session) (t : Nat),
    let start := max (c.instant * 1000) (max ((tabGet? s.portFree port).getD 0) c.since)
    let y := s.session c.part c.session
    let rest : State := { s with chunks := s.chunks.filter (· ≠ c) }
    let e := s.ep g.session
    let src := vaultBase + e.field 5 0 64 / 64 * 64
    let dst := vaultBase + e.field 6 0 64 / 64 * 64
    let len := e.field 7 0 21 / 64 * 64
    let buf := 1 - s.load (dst + 0x10) 8 % 2
    let mine (h : Grid) : Prop := h.kind = .action ∧ h.part = g.part ∧ h.session = g.session ∧ h.past = false
    let ended (h : Grid) : Prop := mine h ∧ h.status = .ended ∧ h.missed = false ∧ h.mirrored = false
    let f := s.ep session
    (nextChunk s port = some c → holdFirst s c = false → c.late = false → start ≤ c.instant * 1000 + 20000 → start ≤ s.nowPs →
      exec (.emissionDeparture port) s = .next (endEmit
        (((markSent (({ rest with portFree := tabSet rest.portFree port (start + (c.bytes.length + 148) * 5) } : State).output
          (.chunk port c.session start (s.ep c.session).peer c.bytes)) c).setSession
            { y with emitted := y.emitted + 1, lastLevel := y.level, lastHold := c.hold }).refresh c.part c.session)
        c ecOk c.bytes.length)) ∧
    (nextChunk s port = some c → holdFirst s c = false → (c.late = true ∨ c.instant * 1000 + 20000 < start) → c.instant * 1000 ≤ s.nowPs →
      exec (.emissionDeparture port) s = .next (endEmit
        ((rest.setSession { y with late := y.late + 1 }).bumpReg ⟨.uep, 0, 0x58 + 8 * port⟩ 1) c ecLate 0)) ∧
    (s.grid? n = some g → ended g → (s.session g.part g.session).field 9 4 1 = 1 →
      onShadow e (s.session g.part g.session) = false → (s.part g.part).resetting = false →
      (∀ h ∈ s.grids, mine h → h.jobNo < g.jobNo → ¬ ended h ∧ h.status ≠ .ready) →
      exec (.mirrorCopy n) s = .next
        (((agentWrite (agentWrite s (dst + 64 + buf * len) (memGetList s.mem src len)) dst (toBytesLE 8 (e.generation + 1) ++
          toBytesLE 8 g.jobNo ++ toBytesLE 8 buf ++ List.replicate 40 0)).setEp
            { e with generation := e.generation + 1 }).setGrid { g with mirrored := true })) ∧
    (f.failAt = some t → primaryOf s session = some x →
      exec (.failoverSwitch session) s = .next
        (let s1 := s.setEp { f with words := f.words.set 0 ((f.words[0]?).getD 0 ||| 2), failAt := none, failHold := none, failLate := false }
         match f.failHold with
         | some i => { s1 with holds := s1.holds ++
             [{ part := partOfDie s.prtCfg (x.field 9 2 2), session := session, instant := i, since := s.nowPs, late := f.failLate }] }
         | none => s1))

/-- R406 to R408: a one-step Sync gives an offset, which is what the count is ahead by, and a rate clamped to 200 ppm; a
two-step one gives it at its port's Follow_Up; the two delay mechanisms give the path delay; eight sync intervals
without a usable sync begin holdover; a PTM step moves the count forward and makes the emissions whose instant it
passes late, queued or owed. The general messages' numbers and how the delay enters are the model's reading
(PRESUMED, log entry 45). -/
def Obligations.TimeUnitEvents : Prop :=
  ∀ (s : State) (port t1 at' : Nat) (origin rate : Int) (value : Word),
    let t := s.time
    let synced (arrival : Int) : TimeUnit :=
      let offset := arrival - origin - t.delay
      let good := if -4 ≤ offset ∧ offset ≤ 4 then t.good + 1 else 0
      { t with
        toRecv := arrival - origin, lastOffset := max (-(2 ^ 31 - 1)) (min (2 ^ 31 - 1) offset)
        good := good, locked := decide (good ≥ 16), holdover := false, lastSync := s.now, sync := none }
    let v := value.toNat
    let past (i : Nat) : Bool := decide (s.now ≤ i) && decide (i < s.now + v)
    let held := s.grids.filter fun g => g.openJob && g.kind == .action && g.nextGang == 0 && past g.emission &&
      (s.session g.part g.session).level == 3
    let next (u : TimeUnit) : Host.Outcome State Fault Refusal := .next { s with time := u }
    (port < 4 → exec (.ptpEventMessage port (.sync false origin) rate) s =
      next { synced s.now with rate := max (-(200000 * 2 ^ 16)) (min (200000 * 2 ^ 16) rate) }) ∧
    (port < 4 → exec (.ptpEventMessage port (.sync true origin) rate) s =
      next { t with sync := some (port, s.now) }) ∧
    (port < 4 → t.sync = some (port, at') → exec (.ptpGeneralMessage port 8 origin) s = next (synced at')) ∧
    (port < 4 → exec (.ptpEventMessage port .delayReq rate) s = next { t with req := some (port, s.now) }) ∧
    (port < 4 → t.req = some (port, at') → exec (.ptpGeneralMessage port 9 origin) s =
      next { t with delay := (t.toRecv + (origin - at')) / 2, req := none }) ∧
    (port < 4 → exec (.ptpEventMessage port .pdelayReq rate) s =
      next { t with peerReq := some (port, s.now), peerResp := none }) ∧
    (port < 4 → t.peerReq = some (port, t1) → exec (.ptpEventMessage port (.pdelayResp false origin) rate) s =
      next { t with delay := (s.now - t1 - origin) / 2, peerReq := none }) ∧
    (port < 4 → t.peerReq = some (port, t1) → exec (.ptpEventMessage port (.pdelayResp true origin) rate) s =
      next { t with peerResp := some (port, s.now, origin) }) ∧
    (∀ t2, port < 4 → t.peerReq = some (port, t1) → t.peerResp = some (port, at', t2) →
      exec (.ptpGeneralMessage port 10 origin) s =
        next { t with delay := (at' - t1 - (origin - t2)) / 2, peerReq := none, peerResp := none }) ∧
    (t.holdover = false → t.lastSync + 8 * Config.syncInterval ≤ s.now →
      exec .holdover s = next { t with holdover := true }) ∧
    (0 < v → v ≤ 2 ^ 32 → s.boot = .running → exec (.ptmStep value) s = .next
      (let s2 := held.foldl (fun t g => evalLevel (holdDone t g true) g.part g.session) { s with
        chunks := s.chunks.map fun c => { c with late := c.late || past c.instant }
        holds := s.holds.map fun h => { h with late := h.late || past h.instant }
        jobs := s.jobs.map fun j => { j with late := j.late || (j.action && (s.session j.part j.session).level == 3 &&
          past (j.release + (s.session j.part j.session).field 6 32 32)) }
        eps := s.eps.map fun e => { e with failLate := e.failLate || (match e.failHold with | some t => past t | none => false) } }
       { s2 with nowPs := s.nowPs + 1000 * v })) ∧
    (v = 0 ∨ 2 ^ 32 < v ∨ s.boot ≠ .running → exec (.ptmStep value) s = .next s)

/-- R330, R333, R340 to R342: a walk leaves its leaf in use; a range entry is committed with status 0, or refused with 1
or 2, by a supervisor that does not wait (R350); an invalidation covers both ranges where one was pending, and its
end leaves no translation of the range and no run that overlaps it. R343 to R345: a swap starts between a host page
and a near page that are both 512 KiB leaves, and is refused otherwise; each line of both frames is exchanged and
counted, and the last ends the swap; frames join the clear engine, and no copy of a line of them is left in a
cluster's cache or a posted-write buffer; its sweep zeroes the next line unless it is marked. One swap engine to a
partition that waits while the far link is down and which copies a clear drops are the model's readings (DEDUCED,
log entry 37), and when a leaf leaves a translation cache is free beyond what R334 names (DESIGN CHOICE, log entry
72). -/
def Obligations.TranslationSwapAndClear : Prop :=
  (∀ (s : State) (part ia cl : Nat) (value : Word) (c : Ctx) (r : Nat × Nat),
    let sel := (s.reg (xltcReg cl 0x30)).toNat
    let d (i : Nat) : Word := s.reg (xltcReg cl (0x38 + 8 * i))
    let e := (d 0, d 1, d 2, value)
    let s1 := s.setReg (xltcReg cl 0x50) value
    let p := s.part part
    let n := (value.extractLsb' 48 16).toNat
    let g := (value.extractLsb' 19 29).toNat
    let new := if n = 0 then (0, 2 ^ 29) else (g, g + n)
    (exec (.pageWalkComplete part ia) s = .next (lookupLeaf s part (partDie part) (ia % 2 ^ 48)).1) ∧
    (s.supWaits cl = false →
      (s.ctx? (sel % 2 ^ 32) = none → exec (.rangeEntryCommit cl value) s = .next (s.whenUp (s1.setReg (xltcReg cl 0x58) 2))) ∧
      (s.ctx? (sel % 2 ^ 32) = some c → c.status = .ended ∨ c.part ≠ s.partOfCluster cl →
        exec (.rangeEntryCommit cl value) s = .next (s.whenUp (s1.setReg (xltcReg cl 0x58) 2))) ∧
      (s.ctx? (sel % 2 ^ 32) = some c → c.status ≠ .ended → c.part = s.partOfCluster cl → rangeOk c.part e = true →
        ctxRuns c = false → exec (.rangeEntryCommit cl value) s =
          .next (s.whenUp ((s1.setCtx (setRange c (sel / 2 ^ 32 % 16) e)).setReg (xltcReg cl 0x58) 0))) ∧
      (s.ctx? (sel % 2 ^ 32) = some c → c.status ≠ .ended → c.part = s.partOfCluster cl →
        (rangeOk c.part e = false ∨ ctxRuns c = true) →
        exec (.rangeEntryCommit cl value) s = .next (s.whenUp (s1.setReg (xltcReg cl 0x58) 1)))) ∧
    (p.invGran = none → exec (.xltInv part value) s = .next (s.whenUp (s.setPart { p with invGran := some new }))) ∧
    (p.invGran = some r → exec (.xltInv part value) s =
      .next (s.whenUp (s.setPart { p with invGran := some (min r.1 new.1, max r.2 new.2) }))) ∧
    (p.invGran = some r → exec (.xltInvDone part) s = .next
      (({ s with
          leaves := s.leaves.filter fun l => !(l.part == part && leafOverlaps l r.1 r.2)
          runs := s.runs.filter fun q =>
            !(q.part == part && decide (q.base / 2 ^ 19 < r.2) && decide (r.1 < q.base / 2 ^ 19 + q.len)) } : State).setPart
        { p with invGran := none }))) ∧
  (∀ (s : State) (part : Nat) (value : Word) (w : Swap) (pf pn ef en : Word) (af an : Nat) (f : ClearFrame),
    let gran (off : Nat) : Nat := (s.reg (xltpReg part off)).toNat / 2 ^ 19 % 2 ^ 29 * 2 ^ 19
    let w1 := { w with done := w.done + 1 }
    let s0 := touchWalk (touchWalk s part (gran 0x20)) part (gran 0x28)
    let start (t : State) : Prop := exec (.swapStart part) s = .next (s.whenUp t)
    let s1 := swapLines (mscTouch s part sysReq .write (pteAddr pn + 64 * w.done)) (hostBase + pteAddr pf + 64 * w.done)
      (pteAddr pn + 64 * w.done)
    let s2 : State := { s1 with swaps := s1.swaps.map fun x => if x.part = part then w1 else x }
    let first := (value.extractLsb' 19 27).toNat * 2 ^ 19
    let frames := ((List.range (value.extractLsb' 48 16).toNat).map fun i => first + i * 2 ^ 19).filter (inPart part)
    let handed := dropFrames s frames
    let key := f.frame + 64 * f.next
    let s3 := if f.marked.contains f.next then s else zeroLine (mscTouch s part sysReq .write key) key
    (∀ lf ln, s.swapOf part = none → walk s part (gran 0x20) = .leaf lf ef af → walk s part (gran 0x28) = .leaf ln en an →
      lf = 3 → ln = 3 → pteH ef = true → pteH en = false →
      start (let t := setSwp (setSwp s0 af true) an true
        swapSts { t with swaps := t.swaps ++
          [{ part := part, farIa := gran 0x20, nearIa := gran 0x28, farPte := af, nearPte := an, done := 0 }] } part 1 0 0)) ∧
    (s.swapOf part = some w → start (swapSts s part 1 3 w.done)) ∧
    (∀ lf ln, s.swapOf part = none → walk s part (gran 0x20) = .leaf lf ef af → walk s part (gran 0x28) = .leaf ln en an →
      (lf ≠ 3 ∨ ln ≠ 3 → start (swapSts s0 part 0 1 0)) ∧
      (lf = 3 → ln = 3 → pteH ef = false ∨ pteH en = true → start (swapSts s0 part 0 2 0))) ∧
    (∀ code lv, s.swapOf part = none → walk s part (gran 0x20) = .fault code lv → start (swapSts s0 part 0 1 0)) ∧
    (s.swapOf part = some w → pteAt s w.farPte = some pf → pteAt s w.nearPte = some pn → hostDown s (pteAddr pf) = false → w.done + 1 ≠ 8192 →
      exec (.swapLine part) s = .next (swapSts s2 part 1 0 (w.done + 1))) ∧
    (s.swapOf part = some w → pteAt s w.farPte = some pf → pteAt s w.nearPte = some pn → hostDown s (pteAddr pf) = false → w.done + 1 = 8192 →
      exec (.swapLine part) s = .next (swapEnd s2 w1)) ∧
    (exec (.xltClrAdd part value) s = .next (s.whenUp { handed with
      msc := handed.msc.filter fun x => !frames.contains (x.line / 2 ^ 19 * 2 ^ 19)
      clear := (handed.clear.filter fun f => !frames.contains f.frame) ++
        frames.map fun f => { part := part, frame := f, next := 0, marked := [] } })) ∧
    ((∀ l ∈ handed.lines, homedIn s frames l.part l.cluster l.line l.key = false) ∧
      (∀ l ∈ handed.posted, homedIn s frames l.part (clusterOf l.core) l.line l.key = false)) ∧
    ((s.clear.find? fun f => f.part == part) = some f → exec (.clearSweepLine part) s = .next { s3 with
      clear := if f.next + 1 ≥ 8192 then (s3.clear.filter fun g => !(g.part == part && g.frame == f.frame))
        else s3.clear.map fun g => if g.part = part ∧ g.frame = f.frame then { g with next := g.next + 1 } else g }))

/-- R323 to R325: a read that misses fetches its line, a line gets its first dirty bytes with the command that drains it
from a posted-write buffer, dirty bytes are written back as the line leaves or as a release does, a clean copy is
dropped, the atomic or engine command that is the next to write a line at its home performs, and the copies of the
entry that R325 chooses as its full set's victim are recalled where a command needs an entry there (what a directory
entry is keyed by and what counts as a use: DEDUCED, log entry 63). R299 to R301: a turn of a channel's wheel serves
the request that R300 chooses; the turn whose activation reaches the threshold throttles; 320 ns later the bank is
free; a refresh window of 32 ms ends (DEDUCED, log entry 30). R319: a supervisor's FENCE writes its cluster's dirty
lines home; its store reaches the cluster's cache, vault memory or an instruction store; the numbers of vault and
instruction-store addresses are the model's choice (DESIGN CHOICE, log entry 29). -/
def Obligations.CachesAndChannels : Prop :=
  (∀ (s : State) (cl line : Nat) (pl : Place) (t : State) (x : CacheLine),
    let wanted (d : DirEntry) : Prop := isVictim s d = true ∧ ∃ y ∈ s.cmds, ∃ u, cmdNext s y = some u ∧ displaces s u d = true
    (((s.copyIn cl line).map (·.valid)) ≠ some (BitVec.allOnes 64) → linePlace s cl line = (t, some pl) →
      exec (.dirRd cl line) s = .next (fetchLine t cl (s.partOfCluster cl) pl sysReq)) ∧
    (∀ l1 l2 y u, ((s.copyIn cl line).map (·.dirty)).getD 0 = 0 → s.cmds = l1 ++ y :: l2 → cmdNext s y = some u →
      postedIn s cl line = true → postedIn u cl line = false →
      (∀ z ∈ l1, ∀ v, cmdNext s z = some v → postedIn v cl line = true) → exec (.dirWn cl line) s = .next u) ∧
    (s.copyIn cl line = some x → x.dirty = 0 → exec (.dirEvc cl line) s = .next (evictLine s x)) ∧
    (s.copyIn cl line = some x → x.dirty ≠ 0 → exec (.dirWb cl line true) s = .next (writeBack s x true)) ∧
    (∀ l1 l2 y u, s.copyIn cl line = some x → x.dirty ≠ 0 → s.cmds = l1 ++ y :: l2 → cmdNext s y = some u → y.releases = true →
      clusterOf y.core = cl → dirtyIn u cl line = false →
      (∀ z ∈ l1, ∀ v, cmdNext s z = some v → z.releases = true → clusterOf z.core = cl → dirtyIn v cl line = true) →
      exec (.dirWb cl line false) s = .next u) ∧
    (∀ l1 l2 y u, s.cmds = l1 ++ y :: l2 → homeWriter s y = some u → wroteHome s u y line = true →
      (∀ z ∈ l1, ∀ v, homeWriter s z = some v → wroteHome s v z line = false) → exec (.dirHw line) s = .next u) ∧
    (∀ l1 l2 d, entriesOf s line = l1 ++ d :: l2 → wanted d → (∀ e ∈ l1, ¬wanted e) →
      exec (.dirVic line) s = .next (backInvalidate s d))) ∧
  (∀ (s : State) (stack ch bank row : Nat) (r : ChanReq) (b : Nat × Nat),
    let c := s.chan stack ch
    (stack < 8 → ch < 32 → exec (.wheelTurn stack ch) s = .next (turnWheel s c)) ∧
    (turnServes s c = none → turnWheel s c = s.setChan { c with
      pos := (c.pos + 1) % 32, charged := (c.charged.map fun x => (x.1, x.2 - 1)).filter fun x => x.2 != 0 }) ∧
    (turnServes s c = some r → r.bank = bank → r.row = row → activates c r = true →
      rowCount c bank row + 1 = (s.reg ⟨.mrv, stack, 0x1010⟩).toNat →
      exec (.rowHammerThrottle stack ch bank row) s = .next (turnWheel s c)) ∧
    ((c.busy.find? fun b => b.1 == bank) = some b → b.2 + 320000 ≤ s.nowPs →
      exec (.rowHammerRefreshEnd stack ch bank) s = .next (s.setChan { c with busy := c.busy.filter fun x => x.1 != bank })) ∧
    (let n := (tabGet? c.windows bank).getD 0
     stack < 8 → ch < 32 → bank < 32 → (n + 1) * 32000000000 ≤ s.nowPs → exec (.refreshWindowEnd stack ch bank) s = .next
      (s.setChan { c with rows := c.rows.filter fun x => x.1 != bank, windows := tabSet c.windows bank (n + 1) }))) ∧
  (∀ (s : State) (cl ia : Nat) (data : List Byte) (t : State),
    let part := s.partOfCluster cl
    (exec (.supervisorFence cl true) s = .next s) ∧
    (exec (.supervisorFence cl false) s = .next
      ((s.lines.filter fun x => x.cluster == cl && !x.nc && x.dirty != 0).foldl (fun t x => writeBack t x false) s)) ∧
    (ia + data.length ≤ 2 ^ 48 → supStore s cl ia data (data.length + 1) = some t →
      exec (.supervisorStore cl ia data) s = .next t) ∧
    (∀ s1 lv e0 at' e, ia + data.length ≤ 2 ^ 48 → 0 < data.length → ia % 64 + data.length ≤ 64 →
      lookupLeaf s part (cl / 16) ia = (s1, .leaf lv e0 at') → swapEntry s1 part ia e0 = .ok e →
      (pteH e = true → hostDown s1 (pteAddr e) = false) →
      exec (.supervisorStore cl ia data) s =
        .next (supLine s1 cl { key := homeKey lv ia e, vault := false, ia := ia, nc := pteNc e } data)) ∧
    (2 ^ 60 ≤ ia → vaultOk part (ia - 2 ^ 60) = true → vaultOk part (ia - 2 ^ 60 + (data.length - 1)) = true →
      exec (.supervisorStore cl ia data) s = .next (writeBytes s 0 (vaultBase + (ia - 2 ^ 60)) data)) ∧
    (2 ^ 61 ≤ ia → vaultOk part (ia - 2 ^ 60) = false → ia - 2 ^ 61 + data.length ≤ 2 ^ 21 →
      exec (.supervisorStore cl ia data) s = .next
        (s.storeBytes (codeBase + 8 * cl * 2 ^ 18 + (ia - 2 ^ 61)) data)))

/-- R254, R303: a partition that is present and not resetting resets, and is back when its reset is done, unless its
supervisor's image is bad (R456); a corrected error is recorded, one of a core's files with a free store number; an
uncorrectable one poisons its word, drops a clean cached line, or resets the partition (DEDUCED, log entries 39 to
41). R422 to R424: the four commands of PRT_QCMD, each ignored while a command runs, refused with code 1 where
PRT_CFG does not fit and with code 2 where a session is not FREE, and else at step 1 with consumption stopped; then
quiet, flush and rewrite, or the refusal at the time-out. The step that an immediate refusal reports is the model's
reading (DEDUCED, log entry 32). -/
def Obligations.ResetsErrorsAndPartitions : Prop :=
  (∀ (s : State) (part cls store unit addr : Nat) (x : CacheLine),
    let p := errPart s store unit addr
    let w := eccBase (errKey store addr)
    let s1 : State := { s with poison := if s.poison.contains w then s.poison else w :: s.poison }
    (partPresent s.prtCfg part = true → part ≤ 6 → 0 < cls → cls ≤ 5 → (s.part part).resetting = false →
      exec (.partitionReset part cls) s = .next (resetPartition s part cls)) ∧
    ((s.part part).resetting = true → (s.part part).imageBad = false →
      exec (.partitionResetDone part) s = .next (s.setPart { s.part part with resetting := false })) ∧
    (store ≤ 4 → exec (.eccCorrected store unit addr) s =
      .next (errRecord s p 1 store (errUnit store unit addr) (errAddr s store unit addr) 0 0)) ∧
    (4 < store → exec (.eccCorrected store unit addr) s =
      .next (errRecord s p 1 ((Config.otherStore store).toNat % 8) (unit % 512) 0 0 0)) ∧
    (store ≤ 4 → store ≠ 2 → exec (.eccUncorrectable store unit addr) s =
      .next (errRecord s1 p 2 store (errUnit store unit addr) (errAddr s store unit addr) 0 0)) ∧
    (s.copyIn unit addr = some x → x.dirty = 0 → exec (.eccUncorrectable 2 unit addr) s = .next (evictLine s x)) ∧
    (s.copyIn unit addr = some x → x.dirty ≠ 0 →
      exec (.eccUncorrectable 2 unit addr) s = .next (resetPartition s (errPart s 2 unit addr) 2)) ∧
    (4 < store → exec (.eccUncorrectable store unit addr) s = .next (resetPartition s p 1))) ∧
  (∀ (s : State) (pair : Nat) (c : PartCmd) (r cfg : Nat),
    let refuses (op pr : Nat) (code : Nat) : Prop := s.partCmd = none ∧
      (if (newCfg s.prtCfg op pr).isNone then code = 1
       else s.sessions.any (fun x => (concerned op pr).contains x.part && x.state != 0) = true ∧ code = 2)
    let begins (op pr : Nat) : Prop := s.partCmd = none ∧ (newCfg s.prtCfg op pr).isSome = true ∧
      s.sessions.any (fun x => (concerned op pr).contains x.part && x.state != 0) = false
    let begun (op pr : Nat) : State := setDraining
      (qsts { s with partCmd := some { op := op, pair := pr, step := 1, began := s.nowPs } } 1 0 0 1) (concerned op pr) true
    let ps := concerned c.op c.pair
    let s1 := ps.foldl flushPart s
    let s2 := (s1.setReg (prtReg 0x1000) (BitVec.ofNat 64 cfg)).setReg (prtReg 0x1040) (BitVec.ofNat 64 cfg)
    let s3 := (List.range 4).foldl (fun t d => t.setReg (prtReg (0x1020 + 8 * d)) (ilvWord (partOfDie cfg d))) s2
    (begins 1 (pair % 2) → exec (.mergePair pair) s = .next (s.whenUp (begun 1 (pair % 2)))) ∧
    (begins 2 (pair % 2) → exec (.splitPair pair) s = .next (s.whenUp (begun 2 (pair % 2)))) ∧
    (begins 3 0 → exec .mergeW s = .next (s.whenUp (begun 3 0))) ∧
    (begins 4 0 → exec .splitW s = .next (s.whenUp (begun 4 0))) ∧
    (∀ k, refuses 1 (pair % 2) k → exec (.mergePair pair) s = .next (s.whenUp (qsts s 0 1 k 0))) ∧
    (∀ k, refuses 2 (pair % 2) k → exec (.splitPair pair) s = .next (s.whenUp (qsts s 0 1 k 0))) ∧
    (∀ k, refuses 3 0 k → exec .mergeW s = .next (s.whenUp (qsts s 0 1 k 0))) ∧
    (∀ k, refuses 4 0 k → exec .splitW s = .next (s.whenUp (qsts s 0 1 k 0))) ∧
    (s.partCmd = some c → exec (.mergePair pair) s = .next s ∧ exec (.splitPair pair) s = .next s ∧
      exec .mergeW s = .next s ∧ exec .splitW s = .next s) ∧
    (s.partCmd = some c → c.step = 1 → unquiet s ps = none →
      exec .partitionQuiet s = .next (qsts { s with partCmd := some { c with step := 2 } } 1 0 0 2)) ∧
    (s.partCmd = some c → c.step = 1 → unquiet s ps = some r → c.began + quiesceLimit s ≤ s.nowPs →
      exec .quiesceTimeout s = .next (setDraining (qsts { s with partCmd := none } 0 1 r 1) ps false)) ∧
    (s.partCmd = some c → c.step = 2 → newCfg s.prtCfg c.op c.pair = some cfg →
      exec .partitionFlushDone s = .next (qsts
        { extendMeas3 (resetParts s3 ps (resulting c.op c.pair)) (s3.meas[3]?.getD 0) with partCmd := none } 0 0 0 4)))

/-- R257, R302, R340, R399, R422, R434, R457: a register write of any party completes, but that a supervisor that has
resolved a fault as exhausted waits until the sequencers concerned have ended (R350). A port that does not hold the
lease writes nothing (R426). A cluster's supervisor block and translation block take the writes of that cluster's
supervisor alone (DEDUCED, log entry 36), a memory map the Gaffer's alone, the reduction block those of its owner;
outside a running part nothing but the lease and staging is written. -/
def Obligations.RegisterWrites : Prop :=
  ∀ (s : State) (who : Party) (cl off : Nat) (v : Word),
    let free : Prop := ∀ c, who = .supervisor c → s.supWaits c = false
    (free →
      (∀ a, exec (.registerWrite who a v) s = .next (writeReg s who a v)) ∧
      (∀ a, a.block ≠ .hif → s.boot ≠ .running → exec (.registerWrite who a v) s = .next s) ∧
      (∀ a port fn, who = .host port fn → s.isHolder port = false → fn < 0x100 → port < 2 → a.block ≠ .hif →
        exec (.registerWrite who a v) s = .next s) ∧
      (s.boot = .running → who = .supervisor cl →
        exec (.registerWrite who ⟨.sup, cl, off⟩ v) s = .next (writeSup s cl off v)) ∧
      (s.boot = .running → who ≠ .supervisor cl → exec (.registerWrite who ⟨.sup, cl, off⟩ v) s = .next s) ∧
      (s.boot = .running → who = .supervisor cl →
        exec (.registerWrite who ⟨.xltc, cl, off⟩ v) s = .next (writeXltc s cl off v)) ∧
      (s.boot = .running → who ≠ .supervisor cl → exec (.registerWrite who ⟨.xltc, cl, off⟩ v) s = .next s) ∧
      (s.boot = .running → cl < 8 → off < 0x1000 → off % 4 = 0 → exec (.registerWrite .gaffer ⟨.mrv, cl, off⟩ v) s =
        .next (s.setReg ⟨.mrv, cl, off⟩ (keepBits v 0 13))) ∧
      (s.boot = .running → who ≠ .gaffer → exec (.registerWrite who ⟨.mrv, cl, off⟩ v) s = .next s) ∧
      (cl < 64 → counterOff off = false → partyOwns s who (72 + cl) = false →
        exec (.registerWrite who ⟨.red, cl, off⟩ v) s = .next s)) ∧
    (∀ c a, who = .supervisor c → s.supWaits c = true →
      exec (.registerWrite who a v) s = .refused (.notEnabled "REGISTER_WRITE"))

/-- R47: the one list of cells reads back what is written, little-endian, and every other byte keeps its value; a write
keeps its canonical form, which is the model's own. -/
def Obligations.MemoryCells : Prop :=
  ∀ (s : State) (k n v : Nat) (bs : List Byte), memoryOk s →
    (s.store k n v).load k n = v % 2 ^ (8 * n) ∧ memoryOk (s.store k n v) ∧
    memGetList (s.storeBytes k bs).mem k bs.length = bs ∧ memoryOk (s.storeBytes k bs) ∧
    (∀ a, (a < k ∨ k + bs.length ≤ a) → memGet (s.storeBytes k bs).mem a = memGet s.mem a)

/-- Two memories in canonical form that read alike at every address are equal lists. The form is the model's own (log
entry 3). -/
def Obligations.MemoryIsCanonical : Prop :=
  ∀ m n : List Host.Cell, Memory.wf m = true → Memory.wf n = true → (∀ a, memGet m a = memGet n a) → m = n

/-- R422, R456: at reset nothing runs, every register reads its reset value, the partitions are the four quarters, and
memory lists nothing; no core has a sequencer to issue, and the time of every domain that cannot go on is kept. That
an unlisted byte reads zero is the model's choice (DESIGN CHOICE, log entry 3), and so are the values of registers
and islands for which the spec gives none (DESIGN CHOICE, log entries 7 and 42). -/
def Obligations.ResetState : Prop :=
  State.reset.boot = .off ∧ State.reset.mem = [] ∧ memoryOk State.reset ∧ cfgOk State.reset ∧ State.reset.ctxs = [] ∧
  State.reset.cmds = [] ∧ State.reset.grids = [] ∧ State.reset.sessions = [] ∧ State.reset.queues = [] ∧
  State.reset.claims = [] ∧ State.reset.prtCfg = 0 ∧ (∀ a, State.reset.reg a = regReset a) ∧
  (∀ core, pick State.reset core = none) ∧
  (∀ d ∈ State.reset.domains, d.deadFrom.isSome = domainDead State.reset d) ∧ (∀ i, State.reset.island i = {})

/-- A step runs what comes next: the agenda's head, or the issue of the current core while the agenda is empty; then
time goes on. A step that is not enabled answers so. The agenda, which says in plain data what happens next, is the
model's own (DESIGN CHOICE, log entry 8), and how much time a step takes is free (DESIGN CHOICE, log entry 2). -/
def Obligations.StepRunsWhatComesNext : Prop :=
  ∀ (s t : State) (i : Instr) (rest : List Instr) (r : Refusal),
    (s.agenda = i :: rest → exec i { s with agenda := rest } = .next t → step s = .next (advance t)) ∧
    (s.agenda = i :: rest → exec i { s with agenda := rest } = .refused r → step s = .refused r) ∧
    (s.agenda = [] → step s = .next (advance (issueOn s s.cur).state)) ∧
    (advance t).nowPs = t.nowPs + 1000 * Config.elapsed t.stepNo ∧ (advance t).stepNo = t.stepNo + 1 ∧
    (advance t).mem = t.mem ∧ (advance t).ctxs = t.ctxs ∧ (advance t).cmds = t.cmds ∧ (advance t).regs = t.regs ∧
    (advance t).grids = t.grids

/-- R366, an invariant that every step establishes: the time of a domain that cannot go on is kept exactly while its
frontier task neither runs nor has finished and another of its tasks is stalled. -/
def Obligations.StalledDomainsAreTimed : Prop :=
  ∀ s t : State, step s = .next t → ∀ d ∈ t.domains, d.deadFrom.isSome = domainDead t d

/-- R64 to R68, R91, R276: a well-formed slot operation's bundle decodes to it alone, whatever bytes follow; a
micro-op's word decodes to its step; every word that decodes is the one that its operation encodes to; and a
bundle's bytes decode to that bundle. -/
def Obligations.DecodeEncode : Prop :=
  (∀ (i : Instr) (cls : Cls) (code : Nat) (p : Pos) (f : Fields) (rest : List Byte), i.wf = true →
    i.parts = some (cls, code, p, f) →
    ∃ h w, encode i = some (h, w) ∧ decodeSlot p w = some i ∧
      decodeBundle (toBytesLE 4 h.toNat ++ toBytesLE 8 w.toNat ++ rest) = .ok (⟨h, none, [(p, w)]⟩, rest)) ∧
  (∀ (i : Instr) (core op : Nat) (u : MicroOp), i.wf = true → i.uopParts = some (core, op, u) →
    ∃ w, encodeUop i = some w ∧ uopOf core w = some i) ∧
  (∀ (p : Pos) (w : Word) (i : Instr), decodeSlot p w = some i → encodeSlot i = some w) ∧
  (∀ (b : Bundle) (rest : List Byte), b.words.map (·.1) = Pos.all.filter (hdrPres b.header) →
    b.rpt.isSome = hdrRpt b.header → decodeBundle (encodeBundle b ++ rest) = .ok (b, rest))

/-- R67, R70, R91: words that the spec's worked examples write out decode to the operations they stand for, field by
field, and a word of zeros decodes to none. -/
def Obligations.WorkedWords : Prop :=
  (∃ f, decodeSlot .a0 0x0400143943800980 = some (.add .a0 f) ∧ f.dst = ⟨40, 7⟩ ∧ f.src1 = ⟨40, 7⟩ ∧ f.k1 = .slices ∧
    f.k2 = .imm ∧ f.src2.imm = 1 ∧ f.mod = 0) ∧
  (∃ f, decodeSlot .a0 0x0400201A40A81805 = some (.add .a0 f) ∧ f.dst = ⟨64, 3⟩ ∧ f.src1 = ⟨72, 1⟩ ∧ f.src2 = ⟨80, 3⟩ ∧
    f.k1 = .slices ∧ f.k2 = .slices ∧ f.mod = 5) ∧
  (∃ f, decodeSlot .v0 0x05C0001801901800 = some (.vadd .v0 f) ∧ f.fmt = 7 ∧ f.dst = ⟨0, 3⟩ ∧ f.src1 = ⟨0, 3⟩ ∧
    f.src2 = ⟨32, 3⟩) ∧
  (∃ f, decodeSlot .c 0x280001002F800200 = some (.forkr .c f) ∧ f.dst.start = 2 ∧ f.src1.start = 5 ∧ f.k1 = .common) ∧
  (∃ f, decodeSlot .c 0x3000027800000000 = some (.take .c f) ∧ f.dst.reg = 4) ∧
  (∃ f, decodeSlot .m0 0x0DC000181B803B0E = some (.vld .m0 f) ∧ f.fmt = 7 ∧ f.src1.start = 3 ∧ f.k1 = .common ∧
    f.k2 = .special ∧ f.mod = 0x0E) ∧
  (∃ f, decodeSlot .k 0x0400020017800380 = some (.kld .k f) ∧ f.dst.start = 4 ∧ f.src1.reg = 2 ∧ f.k1 = .common ∧
    f.k2 = .imm) ∧
  (∃ f, decodeSlot .c 0x1800000037800011 = some (.loop .c f) ∧ f.wide = 0x11 ∧ f.src1.reg = 6) ∧
  (∀ p, decodeSlot p 0 = none)
end

