-- ==== Sys2Proof/Laws/Meanings.lean ====
section
/-!
SUPPORT. The meaning of each slot operation by name.
-/

namespace Sys2Proof.Machine

open Sys2Proof

@[simp] theorem semOf_br (p : Pos) (f : Fields) (s : State) : semOf (.br p f) s = semBr p f s := rfl
@[simp] theorem semOf_jmp (p : Pos) (f : Fields) (s : State) : semOf (.jmp p f) s = semJmp p f s := rfl
@[simp] theorem semOf_call (p : Pos) (f : Fields) (s : State) : semOf (.call p f) s = semCall p f s := rfl
@[simp] theorem semOf_callc (p : Pos) (f : Fields) (s : State) : semOf (.callc p f) s = semCallc p f s := rfl
@[simp] theorem semOf_ret (p : Pos) (f : Fields) (s : State) : semOf (.ret p f) s = semRet p f s := rfl
@[simp] theorem semOf_loop (p : Pos) (f : Fields) (s : State) : semOf (.loop p f) s = semLoop p f s := rfl
@[simp] theorem semOf_loopd (p : Pos) (f : Fields) (s : State) : semOf (.loopd p f) s = semLoopd p f s := rfl
@[simp] theorem semOf_loopx (p : Pos) (f : Fields) (s : State) : semOf (.loopx p f) s = semLoopx p f s := rfl
@[simp] theorem semOf_fork (p : Pos) (f : Fields) (s : State) : semOf (.fork p f) s = semFork p f s := rfl
@[simp] theorem semOf_forkr (p : Pos) (f : Fields) (s : State) : semOf (.forkr p f) s = semForkr p f s := rfl
@[simp] theorem semOf_join (p : Pos) (f : Fields) (s : State) : semOf (.join p f) s = semJoin p f s := rfl
@[simp] theorem semOf_take (p : Pos) (f : Fields) (s : State) : semOf (.take p f) s = semTake p f s := rfl
@[simp] theorem semOf_retire (p : Pos) (f : Fields) (s : State) : semOf (.retire p f) s = semRetire p f s := rfl
@[simp] theorem semOf_retireT (p : Pos) (f : Fields) (s : State) : semOf (.retireT p f) s = semRetireT p f s := rfl
@[simp] theorem semOf_yield (p : Pos) (f : Fields) (s : State) : semOf (.yield p f) s = semYield p f s := rfl
@[simp] theorem semOf_fget (p : Pos) (f : Fields) (s : State) : semOf (.fget p f) s = semFget p f s := rfl
@[simp] theorem semOf_fput (p : Pos) (f : Fields) (s : State) : semOf (.fput p f) s = semFput p f s := rfl
@[simp] theorem semOf_phase (p : Pos) (f : Fields) (s : State) : semOf (.phase p f) s = semPhase p f s := rfl
@[simp] theorem semOf_binit (p : Pos) (f : Fields) (s : State) : semOf (.binit p f) s = semBinit p f s := rfl
@[simp] theorem semOf_barrive (p : Pos) (f : Fields) (s : State) : semOf (.barrive p f) s = semBarrive p f s := rfl
@[simp] theorem semOf_bwait (p : Pos) (f : Fields) (s : State) : semOf (.bwait p f) s = semBwait p f s := rfl
@[simp] theorem semOf_frd (p : Pos) (f : Fields) (s : State) : semOf (.frd p f) s = semFrd p f s := rfl
@[simp] theorem semOf_lvlrd (p : Pos) (f : Fields) (s : State) : semOf (.lvlrd p f) s = semLvlrd p f s := rfl
@[simp] theorem semOf_emrd (p : Pos) (f : Fields) (s : State) : semOf (.emrd p f) s = semEmrd p f s := rfl
@[simp] theorem semOf_srd (p : Pos) (f : Fields) (s : State) : semOf (.srd p f) s = semSrd p f s := rfl
@[simp] theorem semOf_swr (p : Pos) (f : Fields) (s : State) : semOf (.swr p f) s = semSwr p f s := rfl
@[simp] theorem semOf_ecall (p : Pos) (f : Fields) (s : State) : semOf (.ecall p f) s = semEcall p f s := rfl
@[simp] theorem semOf_trap (p : Pos) (f : Fields) (s : State) : semOf (.trap p f) s = semTrap p f s := rfl
@[simp] theorem semOf_uret (p : Pos) (f : Fields) (s : State) : semOf (.uret p f) s = semUret p f s := rfl
@[simp] theorem semOf_dbrk (p : Pos) (f : Fields) (s : State) : semOf (.dbrk p f) s = semDbrk p f s := rfl
@[simp] theorem semOf_tkwait (p : Pos) (f : Fields) (s : State) : semOf (.tkwait p f) s = semTkwait p f s := rfl
@[simp] theorem semOf_cli (p : Pos) (f : Fields) (s : State) : semOf (.cli p f) s = semCli p f s := rfl
@[simp] theorem semOf_clui (p : Pos) (f : Fields) (s : State) : semOf (.clui p f) s = semClui p f s := rfl
@[simp] theorem semOf_cadd (p : Pos) (f : Fields) (s : State) : semOf (.cadd p f) s = semCadd p f s := rfl
@[simp] theorem semOf_csub (p : Pos) (f : Fields) (s : State) : semOf (.csub p f) s = semCsub p f s := rfl
@[simp] theorem semOf_cmul (p : Pos) (f : Fields) (s : State) : semOf (.cmul p f) s = semCmul p f s := rfl
@[simp] theorem semOf_cand (p : Pos) (f : Fields) (s : State) : semOf (.cand p f) s = semCand p f s := rfl
@[simp] theorem semOf_cor (p : Pos) (f : Fields) (s : State) : semOf (.cor p f) s = semCor p f s := rfl
@[simp] theorem semOf_cxor (p : Pos) (f : Fields) (s : State) : semOf (.cxor p f) s = semCxor p f s := rfl
@[simp] theorem semOf_csll (p : Pos) (f : Fields) (s : State) : semOf (.csll p f) s = semCsll p f s := rfl
@[simp] theorem semOf_csrl (p : Pos) (f : Fields) (s : State) : semOf (.csrl p f) s = semCsrl p f s := rfl
@[simp] theorem semOf_csra (p : Pos) (f : Fields) (s : State) : semOf (.csra p f) s = semCsra p f s := rfl
@[simp] theorem semOf_ccmp (p : Pos) (f : Fields) (s : State) : semOf (.ccmp p f) s = semCcmp p f s := rfl
@[simp] theorem semOf_cmov (p : Pos) (f : Fields) (s : State) : semOf (.cmov p f) s = semCmov p f s := rfl
@[simp] theorem semOf_cpset (p : Pos) (f : Fields) (s : State) : semOf (.cpset p f) s = semCpset p f s := rfl
@[simp] theorem semOf_cpget (p : Pos) (f : Fields) (s : State) : semOf (.cpget p f) s = semCpget p f s := rfl
@[simp] theorem semOf_add (p : Pos) (f : Fields) (s : State) : semOf (.add p f) s = semAdd p f s := rfl
@[simp] theorem semOf_sub (p : Pos) (f : Fields) (s : State) : semOf (.sub p f) s = semSub p f s := rfl
@[simp] theorem semOf_mul (p : Pos) (f : Fields) (s : State) : semOf (.mul p f) s = semMul p f s := rfl
@[simp] theorem semOf_mulh (p : Pos) (f : Fields) (s : State) : semOf (.mulh p f) s = semMulh p f s := rfl
@[simp] theorem semOf_div (p : Pos) (f : Fields) (s : State) : semOf (.div p f) s = semDiv p f s := rfl
@[simp] theorem semOf_rem (p : Pos) (f : Fields) (s : State) : semOf (.rem p f) s = semRem p f s := rfl
@[simp] theorem semOf_and (p : Pos) (f : Fields) (s : State) : semOf (.and p f) s = semAnd p f s := rfl
@[simp] theorem semOf_or (p : Pos) (f : Fields) (s : State) : semOf (.or p f) s = semOr p f s := rfl
@[simp] theorem semOf_xor (p : Pos) (f : Fields) (s : State) : semOf (.xor p f) s = semXor p f s := rfl
@[simp] theorem semOf_sll (p : Pos) (f : Fields) (s : State) : semOf (.sll p f) s = semSll p f s := rfl
@[simp] theorem semOf_srl (p : Pos) (f : Fields) (s : State) : semOf (.srl p f) s = semSrl p f s := rfl
@[simp] theorem semOf_sra (p : Pos) (f : Fields) (s : State) : semOf (.sra p f) s = semSra p f s := rfl
@[simp] theorem semOf_min (p : Pos) (f : Fields) (s : State) : semOf (.min p f) s = semMin p f s := rfl
@[simp] theorem semOf_max (p : Pos) (f : Fields) (s : State) : semOf (.max p f) s = semMax p f s := rfl
@[simp] theorem semOf_abs (p : Pos) (f : Fields) (s : State) : semOf (.abs p f) s = semAbs p f s := rfl
@[simp] theorem semOf_clz (p : Pos) (f : Fields) (s : State) : semOf (.clz p f) s = semClz p f s := rfl
@[simp] theorem semOf_popc (p : Pos) (f : Fields) (s : State) : semOf (.popc p f) s = semPopc p f s := rfl
@[simp] theorem semOf_ext (p : Pos) (f : Fields) (s : State) : semOf (.ext p f) s = semExt p f s := rfl
@[simp] theorem semOf_xtr (p : Pos) (f : Fields) (s : State) : semOf (.xtr p f) s = semXtr p f s := rfl
@[simp] theorem semOf_ins (p : Pos) (f : Fields) (s : State) : semOf (.ins p f) s = semIns p f s := rfl
@[simp] theorem semOf_li (p : Pos) (f : Fields) (s : State) : semOf (.li p f) s = semLi p f s := rfl
@[simp] theorem semOf_lea (p : Pos) (f : Fields) (s : State) : semOf (.lea p f) s = semLea p f s := rfl
@[simp] theorem semOf_cmp (p : Pos) (f : Fields) (s : State) : semOf (.cmp p f) s = semCmp p f s := rfl
@[simp] theorem semOf_sel (p : Pos) (f : Fields) (s : State) : semOf (.sel p f) s = semSel p f s := rfl
@[simp] theorem semOf_pand (p : Pos) (f : Fields) (s : State) : semOf (.pand p f) s = semPand p f s := rfl
@[simp] theorem semOf_por (p : Pos) (f : Fields) (s : State) : semOf (.por p f) s = semPor p f s := rfl
@[simp] theorem semOf_pxor (p : Pos) (f : Fields) (s : State) : semOf (.pxor p f) s = semPxor p f s := rfl
@[simp] theorem semOf_pset (p : Pos) (f : Fields) (s : State) : semOf (.pset p f) s = semPset p f s := rfl
@[simp] theorem semOf_pget (p : Pos) (f : Fields) (s : State) : semOf (.pget p f) s = semPget p f s := rfl
@[simp] theorem semOf_xfer (p : Pos) (f : Fields) (s : State) : semOf (.xfer p f) s = semXfer p f s := rfl
@[simp] theorem semOf_fadd (p : Pos) (f : Fields) (s : State) : semOf (.fadd p f) s = semFadd p f s := rfl
@[simp] theorem semOf_fsub (p : Pos) (f : Fields) (s : State) : semOf (.fsub p f) s = semFsub p f s := rfl
@[simp] theorem semOf_fmul (p : Pos) (f : Fields) (s : State) : semOf (.fmul p f) s = semFmul p f s := rfl
@[simp] theorem semOf_fma (p : Pos) (f : Fields) (s : State) : semOf (.fma p f) s = semFma p f s := rfl
@[simp] theorem semOf_fdiv (p : Pos) (f : Fields) (s : State) : semOf (.fdiv p f) s = semFdiv p f s := rfl
@[simp] theorem semOf_fmin (p : Pos) (f : Fields) (s : State) : semOf (.fmin p f) s = semFmin p f s := rfl
@[simp] theorem semOf_fmax (p : Pos) (f : Fields) (s : State) : semOf (.fmax p f) s = semFmax p f s := rfl
@[simp] theorem semOf_fcmp (p : Pos) (f : Fields) (s : State) : semOf (.fcmp p f) s = semFcmp p f s := rfl
@[simp] theorem semOf_fcvt (p : Pos) (f : Fields) (s : State) : semOf (.fcvt p f) s = semFcvt p f s := rfl
@[simp] theorem semOf_icvt (p : Pos) (f : Fields) (s : State) : semOf (.icvt p f) s = semIcvt p f s := rfl
@[simp] theorem semOf_kld (p : Pos) (f : Fields) (s : State) : semOf (.kld p f) s = semKld p f s := rfl
@[simp] theorem semOf_kmov (p : Pos) (f : Fields) (s : State) : semOf (.kmov p f) s = semKmov p f s := rfl
@[simp] theorem semOf_kbind (p : Pos) (f : Fields) (s : State) : semOf (.kbind p f) s = semKbind p f s := rfl
@[simp] theorem semOf_kfmt (p : Pos) (f : Fields) (s : State) : semOf (.kfmt p f) s = semKfmt p f s := rfl
@[simp] theorem semOf_kadd (p : Pos) (f : Fields) (s : State) : semOf (.kadd p f) s = semKadd p f s := rfl
@[simp] theorem semOf_ksub (p : Pos) (f : Fields) (s : State) : semOf (.ksub p f) s = semKsub p f s := rfl
@[simp] theorem semOf_kli (p : Pos) (f : Fields) (s : State) : semOf (.kli p f) s = semKli p f s := rfl
@[simp] theorem semOf_kclr (p : Pos) (f : Fields) (s : State) : semOf (.kclr p f) s = semKclr p f s := rfl
@[simp] theorem semOf_ld (p : Pos) (f : Fields) (s : State) : semOf (.ld p f) s = semLd p f s := rfl
@[simp] theorem semOf_st (p : Pos) (f : Fields) (s : State) : semOf (.st p f) s = semSt p f s := rfl
@[simp] theorem semOf_vld (p : Pos) (f : Fields) (s : State) : semOf (.vld p f) s = semVld p f s := rfl
@[simp] theorem semOf_vst (p : Pos) (f : Fields) (s : State) : semOf (.vst p f) s = semVst p f s := rfl
@[simp] theorem semOf_vlds (p : Pos) (f : Fields) (s : State) : semOf (.vlds p f) s = semVlds p f s := rfl
@[simp] theorem semOf_vsts (p : Pos) (f : Fields) (s : State) : semOf (.vsts p f) s = semVsts p f s := rfl
@[simp] theorem semOf_vldx (p : Pos) (f : Fields) (s : State) : semOf (.vldx p f) s = semVldx p f s := rfl
@[simp] theorem semOf_vstx (p : Pos) (f : Fields) (s : State) : semOf (.vstx p f) s = semVstx p f s := rfl
@[simp] theorem semOf_gath (p : Pos) (f : Fields) (s : State) : semOf (.gath p f) s = semGath p f s := rfl
@[simp] theorem semOf_scat (p : Pos) (f : Fields) (s : State) : semOf (.scat p f) s = semScat p f s := rfl
@[simp] theorem semOf_fld (p : Pos) (f : Fields) (s : State) : semOf (.fld p f) s = semFld p f s := rfl
@[simp] theorem semOf_fst (p : Pos) (f : Fields) (s : State) : semOf (.fst p f) s = semFst p f s := rfl
@[simp] theorem semOf_fldv (p : Pos) (f : Fields) (s : State) : semOf (.fldv p f) s = semFldv p f s := rfl
@[simp] theorem semOf_fstv (p : Pos) (f : Fields) (s : State) : semOf (.fstv p f) s = semFstv p f s := rfl
@[simp] theorem semOf_spill (p : Pos) (f : Fields) (s : State) : semOf (.spill p f) s = semSpill p f s := rfl
@[simp] theorem semOf_fill (p : Pos) (f : Fields) (s : State) : semOf (.fill p f) s = semFill p f s := rfl
@[simp] theorem semOf_vspill (p : Pos) (f : Fields) (s : State) : semOf (.vspill p f) s = semVspill p f s := rfl
@[simp] theorem semOf_vfill (p : Pos) (f : Fields) (s : State) : semOf (.vfill p f) s = semVfill p f s := rfl
@[simp] theorem semOf_amo (p : Pos) (f : Fields) (s : State) : semOf (.amo p f) s = semAmo p f s := rfl
@[simp] theorem semOf_amocas (p : Pos) (f : Fields) (s : State) : semOf (.amocas p f) s = semAmocas p f s := rfl
@[simp] theorem semOf_probe (p : Pos) (f : Fields) (s : State) : semOf (.probe p f) s = semProbe p f s := rfl
@[simp] theorem semOf_cwb (p : Pos) (f : Fields) (s : State) : semOf (.cwb p f) s = semCwb p f s := rfl
@[simp] theorem semOf_cinv (p : Pos) (f : Fields) (s : State) : semOf (.cinv p f) s = semCinv p f s := rfl
@[simp] theorem semOf_cwbi (p : Pos) (f : Fields) (s : State) : semOf (.cwbi p f) s = semCwbi p f s := rfl
@[simp] theorem semOf_qfence (p : Pos) (f : Fields) (s : State) : semOf (.qfence p f) s = semQfence p f s := rfl
@[simp] theorem semOf_vldb (p : Pos) (f : Fields) (s : State) : semOf (.vldb p f) s = semVldb p f s := rfl
@[simp] theorem semOf_tag (p : Pos) (f : Fields) (s : State) : semOf (.tag p f) s = semTag p f s := rfl
@[simp] theorem semOf_tagrd (p : Pos) (f : Fields) (s : State) : semOf (.tagrd p f) s = semTagrd p f s := rfl
@[simp] theorem semOf_vadd (p : Pos) (f : Fields) (s : State) : semOf (.vadd p f) s = semVadd p f s := rfl
@[simp] theorem semOf_vsub (p : Pos) (f : Fields) (s : State) : semOf (.vsub p f) s = semVsub p f s := rfl
@[simp] theorem semOf_vmul (p : Pos) (f : Fields) (s : State) : semOf (.vmul p f) s = semVmul p f s := rfl
@[simp] theorem semOf_vmulh (p : Pos) (f : Fields) (s : State) : semOf (.vmulh p f) s = semVmulh p f s := rfl
@[simp] theorem semOf_vfma (p : Pos) (f : Fields) (s : State) : semOf (.vfma p f) s = semVfma p f s := rfl
@[simp] theorem semOf_vfms (p : Pos) (f : Fields) (s : State) : semOf (.vfms p f) s = semVfms p f s := rfl
@[simp] theorem semOf_vfnma (p : Pos) (f : Fields) (s : State) : semOf (.vfnma p f) s = semVfnma p f s := rfl
@[simp] theorem semOf_vmin (p : Pos) (f : Fields) (s : State) : semOf (.vmin p f) s = semVmin p f s := rfl
@[simp] theorem semOf_vmax (p : Pos) (f : Fields) (s : State) : semOf (.vmax p f) s = semVmax p f s := rfl
@[simp] theorem semOf_vabs (p : Pos) (f : Fields) (s : State) : semOf (.vabs p f) s = semVabs p f s := rfl
@[simp] theorem semOf_vneg (p : Pos) (f : Fields) (s : State) : semOf (.vneg p f) s = semVneg p f s := rfl
@[simp] theorem semOf_vadds (p : Pos) (f : Fields) (s : State) : semOf (.vadds p f) s = semVadds p f s := rfl
@[simp] theorem semOf_vsubs (p : Pos) (f : Fields) (s : State) : semOf (.vsubs p f) s = semVsubs p f s := rfl
@[simp] theorem semOf_vand (p : Pos) (f : Fields) (s : State) : semOf (.vand p f) s = semVand p f s := rfl
@[simp] theorem semOf_vor (p : Pos) (f : Fields) (s : State) : semOf (.vor p f) s = semVor p f s := rfl
@[simp] theorem semOf_vxor (p : Pos) (f : Fields) (s : State) : semOf (.vxor p f) s = semVxor p f s := rfl
@[simp] theorem semOf_vsll (p : Pos) (f : Fields) (s : State) : semOf (.vsll p f) s = semVsll p f s := rfl
@[simp] theorem semOf_vsrl (p : Pos) (f : Fields) (s : State) : semOf (.vsrl p f) s = semVsrl p f s := rfl
@[simp] theorem semOf_vsra (p : Pos) (f : Fields) (s : State) : semOf (.vsra p f) s = semVsra p f s := rfl
@[simp] theorem semOf_vclz (p : Pos) (f : Fields) (s : State) : semOf (.vclz p f) s = semVclz p f s := rfl
@[simp] theorem semOf_vpopc (p : Pos) (f : Fields) (s : State) : semOf (.vpopc p f) s = semVpopc p f s := rfl
@[simp] theorem semOf_vcmp (p : Pos) (f : Fields) (s : State) : semOf (.vcmp p f) s = semVcmp p f s := rfl
@[simp] theorem semOf_vsel (p : Pos) (f : Fields) (s : State) : semOf (.vsel p f) s = semVsel p f s := rfl
@[simp] theorem semOf_vmov (p : Pos) (f : Fields) (s : State) : semOf (.vmov p f) s = semVmov p f s := rfl
@[simp] theorem semOf_vli (p : Pos) (f : Fields) (s : State) : semOf (.vli p f) s = semVli p f s := rfl
@[simp] theorem semOf_vext (p : Pos) (f : Fields) (s : State) : semOf (.vext p f) s = semVext p f s := rfl
@[simp] theorem semOf_vcvt (p : Pos) (f : Fields) (s : State) : semOf (.vcvt p f) s = semVcvt p f s := rfl
@[simp] theorem semOf_vrnd (p : Pos) (f : Fields) (s : State) : semOf (.vrnd p f) s = semVrnd p f s := rfl
@[simp] theorem semOf_vscale (p : Pos) (f : Fields) (s : State) : semOf (.vscale p f) s = semVscale p f s := rfl
@[simp] theorem semOf_vrcp (p : Pos) (f : Fields) (s : State) : semOf (.vrcp p f) s = semVrcp p f s := rfl
@[simp] theorem semOf_vrsqrt (p : Pos) (f : Fields) (s : State) : semOf (.vrsqrt p f) s = semVrsqrt p f s := rfl
@[simp] theorem semOf_vexp2 (p : Pos) (f : Fields) (s : State) : semOf (.vexp2 p f) s = semVexp2 p f s := rfl
@[simp] theorem semOf_vlog2 (p : Pos) (f : Fields) (s : State) : semOf (.vlog2 p f) s = semVlog2 p f s := rfl
@[simp] theorem semOf_vred (p : Pos) (f : Fields) (s : State) : semOf (.vred p f) s = semVred p f s := rfl
@[simp] theorem semOf_vscan (p : Pos) (f : Fields) (s : State) : semOf (.vscan p f) s = semVscan p f s := rfl
@[simp] theorem semOf_vperm (p : Pos) (f : Fields) (s : State) : semOf (.vperm p f) s = semVperm p f s := rfl
@[simp] theorem semOf_vbcast (p : Pos) (f : Fields) (s : State) : semOf (.vbcast p f) s = semVbcast p f s := rfl
@[simp] theorem semOf_vrot (p : Pos) (f : Fields) (s : State) : semOf (.vrot p f) s = semVrot p f s := rfl
@[simp] theorem semOf_vslide (p : Pos) (f : Fields) (s : State) : semOf (.vslide p f) s = semVslide p f s := rfl
@[simp] theorem semOf_viota (p : Pos) (f : Fields) (s : State) : semOf (.viota p f) s = semViota p f s := rfl
@[simp] theorem semOf_vpack (p : Pos) (f : Fields) (s : State) : semOf (.vpack p f) s = semVpack p f s := rfl
@[simp] theorem semOf_vunpack (p : Pos) (f : Fields) (s : State) : semOf (.vunpack p f) s = semVunpack p f s := rfl
@[simp] theorem semOf_vdot (p : Pos) (f : Fields) (s : State) : semOf (.vdot p f) s = semVdot p f s := rfl
@[simp] theorem semOf_vdotsu (p : Pos) (f : Fields) (s : State) : semOf (.vdotsu p f) s = semVdotsu p f s := rfl
@[simp] theorem semOf_vpset (p : Pos) (f : Fields) (s : State) : semOf (.vpset p f) s = semVpset p f s := rfl
@[simp] theorem semOf_vpget (p : Pos) (f : Fields) (s : State) : semOf (.vpget p f) s = semVpget p f s := rfl
@[simp] theorem semOf_vfirst (p : Pos) (f : Fields) (s : State) : semOf (.vfirst p f) s = semVfirst p f s := rfl
@[simp] theorem semOf_mcall (p : Pos) (f : Fields) (s : State) : semOf (.mcall p f) s = semMcall p f s := rfl
@[simp] theorem semOf_mpset (p : Pos) (f : Fields) (s : State) : semOf (.mpset p f) s = semMpset p f s := rfl
@[simp] theorem semOf_mload (p : Pos) (f : Fields) (s : State) : semOf (.mload p f) s = semMload p f s := rfl
@[simp] theorem semOf_smcopy (p : Pos) (f : Fields) (s : State) : semOf (.smcopy p f) s = semSmcopy p f s := rfl
@[simp] theorem semOf_ncopy (p : Pos) (f : Fields) (s : State) : semOf (.ncopy p f) s = semNcopy p f s := rfl
@[simp] theorem semOf_egath (p : Pos) (f : Fields) (s : State) : semOf (.egath p f) s = semEgath p f s := rfl
@[simp] theorem semOf_escat (p : Pos) (f : Fields) (s : State) : semOf (.escat p f) s = semEscat p f s := rfl
@[simp] theorem semOf_mcast (p : Pos) (f : Fields) (s : State) : semOf (.mcast p f) s = semMcast p f s := rfl
@[simp] theorem semOf_mcastb (p : Pos) (f : Fields) (s : State) : semOf (.mcastb p f) s = semMcastb p f s := rfl
@[simp] theorem semOf_coll (p : Pos) (f : Fields) (s : State) : semOf (.coll p f) s = semColl p f s := rfl
@[simp] theorem semOf_tnld (p : Pos) (f : Fields) (s : State) : semOf (.tnld p f) s = semTnld p f s := rfl
@[simp] theorem semOf_tnst (p : Pos) (f : Fields) (s : State) : semOf (.tnst p f) s = semTnst p f s := rfl
@[simp] theorem semOf_tnpf (p : Pos) (f : Fields) (s : State) : semOf (.tnpf p f) s = semTnpf p f s := rfl
@[simp] theorem semOf_emit (p : Pos) (f : Fields) (s : State) : semOf (.emit p f) s = semEmit p f s := rfl
@[simp] theorem semOf_estat (p : Pos) (f : Fields) (s : State) : semOf (.estat p f) s = semEstat p f s := rfl
@[simp] theorem semOf_accld (p : Pos) (f : Fields) (s : State) : semOf (.accld p f) s = semAccld p f s := rfl
@[simp] theorem semOf_accst (p : Pos) (f : Fields) (s : State) : semOf (.accst p f) s = semAccst p f s := rfl
@[simp] theorem semOf_adrain (p : Pos) (f : Fields) (s : State) : semOf (.adrain p f) s = semAdrain p f s := rfl
@[simp] theorem semOf_aclr (p : Pos) (f : Fields) (s : State) : semOf (.aclr p f) s = semAclr p f s := rfl
@[simp] theorem semOf_ecancel (p : Pos) (f : Fields) (s : State) : semOf (.ecancel p f) s = semEcancel p f s := rfl
@[simp] theorem semOf_ebar (p : Pos) (f : Fields) (s : State) : semOf (.ebar p f) s = semEbar p f s := rfl

end Sys2Proof.Machine
end

