-- ==== Sys2Proof/Laws/State.lean ====
section
/-!
SUPPORT. What each update of the state leaves as it was, field by field: a later proof never unfolds a record update.
-/

namespace Sys2Proof.Machine

open Sys2Proof

/-! ### setCore -/

@[simp] theorem State.setCore_agenda (s : State) (n : Nat) (c : Core) : (s.setCore n c).agenda = s.agenda := rfl
@[simp] theorem State.setCore_cur (s : State) (n : Nat) (c : Core) : (s.setCore n c).cur = s.cur := rfl
@[simp] theorem State.setCore_stepNo (s : State) (n : Nat) (c : Core) : (s.setCore n c).stepNo = s.stepNo := rfl
@[simp] theorem State.setCore_bootStep (s : State) (n : Nat) (c : Core) : (s.setCore n c).bootStep = s.bootStep := rfl
@[simp] theorem State.setCore_nowPs (s : State) (n : Nat) (c : Core) : (s.setCore n c).nowPs = s.nowPs := rfl
@[simp] theorem State.setCore_nextCtx (s : State) (n : Nat) (c : Core) : (s.setCore n c).nextCtx = s.nextCtx := rfl
@[simp] theorem State.setCore_nextCid (s : State) (n : Nat) (c : Core) : (s.setCore n c).nextCid = s.nextCid := rfl
@[simp] theorem State.setCore_nextKey (s : State) (n : Nat) (c : Core) : (s.setCore n c).nextKey = s.nextKey := rfl
@[simp] theorem State.setCore_nextExec (s : State) (n : Nat) (c : Core) : (s.setCore n c).nextExec = s.nextExec := rfl
@[simp] theorem State.setCore_mem (s : State) (n : Nat) (c : Core) : (s.setCore n c).mem = s.mem := rfl
@[simp] theorem State.setCore_emptyTags (s : State) (n : Nat) (c : Core) : (s.setCore n c).emptyTags = s.emptyTags := rfl
@[simp] theorem State.setCore_poison (s : State) (n : Nat) (c : Core) : (s.setCore n c).poison = s.poison := rfl
@[simp] theorem State.setCore_ctxs (s : State) (n : Nat) (c : Core) : (s.setCore n c).ctxs = s.ctxs := rfl
@[simp] theorem State.setCore_cmds (s : State) (n : Nat) (c : Core) : (s.setCore n c).cmds = s.cmds := rfl
@[simp] theorem State.setCore_grids (s : State) (n : Nat) (c : Core) : (s.setCore n c).grids = s.grids := rfl
@[simp] theorem State.setCore_sessions (s : State) (n : Nat) (c : Core) : (s.setCore n c).sessions = s.sessions := rfl
@[simp] theorem State.setCore_jobs (s : State) (n : Nat) (c : Core) : (s.setCore n c).jobs = s.jobs := rfl
@[simp] theorem State.setCore_holds (s : State) (n : Nat) (c : Core) : (s.setCore n c).holds = s.holds := rfl
@[simp] theorem State.setCore_chunks (s : State) (n : Nat) (c : Core) : (s.setCore n c).chunks = s.chunks := rfl
@[simp] theorem State.setCore_portFree (s : State) (n : Nat) (c : Core) : (s.setCore n c).portFree = s.portFree := rfl
@[simp] theorem State.setCore_eps (s : State) (n : Nat) (c : Core) : (s.setCore n c).eps = s.eps := rfl
@[simp] theorem State.setCore_domains (s : State) (n : Nat) (c : Core) : (s.setCore n c).domains = s.domains := rfl
@[simp] theorem State.setCore_parts (s : State) (n : Nat) (c : Core) : (s.setCore n c).parts = s.parts := rfl
@[simp] theorem State.setCore_regs (s : State) (n : Nat) (c : Core) : (s.setCore n c).regs = s.regs := rfl
@[simp] theorem State.setCore_trapWait (s : State) (n : Nat) (c : Core) : (s.setCore n c).trapWait = s.trapWait := rfl
@[simp] theorem State.setCore_faults (s : State) (n : Nat) (c : Core) : (s.setCore n c).faults = s.faults := rfl
@[simp] theorem State.setCore_faultSeq (s : State) (n : Nat) (c : Core) : (s.setCore n c).faultSeq = s.faultSeq := rfl
@[simp] theorem State.setCore_resolving (s : State) (n : Nat) (c : Core) : (s.setCore n c).resolving = s.resolving := rfl
@[simp] theorem State.setCore_leaves (s : State) (n : Nat) (c : Core) : (s.setCore n c).leaves = s.leaves := rfl
@[simp] theorem State.setCore_runs (s : State) (n : Nat) (c : Core) : (s.setCore n c).runs = s.runs := rfl
@[simp] theorem State.setCore_loose (s : State) (n : Nat) (c : Core) : (s.setCore n c).loose = s.loose := rfl
@[simp] theorem State.setCore_lines (s : State) (n : Nat) (c : Core) : (s.setCore n c).lines = s.lines := rfl
@[simp] theorem State.setCore_posted (s : State) (n : Nat) (c : Core) : (s.setCore n c).posted = s.posted := rfl
@[simp] theorem State.setCore_dir (s : State) (n : Nat) (c : Core) : (s.setCore n c).dir = s.dir := rfl
@[simp] theorem State.setCore_msc (s : State) (n : Nat) (c : Core) : (s.setCore n c).msc = s.msc := rfl
@[simp] theorem State.setCore_swaps (s : State) (n : Nat) (c : Core) : (s.setCore n c).swaps = s.swaps := rfl
@[simp] theorem State.setCore_clear (s : State) (n : Nat) (c : Core) : (s.setCore n c).clear = s.clear := rfl
@[simp] theorem State.setCore_chans (s : State) (n : Nat) (c : Core) : (s.setCore n c).chans = s.chans := rfl
@[simp] theorem State.setCore_partCmd (s : State) (n : Nat) (c : Core) : (s.setCore n c).partCmd = s.partCmd := rfl
@[simp] theorem State.setCore_queues (s : State) (n : Nat) (c : Core) : (s.setCore n c).queues = s.queues := rfl
@[simp] theorem State.setCore_csqSeen (s : State) (n : Nat) (c : Core) : (s.setCore n c).csqSeen = s.csqSeen := rfl
@[simp] theorem State.setCore_claims (s : State) (n : Nat) (c : Core) : (s.setCore n c).claims = s.claims := rfl
@[simp] theorem State.setCore_reds (s : State) (n : Nat) (c : Core) : (s.setCore n c).reds = s.reds := rfl
@[simp] theorem State.setCore_latches (s : State) (n : Nat) (c : Core) : (s.setCore n c).latches = s.latches := rfl
@[simp] theorem State.setCore_islands (s : State) (n : Nat) (c : Core) : (s.setCore n c).islands = s.islands := rfl
@[simp] theorem State.setCore_dvfLast (s : State) (n : Nat) (c : Core) : (s.setCore n c).dvfLast = s.dvfLast := rfl
@[simp] theorem State.setCore_winNo (s : State) (n : Nat) (c : Core) : (s.setCore n c).winNo = s.winNo := rfl
@[simp] theorem State.setCore_winStep (s : State) (n : Nat) (c : Core) : (s.setCore n c).winStep = s.winStep := rfl
@[simp] theorem State.setCore_winPrev (s : State) (n : Nat) (c : Core) : (s.setCore n c).winPrev = s.winPrev := rfl
@[simp] theorem State.setCore_boot (s : State) (n : Nat) (c : Core) : (s.setCore n c).boot = s.boot := rfl
@[simp] theorem State.setCore_meas (s : State) (n : Nat) (c : Core) : (s.setCore n c).meas = s.meas := rfl
@[simp] theorem State.setCore_flashA (s : State) (n : Nat) (c : Core) : (s.setCore n c).flashA = s.flashA := rfl
@[simp] theorem State.setCore_flashB (s : State) (n : Nat) (c : Core) : (s.setCore n c).flashB = s.flashB := rfl
@[simp] theorem State.setCore_supImages (s : State) (n : Nat) (c : Core) : (s.setCore n c).supImages = s.supImages := rfl
@[simp] theorem State.setCore_hostIf (s : State) (n : Nat) (c : Core) : (s.setCore n c).hostIf = s.hostIf := rfl
@[simp] theorem State.setCore_time (s : State) (n : Nat) (c : Core) : (s.setCore n c).time = s.time := rfl
@[simp] theorem State.setCore_busRead (s : State) (n : Nat) (c : Core) : (s.setCore n c).busRead = s.busRead := rfl
@[simp] theorem State.setCore_outputs (s : State) (n : Nat) (c : Core) : (s.setCore n c).outputs = s.outputs := rfl

/-! ### setCtx -/

@[simp] theorem State.setCtx_agenda (s : State) (c : Ctx) : (s.setCtx c).agenda = s.agenda := rfl
@[simp] theorem State.setCtx_cur (s : State) (c : Ctx) : (s.setCtx c).cur = s.cur := rfl
@[simp] theorem State.setCtx_stepNo (s : State) (c : Ctx) : (s.setCtx c).stepNo = s.stepNo := rfl
@[simp] theorem State.setCtx_bootStep (s : State) (c : Ctx) : (s.setCtx c).bootStep = s.bootStep := rfl
@[simp] theorem State.setCtx_nowPs (s : State) (c : Ctx) : (s.setCtx c).nowPs = s.nowPs := rfl
@[simp] theorem State.setCtx_nextCtx (s : State) (c : Ctx) : (s.setCtx c).nextCtx = s.nextCtx := rfl
@[simp] theorem State.setCtx_nextCid (s : State) (c : Ctx) : (s.setCtx c).nextCid = s.nextCid := rfl
@[simp] theorem State.setCtx_nextKey (s : State) (c : Ctx) : (s.setCtx c).nextKey = s.nextKey := rfl
@[simp] theorem State.setCtx_nextExec (s : State) (c : Ctx) : (s.setCtx c).nextExec = s.nextExec := rfl
@[simp] theorem State.setCtx_mem (s : State) (c : Ctx) : (s.setCtx c).mem = s.mem := rfl
@[simp] theorem State.setCtx_emptyTags (s : State) (c : Ctx) : (s.setCtx c).emptyTags = s.emptyTags := rfl
@[simp] theorem State.setCtx_poison (s : State) (c : Ctx) : (s.setCtx c).poison = s.poison := rfl
@[simp] theorem State.setCtx_cores (s : State) (c : Ctx) : (s.setCtx c).cores = s.cores := rfl
@[simp] theorem State.setCtx_cmds (s : State) (c : Ctx) : (s.setCtx c).cmds = s.cmds := rfl
@[simp] theorem State.setCtx_grids (s : State) (c : Ctx) : (s.setCtx c).grids = s.grids := rfl
@[simp] theorem State.setCtx_sessions (s : State) (c : Ctx) : (s.setCtx c).sessions = s.sessions := rfl
@[simp] theorem State.setCtx_jobs (s : State) (c : Ctx) : (s.setCtx c).jobs = s.jobs := rfl
@[simp] theorem State.setCtx_holds (s : State) (c : Ctx) : (s.setCtx c).holds = s.holds := rfl
@[simp] theorem State.setCtx_chunks (s : State) (c : Ctx) : (s.setCtx c).chunks = s.chunks := rfl
@[simp] theorem State.setCtx_portFree (s : State) (c : Ctx) : (s.setCtx c).portFree = s.portFree := rfl
@[simp] theorem State.setCtx_eps (s : State) (c : Ctx) : (s.setCtx c).eps = s.eps := rfl
@[simp] theorem State.setCtx_domains (s : State) (c : Ctx) : (s.setCtx c).domains = s.domains := rfl
@[simp] theorem State.setCtx_parts (s : State) (c : Ctx) : (s.setCtx c).parts = s.parts := rfl
@[simp] theorem State.setCtx_regs (s : State) (c : Ctx) : (s.setCtx c).regs = s.regs := rfl
@[simp] theorem State.setCtx_trapWait (s : State) (c : Ctx) : (s.setCtx c).trapWait = s.trapWait := rfl
@[simp] theorem State.setCtx_faults (s : State) (c : Ctx) : (s.setCtx c).faults = s.faults := rfl
@[simp] theorem State.setCtx_faultSeq (s : State) (c : Ctx) : (s.setCtx c).faultSeq = s.faultSeq := rfl
@[simp] theorem State.setCtx_resolving (s : State) (c : Ctx) : (s.setCtx c).resolving = s.resolving := rfl
@[simp] theorem State.setCtx_leaves (s : State) (c : Ctx) : (s.setCtx c).leaves = s.leaves := rfl
@[simp] theorem State.setCtx_runs (s : State) (c : Ctx) : (s.setCtx c).runs = s.runs := rfl
@[simp] theorem State.setCtx_loose (s : State) (c : Ctx) : (s.setCtx c).loose = s.loose := rfl
@[simp] theorem State.setCtx_lines (s : State) (c : Ctx) : (s.setCtx c).lines = s.lines := rfl
@[simp] theorem State.setCtx_posted (s : State) (c : Ctx) : (s.setCtx c).posted = s.posted := rfl
@[simp] theorem State.setCtx_dir (s : State) (c : Ctx) : (s.setCtx c).dir = s.dir := rfl
@[simp] theorem State.setCtx_msc (s : State) (c : Ctx) : (s.setCtx c).msc = s.msc := rfl
@[simp] theorem State.setCtx_swaps (s : State) (c : Ctx) : (s.setCtx c).swaps = s.swaps := rfl
@[simp] theorem State.setCtx_clear (s : State) (c : Ctx) : (s.setCtx c).clear = s.clear := rfl
@[simp] theorem State.setCtx_chans (s : State) (c : Ctx) : (s.setCtx c).chans = s.chans := rfl
@[simp] theorem State.setCtx_partCmd (s : State) (c : Ctx) : (s.setCtx c).partCmd = s.partCmd := rfl
@[simp] theorem State.setCtx_queues (s : State) (c : Ctx) : (s.setCtx c).queues = s.queues := rfl
@[simp] theorem State.setCtx_csqSeen (s : State) (c : Ctx) : (s.setCtx c).csqSeen = s.csqSeen := rfl
@[simp] theorem State.setCtx_claims (s : State) (c : Ctx) : (s.setCtx c).claims = s.claims := rfl
@[simp] theorem State.setCtx_reds (s : State) (c : Ctx) : (s.setCtx c).reds = s.reds := rfl
@[simp] theorem State.setCtx_latches (s : State) (c : Ctx) : (s.setCtx c).latches = s.latches := rfl
@[simp] theorem State.setCtx_islands (s : State) (c : Ctx) : (s.setCtx c).islands = s.islands := rfl
@[simp] theorem State.setCtx_dvfLast (s : State) (c : Ctx) : (s.setCtx c).dvfLast = s.dvfLast := rfl
@[simp] theorem State.setCtx_winNo (s : State) (c : Ctx) : (s.setCtx c).winNo = s.winNo := rfl
@[simp] theorem State.setCtx_winStep (s : State) (c : Ctx) : (s.setCtx c).winStep = s.winStep := rfl
@[simp] theorem State.setCtx_winPrev (s : State) (c : Ctx) : (s.setCtx c).winPrev = s.winPrev := rfl
@[simp] theorem State.setCtx_boot (s : State) (c : Ctx) : (s.setCtx c).boot = s.boot := rfl
@[simp] theorem State.setCtx_meas (s : State) (c : Ctx) : (s.setCtx c).meas = s.meas := rfl
@[simp] theorem State.setCtx_flashA (s : State) (c : Ctx) : (s.setCtx c).flashA = s.flashA := rfl
@[simp] theorem State.setCtx_flashB (s : State) (c : Ctx) : (s.setCtx c).flashB = s.flashB := rfl
@[simp] theorem State.setCtx_supImages (s : State) (c : Ctx) : (s.setCtx c).supImages = s.supImages := rfl
@[simp] theorem State.setCtx_hostIf (s : State) (c : Ctx) : (s.setCtx c).hostIf = s.hostIf := rfl
@[simp] theorem State.setCtx_time (s : State) (c : Ctx) : (s.setCtx c).time = s.time := rfl
@[simp] theorem State.setCtx_busRead (s : State) (c : Ctx) : (s.setCtx c).busRead = s.busRead := rfl
@[simp] theorem State.setCtx_outputs (s : State) (c : Ctx) : (s.setCtx c).outputs = s.outputs := rfl

/-! ### modCtx -/

@[simp] theorem State.modCtx_agenda (s : State) (h : Nat) (f : Ctx → Ctx) : (s.modCtx h f).agenda = s.agenda := rfl
@[simp] theorem State.modCtx_cur (s : State) (h : Nat) (f : Ctx → Ctx) : (s.modCtx h f).cur = s.cur := rfl
@[simp] theorem State.modCtx_stepNo (s : State) (h : Nat) (f : Ctx → Ctx) : (s.modCtx h f).stepNo = s.stepNo := rfl
@[simp] theorem State.modCtx_bootStep (s : State) (h : Nat) (f : Ctx → Ctx) : (s.modCtx h f).bootStep = s.bootStep := rfl
@[simp] theorem State.modCtx_nowPs (s : State) (h : Nat) (f : Ctx → Ctx) : (s.modCtx h f).nowPs = s.nowPs := rfl
@[simp] theorem State.modCtx_nextCtx (s : State) (h : Nat) (f : Ctx → Ctx) : (s.modCtx h f).nextCtx = s.nextCtx := rfl
@[simp] theorem State.modCtx_nextCid (s : State) (h : Nat) (f : Ctx → Ctx) : (s.modCtx h f).nextCid = s.nextCid := rfl
@[simp] theorem State.modCtx_nextKey (s : State) (h : Nat) (f : Ctx → Ctx) : (s.modCtx h f).nextKey = s.nextKey := rfl
@[simp] theorem State.modCtx_nextExec (s : State) (h : Nat) (f : Ctx → Ctx) : (s.modCtx h f).nextExec = s.nextExec := rfl
@[simp] theorem State.modCtx_mem (s : State) (h : Nat) (f : Ctx → Ctx) : (s.modCtx h f).mem = s.mem := rfl
@[simp] theorem State.modCtx_emptyTags (s : State) (h : Nat) (f : Ctx → Ctx) : (s.modCtx h f).emptyTags = s.emptyTags := rfl
@[simp] theorem State.modCtx_poison (s : State) (h : Nat) (f : Ctx → Ctx) : (s.modCtx h f).poison = s.poison := rfl
@[simp] theorem State.modCtx_cores (s : State) (h : Nat) (f : Ctx → Ctx) : (s.modCtx h f).cores = s.cores := rfl
@[simp] theorem State.modCtx_cmds (s : State) (h : Nat) (f : Ctx → Ctx) : (s.modCtx h f).cmds = s.cmds := rfl
@[simp] theorem State.modCtx_grids (s : State) (h : Nat) (f : Ctx → Ctx) : (s.modCtx h f).grids = s.grids := rfl
@[simp] theorem State.modCtx_sessions (s : State) (h : Nat) (f : Ctx → Ctx) : (s.modCtx h f).sessions = s.sessions := rfl
@[simp] theorem State.modCtx_jobs (s : State) (h : Nat) (f : Ctx → Ctx) : (s.modCtx h f).jobs = s.jobs := rfl
@[simp] theorem State.modCtx_holds (s : State) (h : Nat) (f : Ctx → Ctx) : (s.modCtx h f).holds = s.holds := rfl
@[simp] theorem State.modCtx_chunks (s : State) (h : Nat) (f : Ctx → Ctx) : (s.modCtx h f).chunks = s.chunks := rfl
@[simp] theorem State.modCtx_portFree (s : State) (h : Nat) (f : Ctx → Ctx) : (s.modCtx h f).portFree = s.portFree := rfl
@[simp] theorem State.modCtx_eps (s : State) (h : Nat) (f : Ctx → Ctx) : (s.modCtx h f).eps = s.eps := rfl
@[simp] theorem State.modCtx_domains (s : State) (h : Nat) (f : Ctx → Ctx) : (s.modCtx h f).domains = s.domains := rfl
@[simp] theorem State.modCtx_parts (s : State) (h : Nat) (f : Ctx → Ctx) : (s.modCtx h f).parts = s.parts := rfl
@[simp] theorem State.modCtx_regs (s : State) (h : Nat) (f : Ctx → Ctx) : (s.modCtx h f).regs = s.regs := rfl
@[simp] theorem State.modCtx_trapWait (s : State) (h : Nat) (f : Ctx → Ctx) : (s.modCtx h f).trapWait = s.trapWait := rfl
@[simp] theorem State.modCtx_faults (s : State) (h : Nat) (f : Ctx → Ctx) : (s.modCtx h f).faults = s.faults := rfl
@[simp] theorem State.modCtx_faultSeq (s : State) (h : Nat) (f : Ctx → Ctx) : (s.modCtx h f).faultSeq = s.faultSeq := rfl
@[simp] theorem State.modCtx_resolving (s : State) (h : Nat) (f : Ctx → Ctx) : (s.modCtx h f).resolving = s.resolving := rfl
@[simp] theorem State.modCtx_leaves (s : State) (h : Nat) (f : Ctx → Ctx) : (s.modCtx h f).leaves = s.leaves := rfl
@[simp] theorem State.modCtx_runs (s : State) (h : Nat) (f : Ctx → Ctx) : (s.modCtx h f).runs = s.runs := rfl
@[simp] theorem State.modCtx_loose (s : State) (h : Nat) (f : Ctx → Ctx) : (s.modCtx h f).loose = s.loose := rfl
@[simp] theorem State.modCtx_lines (s : State) (h : Nat) (f : Ctx → Ctx) : (s.modCtx h f).lines = s.lines := rfl
@[simp] theorem State.modCtx_posted (s : State) (h : Nat) (f : Ctx → Ctx) : (s.modCtx h f).posted = s.posted := rfl
@[simp] theorem State.modCtx_dir (s : State) (h : Nat) (f : Ctx → Ctx) : (s.modCtx h f).dir = s.dir := rfl
@[simp] theorem State.modCtx_msc (s : State) (h : Nat) (f : Ctx → Ctx) : (s.modCtx h f).msc = s.msc := rfl
@[simp] theorem State.modCtx_swaps (s : State) (h : Nat) (f : Ctx → Ctx) : (s.modCtx h f).swaps = s.swaps := rfl
@[simp] theorem State.modCtx_clear (s : State) (h : Nat) (f : Ctx → Ctx) : (s.modCtx h f).clear = s.clear := rfl
@[simp] theorem State.modCtx_chans (s : State) (h : Nat) (f : Ctx → Ctx) : (s.modCtx h f).chans = s.chans := rfl
@[simp] theorem State.modCtx_partCmd (s : State) (h : Nat) (f : Ctx → Ctx) : (s.modCtx h f).partCmd = s.partCmd := rfl
@[simp] theorem State.modCtx_queues (s : State) (h : Nat) (f : Ctx → Ctx) : (s.modCtx h f).queues = s.queues := rfl
@[simp] theorem State.modCtx_csqSeen (s : State) (h : Nat) (f : Ctx → Ctx) : (s.modCtx h f).csqSeen = s.csqSeen := rfl
@[simp] theorem State.modCtx_claims (s : State) (h : Nat) (f : Ctx → Ctx) : (s.modCtx h f).claims = s.claims := rfl
@[simp] theorem State.modCtx_reds (s : State) (h : Nat) (f : Ctx → Ctx) : (s.modCtx h f).reds = s.reds := rfl
@[simp] theorem State.modCtx_latches (s : State) (h : Nat) (f : Ctx → Ctx) : (s.modCtx h f).latches = s.latches := rfl
@[simp] theorem State.modCtx_islands (s : State) (h : Nat) (f : Ctx → Ctx) : (s.modCtx h f).islands = s.islands := rfl
@[simp] theorem State.modCtx_dvfLast (s : State) (h : Nat) (f : Ctx → Ctx) : (s.modCtx h f).dvfLast = s.dvfLast := rfl
@[simp] theorem State.modCtx_winNo (s : State) (h : Nat) (f : Ctx → Ctx) : (s.modCtx h f).winNo = s.winNo := rfl
@[simp] theorem State.modCtx_winStep (s : State) (h : Nat) (f : Ctx → Ctx) : (s.modCtx h f).winStep = s.winStep := rfl
@[simp] theorem State.modCtx_winPrev (s : State) (h : Nat) (f : Ctx → Ctx) : (s.modCtx h f).winPrev = s.winPrev := rfl
@[simp] theorem State.modCtx_boot (s : State) (h : Nat) (f : Ctx → Ctx) : (s.modCtx h f).boot = s.boot := rfl
@[simp] theorem State.modCtx_meas (s : State) (h : Nat) (f : Ctx → Ctx) : (s.modCtx h f).meas = s.meas := rfl
@[simp] theorem State.modCtx_flashA (s : State) (h : Nat) (f : Ctx → Ctx) : (s.modCtx h f).flashA = s.flashA := rfl
@[simp] theorem State.modCtx_flashB (s : State) (h : Nat) (f : Ctx → Ctx) : (s.modCtx h f).flashB = s.flashB := rfl
@[simp] theorem State.modCtx_supImages (s : State) (h : Nat) (f : Ctx → Ctx) : (s.modCtx h f).supImages = s.supImages := rfl
@[simp] theorem State.modCtx_hostIf (s : State) (h : Nat) (f : Ctx → Ctx) : (s.modCtx h f).hostIf = s.hostIf := rfl
@[simp] theorem State.modCtx_time (s : State) (h : Nat) (f : Ctx → Ctx) : (s.modCtx h f).time = s.time := rfl
@[simp] theorem State.modCtx_busRead (s : State) (h : Nat) (f : Ctx → Ctx) : (s.modCtx h f).busRead = s.busRead := rfl
@[simp] theorem State.modCtx_outputs (s : State) (h : Nat) (f : Ctx → Ctx) : (s.modCtx h f).outputs = s.outputs := rfl

/-! ### modCur -/

@[simp] theorem State.modCur_agenda (s : State) (f : Ctx → Ctx) : (s.modCur f).agenda = s.agenda := rfl
@[simp] theorem State.modCur_cur (s : State) (f : Ctx → Ctx) : (s.modCur f).cur = s.cur := rfl
@[simp] theorem State.modCur_stepNo (s : State) (f : Ctx → Ctx) : (s.modCur f).stepNo = s.stepNo := rfl
@[simp] theorem State.modCur_bootStep (s : State) (f : Ctx → Ctx) : (s.modCur f).bootStep = s.bootStep := rfl
@[simp] theorem State.modCur_nowPs (s : State) (f : Ctx → Ctx) : (s.modCur f).nowPs = s.nowPs := rfl
@[simp] theorem State.modCur_nextCtx (s : State) (f : Ctx → Ctx) : (s.modCur f).nextCtx = s.nextCtx := rfl
@[simp] theorem State.modCur_nextCid (s : State) (f : Ctx → Ctx) : (s.modCur f).nextCid = s.nextCid := rfl
@[simp] theorem State.modCur_nextKey (s : State) (f : Ctx → Ctx) : (s.modCur f).nextKey = s.nextKey := rfl
@[simp] theorem State.modCur_nextExec (s : State) (f : Ctx → Ctx) : (s.modCur f).nextExec = s.nextExec := rfl
@[simp] theorem State.modCur_mem (s : State) (f : Ctx → Ctx) : (s.modCur f).mem = s.mem := rfl
@[simp] theorem State.modCur_emptyTags (s : State) (f : Ctx → Ctx) : (s.modCur f).emptyTags = s.emptyTags := rfl
@[simp] theorem State.modCur_poison (s : State) (f : Ctx → Ctx) : (s.modCur f).poison = s.poison := rfl
@[simp] theorem State.modCur_cores (s : State) (f : Ctx → Ctx) : (s.modCur f).cores = s.cores := rfl
@[simp] theorem State.modCur_cmds (s : State) (f : Ctx → Ctx) : (s.modCur f).cmds = s.cmds := rfl
@[simp] theorem State.modCur_grids (s : State) (f : Ctx → Ctx) : (s.modCur f).grids = s.grids := rfl
@[simp] theorem State.modCur_sessions (s : State) (f : Ctx → Ctx) : (s.modCur f).sessions = s.sessions := rfl
@[simp] theorem State.modCur_jobs (s : State) (f : Ctx → Ctx) : (s.modCur f).jobs = s.jobs := rfl
@[simp] theorem State.modCur_holds (s : State) (f : Ctx → Ctx) : (s.modCur f).holds = s.holds := rfl
@[simp] theorem State.modCur_chunks (s : State) (f : Ctx → Ctx) : (s.modCur f).chunks = s.chunks := rfl
@[simp] theorem State.modCur_portFree (s : State) (f : Ctx → Ctx) : (s.modCur f).portFree = s.portFree := rfl
@[simp] theorem State.modCur_eps (s : State) (f : Ctx → Ctx) : (s.modCur f).eps = s.eps := rfl
@[simp] theorem State.modCur_domains (s : State) (f : Ctx → Ctx) : (s.modCur f).domains = s.domains := rfl
@[simp] theorem State.modCur_parts (s : State) (f : Ctx → Ctx) : (s.modCur f).parts = s.parts := rfl
@[simp] theorem State.modCur_regs (s : State) (f : Ctx → Ctx) : (s.modCur f).regs = s.regs := rfl
@[simp] theorem State.modCur_trapWait (s : State) (f : Ctx → Ctx) : (s.modCur f).trapWait = s.trapWait := rfl
@[simp] theorem State.modCur_faults (s : State) (f : Ctx → Ctx) : (s.modCur f).faults = s.faults := rfl
@[simp] theorem State.modCur_faultSeq (s : State) (f : Ctx → Ctx) : (s.modCur f).faultSeq = s.faultSeq := rfl
@[simp] theorem State.modCur_resolving (s : State) (f : Ctx → Ctx) : (s.modCur f).resolving = s.resolving := rfl
@[simp] theorem State.modCur_leaves (s : State) (f : Ctx → Ctx) : (s.modCur f).leaves = s.leaves := rfl
@[simp] theorem State.modCur_runs (s : State) (f : Ctx → Ctx) : (s.modCur f).runs = s.runs := rfl
@[simp] theorem State.modCur_loose (s : State) (f : Ctx → Ctx) : (s.modCur f).loose = s.loose := rfl
@[simp] theorem State.modCur_lines (s : State) (f : Ctx → Ctx) : (s.modCur f).lines = s.lines := rfl
@[simp] theorem State.modCur_posted (s : State) (f : Ctx → Ctx) : (s.modCur f).posted = s.posted := rfl
@[simp] theorem State.modCur_dir (s : State) (f : Ctx → Ctx) : (s.modCur f).dir = s.dir := rfl
@[simp] theorem State.modCur_msc (s : State) (f : Ctx → Ctx) : (s.modCur f).msc = s.msc := rfl
@[simp] theorem State.modCur_swaps (s : State) (f : Ctx → Ctx) : (s.modCur f).swaps = s.swaps := rfl
@[simp] theorem State.modCur_clear (s : State) (f : Ctx → Ctx) : (s.modCur f).clear = s.clear := rfl
@[simp] theorem State.modCur_chans (s : State) (f : Ctx → Ctx) : (s.modCur f).chans = s.chans := rfl
@[simp] theorem State.modCur_partCmd (s : State) (f : Ctx → Ctx) : (s.modCur f).partCmd = s.partCmd := rfl
@[simp] theorem State.modCur_queues (s : State) (f : Ctx → Ctx) : (s.modCur f).queues = s.queues := rfl
@[simp] theorem State.modCur_csqSeen (s : State) (f : Ctx → Ctx) : (s.modCur f).csqSeen = s.csqSeen := rfl
@[simp] theorem State.modCur_claims (s : State) (f : Ctx → Ctx) : (s.modCur f).claims = s.claims := rfl
@[simp] theorem State.modCur_reds (s : State) (f : Ctx → Ctx) : (s.modCur f).reds = s.reds := rfl
@[simp] theorem State.modCur_latches (s : State) (f : Ctx → Ctx) : (s.modCur f).latches = s.latches := rfl
@[simp] theorem State.modCur_islands (s : State) (f : Ctx → Ctx) : (s.modCur f).islands = s.islands := rfl
@[simp] theorem State.modCur_dvfLast (s : State) (f : Ctx → Ctx) : (s.modCur f).dvfLast = s.dvfLast := rfl
@[simp] theorem State.modCur_winNo (s : State) (f : Ctx → Ctx) : (s.modCur f).winNo = s.winNo := rfl
@[simp] theorem State.modCur_winStep (s : State) (f : Ctx → Ctx) : (s.modCur f).winStep = s.winStep := rfl
@[simp] theorem State.modCur_winPrev (s : State) (f : Ctx → Ctx) : (s.modCur f).winPrev = s.winPrev := rfl
@[simp] theorem State.modCur_boot (s : State) (f : Ctx → Ctx) : (s.modCur f).boot = s.boot := rfl
@[simp] theorem State.modCur_meas (s : State) (f : Ctx → Ctx) : (s.modCur f).meas = s.meas := rfl
@[simp] theorem State.modCur_flashA (s : State) (f : Ctx → Ctx) : (s.modCur f).flashA = s.flashA := rfl
@[simp] theorem State.modCur_flashB (s : State) (f : Ctx → Ctx) : (s.modCur f).flashB = s.flashB := rfl
@[simp] theorem State.modCur_supImages (s : State) (f : Ctx → Ctx) : (s.modCur f).supImages = s.supImages := rfl
@[simp] theorem State.modCur_hostIf (s : State) (f : Ctx → Ctx) : (s.modCur f).hostIf = s.hostIf := rfl
@[simp] theorem State.modCur_time (s : State) (f : Ctx → Ctx) : (s.modCur f).time = s.time := rfl
@[simp] theorem State.modCur_busRead (s : State) (f : Ctx → Ctx) : (s.modCur f).busRead = s.busRead := rfl
@[simp] theorem State.modCur_outputs (s : State) (f : Ctx → Ctx) : (s.modCur f).outputs = s.outputs := rfl

/-! ### setGrid -/

@[simp] theorem State.setGrid_agenda (s : State) (g : Grid) : (s.setGrid g).agenda = s.agenda := rfl
@[simp] theorem State.setGrid_cur (s : State) (g : Grid) : (s.setGrid g).cur = s.cur := rfl
@[simp] theorem State.setGrid_stepNo (s : State) (g : Grid) : (s.setGrid g).stepNo = s.stepNo := rfl
@[simp] theorem State.setGrid_bootStep (s : State) (g : Grid) : (s.setGrid g).bootStep = s.bootStep := rfl
@[simp] theorem State.setGrid_nowPs (s : State) (g : Grid) : (s.setGrid g).nowPs = s.nowPs := rfl
@[simp] theorem State.setGrid_nextCtx (s : State) (g : Grid) : (s.setGrid g).nextCtx = s.nextCtx := rfl
@[simp] theorem State.setGrid_nextCid (s : State) (g : Grid) : (s.setGrid g).nextCid = s.nextCid := rfl
@[simp] theorem State.setGrid_nextKey (s : State) (g : Grid) : (s.setGrid g).nextKey = s.nextKey := rfl
@[simp] theorem State.setGrid_nextExec (s : State) (g : Grid) : (s.setGrid g).nextExec = s.nextExec := rfl
@[simp] theorem State.setGrid_mem (s : State) (g : Grid) : (s.setGrid g).mem = s.mem := rfl
@[simp] theorem State.setGrid_emptyTags (s : State) (g : Grid) : (s.setGrid g).emptyTags = s.emptyTags := rfl
@[simp] theorem State.setGrid_poison (s : State) (g : Grid) : (s.setGrid g).poison = s.poison := rfl
@[simp] theorem State.setGrid_ctxs (s : State) (g : Grid) : (s.setGrid g).ctxs = s.ctxs := rfl
@[simp] theorem State.setGrid_cores (s : State) (g : Grid) : (s.setGrid g).cores = s.cores := rfl
@[simp] theorem State.setGrid_cmds (s : State) (g : Grid) : (s.setGrid g).cmds = s.cmds := rfl
@[simp] theorem State.setGrid_sessions (s : State) (g : Grid) : (s.setGrid g).sessions = s.sessions := rfl
@[simp] theorem State.setGrid_jobs (s : State) (g : Grid) : (s.setGrid g).jobs = s.jobs := rfl
@[simp] theorem State.setGrid_holds (s : State) (g : Grid) : (s.setGrid g).holds = s.holds := rfl
@[simp] theorem State.setGrid_chunks (s : State) (g : Grid) : (s.setGrid g).chunks = s.chunks := rfl
@[simp] theorem State.setGrid_portFree (s : State) (g : Grid) : (s.setGrid g).portFree = s.portFree := rfl
@[simp] theorem State.setGrid_eps (s : State) (g : Grid) : (s.setGrid g).eps = s.eps := rfl
@[simp] theorem State.setGrid_domains (s : State) (g : Grid) : (s.setGrid g).domains = s.domains := rfl
@[simp] theorem State.setGrid_parts (s : State) (g : Grid) : (s.setGrid g).parts = s.parts := rfl
@[simp] theorem State.setGrid_regs (s : State) (g : Grid) : (s.setGrid g).regs = s.regs := rfl
@[simp] theorem State.setGrid_trapWait (s : State) (g : Grid) : (s.setGrid g).trapWait = s.trapWait := rfl
@[simp] theorem State.setGrid_faults (s : State) (g : Grid) : (s.setGrid g).faults = s.faults := rfl
@[simp] theorem State.setGrid_faultSeq (s : State) (g : Grid) : (s.setGrid g).faultSeq = s.faultSeq := rfl
@[simp] theorem State.setGrid_resolving (s : State) (g : Grid) : (s.setGrid g).resolving = s.resolving := rfl
@[simp] theorem State.setGrid_leaves (s : State) (g : Grid) : (s.setGrid g).leaves = s.leaves := rfl
@[simp] theorem State.setGrid_runs (s : State) (g : Grid) : (s.setGrid g).runs = s.runs := rfl
@[simp] theorem State.setGrid_loose (s : State) (g : Grid) : (s.setGrid g).loose = s.loose := rfl
@[simp] theorem State.setGrid_lines (s : State) (g : Grid) : (s.setGrid g).lines = s.lines := rfl
@[simp] theorem State.setGrid_posted (s : State) (g : Grid) : (s.setGrid g).posted = s.posted := rfl
@[simp] theorem State.setGrid_dir (s : State) (g : Grid) : (s.setGrid g).dir = s.dir := rfl
@[simp] theorem State.setGrid_msc (s : State) (g : Grid) : (s.setGrid g).msc = s.msc := rfl
@[simp] theorem State.setGrid_swaps (s : State) (g : Grid) : (s.setGrid g).swaps = s.swaps := rfl
@[simp] theorem State.setGrid_clear (s : State) (g : Grid) : (s.setGrid g).clear = s.clear := rfl
@[simp] theorem State.setGrid_chans (s : State) (g : Grid) : (s.setGrid g).chans = s.chans := rfl
@[simp] theorem State.setGrid_partCmd (s : State) (g : Grid) : (s.setGrid g).partCmd = s.partCmd := rfl
@[simp] theorem State.setGrid_queues (s : State) (g : Grid) : (s.setGrid g).queues = s.queues := rfl
@[simp] theorem State.setGrid_csqSeen (s : State) (g : Grid) : (s.setGrid g).csqSeen = s.csqSeen := rfl
@[simp] theorem State.setGrid_claims (s : State) (g : Grid) : (s.setGrid g).claims = s.claims := rfl
@[simp] theorem State.setGrid_reds (s : State) (g : Grid) : (s.setGrid g).reds = s.reds := rfl
@[simp] theorem State.setGrid_latches (s : State) (g : Grid) : (s.setGrid g).latches = s.latches := rfl
@[simp] theorem State.setGrid_islands (s : State) (g : Grid) : (s.setGrid g).islands = s.islands := rfl
@[simp] theorem State.setGrid_dvfLast (s : State) (g : Grid) : (s.setGrid g).dvfLast = s.dvfLast := rfl
@[simp] theorem State.setGrid_winNo (s : State) (g : Grid) : (s.setGrid g).winNo = s.winNo := rfl
@[simp] theorem State.setGrid_winStep (s : State) (g : Grid) : (s.setGrid g).winStep = s.winStep := rfl
@[simp] theorem State.setGrid_winPrev (s : State) (g : Grid) : (s.setGrid g).winPrev = s.winPrev := rfl
@[simp] theorem State.setGrid_boot (s : State) (g : Grid) : (s.setGrid g).boot = s.boot := rfl
@[simp] theorem State.setGrid_meas (s : State) (g : Grid) : (s.setGrid g).meas = s.meas := rfl
@[simp] theorem State.setGrid_flashA (s : State) (g : Grid) : (s.setGrid g).flashA = s.flashA := rfl
@[simp] theorem State.setGrid_flashB (s : State) (g : Grid) : (s.setGrid g).flashB = s.flashB := rfl
@[simp] theorem State.setGrid_supImages (s : State) (g : Grid) : (s.setGrid g).supImages = s.supImages := rfl
@[simp] theorem State.setGrid_hostIf (s : State) (g : Grid) : (s.setGrid g).hostIf = s.hostIf := rfl
@[simp] theorem State.setGrid_time (s : State) (g : Grid) : (s.setGrid g).time = s.time := rfl
@[simp] theorem State.setGrid_busRead (s : State) (g : Grid) : (s.setGrid g).busRead = s.busRead := rfl
@[simp] theorem State.setGrid_outputs (s : State) (g : Grid) : (s.setGrid g).outputs = s.outputs := rfl

/-! ### setCmd -/

@[simp] theorem State.setCmd_agenda (s : State) (c : Cmd) : (s.setCmd c).agenda = s.agenda := rfl
@[simp] theorem State.setCmd_cur (s : State) (c : Cmd) : (s.setCmd c).cur = s.cur := rfl
@[simp] theorem State.setCmd_stepNo (s : State) (c : Cmd) : (s.setCmd c).stepNo = s.stepNo := rfl
@[simp] theorem State.setCmd_bootStep (s : State) (c : Cmd) : (s.setCmd c).bootStep = s.bootStep := rfl
@[simp] theorem State.setCmd_nowPs (s : State) (c : Cmd) : (s.setCmd c).nowPs = s.nowPs := rfl
@[simp] theorem State.setCmd_nextCtx (s : State) (c : Cmd) : (s.setCmd c).nextCtx = s.nextCtx := rfl
@[simp] theorem State.setCmd_nextCid (s : State) (c : Cmd) : (s.setCmd c).nextCid = s.nextCid := rfl
@[simp] theorem State.setCmd_nextKey (s : State) (c : Cmd) : (s.setCmd c).nextKey = s.nextKey := rfl
@[simp] theorem State.setCmd_nextExec (s : State) (c : Cmd) : (s.setCmd c).nextExec = s.nextExec := rfl
@[simp] theorem State.setCmd_mem (s : State) (c : Cmd) : (s.setCmd c).mem = s.mem := rfl
@[simp] theorem State.setCmd_emptyTags (s : State) (c : Cmd) : (s.setCmd c).emptyTags = s.emptyTags := rfl
@[simp] theorem State.setCmd_poison (s : State) (c : Cmd) : (s.setCmd c).poison = s.poison := rfl
@[simp] theorem State.setCmd_ctxs (s : State) (c : Cmd) : (s.setCmd c).ctxs = s.ctxs := rfl
@[simp] theorem State.setCmd_cores (s : State) (c : Cmd) : (s.setCmd c).cores = s.cores := rfl
@[simp] theorem State.setCmd_grids (s : State) (c : Cmd) : (s.setCmd c).grids = s.grids := rfl
@[simp] theorem State.setCmd_sessions (s : State) (c : Cmd) : (s.setCmd c).sessions = s.sessions := rfl
@[simp] theorem State.setCmd_jobs (s : State) (c : Cmd) : (s.setCmd c).jobs = s.jobs := rfl
@[simp] theorem State.setCmd_holds (s : State) (c : Cmd) : (s.setCmd c).holds = s.holds := rfl
@[simp] theorem State.setCmd_chunks (s : State) (c : Cmd) : (s.setCmd c).chunks = s.chunks := rfl
@[simp] theorem State.setCmd_portFree (s : State) (c : Cmd) : (s.setCmd c).portFree = s.portFree := rfl
@[simp] theorem State.setCmd_eps (s : State) (c : Cmd) : (s.setCmd c).eps = s.eps := rfl
@[simp] theorem State.setCmd_domains (s : State) (c : Cmd) : (s.setCmd c).domains = s.domains := rfl
@[simp] theorem State.setCmd_parts (s : State) (c : Cmd) : (s.setCmd c).parts = s.parts := rfl
@[simp] theorem State.setCmd_regs (s : State) (c : Cmd) : (s.setCmd c).regs = s.regs := rfl
@[simp] theorem State.setCmd_trapWait (s : State) (c : Cmd) : (s.setCmd c).trapWait = s.trapWait := rfl
@[simp] theorem State.setCmd_faults (s : State) (c : Cmd) : (s.setCmd c).faults = s.faults := rfl
@[simp] theorem State.setCmd_faultSeq (s : State) (c : Cmd) : (s.setCmd c).faultSeq = s.faultSeq := rfl
@[simp] theorem State.setCmd_resolving (s : State) (c : Cmd) : (s.setCmd c).resolving = s.resolving := rfl
@[simp] theorem State.setCmd_leaves (s : State) (c : Cmd) : (s.setCmd c).leaves = s.leaves := rfl
@[simp] theorem State.setCmd_runs (s : State) (c : Cmd) : (s.setCmd c).runs = s.runs := rfl
@[simp] theorem State.setCmd_loose (s : State) (c : Cmd) : (s.setCmd c).loose = s.loose := rfl
@[simp] theorem State.setCmd_lines (s : State) (c : Cmd) : (s.setCmd c).lines = s.lines := rfl
@[simp] theorem State.setCmd_posted (s : State) (c : Cmd) : (s.setCmd c).posted = s.posted := rfl
@[simp] theorem State.setCmd_dir (s : State) (c : Cmd) : (s.setCmd c).dir = s.dir := rfl
@[simp] theorem State.setCmd_msc (s : State) (c : Cmd) : (s.setCmd c).msc = s.msc := rfl
@[simp] theorem State.setCmd_swaps (s : State) (c : Cmd) : (s.setCmd c).swaps = s.swaps := rfl
@[simp] theorem State.setCmd_clear (s : State) (c : Cmd) : (s.setCmd c).clear = s.clear := rfl
@[simp] theorem State.setCmd_chans (s : State) (c : Cmd) : (s.setCmd c).chans = s.chans := rfl
@[simp] theorem State.setCmd_partCmd (s : State) (c : Cmd) : (s.setCmd c).partCmd = s.partCmd := rfl
@[simp] theorem State.setCmd_queues (s : State) (c : Cmd) : (s.setCmd c).queues = s.queues := rfl
@[simp] theorem State.setCmd_csqSeen (s : State) (c : Cmd) : (s.setCmd c).csqSeen = s.csqSeen := rfl
@[simp] theorem State.setCmd_claims (s : State) (c : Cmd) : (s.setCmd c).claims = s.claims := rfl
@[simp] theorem State.setCmd_reds (s : State) (c : Cmd) : (s.setCmd c).reds = s.reds := rfl
@[simp] theorem State.setCmd_latches (s : State) (c : Cmd) : (s.setCmd c).latches = s.latches := rfl
@[simp] theorem State.setCmd_islands (s : State) (c : Cmd) : (s.setCmd c).islands = s.islands := rfl
@[simp] theorem State.setCmd_dvfLast (s : State) (c : Cmd) : (s.setCmd c).dvfLast = s.dvfLast := rfl
@[simp] theorem State.setCmd_winNo (s : State) (c : Cmd) : (s.setCmd c).winNo = s.winNo := rfl
@[simp] theorem State.setCmd_winStep (s : State) (c : Cmd) : (s.setCmd c).winStep = s.winStep := rfl
@[simp] theorem State.setCmd_winPrev (s : State) (c : Cmd) : (s.setCmd c).winPrev = s.winPrev := rfl
@[simp] theorem State.setCmd_boot (s : State) (c : Cmd) : (s.setCmd c).boot = s.boot := rfl
@[simp] theorem State.setCmd_meas (s : State) (c : Cmd) : (s.setCmd c).meas = s.meas := rfl
@[simp] theorem State.setCmd_flashA (s : State) (c : Cmd) : (s.setCmd c).flashA = s.flashA := rfl
@[simp] theorem State.setCmd_flashB (s : State) (c : Cmd) : (s.setCmd c).flashB = s.flashB := rfl
@[simp] theorem State.setCmd_supImages (s : State) (c : Cmd) : (s.setCmd c).supImages = s.supImages := rfl
@[simp] theorem State.setCmd_hostIf (s : State) (c : Cmd) : (s.setCmd c).hostIf = s.hostIf := rfl
@[simp] theorem State.setCmd_time (s : State) (c : Cmd) : (s.setCmd c).time = s.time := rfl
@[simp] theorem State.setCmd_busRead (s : State) (c : Cmd) : (s.setCmd c).busRead = s.busRead := rfl
@[simp] theorem State.setCmd_outputs (s : State) (c : Cmd) : (s.setCmd c).outputs = s.outputs := rfl

/-! ### dropCmd -/

@[simp] theorem State.dropCmd_agenda (s : State) (n : Nat) : (s.dropCmd n).agenda = s.agenda := rfl
@[simp] theorem State.dropCmd_cur (s : State) (n : Nat) : (s.dropCmd n).cur = s.cur := rfl
@[simp] theorem State.dropCmd_stepNo (s : State) (n : Nat) : (s.dropCmd n).stepNo = s.stepNo := rfl
@[simp] theorem State.dropCmd_bootStep (s : State) (n : Nat) : (s.dropCmd n).bootStep = s.bootStep := rfl
@[simp] theorem State.dropCmd_nowPs (s : State) (n : Nat) : (s.dropCmd n).nowPs = s.nowPs := rfl
@[simp] theorem State.dropCmd_nextCtx (s : State) (n : Nat) : (s.dropCmd n).nextCtx = s.nextCtx := rfl
@[simp] theorem State.dropCmd_nextCid (s : State) (n : Nat) : (s.dropCmd n).nextCid = s.nextCid := rfl
@[simp] theorem State.dropCmd_nextKey (s : State) (n : Nat) : (s.dropCmd n).nextKey = s.nextKey := rfl
@[simp] theorem State.dropCmd_nextExec (s : State) (n : Nat) : (s.dropCmd n).nextExec = s.nextExec := rfl
@[simp] theorem State.dropCmd_mem (s : State) (n : Nat) : (s.dropCmd n).mem = s.mem := rfl
@[simp] theorem State.dropCmd_emptyTags (s : State) (n : Nat) : (s.dropCmd n).emptyTags = s.emptyTags := rfl
@[simp] theorem State.dropCmd_poison (s : State) (n : Nat) : (s.dropCmd n).poison = s.poison := rfl
@[simp] theorem State.dropCmd_ctxs (s : State) (n : Nat) : (s.dropCmd n).ctxs = s.ctxs := rfl
@[simp] theorem State.dropCmd_cores (s : State) (n : Nat) : (s.dropCmd n).cores = s.cores := rfl
@[simp] theorem State.dropCmd_grids (s : State) (n : Nat) : (s.dropCmd n).grids = s.grids := rfl
@[simp] theorem State.dropCmd_sessions (s : State) (n : Nat) : (s.dropCmd n).sessions = s.sessions := rfl
@[simp] theorem State.dropCmd_jobs (s : State) (n : Nat) : (s.dropCmd n).jobs = s.jobs := rfl
@[simp] theorem State.dropCmd_holds (s : State) (n : Nat) : (s.dropCmd n).holds = s.holds := rfl
@[simp] theorem State.dropCmd_chunks (s : State) (n : Nat) : (s.dropCmd n).chunks = s.chunks := rfl
@[simp] theorem State.dropCmd_portFree (s : State) (n : Nat) : (s.dropCmd n).portFree = s.portFree := rfl
@[simp] theorem State.dropCmd_eps (s : State) (n : Nat) : (s.dropCmd n).eps = s.eps := rfl
@[simp] theorem State.dropCmd_domains (s : State) (n : Nat) : (s.dropCmd n).domains = s.domains := rfl
@[simp] theorem State.dropCmd_parts (s : State) (n : Nat) : (s.dropCmd n).parts = s.parts := rfl
@[simp] theorem State.dropCmd_regs (s : State) (n : Nat) : (s.dropCmd n).regs = s.regs := rfl
@[simp] theorem State.dropCmd_trapWait (s : State) (n : Nat) : (s.dropCmd n).trapWait = s.trapWait := rfl
@[simp] theorem State.dropCmd_faults (s : State) (n : Nat) : (s.dropCmd n).faults = s.faults := rfl
@[simp] theorem State.dropCmd_faultSeq (s : State) (n : Nat) : (s.dropCmd n).faultSeq = s.faultSeq := rfl
@[simp] theorem State.dropCmd_resolving (s : State) (n : Nat) : (s.dropCmd n).resolving = s.resolving := rfl
@[simp] theorem State.dropCmd_leaves (s : State) (n : Nat) : (s.dropCmd n).leaves = s.leaves := rfl
@[simp] theorem State.dropCmd_runs (s : State) (n : Nat) : (s.dropCmd n).runs = s.runs := rfl
@[simp] theorem State.dropCmd_loose (s : State) (n : Nat) : (s.dropCmd n).loose = s.loose := rfl
@[simp] theorem State.dropCmd_lines (s : State) (n : Nat) : (s.dropCmd n).lines = s.lines := rfl
@[simp] theorem State.dropCmd_posted (s : State) (n : Nat) : (s.dropCmd n).posted = s.posted := rfl
@[simp] theorem State.dropCmd_dir (s : State) (n : Nat) : (s.dropCmd n).dir = s.dir := rfl
@[simp] theorem State.dropCmd_msc (s : State) (n : Nat) : (s.dropCmd n).msc = s.msc := rfl
@[simp] theorem State.dropCmd_swaps (s : State) (n : Nat) : (s.dropCmd n).swaps = s.swaps := rfl
@[simp] theorem State.dropCmd_clear (s : State) (n : Nat) : (s.dropCmd n).clear = s.clear := rfl
@[simp] theorem State.dropCmd_chans (s : State) (n : Nat) : (s.dropCmd n).chans = s.chans := rfl
@[simp] theorem State.dropCmd_partCmd (s : State) (n : Nat) : (s.dropCmd n).partCmd = s.partCmd := rfl
@[simp] theorem State.dropCmd_queues (s : State) (n : Nat) : (s.dropCmd n).queues = s.queues := rfl
@[simp] theorem State.dropCmd_csqSeen (s : State) (n : Nat) : (s.dropCmd n).csqSeen = s.csqSeen := rfl
@[simp] theorem State.dropCmd_claims (s : State) (n : Nat) : (s.dropCmd n).claims = s.claims := rfl
@[simp] theorem State.dropCmd_reds (s : State) (n : Nat) : (s.dropCmd n).reds = s.reds := rfl
@[simp] theorem State.dropCmd_latches (s : State) (n : Nat) : (s.dropCmd n).latches = s.latches := rfl
@[simp] theorem State.dropCmd_islands (s : State) (n : Nat) : (s.dropCmd n).islands = s.islands := rfl
@[simp] theorem State.dropCmd_dvfLast (s : State) (n : Nat) : (s.dropCmd n).dvfLast = s.dvfLast := rfl
@[simp] theorem State.dropCmd_winNo (s : State) (n : Nat) : (s.dropCmd n).winNo = s.winNo := rfl
@[simp] theorem State.dropCmd_winStep (s : State) (n : Nat) : (s.dropCmd n).winStep = s.winStep := rfl
@[simp] theorem State.dropCmd_winPrev (s : State) (n : Nat) : (s.dropCmd n).winPrev = s.winPrev := rfl
@[simp] theorem State.dropCmd_boot (s : State) (n : Nat) : (s.dropCmd n).boot = s.boot := rfl
@[simp] theorem State.dropCmd_meas (s : State) (n : Nat) : (s.dropCmd n).meas = s.meas := rfl
@[simp] theorem State.dropCmd_flashA (s : State) (n : Nat) : (s.dropCmd n).flashA = s.flashA := rfl
@[simp] theorem State.dropCmd_flashB (s : State) (n : Nat) : (s.dropCmd n).flashB = s.flashB := rfl
@[simp] theorem State.dropCmd_supImages (s : State) (n : Nat) : (s.dropCmd n).supImages = s.supImages := rfl
@[simp] theorem State.dropCmd_hostIf (s : State) (n : Nat) : (s.dropCmd n).hostIf = s.hostIf := rfl
@[simp] theorem State.dropCmd_time (s : State) (n : Nat) : (s.dropCmd n).time = s.time := rfl
@[simp] theorem State.dropCmd_busRead (s : State) (n : Nat) : (s.dropCmd n).busRead = s.busRead := rfl
@[simp] theorem State.dropCmd_outputs (s : State) (n : Nat) : (s.dropCmd n).outputs = s.outputs := rfl

/-! ### setPart -/

@[simp] theorem State.setPart_agenda (s : State) (p : PartState) : (s.setPart p).agenda = s.agenda := rfl
@[simp] theorem State.setPart_cur (s : State) (p : PartState) : (s.setPart p).cur = s.cur := rfl
@[simp] theorem State.setPart_stepNo (s : State) (p : PartState) : (s.setPart p).stepNo = s.stepNo := rfl
@[simp] theorem State.setPart_bootStep (s : State) (p : PartState) : (s.setPart p).bootStep = s.bootStep := rfl
@[simp] theorem State.setPart_nowPs (s : State) (p : PartState) : (s.setPart p).nowPs = s.nowPs := rfl
@[simp] theorem State.setPart_nextCtx (s : State) (p : PartState) : (s.setPart p).nextCtx = s.nextCtx := rfl
@[simp] theorem State.setPart_nextCid (s : State) (p : PartState) : (s.setPart p).nextCid = s.nextCid := rfl
@[simp] theorem State.setPart_nextKey (s : State) (p : PartState) : (s.setPart p).nextKey = s.nextKey := rfl
@[simp] theorem State.setPart_nextExec (s : State) (p : PartState) : (s.setPart p).nextExec = s.nextExec := rfl
@[simp] theorem State.setPart_mem (s : State) (p : PartState) : (s.setPart p).mem = s.mem := rfl
@[simp] theorem State.setPart_emptyTags (s : State) (p : PartState) : (s.setPart p).emptyTags = s.emptyTags := rfl
@[simp] theorem State.setPart_poison (s : State) (p : PartState) : (s.setPart p).poison = s.poison := rfl
@[simp] theorem State.setPart_ctxs (s : State) (p : PartState) : (s.setPart p).ctxs = s.ctxs := rfl
@[simp] theorem State.setPart_cores (s : State) (p : PartState) : (s.setPart p).cores = s.cores := rfl
@[simp] theorem State.setPart_cmds (s : State) (p : PartState) : (s.setPart p).cmds = s.cmds := rfl
@[simp] theorem State.setPart_grids (s : State) (p : PartState) : (s.setPart p).grids = s.grids := rfl
@[simp] theorem State.setPart_sessions (s : State) (p : PartState) : (s.setPart p).sessions = s.sessions := rfl
@[simp] theorem State.setPart_jobs (s : State) (p : PartState) : (s.setPart p).jobs = s.jobs := rfl
@[simp] theorem State.setPart_holds (s : State) (p : PartState) : (s.setPart p).holds = s.holds := rfl
@[simp] theorem State.setPart_chunks (s : State) (p : PartState) : (s.setPart p).chunks = s.chunks := rfl
@[simp] theorem State.setPart_portFree (s : State) (p : PartState) : (s.setPart p).portFree = s.portFree := rfl
@[simp] theorem State.setPart_eps (s : State) (p : PartState) : (s.setPart p).eps = s.eps := rfl
@[simp] theorem State.setPart_domains (s : State) (p : PartState) : (s.setPart p).domains = s.domains := rfl
@[simp] theorem State.setPart_regs (s : State) (p : PartState) : (s.setPart p).regs = s.regs := rfl
@[simp] theorem State.setPart_trapWait (s : State) (p : PartState) : (s.setPart p).trapWait = s.trapWait := rfl
@[simp] theorem State.setPart_faults (s : State) (p : PartState) : (s.setPart p).faults = s.faults := rfl
@[simp] theorem State.setPart_faultSeq (s : State) (p : PartState) : (s.setPart p).faultSeq = s.faultSeq := rfl
@[simp] theorem State.setPart_resolving (s : State) (p : PartState) : (s.setPart p).resolving = s.resolving := rfl
@[simp] theorem State.setPart_leaves (s : State) (p : PartState) : (s.setPart p).leaves = s.leaves := rfl
@[simp] theorem State.setPart_runs (s : State) (p : PartState) : (s.setPart p).runs = s.runs := rfl
@[simp] theorem State.setPart_loose (s : State) (p : PartState) : (s.setPart p).loose = s.loose := rfl
@[simp] theorem State.setPart_lines (s : State) (p : PartState) : (s.setPart p).lines = s.lines := rfl
@[simp] theorem State.setPart_posted (s : State) (p : PartState) : (s.setPart p).posted = s.posted := rfl
@[simp] theorem State.setPart_dir (s : State) (p : PartState) : (s.setPart p).dir = s.dir := rfl
@[simp] theorem State.setPart_msc (s : State) (p : PartState) : (s.setPart p).msc = s.msc := rfl
@[simp] theorem State.setPart_swaps (s : State) (p : PartState) : (s.setPart p).swaps = s.swaps := rfl
@[simp] theorem State.setPart_clear (s : State) (p : PartState) : (s.setPart p).clear = s.clear := rfl
@[simp] theorem State.setPart_chans (s : State) (p : PartState) : (s.setPart p).chans = s.chans := rfl
@[simp] theorem State.setPart_partCmd (s : State) (p : PartState) : (s.setPart p).partCmd = s.partCmd := rfl
@[simp] theorem State.setPart_queues (s : State) (p : PartState) : (s.setPart p).queues = s.queues := rfl
@[simp] theorem State.setPart_csqSeen (s : State) (p : PartState) : (s.setPart p).csqSeen = s.csqSeen := rfl
@[simp] theorem State.setPart_claims (s : State) (p : PartState) : (s.setPart p).claims = s.claims := rfl
@[simp] theorem State.setPart_reds (s : State) (p : PartState) : (s.setPart p).reds = s.reds := rfl
@[simp] theorem State.setPart_latches (s : State) (p : PartState) : (s.setPart p).latches = s.latches := rfl
@[simp] theorem State.setPart_islands (s : State) (p : PartState) : (s.setPart p).islands = s.islands := rfl
@[simp] theorem State.setPart_dvfLast (s : State) (p : PartState) : (s.setPart p).dvfLast = s.dvfLast := rfl
@[simp] theorem State.setPart_winNo (s : State) (p : PartState) : (s.setPart p).winNo = s.winNo := rfl
@[simp] theorem State.setPart_winStep (s : State) (p : PartState) : (s.setPart p).winStep = s.winStep := rfl
@[simp] theorem State.setPart_winPrev (s : State) (p : PartState) : (s.setPart p).winPrev = s.winPrev := rfl
@[simp] theorem State.setPart_boot (s : State) (p : PartState) : (s.setPart p).boot = s.boot := rfl
@[simp] theorem State.setPart_meas (s : State) (p : PartState) : (s.setPart p).meas = s.meas := rfl
@[simp] theorem State.setPart_flashA (s : State) (p : PartState) : (s.setPart p).flashA = s.flashA := rfl
@[simp] theorem State.setPart_flashB (s : State) (p : PartState) : (s.setPart p).flashB = s.flashB := rfl
@[simp] theorem State.setPart_supImages (s : State) (p : PartState) : (s.setPart p).supImages = s.supImages := rfl
@[simp] theorem State.setPart_hostIf (s : State) (p : PartState) : (s.setPart p).hostIf = s.hostIf := rfl
@[simp] theorem State.setPart_time (s : State) (p : PartState) : (s.setPart p).time = s.time := rfl
@[simp] theorem State.setPart_busRead (s : State) (p : PartState) : (s.setPart p).busRead = s.busRead := rfl
@[simp] theorem State.setPart_outputs (s : State) (p : PartState) : (s.setPart p).outputs = s.outputs := rfl

/-! ### output -/

@[simp] theorem State.output_agenda (s : State) (o : Output) : (s.output o).agenda = s.agenda := rfl
@[simp] theorem State.output_cur (s : State) (o : Output) : (s.output o).cur = s.cur := rfl
@[simp] theorem State.output_stepNo (s : State) (o : Output) : (s.output o).stepNo = s.stepNo := rfl
@[simp] theorem State.output_bootStep (s : State) (o : Output) : (s.output o).bootStep = s.bootStep := rfl
@[simp] theorem State.output_nowPs (s : State) (o : Output) : (s.output o).nowPs = s.nowPs := rfl
@[simp] theorem State.output_nextCtx (s : State) (o : Output) : (s.output o).nextCtx = s.nextCtx := rfl
@[simp] theorem State.output_nextCid (s : State) (o : Output) : (s.output o).nextCid = s.nextCid := rfl
@[simp] theorem State.output_nextKey (s : State) (o : Output) : (s.output o).nextKey = s.nextKey := rfl
@[simp] theorem State.output_nextExec (s : State) (o : Output) : (s.output o).nextExec = s.nextExec := rfl
@[simp] theorem State.output_mem (s : State) (o : Output) : (s.output o).mem = s.mem := rfl
@[simp] theorem State.output_emptyTags (s : State) (o : Output) : (s.output o).emptyTags = s.emptyTags := rfl
@[simp] theorem State.output_poison (s : State) (o : Output) : (s.output o).poison = s.poison := rfl
@[simp] theorem State.output_ctxs (s : State) (o : Output) : (s.output o).ctxs = s.ctxs := rfl
@[simp] theorem State.output_cores (s : State) (o : Output) : (s.output o).cores = s.cores := rfl
@[simp] theorem State.output_cmds (s : State) (o : Output) : (s.output o).cmds = s.cmds := rfl
@[simp] theorem State.output_grids (s : State) (o : Output) : (s.output o).grids = s.grids := rfl
@[simp] theorem State.output_sessions (s : State) (o : Output) : (s.output o).sessions = s.sessions := rfl
@[simp] theorem State.output_jobs (s : State) (o : Output) : (s.output o).jobs = s.jobs := rfl
@[simp] theorem State.output_holds (s : State) (o : Output) : (s.output o).holds = s.holds := rfl
@[simp] theorem State.output_chunks (s : State) (o : Output) : (s.output o).chunks = s.chunks := rfl
@[simp] theorem State.output_portFree (s : State) (o : Output) : (s.output o).portFree = s.portFree := rfl
@[simp] theorem State.output_eps (s : State) (o : Output) : (s.output o).eps = s.eps := rfl
@[simp] theorem State.output_domains (s : State) (o : Output) : (s.output o).domains = s.domains := rfl
@[simp] theorem State.output_parts (s : State) (o : Output) : (s.output o).parts = s.parts := rfl
@[simp] theorem State.output_regs (s : State) (o : Output) : (s.output o).regs = s.regs := rfl
@[simp] theorem State.output_trapWait (s : State) (o : Output) : (s.output o).trapWait = s.trapWait := rfl
@[simp] theorem State.output_faults (s : State) (o : Output) : (s.output o).faults = s.faults := rfl
@[simp] theorem State.output_faultSeq (s : State) (o : Output) : (s.output o).faultSeq = s.faultSeq := rfl
@[simp] theorem State.output_resolving (s : State) (o : Output) : (s.output o).resolving = s.resolving := rfl
@[simp] theorem State.output_leaves (s : State) (o : Output) : (s.output o).leaves = s.leaves := rfl
@[simp] theorem State.output_runs (s : State) (o : Output) : (s.output o).runs = s.runs := rfl
@[simp] theorem State.output_loose (s : State) (o : Output) : (s.output o).loose = s.loose := rfl
@[simp] theorem State.output_lines (s : State) (o : Output) : (s.output o).lines = s.lines := rfl
@[simp] theorem State.output_posted (s : State) (o : Output) : (s.output o).posted = s.posted := rfl
@[simp] theorem State.output_dir (s : State) (o : Output) : (s.output o).dir = s.dir := rfl
@[simp] theorem State.output_msc (s : State) (o : Output) : (s.output o).msc = s.msc := rfl
@[simp] theorem State.output_swaps (s : State) (o : Output) : (s.output o).swaps = s.swaps := rfl
@[simp] theorem State.output_clear (s : State) (o : Output) : (s.output o).clear = s.clear := rfl
@[simp] theorem State.output_chans (s : State) (o : Output) : (s.output o).chans = s.chans := rfl
@[simp] theorem State.output_partCmd (s : State) (o : Output) : (s.output o).partCmd = s.partCmd := rfl
@[simp] theorem State.output_queues (s : State) (o : Output) : (s.output o).queues = s.queues := rfl
@[simp] theorem State.output_csqSeen (s : State) (o : Output) : (s.output o).csqSeen = s.csqSeen := rfl
@[simp] theorem State.output_claims (s : State) (o : Output) : (s.output o).claims = s.claims := rfl
@[simp] theorem State.output_reds (s : State) (o : Output) : (s.output o).reds = s.reds := rfl
@[simp] theorem State.output_latches (s : State) (o : Output) : (s.output o).latches = s.latches := rfl
@[simp] theorem State.output_islands (s : State) (o : Output) : (s.output o).islands = s.islands := rfl
@[simp] theorem State.output_dvfLast (s : State) (o : Output) : (s.output o).dvfLast = s.dvfLast := rfl
@[simp] theorem State.output_winNo (s : State) (o : Output) : (s.output o).winNo = s.winNo := rfl
@[simp] theorem State.output_winStep (s : State) (o : Output) : (s.output o).winStep = s.winStep := rfl
@[simp] theorem State.output_winPrev (s : State) (o : Output) : (s.output o).winPrev = s.winPrev := rfl
@[simp] theorem State.output_boot (s : State) (o : Output) : (s.output o).boot = s.boot := rfl
@[simp] theorem State.output_meas (s : State) (o : Output) : (s.output o).meas = s.meas := rfl
@[simp] theorem State.output_flashA (s : State) (o : Output) : (s.output o).flashA = s.flashA := rfl
@[simp] theorem State.output_flashB (s : State) (o : Output) : (s.output o).flashB = s.flashB := rfl
@[simp] theorem State.output_supImages (s : State) (o : Output) : (s.output o).supImages = s.supImages := rfl
@[simp] theorem State.output_hostIf (s : State) (o : Output) : (s.output o).hostIf = s.hostIf := rfl
@[simp] theorem State.output_time (s : State) (o : Output) : (s.output o).time = s.time := rfl
@[simp] theorem State.output_busRead (s : State) (o : Output) : (s.output o).busRead = s.busRead := rfl

/-! ### store -/

@[simp] theorem State.store_agenda (s : State) (k n v : Nat) : (s.store k n v).agenda = s.agenda := rfl
@[simp] theorem State.store_cur (s : State) (k n v : Nat) : (s.store k n v).cur = s.cur := rfl
@[simp] theorem State.store_stepNo (s : State) (k n v : Nat) : (s.store k n v).stepNo = s.stepNo := rfl
@[simp] theorem State.store_bootStep (s : State) (k n v : Nat) : (s.store k n v).bootStep = s.bootStep := rfl
@[simp] theorem State.store_nowPs (s : State) (k n v : Nat) : (s.store k n v).nowPs = s.nowPs := rfl
@[simp] theorem State.store_nextCtx (s : State) (k n v : Nat) : (s.store k n v).nextCtx = s.nextCtx := rfl
@[simp] theorem State.store_nextCid (s : State) (k n v : Nat) : (s.store k n v).nextCid = s.nextCid := rfl
@[simp] theorem State.store_nextKey (s : State) (k n v : Nat) : (s.store k n v).nextKey = s.nextKey := rfl
@[simp] theorem State.store_nextExec (s : State) (k n v : Nat) : (s.store k n v).nextExec = s.nextExec := rfl
@[simp] theorem State.store_emptyTags (s : State) (k n v : Nat) : (s.store k n v).emptyTags = s.emptyTags := rfl
@[simp] theorem State.store_poison (s : State) (k n v : Nat) : (s.store k n v).poison = s.poison := rfl
@[simp] theorem State.store_ctxs (s : State) (k n v : Nat) : (s.store k n v).ctxs = s.ctxs := rfl
@[simp] theorem State.store_cores (s : State) (k n v : Nat) : (s.store k n v).cores = s.cores := rfl
@[simp] theorem State.store_cmds (s : State) (k n v : Nat) : (s.store k n v).cmds = s.cmds := rfl
@[simp] theorem State.store_grids (s : State) (k n v : Nat) : (s.store k n v).grids = s.grids := rfl
@[simp] theorem State.store_sessions (s : State) (k n v : Nat) : (s.store k n v).sessions = s.sessions := rfl
@[simp] theorem State.store_jobs (s : State) (k n v : Nat) : (s.store k n v).jobs = s.jobs := rfl
@[simp] theorem State.store_holds (s : State) (k n v : Nat) : (s.store k n v).holds = s.holds := rfl
@[simp] theorem State.store_chunks (s : State) (k n v : Nat) : (s.store k n v).chunks = s.chunks := rfl
@[simp] theorem State.store_portFree (s : State) (k n v : Nat) : (s.store k n v).portFree = s.portFree := rfl
@[simp] theorem State.store_eps (s : State) (k n v : Nat) : (s.store k n v).eps = s.eps := rfl
@[simp] theorem State.store_domains (s : State) (k n v : Nat) : (s.store k n v).domains = s.domains := rfl
@[simp] theorem State.store_parts (s : State) (k n v : Nat) : (s.store k n v).parts = s.parts := rfl
@[simp] theorem State.store_regs (s : State) (k n v : Nat) : (s.store k n v).regs = s.regs := rfl
@[simp] theorem State.store_trapWait (s : State) (k n v : Nat) : (s.store k n v).trapWait = s.trapWait := rfl
@[simp] theorem State.store_faults (s : State) (k n v : Nat) : (s.store k n v).faults = s.faults := rfl
@[simp] theorem State.store_faultSeq (s : State) (k n v : Nat) : (s.store k n v).faultSeq = s.faultSeq := rfl
@[simp] theorem State.store_resolving (s : State) (k n v : Nat) : (s.store k n v).resolving = s.resolving := rfl
@[simp] theorem State.store_leaves (s : State) (k n v : Nat) : (s.store k n v).leaves = s.leaves := rfl
@[simp] theorem State.store_runs (s : State) (k n v : Nat) : (s.store k n v).runs = s.runs := rfl
@[simp] theorem State.store_loose (s : State) (k n v : Nat) : (s.store k n v).loose = s.loose := rfl
@[simp] theorem State.store_lines (s : State) (k n v : Nat) : (s.store k n v).lines = s.lines := rfl
@[simp] theorem State.store_posted (s : State) (k n v : Nat) : (s.store k n v).posted = s.posted := rfl
@[simp] theorem State.store_dir (s : State) (k n v : Nat) : (s.store k n v).dir = s.dir := rfl
@[simp] theorem State.store_msc (s : State) (k n v : Nat) : (s.store k n v).msc = s.msc := rfl
@[simp] theorem State.store_swaps (s : State) (k n v : Nat) : (s.store k n v).swaps = s.swaps := rfl
@[simp] theorem State.store_clear (s : State) (k n v : Nat) : (s.store k n v).clear = s.clear := rfl
@[simp] theorem State.store_chans (s : State) (k n v : Nat) : (s.store k n v).chans = s.chans := rfl
@[simp] theorem State.store_partCmd (s : State) (k n v : Nat) : (s.store k n v).partCmd = s.partCmd := rfl
@[simp] theorem State.store_queues (s : State) (k n v : Nat) : (s.store k n v).queues = s.queues := rfl
@[simp] theorem State.store_csqSeen (s : State) (k n v : Nat) : (s.store k n v).csqSeen = s.csqSeen := rfl
@[simp] theorem State.store_claims (s : State) (k n v : Nat) : (s.store k n v).claims = s.claims := rfl
@[simp] theorem State.store_reds (s : State) (k n v : Nat) : (s.store k n v).reds = s.reds := rfl
@[simp] theorem State.store_latches (s : State) (k n v : Nat) : (s.store k n v).latches = s.latches := rfl
@[simp] theorem State.store_islands (s : State) (k n v : Nat) : (s.store k n v).islands = s.islands := rfl
@[simp] theorem State.store_dvfLast (s : State) (k n v : Nat) : (s.store k n v).dvfLast = s.dvfLast := rfl
@[simp] theorem State.store_winNo (s : State) (k n v : Nat) : (s.store k n v).winNo = s.winNo := rfl
@[simp] theorem State.store_winStep (s : State) (k n v : Nat) : (s.store k n v).winStep = s.winStep := rfl
@[simp] theorem State.store_winPrev (s : State) (k n v : Nat) : (s.store k n v).winPrev = s.winPrev := rfl
@[simp] theorem State.store_boot (s : State) (k n v : Nat) : (s.store k n v).boot = s.boot := rfl
@[simp] theorem State.store_meas (s : State) (k n v : Nat) : (s.store k n v).meas = s.meas := rfl
@[simp] theorem State.store_flashA (s : State) (k n v : Nat) : (s.store k n v).flashA = s.flashA := rfl
@[simp] theorem State.store_flashB (s : State) (k n v : Nat) : (s.store k n v).flashB = s.flashB := rfl
@[simp] theorem State.store_supImages (s : State) (k n v : Nat) : (s.store k n v).supImages = s.supImages := rfl
@[simp] theorem State.store_hostIf (s : State) (k n v : Nat) : (s.store k n v).hostIf = s.hostIf := rfl
@[simp] theorem State.store_time (s : State) (k n v : Nat) : (s.store k n v).time = s.time := rfl
@[simp] theorem State.store_busRead (s : State) (k n v : Nat) : (s.store k n v).busRead = s.busRead := rfl
@[simp] theorem State.store_outputs (s : State) (k n v : Nat) : (s.store k n v).outputs = s.outputs := rfl

/-! ### storeBytes -/

@[simp] theorem State.storeBytes_agenda (s : State) (k : Nat) (bs : List Byte) : (s.storeBytes k bs).agenda = s.agenda := rfl
@[simp] theorem State.storeBytes_cur (s : State) (k : Nat) (bs : List Byte) : (s.storeBytes k bs).cur = s.cur := rfl
@[simp] theorem State.storeBytes_stepNo (s : State) (k : Nat) (bs : List Byte) : (s.storeBytes k bs).stepNo = s.stepNo := rfl
@[simp] theorem State.storeBytes_bootStep (s : State) (k : Nat) (bs : List Byte) : (s.storeBytes k bs).bootStep = s.bootStep := rfl
@[simp] theorem State.storeBytes_nowPs (s : State) (k : Nat) (bs : List Byte) : (s.storeBytes k bs).nowPs = s.nowPs := rfl
@[simp] theorem State.storeBytes_nextCtx (s : State) (k : Nat) (bs : List Byte) : (s.storeBytes k bs).nextCtx = s.nextCtx := rfl
@[simp] theorem State.storeBytes_nextCid (s : State) (k : Nat) (bs : List Byte) : (s.storeBytes k bs).nextCid = s.nextCid := rfl
@[simp] theorem State.storeBytes_nextKey (s : State) (k : Nat) (bs : List Byte) : (s.storeBytes k bs).nextKey = s.nextKey := rfl
@[simp] theorem State.storeBytes_nextExec (s : State) (k : Nat) (bs : List Byte) : (s.storeBytes k bs).nextExec = s.nextExec := rfl
@[simp] theorem State.storeBytes_emptyTags (s : State) (k : Nat) (bs : List Byte) : (s.storeBytes k bs).emptyTags = s.emptyTags := rfl
@[simp] theorem State.storeBytes_poison (s : State) (k : Nat) (bs : List Byte) : (s.storeBytes k bs).poison = s.poison := rfl
@[simp] theorem State.storeBytes_ctxs (s : State) (k : Nat) (bs : List Byte) : (s.storeBytes k bs).ctxs = s.ctxs := rfl
@[simp] theorem State.storeBytes_cores (s : State) (k : Nat) (bs : List Byte) : (s.storeBytes k bs).cores = s.cores := rfl
@[simp] theorem State.storeBytes_cmds (s : State) (k : Nat) (bs : List Byte) : (s.storeBytes k bs).cmds = s.cmds := rfl
@[simp] theorem State.storeBytes_grids (s : State) (k : Nat) (bs : List Byte) : (s.storeBytes k bs).grids = s.grids := rfl
@[simp] theorem State.storeBytes_sessions (s : State) (k : Nat) (bs : List Byte) : (s.storeBytes k bs).sessions = s.sessions := rfl
@[simp] theorem State.storeBytes_jobs (s : State) (k : Nat) (bs : List Byte) : (s.storeBytes k bs).jobs = s.jobs := rfl
@[simp] theorem State.storeBytes_holds (s : State) (k : Nat) (bs : List Byte) : (s.storeBytes k bs).holds = s.holds := rfl
@[simp] theorem State.storeBytes_chunks (s : State) (k : Nat) (bs : List Byte) : (s.storeBytes k bs).chunks = s.chunks := rfl
@[simp] theorem State.storeBytes_portFree (s : State) (k : Nat) (bs : List Byte) : (s.storeBytes k bs).portFree = s.portFree := rfl
@[simp] theorem State.storeBytes_eps (s : State) (k : Nat) (bs : List Byte) : (s.storeBytes k bs).eps = s.eps := rfl
@[simp] theorem State.storeBytes_domains (s : State) (k : Nat) (bs : List Byte) : (s.storeBytes k bs).domains = s.domains := rfl
@[simp] theorem State.storeBytes_parts (s : State) (k : Nat) (bs : List Byte) : (s.storeBytes k bs).parts = s.parts := rfl
@[simp] theorem State.storeBytes_regs (s : State) (k : Nat) (bs : List Byte) : (s.storeBytes k bs).regs = s.regs := rfl
@[simp] theorem State.storeBytes_trapWait (s : State) (k : Nat) (bs : List Byte) : (s.storeBytes k bs).trapWait = s.trapWait := rfl
@[simp] theorem State.storeBytes_faults (s : State) (k : Nat) (bs : List Byte) : (s.storeBytes k bs).faults = s.faults := rfl
@[simp] theorem State.storeBytes_faultSeq (s : State) (k : Nat) (bs : List Byte) : (s.storeBytes k bs).faultSeq = s.faultSeq := rfl
@[simp] theorem State.storeBytes_resolving (s : State) (k : Nat) (bs : List Byte) : (s.storeBytes k bs).resolving = s.resolving := rfl
@[simp] theorem State.storeBytes_leaves (s : State) (k : Nat) (bs : List Byte) : (s.storeBytes k bs).leaves = s.leaves := rfl
@[simp] theorem State.storeBytes_runs (s : State) (k : Nat) (bs : List Byte) : (s.storeBytes k bs).runs = s.runs := rfl
@[simp] theorem State.storeBytes_loose (s : State) (k : Nat) (bs : List Byte) : (s.storeBytes k bs).loose = s.loose := rfl
@[simp] theorem State.storeBytes_lines (s : State) (k : Nat) (bs : List Byte) : (s.storeBytes k bs).lines = s.lines := rfl
@[simp] theorem State.storeBytes_posted (s : State) (k : Nat) (bs : List Byte) : (s.storeBytes k bs).posted = s.posted := rfl
@[simp] theorem State.storeBytes_dir (s : State) (k : Nat) (bs : List Byte) : (s.storeBytes k bs).dir = s.dir := rfl
@[simp] theorem State.storeBytes_msc (s : State) (k : Nat) (bs : List Byte) : (s.storeBytes k bs).msc = s.msc := rfl
@[simp] theorem State.storeBytes_swaps (s : State) (k : Nat) (bs : List Byte) : (s.storeBytes k bs).swaps = s.swaps := rfl
@[simp] theorem State.storeBytes_clear (s : State) (k : Nat) (bs : List Byte) : (s.storeBytes k bs).clear = s.clear := rfl
@[simp] theorem State.storeBytes_chans (s : State) (k : Nat) (bs : List Byte) : (s.storeBytes k bs).chans = s.chans := rfl
@[simp] theorem State.storeBytes_partCmd (s : State) (k : Nat) (bs : List Byte) : (s.storeBytes k bs).partCmd = s.partCmd := rfl
@[simp] theorem State.storeBytes_queues (s : State) (k : Nat) (bs : List Byte) : (s.storeBytes k bs).queues = s.queues := rfl
@[simp] theorem State.storeBytes_csqSeen (s : State) (k : Nat) (bs : List Byte) : (s.storeBytes k bs).csqSeen = s.csqSeen := rfl
@[simp] theorem State.storeBytes_claims (s : State) (k : Nat) (bs : List Byte) : (s.storeBytes k bs).claims = s.claims := rfl
@[simp] theorem State.storeBytes_reds (s : State) (k : Nat) (bs : List Byte) : (s.storeBytes k bs).reds = s.reds := rfl
@[simp] theorem State.storeBytes_latches (s : State) (k : Nat) (bs : List Byte) : (s.storeBytes k bs).latches = s.latches := rfl
@[simp] theorem State.storeBytes_islands (s : State) (k : Nat) (bs : List Byte) : (s.storeBytes k bs).islands = s.islands := rfl
@[simp] theorem State.storeBytes_dvfLast (s : State) (k : Nat) (bs : List Byte) : (s.storeBytes k bs).dvfLast = s.dvfLast := rfl
@[simp] theorem State.storeBytes_winNo (s : State) (k : Nat) (bs : List Byte) : (s.storeBytes k bs).winNo = s.winNo := rfl
@[simp] theorem State.storeBytes_winStep (s : State) (k : Nat) (bs : List Byte) : (s.storeBytes k bs).winStep = s.winStep := rfl
@[simp] theorem State.storeBytes_winPrev (s : State) (k : Nat) (bs : List Byte) : (s.storeBytes k bs).winPrev = s.winPrev := rfl
@[simp] theorem State.storeBytes_boot (s : State) (k : Nat) (bs : List Byte) : (s.storeBytes k bs).boot = s.boot := rfl
@[simp] theorem State.storeBytes_meas (s : State) (k : Nat) (bs : List Byte) : (s.storeBytes k bs).meas = s.meas := rfl
@[simp] theorem State.storeBytes_flashA (s : State) (k : Nat) (bs : List Byte) : (s.storeBytes k bs).flashA = s.flashA := rfl
@[simp] theorem State.storeBytes_flashB (s : State) (k : Nat) (bs : List Byte) : (s.storeBytes k bs).flashB = s.flashB := rfl
@[simp] theorem State.storeBytes_supImages (s : State) (k : Nat) (bs : List Byte) : (s.storeBytes k bs).supImages = s.supImages := rfl
@[simp] theorem State.storeBytes_hostIf (s : State) (k : Nat) (bs : List Byte) : (s.storeBytes k bs).hostIf = s.hostIf := rfl
@[simp] theorem State.storeBytes_time (s : State) (k : Nat) (bs : List Byte) : (s.storeBytes k bs).time = s.time := rfl
@[simp] theorem State.storeBytes_busRead (s : State) (k : Nat) (bs : List Byte) : (s.storeBytes k bs).busRead = s.busRead := rfl
@[simp] theorem State.storeBytes_outputs (s : State) (k : Nat) (bs : List Byte) : (s.storeBytes k bs).outputs = s.outputs := rfl

/-! ### setReg -/

@[simp] theorem State.setReg_agenda (s : State) (a : RegAddr) (v : Word) : (s.setReg a v).agenda = s.agenda := rfl
@[simp] theorem State.setReg_cur (s : State) (a : RegAddr) (v : Word) : (s.setReg a v).cur = s.cur := rfl
@[simp] theorem State.setReg_stepNo (s : State) (a : RegAddr) (v : Word) : (s.setReg a v).stepNo = s.stepNo := rfl
@[simp] theorem State.setReg_bootStep (s : State) (a : RegAddr) (v : Word) : (s.setReg a v).bootStep = s.bootStep := rfl
@[simp] theorem State.setReg_nowPs (s : State) (a : RegAddr) (v : Word) : (s.setReg a v).nowPs = s.nowPs := rfl
@[simp] theorem State.setReg_nextCtx (s : State) (a : RegAddr) (v : Word) : (s.setReg a v).nextCtx = s.nextCtx := rfl
@[simp] theorem State.setReg_nextCid (s : State) (a : RegAddr) (v : Word) : (s.setReg a v).nextCid = s.nextCid := rfl
@[simp] theorem State.setReg_nextKey (s : State) (a : RegAddr) (v : Word) : (s.setReg a v).nextKey = s.nextKey := rfl
@[simp] theorem State.setReg_nextExec (s : State) (a : RegAddr) (v : Word) : (s.setReg a v).nextExec = s.nextExec := rfl
@[simp] theorem State.setReg_mem (s : State) (a : RegAddr) (v : Word) : (s.setReg a v).mem = s.mem := rfl
@[simp] theorem State.setReg_emptyTags (s : State) (a : RegAddr) (v : Word) : (s.setReg a v).emptyTags = s.emptyTags := rfl
@[simp] theorem State.setReg_poison (s : State) (a : RegAddr) (v : Word) : (s.setReg a v).poison = s.poison := rfl
@[simp] theorem State.setReg_ctxs (s : State) (a : RegAddr) (v : Word) : (s.setReg a v).ctxs = s.ctxs := rfl
@[simp] theorem State.setReg_cores (s : State) (a : RegAddr) (v : Word) : (s.setReg a v).cores = s.cores := rfl
@[simp] theorem State.setReg_cmds (s : State) (a : RegAddr) (v : Word) : (s.setReg a v).cmds = s.cmds := rfl
@[simp] theorem State.setReg_grids (s : State) (a : RegAddr) (v : Word) : (s.setReg a v).grids = s.grids := rfl
@[simp] theorem State.setReg_sessions (s : State) (a : RegAddr) (v : Word) : (s.setReg a v).sessions = s.sessions := rfl
@[simp] theorem State.setReg_jobs (s : State) (a : RegAddr) (v : Word) : (s.setReg a v).jobs = s.jobs := rfl
@[simp] theorem State.setReg_holds (s : State) (a : RegAddr) (v : Word) : (s.setReg a v).holds = s.holds := rfl
@[simp] theorem State.setReg_chunks (s : State) (a : RegAddr) (v : Word) : (s.setReg a v).chunks = s.chunks := rfl
@[simp] theorem State.setReg_portFree (s : State) (a : RegAddr) (v : Word) : (s.setReg a v).portFree = s.portFree := rfl
@[simp] theorem State.setReg_eps (s : State) (a : RegAddr) (v : Word) : (s.setReg a v).eps = s.eps := rfl
@[simp] theorem State.setReg_domains (s : State) (a : RegAddr) (v : Word) : (s.setReg a v).domains = s.domains := rfl
@[simp] theorem State.setReg_parts (s : State) (a : RegAddr) (v : Word) : (s.setReg a v).parts = s.parts := rfl
@[simp] theorem State.setReg_trapWait (s : State) (a : RegAddr) (v : Word) : (s.setReg a v).trapWait = s.trapWait := rfl
@[simp] theorem State.setReg_faults (s : State) (a : RegAddr) (v : Word) : (s.setReg a v).faults = s.faults := rfl
@[simp] theorem State.setReg_faultSeq (s : State) (a : RegAddr) (v : Word) : (s.setReg a v).faultSeq = s.faultSeq := rfl
@[simp] theorem State.setReg_resolving (s : State) (a : RegAddr) (v : Word) : (s.setReg a v).resolving = s.resolving := rfl
@[simp] theorem State.setReg_leaves (s : State) (a : RegAddr) (v : Word) : (s.setReg a v).leaves = s.leaves := rfl
@[simp] theorem State.setReg_runs (s : State) (a : RegAddr) (v : Word) : (s.setReg a v).runs = s.runs := rfl
@[simp] theorem State.setReg_loose (s : State) (a : RegAddr) (v : Word) : (s.setReg a v).loose = s.loose := rfl
@[simp] theorem State.setReg_lines (s : State) (a : RegAddr) (v : Word) : (s.setReg a v).lines = s.lines := rfl
@[simp] theorem State.setReg_posted (s : State) (a : RegAddr) (v : Word) : (s.setReg a v).posted = s.posted := rfl
@[simp] theorem State.setReg_dir (s : State) (a : RegAddr) (v : Word) : (s.setReg a v).dir = s.dir := rfl
@[simp] theorem State.setReg_msc (s : State) (a : RegAddr) (v : Word) : (s.setReg a v).msc = s.msc := rfl
@[simp] theorem State.setReg_swaps (s : State) (a : RegAddr) (v : Word) : (s.setReg a v).swaps = s.swaps := rfl
@[simp] theorem State.setReg_clear (s : State) (a : RegAddr) (v : Word) : (s.setReg a v).clear = s.clear := rfl
@[simp] theorem State.setReg_chans (s : State) (a : RegAddr) (v : Word) : (s.setReg a v).chans = s.chans := rfl
@[simp] theorem State.setReg_partCmd (s : State) (a : RegAddr) (v : Word) : (s.setReg a v).partCmd = s.partCmd := rfl
@[simp] theorem State.setReg_queues (s : State) (a : RegAddr) (v : Word) : (s.setReg a v).queues = s.queues := rfl
@[simp] theorem State.setReg_csqSeen (s : State) (a : RegAddr) (v : Word) : (s.setReg a v).csqSeen = s.csqSeen := rfl
@[simp] theorem State.setReg_claims (s : State) (a : RegAddr) (v : Word) : (s.setReg a v).claims = s.claims := rfl
@[simp] theorem State.setReg_reds (s : State) (a : RegAddr) (v : Word) : (s.setReg a v).reds = s.reds := rfl
@[simp] theorem State.setReg_latches (s : State) (a : RegAddr) (v : Word) : (s.setReg a v).latches = s.latches := rfl
@[simp] theorem State.setReg_islands (s : State) (a : RegAddr) (v : Word) : (s.setReg a v).islands = s.islands := rfl
@[simp] theorem State.setReg_dvfLast (s : State) (a : RegAddr) (v : Word) : (s.setReg a v).dvfLast = s.dvfLast := rfl
@[simp] theorem State.setReg_winNo (s : State) (a : RegAddr) (v : Word) : (s.setReg a v).winNo = s.winNo := rfl
@[simp] theorem State.setReg_winStep (s : State) (a : RegAddr) (v : Word) : (s.setReg a v).winStep = s.winStep := rfl
@[simp] theorem State.setReg_winPrev (s : State) (a : RegAddr) (v : Word) : (s.setReg a v).winPrev = s.winPrev := rfl
@[simp] theorem State.setReg_boot (s : State) (a : RegAddr) (v : Word) : (s.setReg a v).boot = s.boot := rfl
@[simp] theorem State.setReg_meas (s : State) (a : RegAddr) (v : Word) : (s.setReg a v).meas = s.meas := rfl
@[simp] theorem State.setReg_flashA (s : State) (a : RegAddr) (v : Word) : (s.setReg a v).flashA = s.flashA := rfl
@[simp] theorem State.setReg_flashB (s : State) (a : RegAddr) (v : Word) : (s.setReg a v).flashB = s.flashB := rfl
@[simp] theorem State.setReg_supImages (s : State) (a : RegAddr) (v : Word) : (s.setReg a v).supImages = s.supImages := rfl
@[simp] theorem State.setReg_hostIf (s : State) (a : RegAddr) (v : Word) : (s.setReg a v).hostIf = s.hostIf := rfl
@[simp] theorem State.setReg_time (s : State) (a : RegAddr) (v : Word) : (s.setReg a v).time = s.time := rfl
@[simp] theorem State.setReg_busRead (s : State) (a : RegAddr) (v : Word) : (s.setReg a v).busRead = s.busRead := rfl
@[simp] theorem State.setReg_outputs (s : State) (a : RegAddr) (v : Word) : (s.setReg a v).outputs = s.outputs := rfl

/-! ### setRed -/

@[simp] theorem State.setRed_agenda (s : State) (r : RedBlock) : (s.setRed r).agenda = s.agenda := rfl
@[simp] theorem State.setRed_cur (s : State) (r : RedBlock) : (s.setRed r).cur = s.cur := rfl
@[simp] theorem State.setRed_stepNo (s : State) (r : RedBlock) : (s.setRed r).stepNo = s.stepNo := rfl
@[simp] theorem State.setRed_bootStep (s : State) (r : RedBlock) : (s.setRed r).bootStep = s.bootStep := rfl
@[simp] theorem State.setRed_nowPs (s : State) (r : RedBlock) : (s.setRed r).nowPs = s.nowPs := rfl
@[simp] theorem State.setRed_nextCtx (s : State) (r : RedBlock) : (s.setRed r).nextCtx = s.nextCtx := rfl
@[simp] theorem State.setRed_nextCid (s : State) (r : RedBlock) : (s.setRed r).nextCid = s.nextCid := rfl
@[simp] theorem State.setRed_nextKey (s : State) (r : RedBlock) : (s.setRed r).nextKey = s.nextKey := rfl
@[simp] theorem State.setRed_nextExec (s : State) (r : RedBlock) : (s.setRed r).nextExec = s.nextExec := rfl
@[simp] theorem State.setRed_mem (s : State) (r : RedBlock) : (s.setRed r).mem = s.mem := rfl
@[simp] theorem State.setRed_emptyTags (s : State) (r : RedBlock) : (s.setRed r).emptyTags = s.emptyTags := rfl
@[simp] theorem State.setRed_poison (s : State) (r : RedBlock) : (s.setRed r).poison = s.poison := rfl
@[simp] theorem State.setRed_ctxs (s : State) (r : RedBlock) : (s.setRed r).ctxs = s.ctxs := rfl
@[simp] theorem State.setRed_cores (s : State) (r : RedBlock) : (s.setRed r).cores = s.cores := rfl
@[simp] theorem State.setRed_cmds (s : State) (r : RedBlock) : (s.setRed r).cmds = s.cmds := rfl
@[simp] theorem State.setRed_grids (s : State) (r : RedBlock) : (s.setRed r).grids = s.grids := rfl
@[simp] theorem State.setRed_sessions (s : State) (r : RedBlock) : (s.setRed r).sessions = s.sessions := rfl
@[simp] theorem State.setRed_jobs (s : State) (r : RedBlock) : (s.setRed r).jobs = s.jobs := rfl
@[simp] theorem State.setRed_holds (s : State) (r : RedBlock) : (s.setRed r).holds = s.holds := rfl
@[simp] theorem State.setRed_chunks (s : State) (r : RedBlock) : (s.setRed r).chunks = s.chunks := rfl
@[simp] theorem State.setRed_portFree (s : State) (r : RedBlock) : (s.setRed r).portFree = s.portFree := rfl
@[simp] theorem State.setRed_eps (s : State) (r : RedBlock) : (s.setRed r).eps = s.eps := rfl
@[simp] theorem State.setRed_domains (s : State) (r : RedBlock) : (s.setRed r).domains = s.domains := rfl
@[simp] theorem State.setRed_parts (s : State) (r : RedBlock) : (s.setRed r).parts = s.parts := rfl
@[simp] theorem State.setRed_regs (s : State) (r : RedBlock) : (s.setRed r).regs = s.regs := rfl
@[simp] theorem State.setRed_trapWait (s : State) (r : RedBlock) : (s.setRed r).trapWait = s.trapWait := rfl
@[simp] theorem State.setRed_faults (s : State) (r : RedBlock) : (s.setRed r).faults = s.faults := rfl
@[simp] theorem State.setRed_faultSeq (s : State) (r : RedBlock) : (s.setRed r).faultSeq = s.faultSeq := rfl
@[simp] theorem State.setRed_resolving (s : State) (r : RedBlock) : (s.setRed r).resolving = s.resolving := rfl
@[simp] theorem State.setRed_leaves (s : State) (r : RedBlock) : (s.setRed r).leaves = s.leaves := rfl
@[simp] theorem State.setRed_runs (s : State) (r : RedBlock) : (s.setRed r).runs = s.runs := rfl
@[simp] theorem State.setRed_loose (s : State) (r : RedBlock) : (s.setRed r).loose = s.loose := rfl
@[simp] theorem State.setRed_lines (s : State) (r : RedBlock) : (s.setRed r).lines = s.lines := rfl
@[simp] theorem State.setRed_posted (s : State) (r : RedBlock) : (s.setRed r).posted = s.posted := rfl
@[simp] theorem State.setRed_dir (s : State) (r : RedBlock) : (s.setRed r).dir = s.dir := rfl
@[simp] theorem State.setRed_msc (s : State) (r : RedBlock) : (s.setRed r).msc = s.msc := rfl
@[simp] theorem State.setRed_swaps (s : State) (r : RedBlock) : (s.setRed r).swaps = s.swaps := rfl
@[simp] theorem State.setRed_clear (s : State) (r : RedBlock) : (s.setRed r).clear = s.clear := rfl
@[simp] theorem State.setRed_chans (s : State) (r : RedBlock) : (s.setRed r).chans = s.chans := rfl
@[simp] theorem State.setRed_partCmd (s : State) (r : RedBlock) : (s.setRed r).partCmd = s.partCmd := rfl
@[simp] theorem State.setRed_queues (s : State) (r : RedBlock) : (s.setRed r).queues = s.queues := rfl
@[simp] theorem State.setRed_csqSeen (s : State) (r : RedBlock) : (s.setRed r).csqSeen = s.csqSeen := rfl
@[simp] theorem State.setRed_claims (s : State) (r : RedBlock) : (s.setRed r).claims = s.claims := rfl
@[simp] theorem State.setRed_latches (s : State) (r : RedBlock) : (s.setRed r).latches = s.latches := rfl
@[simp] theorem State.setRed_islands (s : State) (r : RedBlock) : (s.setRed r).islands = s.islands := rfl
@[simp] theorem State.setRed_dvfLast (s : State) (r : RedBlock) : (s.setRed r).dvfLast = s.dvfLast := rfl
@[simp] theorem State.setRed_winNo (s : State) (r : RedBlock) : (s.setRed r).winNo = s.winNo := rfl
@[simp] theorem State.setRed_winStep (s : State) (r : RedBlock) : (s.setRed r).winStep = s.winStep := rfl
@[simp] theorem State.setRed_winPrev (s : State) (r : RedBlock) : (s.setRed r).winPrev = s.winPrev := rfl
@[simp] theorem State.setRed_boot (s : State) (r : RedBlock) : (s.setRed r).boot = s.boot := rfl
@[simp] theorem State.setRed_meas (s : State) (r : RedBlock) : (s.setRed r).meas = s.meas := rfl
@[simp] theorem State.setRed_flashA (s : State) (r : RedBlock) : (s.setRed r).flashA = s.flashA := rfl
@[simp] theorem State.setRed_flashB (s : State) (r : RedBlock) : (s.setRed r).flashB = s.flashB := rfl
@[simp] theorem State.setRed_supImages (s : State) (r : RedBlock) : (s.setRed r).supImages = s.supImages := rfl
@[simp] theorem State.setRed_hostIf (s : State) (r : RedBlock) : (s.setRed r).hostIf = s.hostIf := rfl
@[simp] theorem State.setRed_time (s : State) (r : RedBlock) : (s.setRed r).time = s.time := rfl
@[simp] theorem State.setRed_busRead (s : State) (r : RedBlock) : (s.setRed r).busRead = s.busRead := rfl
@[simp] theorem State.setRed_outputs (s : State) (r : RedBlock) : (s.setRed r).outputs = s.outputs := rfl

/-! ### setTag -/

@[simp] theorem State.setTag_agenda (s : State) (k : Nat) (b : Bool) : (setTag s k b).agenda = s.agenda := rfl
@[simp] theorem State.setTag_cur (s : State) (k : Nat) (b : Bool) : (setTag s k b).cur = s.cur := rfl
@[simp] theorem State.setTag_stepNo (s : State) (k : Nat) (b : Bool) : (setTag s k b).stepNo = s.stepNo := rfl
@[simp] theorem State.setTag_bootStep (s : State) (k : Nat) (b : Bool) : (setTag s k b).bootStep = s.bootStep := rfl
@[simp] theorem State.setTag_nowPs (s : State) (k : Nat) (b : Bool) : (setTag s k b).nowPs = s.nowPs := rfl
@[simp] theorem State.setTag_nextCtx (s : State) (k : Nat) (b : Bool) : (setTag s k b).nextCtx = s.nextCtx := rfl
@[simp] theorem State.setTag_nextCid (s : State) (k : Nat) (b : Bool) : (setTag s k b).nextCid = s.nextCid := rfl
@[simp] theorem State.setTag_nextKey (s : State) (k : Nat) (b : Bool) : (setTag s k b).nextKey = s.nextKey := rfl
@[simp] theorem State.setTag_nextExec (s : State) (k : Nat) (b : Bool) : (setTag s k b).nextExec = s.nextExec := rfl
@[simp] theorem State.setTag_mem (s : State) (k : Nat) (b : Bool) : (setTag s k b).mem = s.mem := rfl
@[simp] theorem State.setTag_poison (s : State) (k : Nat) (b : Bool) : (setTag s k b).poison = s.poison := rfl
@[simp] theorem State.setTag_ctxs (s : State) (k : Nat) (b : Bool) : (setTag s k b).ctxs = s.ctxs := rfl
@[simp] theorem State.setTag_cores (s : State) (k : Nat) (b : Bool) : (setTag s k b).cores = s.cores := rfl
@[simp] theorem State.setTag_cmds (s : State) (k : Nat) (b : Bool) : (setTag s k b).cmds = s.cmds := rfl
@[simp] theorem State.setTag_grids (s : State) (k : Nat) (b : Bool) : (setTag s k b).grids = s.grids := rfl
@[simp] theorem State.setTag_sessions (s : State) (k : Nat) (b : Bool) : (setTag s k b).sessions = s.sessions := rfl
@[simp] theorem State.setTag_jobs (s : State) (k : Nat) (b : Bool) : (setTag s k b).jobs = s.jobs := rfl
@[simp] theorem State.setTag_holds (s : State) (k : Nat) (b : Bool) : (setTag s k b).holds = s.holds := rfl
@[simp] theorem State.setTag_chunks (s : State) (k : Nat) (b : Bool) : (setTag s k b).chunks = s.chunks := rfl
@[simp] theorem State.setTag_portFree (s : State) (k : Nat) (b : Bool) : (setTag s k b).portFree = s.portFree := rfl
@[simp] theorem State.setTag_eps (s : State) (k : Nat) (b : Bool) : (setTag s k b).eps = s.eps := rfl
@[simp] theorem State.setTag_domains (s : State) (k : Nat) (b : Bool) : (setTag s k b).domains = s.domains := rfl
@[simp] theorem State.setTag_parts (s : State) (k : Nat) (b : Bool) : (setTag s k b).parts = s.parts := rfl
@[simp] theorem State.setTag_regs (s : State) (k : Nat) (b : Bool) : (setTag s k b).regs = s.regs := rfl
@[simp] theorem State.setTag_trapWait (s : State) (k : Nat) (b : Bool) : (setTag s k b).trapWait = s.trapWait := rfl
@[simp] theorem State.setTag_faults (s : State) (k : Nat) (b : Bool) : (setTag s k b).faults = s.faults := rfl
@[simp] theorem State.setTag_faultSeq (s : State) (k : Nat) (b : Bool) : (setTag s k b).faultSeq = s.faultSeq := rfl
@[simp] theorem State.setTag_resolving (s : State) (k : Nat) (b : Bool) : (setTag s k b).resolving = s.resolving := rfl
@[simp] theorem State.setTag_leaves (s : State) (k : Nat) (b : Bool) : (setTag s k b).leaves = s.leaves := rfl
@[simp] theorem State.setTag_runs (s : State) (k : Nat) (b : Bool) : (setTag s k b).runs = s.runs := rfl
@[simp] theorem State.setTag_loose (s : State) (k : Nat) (b : Bool) : (setTag s k b).loose = s.loose := rfl
@[simp] theorem State.setTag_lines (s : State) (k : Nat) (b : Bool) : (setTag s k b).lines = s.lines := rfl
@[simp] theorem State.setTag_posted (s : State) (k : Nat) (b : Bool) : (setTag s k b).posted = s.posted := rfl
@[simp] theorem State.setTag_dir (s : State) (k : Nat) (b : Bool) : (setTag s k b).dir = s.dir := rfl
@[simp] theorem State.setTag_msc (s : State) (k : Nat) (b : Bool) : (setTag s k b).msc = s.msc := rfl
@[simp] theorem State.setTag_swaps (s : State) (k : Nat) (b : Bool) : (setTag s k b).swaps = s.swaps := rfl
@[simp] theorem State.setTag_clear (s : State) (k : Nat) (b : Bool) : (setTag s k b).clear = s.clear := rfl
@[simp] theorem State.setTag_chans (s : State) (k : Nat) (b : Bool) : (setTag s k b).chans = s.chans := rfl
@[simp] theorem State.setTag_partCmd (s : State) (k : Nat) (b : Bool) : (setTag s k b).partCmd = s.partCmd := rfl
@[simp] theorem State.setTag_queues (s : State) (k : Nat) (b : Bool) : (setTag s k b).queues = s.queues := rfl
@[simp] theorem State.setTag_csqSeen (s : State) (k : Nat) (b : Bool) : (setTag s k b).csqSeen = s.csqSeen := rfl
@[simp] theorem State.setTag_claims (s : State) (k : Nat) (b : Bool) : (setTag s k b).claims = s.claims := rfl
@[simp] theorem State.setTag_reds (s : State) (k : Nat) (b : Bool) : (setTag s k b).reds = s.reds := rfl
@[simp] theorem State.setTag_latches (s : State) (k : Nat) (b : Bool) : (setTag s k b).latches = s.latches := rfl
@[simp] theorem State.setTag_islands (s : State) (k : Nat) (b : Bool) : (setTag s k b).islands = s.islands := rfl
@[simp] theorem State.setTag_dvfLast (s : State) (k : Nat) (b : Bool) : (setTag s k b).dvfLast = s.dvfLast := rfl
@[simp] theorem State.setTag_winNo (s : State) (k : Nat) (b : Bool) : (setTag s k b).winNo = s.winNo := rfl
@[simp] theorem State.setTag_winStep (s : State) (k : Nat) (b : Bool) : (setTag s k b).winStep = s.winStep := rfl
@[simp] theorem State.setTag_winPrev (s : State) (k : Nat) (b : Bool) : (setTag s k b).winPrev = s.winPrev := rfl
@[simp] theorem State.setTag_boot (s : State) (k : Nat) (b : Bool) : (setTag s k b).boot = s.boot := rfl
@[simp] theorem State.setTag_meas (s : State) (k : Nat) (b : Bool) : (setTag s k b).meas = s.meas := rfl
@[simp] theorem State.setTag_flashA (s : State) (k : Nat) (b : Bool) : (setTag s k b).flashA = s.flashA := rfl
@[simp] theorem State.setTag_flashB (s : State) (k : Nat) (b : Bool) : (setTag s k b).flashB = s.flashB := rfl
@[simp] theorem State.setTag_supImages (s : State) (k : Nat) (b : Bool) : (setTag s k b).supImages = s.supImages := rfl
@[simp] theorem State.setTag_hostIf (s : State) (k : Nat) (b : Bool) : (setTag s k b).hostIf = s.hostIf := rfl
@[simp] theorem State.setTag_time (s : State) (k : Nat) (b : Bool) : (setTag s k b).time = s.time := rfl
@[simp] theorem State.setTag_busRead (s : State) (k : Nat) (b : Bool) : (setTag s k b).busRead = s.busRead := rfl
@[simp] theorem State.setTag_outputs (s : State) (k : Nat) (b : Bool) : (setTag s k b).outputs = s.outputs := rfl

/-! ### A result put in flight -/

@[simp] theorem Ctx.writeAt_handle (c : Ctx) (x : Flight) : (c.writeAt x).handle = c.handle := rfl
@[simp] theorem Ctx.writeAt_gkey (c : Ctx) (x : Flight) : (c.writeAt x).gkey = c.gkey := rfl
@[simp] theorem Ctx.writeAt_gang (c : Ctx) (x : Flight) : (c.writeAt x).gang = c.gang := rfl
@[simp] theorem Ctx.writeAt_seqid (c : Ctx) (x : Flight) : (c.writeAt x).seqid = c.seqid := rfl
@[simp] theorem Ctx.writeAt_stage (c : Ctx) (x : Flight) : (c.writeAt x).stage = c.stage := rfl
@[simp] theorem Ctx.writeAt_part (c : Ctx) (x : Flight) : (c.writeAt x).part = c.part := rfl
@[simp] theorem Ctx.writeAt_vf (c : Ctx) (x : Flight) : (c.writeAt x).vf = c.vf := rfl
@[simp] theorem Ctx.writeAt_level (c : Ctx) (x : Flight) : (c.writeAt x).level = c.level := rfl
@[simp] theorem Ctx.writeAt_hdr (c : Ctx) (x : Flight) : (c.writeAt x).hdr = c.hdr := rfl
@[simp] theorem Ctx.writeAt_ibase (c : Ctx) (x : Flight) : (c.writeAt x).ibase = c.ibase := rfl
@[simp] theorem Ctx.writeAt_core (c : Ctx) (x : Flight) : (c.writeAt x).core = c.core := rfl
@[simp] theorem Ctx.writeAt_res (c : Ctx) (x : Flight) : (c.writeAt x).res = c.res := rfl
@[simp] theorem Ctx.writeAt_aBase (c : Ctx) (x : Flight) : (c.writeAt x).aBase = c.aBase := rfl
@[simp] theorem Ctx.writeAt_vBase (c : Ctx) (x : Flight) : (c.writeAt x).vBase = c.vBase := rfl
@[simp] theorem Ctx.writeAt_bankList (c : Ctx) (x : Flight) : (c.writeAt x).bankList = c.bankList := rfl
@[simp] theorem Ctx.writeAt_status (c : Ctx) (x : Flight) : (c.writeAt x).status = c.status := rfl
@[simp] theorem Ctx.writeAt_issuedOn (c : Ctx) (x : Flight) : (c.writeAt x).issuedOn = c.issuedOn := rfl
@[simp] theorem Ctx.writeAt_pc (c : Ctx) (x : Flight) : (c.writeAt x).pc = c.pc := rfl
@[simp] theorem Ctx.writeAt_loops (c : Ctx) (x : Flight) : (c.writeAt x).loops = c.loops := rfl
@[simp] theorem Ctx.writeAt_rep (c : Ctx) (x : Flight) : (c.writeAt x).rep = c.rep := rfl
@[simp] theorem Ctx.writeAt_shl (c : Ctx) (x : Flight) : (c.writeAt x).shl = c.shl := rfl
@[simp] theorem Ctx.writeAt_pend (c : Ctx) (x : Flight) : (c.writeAt x).pend = c.pend := rfl
@[simp] theorem Ctx.writeAt_target (c : Ctx) (x : Flight) : (c.writeAt x).target = c.target := rfl
@[simp] theorem Ctx.writeAt_done (c : Ctx) (x : Flight) : (c.writeAt x).done = c.done := rfl
@[simp] theorem Ctx.writeAt_partBundle (c : Ctx) (x : Flight) : (c.writeAt x).partBundle = c.partBundle := rfl
@[simp] theorem Ctx.writeAt_scal0 (c : Ctx) (x : Flight) : (c.writeAt x).scal0 = c.scal0 := rfl
@[simp] theorem Ctx.writeAt_scal1 (c : Ctx) (x : Flight) : (c.writeAt x).scal1 = c.scal1 := rfl
@[simp] theorem Ctx.writeAt_vec0 (c : Ctx) (x : Flight) : (c.writeAt x).vec0 = c.vec0 := rfl
@[simp] theorem Ctx.writeAt_vec1 (c : Ctx) (x : Flight) : (c.writeAt x).vec1 = c.vec1 := rfl
@[simp] theorem Ctx.writeAt_com (c : Ctx) (x : Flight) : (c.writeAt x).com = c.com := rfl
@[simp] theorem Ctx.writeAt_tokPend (c : Ctx) (x : Flight) : (c.writeAt x).tokPend = c.tokPend := rfl
@[simp] theorem Ctx.writeAt_tokErr (c : Ctx) (x : Flight) : (c.writeAt x).tokErr = c.tokErr := rfl
@[simp] theorem Ctx.writeAt_preds (c : Ctx) (x : Flight) : (c.writeAt x).preds = c.preds := rfl
@[simp] theorem Ctx.writeAt_scales (c : Ctx) (x : Flight) : (c.writeAt x).scales = c.scales := rfl
@[simp] theorem Ctx.writeAt_kb (c : Ctx) (x : Flight) : (c.writeAt x).kb = c.kb := rfl
@[simp] theorem Ctx.writeAt_mp (c : Ctx) (x : Flight) : (c.writeAt x).mp = c.mp := rfl
@[simp] theorem Ctx.writeAt_phase (c : Ctx) (x : Flight) : (c.writeAt x).phase = c.phase := rfl
@[simp] theorem Ctx.writeAt_lead (c : Ctx) (x : Flight) : (c.writeAt x).lead = c.lead := rfl
@[simp] theorem Ctx.writeAt_trapVec (c : Ctx) (x : Flight) : (c.writeAt x).trapVec = c.trapVec := rfl
@[simp] theorem Ctx.writeAt_trapInfo (c : Ctx) (x : Flight) : (c.writeAt x).trapInfo = c.trapInfo := rfl
@[simp] theorem Ctx.writeAt_vrot0 (c : Ctx) (x : Flight) : (c.writeAt x).vrot0 = c.vrot0 := rfl
@[simp] theorem Ctx.writeAt_vrot1 (c : Ctx) (x : Flight) : (c.writeAt x).vrot1 = c.vrot1 := rfl
@[simp] theorem Ctx.writeAt_lost (c : Ctx) (x : Flight) : (c.writeAt x).lost = c.lost := rfl
@[simp] theorem Ctx.writeAt_tasks (c : Ctx) (x : Flight) : (c.writeAt x).tasks = c.tasks := rfl
@[simp] theorem Ctx.writeAt_view (c : Ctx) (x : Flight) : (c.writeAt x).view = c.view := rfl
@[simp] theorem Ctx.writeAt_nextPc (c : Ctx) (x : Flight) : (c.writeAt x).nextPc = c.nextPc := rfl
@[simp] theorem Ctx.writeAt_began (c : Ctx) (x : Flight) : (c.writeAt x).began = c.began := rfl
@[simp] theorem Ctx.writeAt_leave (c : Ctx) (x : Flight) : (c.writeAt x).leave = c.leave := rfl
@[simp] theorem Ctx.writeAt_xferKind (c : Ctx) (x : Flight) : (c.writeAt x).xferKind = c.xferKind := rfl
@[simp] theorem Ctx.writeAt_xferPc (c : Ctx) (x : Flight) : (c.writeAt x).xferPc = c.xferPc := rfl
@[simp] theorem Ctx.writeAt_atSafe (c : Ctx) (x : Flight) : (c.writeAt x).atSafe = c.atSafe := rfl
@[simp] theorem Ctx.writeAt_barWait (c : Ctx) (x : Flight) : (c.writeAt x).barWait = c.barWait := rfl
@[simp] theorem Ctx.writeAt_barPc (c : Ctx) (x : Flight) : (c.writeAt x).barPc = c.barPc := rfl
@[simp] theorem Ctx.writeAt_yieldReq (c : Ctx) (x : Flight) : (c.writeAt x).yieldReq = c.yieldReq := rfl
@[simp] theorem Ctx.writeAt_killCause (c : Ctx) (x : Flight) : (c.writeAt x).killCause = c.killCause := rfl
@[simp] theorem Ctx.writeAt_dvfSel (c : Ctx) (x : Flight) : (c.writeAt x).dvfSel = c.dvfSel := rfl
@[simp] theorem Ctx.writeAt_mgmt (c : Ctx) (x : Flight) : (c.writeAt x).mgmt = c.mgmt := rfl
@[simp] theorem Ctx.writeAt_bpSkip (c : Ctx) (x : Flight) : (c.writeAt x).bpSkip = c.bpSkip := rfl
@[simp] theorem Ctx.writeAt_ranges (c : Ctx) (x : Flight) : (c.writeAt x).ranges = c.ranges := rfl
@[simp] theorem Ctx.writeAt_live (c : Ctx) (x : Flight) : (c.writeAt x).live = c.live := rfl
@[simp] theorem Ctx.writeAt_imgAt (c : Ctx) (x : Flight) : (c.writeAt x).imgAt = c.imgAt := rfl
@[simp] theorem Ctx.writeAt_mirror (c : Ctx) (x : Flight) : (c.writeAt x).mirror = c.mirror := rfl
@[simp] theorem Ctx.writeAt_stallTok (c : Ctx) (x : Flight) : (c.writeAt x).stallTok = c.stallTok := rfl
@[simp] theorem Ctx.writeAt_stallTask (c : Ctx) (x : Flight) : (c.writeAt x).stallTask = c.stallTask := rfl
@[simp] theorem Ctx.writeAt_moved (c : Ctx) (x : Flight) : (c.writeAt x).moved = c.moved := rfl
@[simp] theorem Ctx.writeAt_dead (c : Ctx) (x : Flight) : (c.writeAt x).dead = c.dead := rfl

end Sys2Proof.Machine
end

