-- ==== Sys2Proof/Laws/Slots.lean ====
section
/-!
SUPPORT. What every slot operation does before its own meaning: the checks, the guard and the token interlock, once for
all of them; and what a result put in flight leaves as it was.
-/

namespace Sys2Proof.Machine

open Sys2Proof Sys2Proof.Safety

/-! ### From exec to a meaning -/

/-- What executing an instruction by itself comes to: a slot operation runs its meaning behind the checks. -/
theorem exec_parts (i : Instr) (s : State) :
    exec i s = match i.parts with
      | some (_, _, p, f) => runSlot i p f (semOf i s) s
      | none => exec i s := by
  cases i <;> rfl

/-- A slot operation's word executed by itself runs its meaning behind the checks. -/
theorem exec_slot {i : Instr} {cls : Cls} {code : Nat} {p : Pos} {f : Fields} (s : State)
    (h : i.parts = some (cls, code, p, f)) : exec i s = runSlot i p f (semOf i s) s := by
  rw [exec_parts, h]

/-- A word that passes its checks with its slices in bounds settles its meaning's outcome. -/
theorem runSlot_passes {i : Instr} {cls : Cls} {code : Nat} {p : Pos} {f : Fields} {s : State} {r : SlotRes}
    (hp : i.parts = some (cls, code, p, f)) (h1 : passes i = true) (h2 : inWindow i s = true) :
    runSlot i p f r s = .next (settleSlot s p r) := by
  obtain ⟨info, hinfo⟩ : ∃ info, opInfo i = some info := by
    cases h : opInfo i with
    | none => simp [passes, hp, h] at h1
    | some info => exact ⟨info, rfl⟩
  simp only [passes, inWindow, hp, hinfo, Option.isNone_iff_eq_none] at h1 h2
  unfold wordFail at h1
  unfold runSlot
  simp only [hinfo]
  split at h1
  · cases h1
  · rename_i hw
    try simp only [hw]
    split at h1
    · rename_i ho
      simp [ho, h2]
    · cases h1

/-- A slot operation that nothing keeps from its effect: exec settles its meaning's outcome. -/
theorem exec_issues {i : Instr} {cls : Cls} {code : Nat} {p : Pos} {f : Fields} {s : State}
    (hp : i.parts = some (cls, code, p, f)) (h : issues i s = true) :
    exec i s = .next (settleSlot s p (semOf i s)) := by
  simp only [issues, Bool.and_eq_true] at h
  rw [exec_slot s hp, runSlot_passes hp h.1.1.1 h.1.1.2]

/-- The gate of an operation that issues lets its meaning run. -/
theorem slotOp_issues {i : Instr} {cls : Cls} {code : Nat} {p : Pos} {f : Fields} {s : State} {info : OpInfo}
    {run : OpInfo → State → SlotRes} (hp : i.parts = some (cls, code, p, f)) (hi : opInfo i = some info)
    (h : issues i s = true) : slotOp i f s run = run info s := by
  simp only [issues, guardOn, tokensFree, hp, hi, Bool.and_eq_true] at h
  obtain ⟨⟨-, hg⟩, ht⟩ := h
  simp only [slotOp, hi, gated]
  have ht' : tokenStall s.curCtx i info f = false := by simpa using ht
  by_cases hv : isVector i info f = true
  · simp only [hv, if_true, decide_eq_true_eq] at hg
    simp [hv, ht']
    intro h; exact absurd h hg
  · simp only [hv] at hg
    simp [hv, ht']
    intro h; simp [h] at hg

/-- An operation that issues, whose meaning stands behind the gate: exec settles what runs there. -/
theorem exec_slotOp {i : Instr} {cls : Cls} {code : Nat} {p : Pos} {f : Fields} {s : State} {info : OpInfo} {r : SlotRes}
    {run : OpInfo → State → SlotRes} (h : issues i s = true) (hp : i.parts = some (cls, code, p, f))
    (hi : opInfo i = some info) (hs : semOf i s = slotOp i f s run) (hr : run info s = r) :
    exec i s = .next (settleSlot s p r) := by
  rw [exec_issues hp h, hs, slotOp_issues hp hi h, hr]

/-- The gate of an operation that its guard disables in every lane. -/
theorem slotOp_off {i : Instr} {cls : Cls} {code : Nat} {p : Pos} {f : Fields} {s : State} {info : OpInfo}
    {run : OpInfo → State → SlotRes} (hp : i.parts = some (cls, code, p, f)) (hi : opInfo i = some info)
    (h : guardOn i s = false) : slotOp i f s run = .ok s := by
  simp only [guardOn, hp, hi] at h
  simp only [slotOp, hi, gated]
  by_cases hv : isVector i info f = true
  · simp only [hv, if_true, decide_eq_false_iff_not, not_not] at h
    simp [hv, h]
  · simp only [hv] at h
    simp [hv]
    intro h'
    simp [h'] at h

end Sys2Proof.Machine
end

