-- ==== Sys2Proof/Laws/Contexts.lean ====
section
/-!
SUPPORT. Contexts by handle, and what the shared operations that stop or go on with a context leave alone.
-/

namespace Sys2Proof.Machine

open Sys2Proof Sys2Proof.Safety

/-! ### A context after a write -/

/-- An entry written by its key is found by it. -/
theorem find_putBy_self {α : Type} (l : List α) (p : α → Bool) (v : α) (hv : p v = true) : (putBy l p v).find? p = some v := by
  unfold putBy
  split
  · rename_i h
    induction l with
    | nil => simp at h
    | cons x l ih =>
      simp only [List.map_cons, List.find?_cons]
      by_cases hx : p x = true
      · simp [hx, hv]
      · rw [List.any_cons] at h
        simp only [hx, Bool.false_or] at h
        simp only [hx, Bool.false_eq_true, if_false]
        exact ih h
  · rename_i h
    rw [List.find?_append]
    have : l.find? p = none := by
      rw [List.find?_eq_none]
      intro x hx hp
      exact h (List.any_eq_true.mpr ⟨x, hx, hp⟩)
    simp [this, hv]

/-- An entry written by its key leaves what another key finds. -/
theorem find_putBy_ne {α : Type} (l : List α) (p q : α → Bool) (v : α) (hv : q v = false)
    (hpq : ∀ x, p x = true → q x = false) : (putBy l p v).find? q = l.find? q := by
  unfold putBy
  split
  · rename_i h
    clear h
    induction l with
    | nil => rfl
    | cons x l ih =>
      simp only [List.map_cons, List.find?_cons]
      by_cases hx : p x = true
      · simp [hx, hv, hpq x hx, ih]
      · simp only [hx, ih]; rfl
  · rw [List.find?_append]
    simp [hv]

/-- A written context is the one its handle finds. -/
@[simp] theorem ctx?_setCtx_self (s : State) (c : Ctx) : (s.setCtx c).ctx? c.handle = some c :=
  find_putBy_self s.ctxs _ c (by simp)

/-- A written context is the one its handle finds, the handle named otherwise. -/
theorem ctx?_setCtx_of (s : State) (c : Ctx) (h : Nat) (e : c.handle = h) : (s.setCtx c).ctx? h = some c := by
  subst e; exact ctx?_setCtx_self s c

/-- Another handle finds what it found. -/
theorem ctx?_setCtx_ne (s : State) (c : Ctx) (h : Nat) (e : h ≠ c.handle) : (s.setCtx c).ctx? h = s.ctx? h :=
  find_putBy_ne s.ctxs _ _ c (by simp; exact fun x => e x.symm) (by
    intro x hx
    simp only [beq_iff_eq] at hx
    simp [hx]; exact fun y => e y.symm)

/-- A handle finds its context with the change made to it. -/
theorem ctx?_modCtx_self (s : State) (h : Nat) (f : Ctx → Ctx) (hf : ∀ c, (f c).handle = c.handle) :
    (s.modCtx h f).ctx? h = (s.ctx? h).map f := by
  unfold State.modCtx State.ctx?
  simp only
  induction s.ctxs with
  | nil => rfl
  | cons x l ih =>
    simp only [List.map_cons, List.find?_cons]
    by_cases hx : x.handle = h
    · simp [hx, hf]
    · have e : (x.handle == h) = false := by simp [hx]
      simp only [e, Bool.false_eq_true, if_false]
      simpa [e] using ih

/-- Another handle finds what it found. -/
theorem ctx?_modCtx_ne (s : State) (h k : Nat) (f : Ctx → Ctx) (hf : ∀ c, (f c).handle = c.handle) (e : k ≠ h) :
    (s.modCtx h f).ctx? k = s.ctx? k := by
  unfold State.modCtx State.ctx?
  simp only
  induction s.ctxs with
  | nil => rfl
  | cons x l ih =>
    simp only [List.map_cons, List.find?_cons]
    by_cases hx : x.handle = h
    · have e1 : (x.handle == k) = false := by rw [hx]; simp; exact fun y => e y.symm
      simp only [hx, beq_self_eq_true, if_true, hf] at *
      rw [e1]
      exact ih
    · have e1 : (x.handle == h) = false := by simp [hx]
      simp only [e1, Bool.false_eq_true, if_false]
      split
      · rfl
      · exact ih

/-- A found context has the handle it was looked for by. -/
theorem handle_of_ctx? {s : State} {h : Nat} {c : Ctx} (e : s.ctx? h = some c) : c.handle = h := by
  have := List.find?_some e
  simpa using this

/-- The context of a handle that is found. -/
theorem ctx_of_ctx? {s : State} {h : Nat} {c : Ctx} (e : s.ctx? h = some c) : s.ctx h = c := by
  unfold State.ctx; rw [e]; rfl

/-! ### The trace leaves the machine's work alone -/

/-- A ring's entry changes memory, its poison and registers alone. -/
theorem ringPush_frame {s t : State} {b c w r : RegAddr} {on : Bool} {rec : Nat → List Byte}
    (h : ringPush s b c w r on rec = some t) : ∃ m q g, t = { s with mem := m, poison := q, regs := g } := by
  unfold ringPush at h
  simp only at h
  split at h
  · cases h
  · cases h; exact ⟨_, _, _, rfl⟩

/-- A lost trace record changes the registers and the reduction blocks alone. -/
theorem traceLost_frame (s : State) (cl : Nat) : ∃ g d, traceLost s cl = { s with regs := g, reds := d } := ⟨_, _, rfl⟩

/-- A trace record changes memory, its poison, registers and the reduction blocks alone. -/
theorem traceRec_frame (s : State) (core kind slot addr info : Nat) :
    ∃ m q g d, traceRec s core kind slot addr info = { s with mem := m, poison := q, regs := g, reds := d } := by
  have put : ∀ {u v : State} {cl : Nat} {b : List Byte}, tracePut u cl b = some v →
      ∃ m q g, v = { u with mem := m, poison := q, regs := g } := fun h => ringPush_frame h
  unfold traceRec
  simp only
  split
  · exact ⟨_, _, _, _, rfl⟩
  · split
    · obtain ⟨g, d, e⟩ := traceLost_frame s (clusterOf core)
      exact ⟨_, _, _, _, e⟩
    · rename_i s1 h1
      have h1' : ∃ m q g d, s1 = { s with mem := m, poison := q, regs := g, reds := d } := by
        split at h1
        · cases h1; exact ⟨_, _, _, _, rfl⟩
        · rw [Option.map_eq_some_iff] at h1
          obtain ⟨u, hu, e⟩ := h1
          obtain ⟨m, q, g, rfl⟩ := put hu
          exact ⟨_, _, _, _, e.symm⟩
      obtain ⟨m, q, g, d, rfl⟩ := h1'
      split
      · rename_i s2 h2
        obtain ⟨m', q', g', rfl⟩ := put h2
        exact ⟨_, _, _, _, rfl⟩
      · obtain ⟨g', d', e⟩ := traceLost_frame { s with mem := m, poison := q, regs := g, reds := d } (clusterOf core)
        exact ⟨_, _, _, _, e⟩

/-- The trace leaves every context as it was. -/
@[simp] theorem traceRec_ctx? (s : State) (core kind slot addr info h : Nat) :
    (traceRec s core kind slot addr info).ctx? h = s.ctx? h := by
  obtain ⟨m, q, g, d, e⟩ := traceRec_frame s core kind slot addr info
  rw [e]; rfl

/-- The trace leaves the waiting trap records as they were. -/
@[simp] theorem traceRec_trapWait (s : State) (core kind slot addr info : Nat) :
    (traceRec s core kind slot addr info).trapWait = s.trapWait := by
  obtain ⟨m, q, g, d, e⟩ := traceRec_frame s core kind slot addr info
  rw [e]

/-- A core that is free to issue another leaves every context as it was. -/
@[simp] theorem releaseCore_ctx? (s : State) (c : Ctx) (h : Nat) : (releaseCore s c).ctx? h = s.ctx? h := by
  unfold releaseCore; simp only; split <;> rfl

/-- And the waiting trap records. -/
@[simp] theorem releaseCore_trapWait (s : State) (c : Ctx) : (releaseCore s c).trapWait = s.trapWait := by
  unfold releaseCore; simp only; split <;> rfl

end Sys2Proof.Machine
end

