-- ==== Sys2Proof/Laws/Bundles.lean ====
section
/-!
SUPPORT. What completing a bundle does to its context, and what the operations around it keep.
-/

namespace Sys2Proof.Machine

open Sys2Proof

/-- A core's release of its sequencer touches no context. -/
theorem releaseCore_ctxs (s : State) (c : Ctx) : (releaseCore s c).ctxs = s.ctxs := by
  unfold releaseCore; simp only; split <;> rfl

/-- A trace record touches no context. -/
theorem traceRec_ctxs (s : State) (a b d e f : Nat) : (traceRec s a b d e f).ctxs = s.ctxs := by
  obtain ⟨_, _, _, _, h⟩ := traceRec_frame s a b d e f; rw [h]

/-- A refresh of a session's register copies touches no context. -/
theorem refresh_ctxs (s : State) (a b : Nat) : (s.refresh a b).ctxs = s.ctxs := by
  unfold State.refresh; split <;> rfl

/-- A change of level touches no context. -/
theorem enterLevel_ctxs (s : State) (x : Session) (l : Nat) : (enterLevel s x l).ctxs = s.ctxs := by
  unfold enterLevel; split
  · rfl
  · rw [refresh_ctxs]; rfl

/-- The evaluation of a session's level touches no context. -/
theorem evalLevel_ctxs (s : State) (a b : Nat) : (evalLevel s a b).ctxs = s.ctxs := by
  unfold evalLevel; split
  · rfl
  · simp only; repeat' split
    all_goals first | rw [enterLevel_ctxs]; rfl | rfl

/-- The completion of a job touches no context. -/
theorem noteComplete_ctxs (s : State) (a : Nat) : (noteComplete s a).ctxs = s.ctxs := by
  unfold noteComplete; split
  · rfl
  · simp only; repeat' split
    all_goals first | rw [evalLevel_ctxs]; rfl | rfl

/-- A context is read from the list of contexts alone. -/
theorem ctx?_congr {s t : State} (h : s.ctxs = t.ctxs) (k : Nat) : s.ctx? k = t.ctx? k := by simp [State.ctx?, h]

/-- A write of an island's register touches no context. -/
theorem islandWrite_ctxs (s : State) (i off : Nat) (v : Word) : (islandWrite s i off v).ctxs = s.ctxs := by
  unfold islandWrite requestPoint setThigh; simp only; repeat' split
  all_goals rfl

/-- A write of an island's register over MMIO touches no context. -/
theorem busWrite_ctxs (s : State) (i off : Nat) (v : Word) : (busWrite s i off v).ctxs = s.ctxs := by
  unfold busWrite; exact islandWrite_ctxs s i off v

/-- A sequencer's write of an island's register touches no context. -/
theorem seqWrite_ctxs (s : State) (i off : Nat) (v : Word) : (seqWrite s i off v).ctxs = s.ctxs := by
  have hf : ∀ (l : List DvfWrite) (t : State), (l.foldl (fun t d => busWrite t i d.off d.value) t).ctxs = t.ctxs := by
    intro l; induction l with
    | nil => intro t; rfl
    | cons d l ih => intro t; rw [List.foldl_cons, ih, busWrite_ctxs]
  unfold seqWrite; simp only; split
  · exact islandWrite_ctxs s i off v
  · rw [hf, islandWrite_ctxs]; rfl

/-- A management write touches at most the writer's selector. -/
theorem mgmtWrite_ctx (s : State) (h : Nat) (c d : Ctx) (n : Nat) (v : Word)
    (hc : s.ctx? h = some d) (hh : c.handle = h) :
    ∃ z, (mgmtWrite s c n v).ctx? h = some { d with dvfSel := z } := by
  unfold mgmtWrite; simp only
  split
  · refine ⟨BitVec.ofNat 64 (v.toNat % 512), ?_⟩
    subst hh
    rw [ctx?_modCtx_self _ _ _ (by intro; rfl), hc]; rfl
  · repeat' split
    all_goals refine ⟨d.dvfSel, ?_⟩
    all_goals first | exact hc | skip
    all_goals rw [← hc]; exact ctx?_congr (seqWrite_ctxs _ _ _ _) _

/-- The landing of a management write changes a context in that write and its selector alone. -/
theorem landMgmt_ctx (s : State) (h : Nat) (c : Ctx) (hc : s.ctx? h = some c) :
    ∃ z m, (landMgmt s h).ctx? h = some { c with dvfSel := z, mgmt := m } := by
  unfold landMgmt; simp only
  rw [ctx_of_ctx? hc]
  split
  · rename_i n v _
    have hh := handle_of_ctx? hc
    have e : (s.setCtx { c with mgmt := none }).ctx? h = some { c with mgmt := none } :=
      ctx?_setCtx_of s { c with mgmt := none } h hh
    obtain ⟨z, hz⟩ := mgmtWrite_ctx _ h { c with mgmt := none } { c with mgmt := none } n v e hh
    exact ⟨z, none, hz⟩
  · exact ⟨c.dvfSel, c.mgmt, by rw [hc]⟩


/-- What follows a completed bundle (a stop, a yield, another resident) keeps a context but for its status, view and management
write, and the status of one that is not ready. -/
theorem afterComplete_ctx (s : State) (h : Nat) (c : Ctx) (safe : Bool) (hc : s.ctx? h = some c) :
    ∃ st v z m, ((if c.status ≠ .ready then releaseCore (traceStop s c) c
      else if c.barWait.isSome ∨ !safe then s else safePoint s c).ctx? h =
        some { c with status := st, view := v, dvfSel := z, mgmt := m }) ∧ (c.status ≠ .ready → st = c.status) := by
  have hh := handle_of_ctx? hc
  split
  · refine ⟨c.status, c.view, c.dvfSel, c.mgmt, ?_, fun _ => rfl⟩
    rw [ctx?_congr (releaseCore_ctxs _ _), traceStop, ctx?_congr (traceRec_ctxs _ _ _ _ _ _)]; exact hc
  · rename_i hs
    split
    · exact ⟨c.status, c.view, c.dvfSel, c.mgmt, hc, fun _ => rfl⟩
    · unfold safePoint
      obtain ⟨z, m, e⟩ := landMgmt_ctx s h c hc
      split
      · refine ⟨.yielding, none, z, m, ?_, fun a => absurd a hs⟩
        unfold yieldCtx
        simp only
        rw [hh, ctx_of_ctx? e, ctx?_congr (releaseCore_ctxs _ _), traceStop, ctx?_congr (traceRec_ctxs _ _ _ _ _ _)]
        rw [ctx?_setCtx_of _ _ h (by exact hh)]
        subst hh; rfl
      · refine ⟨c.status, c.view, c.dvfSel, c.mgmt, ?_, fun _ => rfl⟩
        rw [ctx?_congr (releaseCore_ctxs _ _)]; exact hc

/-- WHAT COMPLETING A BUNDLE DOES to its context (spec/03 R82-R86): the loops, the delay shadow, the next bundle and the pending
transfer; and what it keeps. -/
theorem completeBundle_ctx (s s0 : State) (h len : Nat) (header : BitVec 32) (long : Bool) (bg : Bool × Nat)
    (count : Bool) (c : Ctx)
    (hl : leaveCtx s0 h = s) (hc : s.ctx? h = some c) (hn : c.nextPc = none) :
    let own := c.loops.length - bg.2
    let next := c.pc + BitVec.ofNat 32 len
    let cl := if hdrLend header then closeLoop (c.loops.drop own) next else (next, c.loops.drop own)
    let shl := if bg.1 && count then c.shl - 1 else c.shl
    ∃ d, (completeBundle s0 h header len long bg count).ctx h = d ∧
      d.loops = c.loops.take own ++ cl.2 ∧ d.shl = shl ∧ d.leave = c.leave ∧
      (d.flight = c.flight ∨ hdrLend header = true) ∧ (c.flight = [] → d.flight = []) ∧
      (c.status ≠ .ready → d.status = c.status) ∧
      (if c.pend ∧ shl = 0 then d.pc = c.target ∧ d.pend = false else d.pc = cl.1 ∧ d.pend = c.pend) := by
  have hh := handle_of_ctx? hc
  intro own next cl shl
  unfold completeBundle
  simp only [hl, ctx_of_ctx? hc, hn, Bool.false_eq_true, if_false]
  generalize hsafe : (hdrSafe header && !long && (hdrLend header || bg.2 == 0) && !bg.1) = safe
  generalize hc2 : ({ (if hdrLend header = true then advanceRots c else c) with
    loops := c.loops.take own ++ cl.2, pc := cl.1, rep := 0, done := 0, partBundle := false,
    bpSkip := 0, nextPc := none, view := none, began := none, moved := false, shl := shl, atSafe := safe } : Ctx) = c2
  have f0 : c2.handle = h ∧ c2.loops = c.loops.take own ++ cl.2 ∧ c2.shl = shl ∧ c2.leave = c.leave ∧
      (c2.flight = c.flight ∨ hdrLend header = true) ∧ (c.flight = [] → c2.flight = []) ∧ c2.status = c.status ∧
      c2.pc = cl.1 ∧ c2.pend = c.pend ∧ c2.target = c.target := by
    rw [← hc2]; simp only [advanceRots]; split <;> simp [hh]
    simp_all
  obtain ⟨g1, g2, g3, g4, g5, g6, g7, g8, g9, g10⟩ := f0
  have e2 : (s.setCtx c2).ctx? h = some c2 := ctx?_setCtx_of _ _ _ g1
  have hadv : (if hdrLend header = true then advanceRots c else c).pend = c.pend := by split <;> rfl
  have hadv2 : (if (bg.1 && count) = true then c.shl - 1 else c.shl) = shl := rfl
  rw [hadv, hadv2]
  by_cases hp : c.pend ∧ shl = 0
  · have hp2 : c2.pend ∧ c2.shl = 0 := by rw [g9, g3]; exact hp
    rw [if_pos hp]
    have e3 : (transferNow (s.setCtx c2) c2).ctx? h = some { c2 with pc := c2.target, pend := false, target := 0, bpSkip := 0 } := by
      unfold transferNow; rw [ctx?_congr (traceRec_ctxs _ _ _ _ _ _)]; exact ctx?_setCtx_of _ _ _ g1
    rw [ctx_of_ctx? e3]
    obtain ⟨st, v, z, m, e4, e5⟩ := afterComplete_ctx _ h _ safe e3
    refine ⟨_, rfl, ?_⟩
    rw [ctx_of_ctx? e4]
    refine ⟨g2, g3, g4, g5, g6, fun hs => ?_, ?_⟩
    · have := e5 (by rw [show ({ c2 with pc := c2.target, pend := false, target := 0, bpSkip := 0 } : Ctx).status = c2.status from rfl, g7]; exact hs)
      simp only [this, g7]
    · rw [if_pos hp]; exact ⟨g10, rfl⟩
  · have hp2 : ¬ (c2.pend ∧ c2.shl = 0) := by rw [g9, g3]; exact hp
    rw [if_neg hp, ctx_of_ctx? e2]
    obtain ⟨st, v, z, m, e4, e5⟩ := afterComplete_ctx _ h _ safe e2
    refine ⟨_, rfl, ?_⟩
    rw [ctx_of_ctx? e4]
    refine ⟨g2, g3, g4, g5, g6, fun hs => ?_, ?_⟩
    · have := e5 (by rw [g7]; exact hs)
      simp only [this, g7]
    · rw [if_neg hp]; exact ⟨g8, g9⟩

/-- Where every result has room, no load of a bundle is deferred (spec/07 R176, R177). -/
theorem deferLoads_none {c : Ctx} {spec : Bool} {base : Nat} {xs : List (SlotIn × Instr × SlotRes)}
    (h : base + (xs.map (newResults c spec)).sum ≤ 32) : deferLoads c spec base xs = [] := by
  unfold deferLoads
  split
  · rfl
  · have hs : ∀ l : List (SlotIn × Instr × SlotRes), (l.map (newResults c spec)).sum =
        ((l.filter fun x => !isLoad x.1.info).map (newResults c spec)).sum +
        ((l.filter fun x => isLoad x.1.info).map (newResults c spec)).sum := by
      intro l; induction l with
      | nil => rfl
      | cons a l ih => cases hl : isLoad a.1.info <;> simp [hl, ih] <;> omega
    have ho : ∀ (l : List (Nat × Nat)) (room : Nat), (l.map (·.2)).sum ≤ room → overRoom room l = [] := by
      intro l; induction l with
      | nil => intros; rfl
      | cons a l ih =>
        intro room hr; obtain ⟨p, n⟩ := a
        simp only [List.map_cons, List.sum_cons] at hr
        unfold overRoom; rw [if_pos (by omega)]; exact ih _ (by omega)
    apply ho
    rw [List.map_map]
    have := hs xs
    simp only [Function.comp_def]
    change (List.map (newResults c spec) _).sum ≤ _
    omega

end Sys2Proof.Machine
end

