-- ==== Sys2Proof/Laws/Gates.lean ====
section
/-!
SUPPORT. Every slot operation stands behind the gate of its guard and its tokens: one lemma per operation, and what a
disabled or a waiting operation does, once for all of them.
-/

namespace Sys2Proof.Machine.Gates

open Sys2Proof Sys2Proof.Safety

/-- A meaning behind the gate. -/
abbrev Gated (i : Instr) (f : Fields) (s : State) : Prop := ∃ run, semOf i s = slotOp i f s run

/-- A transfer operation's meaning: disabled, it leaves its shadow. -/
abbrev GatedTransfer (i : Instr) (f : Fields) (s : State) : Prop := ∃ run, semOf i s = transferOp i f s run

theorem br (p : Pos) (f : Fields) (s : State) : GatedTransfer (.br p f) f s := by
  show ∃ run, semBr p f s = _
  unfold semBr; exact ⟨_, rfl⟩
theorem jmp (p : Pos) (f : Fields) (s : State) : GatedTransfer (.jmp p f) f s := by
  show ∃ run, semJmp p f s = _
  unfold semJmp; exact ⟨_, rfl⟩
theorem call (p : Pos) (f : Fields) (s : State) : GatedTransfer (.call p f) f s := by
  show ∃ run, semCall p f s = _
  unfold semCall; exact ⟨_, rfl⟩
theorem callc (p : Pos) (f : Fields) (s : State) : GatedTransfer (.callc p f) f s := by
  show ∃ run, semCallc p f s = _
  unfold semCallc; exact ⟨_, rfl⟩
theorem ret (p : Pos) (f : Fields) (s : State) : GatedTransfer (.ret p f) f s := by
  show ∃ run, semRet p f s = _
  unfold semRet; exact ⟨_, rfl⟩
theorem loop (p : Pos) (f : Fields) (s : State) : Gated (.loop p f) f s := by
  show ∃ run, semLoop p f s = _
  unfold semLoop; exact ⟨_, rfl⟩
theorem loopd (p : Pos) (f : Fields) (s : State) : Gated (.loopd p f) f s := by
  show ∃ run, semLoopd p f s = _
  unfold semLoopd; exact ⟨_, rfl⟩
theorem loopx (p : Pos) (f : Fields) (s : State) : GatedTransfer (.loopx p f) f s := by
  show ∃ run, semLoopx p f s = _
  unfold semLoopx; exact ⟨_, rfl⟩
theorem fork (p : Pos) (f : Fields) (s : State) : Gated (.fork p f) f s := by
  show ∃ run, semFork p f s = _
  unfold semFork forkOp; exact ⟨_, rfl⟩
theorem forkr (p : Pos) (f : Fields) (s : State) : Gated (.forkr p f) f s := by
  show ∃ run, semForkr p f s = _
  unfold semForkr forkOp; exact ⟨_, rfl⟩
theorem join (p : Pos) (f : Fields) (s : State) : Gated (.join p f) f s := by
  show ∃ run, semJoin p f s = _
  unfold semJoin; exact ⟨_, rfl⟩
theorem take (p : Pos) (f : Fields) (s : State) : GatedTransfer (.take p f) f s := by
  show ∃ run, semTake p f s = _
  unfold semTake; exact ⟨_, rfl⟩
theorem retire (p : Pos) (f : Fields) (s : State) : Gated (.retire p f) f s := by
  show ∃ run, semRetire p f s = _
  unfold semRetire; exact ⟨_, rfl⟩
theorem retireT (p : Pos) (f : Fields) (s : State) : Gated (.retireT p f) f s := by
  show ∃ run, semRetireT p f s = _
  unfold semRetireT; exact ⟨_, rfl⟩
theorem yield (p : Pos) (f : Fields) (s : State) : Gated (.yield p f) f s := by
  show ∃ run, semYield p f s = _
  unfold semYield; exact ⟨_, rfl⟩
theorem fget (p : Pos) (f : Fields) (s : State) : Gated (.fget p f) f s := by
  show ∃ run, semFget p f s = _
  unfold semFget; exact ⟨_, rfl⟩
theorem fput (p : Pos) (f : Fields) (s : State) : Gated (.fput p f) f s := by
  show ∃ run, semFput p f s = _
  unfold semFput; exact ⟨_, rfl⟩
theorem phase (p : Pos) (f : Fields) (s : State) : Gated (.phase p f) f s := by
  show ∃ run, semPhase p f s = _
  unfold semPhase; exact ⟨_, rfl⟩
theorem binit (p : Pos) (f : Fields) (s : State) : Gated (.binit p f) f s := by
  show ∃ run, semBinit p f s = _
  unfold semBinit; exact ⟨_, rfl⟩
theorem barrive (p : Pos) (f : Fields) (s : State) : Gated (.barrive p f) f s := by
  show ∃ run, semBarrive p f s = _
  unfold semBarrive; exact ⟨_, rfl⟩
theorem bwait (p : Pos) (f : Fields) (s : State) : Gated (.bwait p f) f s := by
  show ∃ run, semBwait p f s = _
  unfold semBwait; exact ⟨_, rfl⟩
theorem frd (p : Pos) (f : Fields) (s : State) : Gated (.frd p f) f s := by
  show ∃ run, semFrd p f s = _
  unfold semFrd get64; exact ⟨_, rfl⟩
theorem lvlrd (p : Pos) (f : Fields) (s : State) : Gated (.lvlrd p f) f s := by
  show ∃ run, semLvlrd p f s = _
  unfold semLvlrd get64; exact ⟨_, rfl⟩
theorem emrd (p : Pos) (f : Fields) (s : State) : Gated (.emrd p f) f s := by
  show ∃ run, semEmrd p f s = _
  unfold semEmrd get64; exact ⟨_, rfl⟩
theorem srd (p : Pos) (f : Fields) (s : State) : Gated (.srd p f) f s := by
  show ∃ run, semSrd p f s = _
  unfold semSrd get64; exact ⟨_, rfl⟩
theorem swr (p : Pos) (f : Fields) (s : State) : Gated (.swr p f) f s := by
  show ∃ run, semSwr p f s = _
  unfold semSwr; exact ⟨_, rfl⟩
theorem ecall (p : Pos) (f : Fields) (s : State) : Gated (.ecall p f) f s := by
  show ∃ run, semEcall p f s = _
  unfold semEcall; exact ⟨_, rfl⟩
theorem trap (p : Pos) (f : Fields) (s : State) : Gated (.trap p f) f s := by
  show ∃ run, semTrap p f s = _
  unfold semTrap; exact ⟨_, rfl⟩
theorem uret (p : Pos) (f : Fields) (s : State) : GatedTransfer (.uret p f) f s := by
  show ∃ run, semUret p f s = _
  unfold semUret; exact ⟨_, rfl⟩
theorem dbrk (p : Pos) (f : Fields) (s : State) : Gated (.dbrk p f) f s := by
  show ∃ run, semDbrk p f s = _
  unfold semDbrk; exact ⟨_, rfl⟩
theorem cli (p : Pos) (f : Fields) (s : State) : Gated (.cli p f) f s := by
  show ∃ run, semCli p f s = _
  unfold semCli get64; exact ⟨_, rfl⟩
theorem clui (p : Pos) (f : Fields) (s : State) : Gated (.clui p f) f s := by
  show ∃ run, semClui p f s = _
  unfold semClui get64; exact ⟨_, rfl⟩
theorem cadd (p : Pos) (f : Fields) (s : State) : Gated (.cadd p f) f s := by
  show ∃ run, semCadd p f s = _
  unfold semCadd alu64; exact ⟨_, rfl⟩
theorem csub (p : Pos) (f : Fields) (s : State) : Gated (.csub p f) f s := by
  show ∃ run, semCsub p f s = _
  unfold semCsub alu64; exact ⟨_, rfl⟩
theorem cmul (p : Pos) (f : Fields) (s : State) : Gated (.cmul p f) f s := by
  show ∃ run, semCmul p f s = _
  unfold semCmul alu64; exact ⟨_, rfl⟩
theorem cand (p : Pos) (f : Fields) (s : State) : Gated (.cand p f) f s := by
  show ∃ run, semCand p f s = _
  unfold semCand alu64; exact ⟨_, rfl⟩
theorem cor (p : Pos) (f : Fields) (s : State) : Gated (.cor p f) f s := by
  show ∃ run, semCor p f s = _
  unfold semCor alu64; exact ⟨_, rfl⟩
theorem cxor (p : Pos) (f : Fields) (s : State) : Gated (.cxor p f) f s := by
  show ∃ run, semCxor p f s = _
  unfold semCxor alu64; exact ⟨_, rfl⟩
theorem csll (p : Pos) (f : Fields) (s : State) : Gated (.csll p f) f s := by
  show ∃ run, semCsll p f s = _
  unfold semCsll alu64; exact ⟨_, rfl⟩
theorem csrl (p : Pos) (f : Fields) (s : State) : Gated (.csrl p f) f s := by
  show ∃ run, semCsrl p f s = _
  unfold semCsrl alu64; exact ⟨_, rfl⟩
theorem csra (p : Pos) (f : Fields) (s : State) : Gated (.csra p f) f s := by
  show ∃ run, semCsra p f s = _
  unfold semCsra alu64; exact ⟨_, rfl⟩
theorem ccmp (p : Pos) (f : Fields) (s : State) : Gated (.ccmp p f) f s := by
  show ∃ run, semCcmp p f s = _
  unfold semCcmp; exact ⟨_, rfl⟩
theorem cmov (p : Pos) (f : Fields) (s : State) : Gated (.cmov p f) f s := by
  show ∃ run, semCmov p f s = _
  unfold semCmov get64; exact ⟨_, rfl⟩
theorem cpset (p : Pos) (f : Fields) (s : State) : Gated (.cpset p f) f s := by
  show ∃ run, semCpset p f s = _
  unfold semCpset; exact ⟨_, rfl⟩
theorem cpget (p : Pos) (f : Fields) (s : State) : Gated (.cpget p f) f s := by
  show ∃ run, semCpget p f s = _
  unfold semCpget get64; exact ⟨_, rfl⟩
theorem add (p : Pos) (f : Fields) (s : State) : Gated (.add p f) f s := by
  show ∃ run, semAdd p f s = _
  unfold semAdd alu2; exact ⟨_, rfl⟩
theorem sub (p : Pos) (f : Fields) (s : State) : Gated (.sub p f) f s := by
  show ∃ run, semSub p f s = _
  unfold semSub alu2; exact ⟨_, rfl⟩
theorem mul (p : Pos) (f : Fields) (s : State) : Gated (.mul p f) f s := by
  show ∃ run, semMul p f s = _
  unfold semMul alu2; exact ⟨_, rfl⟩
theorem mulh (p : Pos) (f : Fields) (s : State) : Gated (.mulh p f) f s := by
  show ∃ run, semMulh p f s = _
  unfold semMulh alu2; exact ⟨_, rfl⟩
theorem div (p : Pos) (f : Fields) (s : State) : Gated (.div p f) f s := by
  show ∃ run, semDiv p f s = _
  unfold semDiv alu2; exact ⟨_, rfl⟩
theorem rem (p : Pos) (f : Fields) (s : State) : Gated (.rem p f) f s := by
  show ∃ run, semRem p f s = _
  unfold semRem alu2; exact ⟨_, rfl⟩
theorem and (p : Pos) (f : Fields) (s : State) : Gated (.and p f) f s := by
  show ∃ run, semAnd p f s = _
  unfold semAnd alu2; exact ⟨_, rfl⟩
theorem or (p : Pos) (f : Fields) (s : State) : Gated (.or p f) f s := by
  show ∃ run, semOr p f s = _
  unfold semOr alu2; exact ⟨_, rfl⟩
theorem xor (p : Pos) (f : Fields) (s : State) : Gated (.xor p f) f s := by
  show ∃ run, semXor p f s = _
  unfold semXor alu2; exact ⟨_, rfl⟩
theorem sll (p : Pos) (f : Fields) (s : State) : Gated (.sll p f) f s := by
  show ∃ run, semSll p f s = _
  unfold semSll alu2; exact ⟨_, rfl⟩
theorem srl (p : Pos) (f : Fields) (s : State) : Gated (.srl p f) f s := by
  show ∃ run, semSrl p f s = _
  unfold semSrl alu2; exact ⟨_, rfl⟩
theorem sra (p : Pos) (f : Fields) (s : State) : Gated (.sra p f) f s := by
  show ∃ run, semSra p f s = _
  unfold semSra alu2; exact ⟨_, rfl⟩
theorem min (p : Pos) (f : Fields) (s : State) : Gated (.min p f) f s := by
  show ∃ run, semMin p f s = _
  unfold semMin alu2; exact ⟨_, rfl⟩
theorem max (p : Pos) (f : Fields) (s : State) : Gated (.max p f) f s := by
  show ∃ run, semMax p f s = _
  unfold semMax alu2; exact ⟨_, rfl⟩
theorem abs (p : Pos) (f : Fields) (s : State) : Gated (.abs p f) f s := by
  show ∃ run, semAbs p f s = _
  unfold semAbs alu1; exact ⟨_, rfl⟩
theorem clz (p : Pos) (f : Fields) (s : State) : Gated (.clz p f) f s := by
  show ∃ run, semClz p f s = _
  unfold semClz alu1; exact ⟨_, rfl⟩
theorem popc (p : Pos) (f : Fields) (s : State) : Gated (.popc p f) f s := by
  show ∃ run, semPopc p f s = _
  unfold semPopc alu1; exact ⟨_, rfl⟩
theorem ext (p : Pos) (f : Fields) (s : State) : Gated (.ext p f) f s := by
  show ∃ run, semExt p f s = _
  unfold semExt alu1; exact ⟨_, rfl⟩
theorem xtr (p : Pos) (f : Fields) (s : State) : Gated (.xtr p f) f s := by
  show ∃ run, semXtr p f s = _
  unfold semXtr alu1; exact ⟨_, rfl⟩
theorem ins (p : Pos) (f : Fields) (s : State) : Gated (.ins p f) f s := by
  show ∃ run, semIns p f s = _
  unfold semIns alu1; exact ⟨_, rfl⟩
theorem li (p : Pos) (f : Fields) (s : State) : Gated (.li p f) f s := by
  show ∃ run, semLi p f s = _
  unfold semLi; exact ⟨_, rfl⟩
theorem lea (p : Pos) (f : Fields) (s : State) : Gated (.lea p f) f s := by
  show ∃ run, semLea p f s = _
  unfold semLea alu2; exact ⟨_, rfl⟩
theorem cmp (p : Pos) (f : Fields) (s : State) : Gated (.cmp p f) f s := by
  show ∃ run, semCmp p f s = _
  unfold semCmp setPred; exact ⟨_, rfl⟩
theorem sel (p : Pos) (f : Fields) (s : State) : Gated (.sel p f) f s := by
  show ∃ run, semSel p f s = _
  unfold semSel alu2; exact ⟨_, rfl⟩
theorem pand (p : Pos) (f : Fields) (s : State) : Gated (.pand p f) f s := by
  show ∃ run, semPand p f s = _
  unfold semPand setPred; exact ⟨_, rfl⟩
theorem por (p : Pos) (f : Fields) (s : State) : Gated (.por p f) f s := by
  show ∃ run, semPor p f s = _
  unfold semPor setPred; exact ⟨_, rfl⟩
theorem pxor (p : Pos) (f : Fields) (s : State) : Gated (.pxor p f) f s := by
  show ∃ run, semPxor p f s = _
  unfold semPxor setPred; exact ⟨_, rfl⟩
theorem pset (p : Pos) (f : Fields) (s : State) : Gated (.pset p f) f s := by
  show ∃ run, semPset p f s = _
  unfold semPset setPred; exact ⟨_, rfl⟩
theorem pget (p : Pos) (f : Fields) (s : State) : Gated (.pget p f) f s := by
  show ∃ run, semPget p f s = _
  unfold semPget; exact ⟨_, rfl⟩
theorem xfer (p : Pos) (f : Fields) (s : State) : Gated (.xfer p f) f s := by
  show ∃ run, semXfer p f s = _
  unfold semXfer; exact ⟨_, rfl⟩
theorem fadd (p : Pos) (f : Fields) (s : State) : Gated (.fadd p f) f s := by
  show ∃ run, semFadd p f s = _
  unfold semFadd fpu2; exact ⟨_, rfl⟩
theorem fsub (p : Pos) (f : Fields) (s : State) : Gated (.fsub p f) f s := by
  show ∃ run, semFsub p f s = _
  unfold semFsub fpu2; exact ⟨_, rfl⟩
theorem fmul (p : Pos) (f : Fields) (s : State) : Gated (.fmul p f) f s := by
  show ∃ run, semFmul p f s = _
  unfold semFmul fpu2; exact ⟨_, rfl⟩
theorem fma (p : Pos) (f : Fields) (s : State) : Gated (.fma p f) f s := by
  show ∃ run, semFma p f s = _
  unfold semFma fpu2; exact ⟨_, rfl⟩
theorem fdiv (p : Pos) (f : Fields) (s : State) : Gated (.fdiv p f) f s := by
  show ∃ run, semFdiv p f s = _
  unfold semFdiv fpu2; exact ⟨_, rfl⟩
theorem fmin (p : Pos) (f : Fields) (s : State) : Gated (.fmin p f) f s := by
  show ∃ run, semFmin p f s = _
  unfold semFmin fpu2; exact ⟨_, rfl⟩
theorem fmax (p : Pos) (f : Fields) (s : State) : Gated (.fmax p f) f s := by
  show ∃ run, semFmax p f s = _
  unfold semFmax fpu2; exact ⟨_, rfl⟩
theorem fcmp (p : Pos) (f : Fields) (s : State) : Gated (.fcmp p f) f s := by
  show ∃ run, semFcmp p f s = _
  unfold semFcmp setPred; exact ⟨_, rfl⟩
theorem fcvt (p : Pos) (f : Fields) (s : State) : Gated (.fcvt p f) f s := by
  show ∃ run, semFcvt p f s = _
  unfold semFcvt; exact ⟨_, rfl⟩
theorem icvt (p : Pos) (f : Fields) (s : State) : Gated (.icvt p f) f s := by
  show ∃ run, semIcvt p f s = _
  unfold semIcvt; exact ⟨_, rfl⟩
theorem kld (p : Pos) (f : Fields) (s : State) : Gated (.kld p f) f s := by
  show ∃ run, semKld p f s = _
  unfold semKld; exact ⟨_, rfl⟩
theorem kmov (p : Pos) (f : Fields) (s : State) : Gated (.kmov p f) f s := by
  show ∃ run, semKmov p f s = _
  unfold semKmov; exact ⟨_, rfl⟩
theorem kbind (p : Pos) (f : Fields) (s : State) : Gated (.kbind p f) f s := by
  show ∃ run, semKbind p f s = _
  unfold semKbind; exact ⟨_, rfl⟩
theorem kfmt (p : Pos) (f : Fields) (s : State) : Gated (.kfmt p f) f s := by
  show ∃ run, semKfmt p f s = _
  unfold semKfmt; exact ⟨_, rfl⟩
theorem kadd (p : Pos) (f : Fields) (s : State) : Gated (.kadd p f) f s := by
  show ∃ run, semKadd p f s = _
  unfold semKadd; exact ⟨_, rfl⟩
theorem ksub (p : Pos) (f : Fields) (s : State) : Gated (.ksub p f) f s := by
  show ∃ run, semKsub p f s = _
  unfold semKsub; exact ⟨_, rfl⟩
theorem kli (p : Pos) (f : Fields) (s : State) : Gated (.kli p f) f s := by
  show ∃ run, semKli p f s = _
  unfold semKli; exact ⟨_, rfl⟩
theorem kclr (p : Pos) (f : Fields) (s : State) : Gated (.kclr p f) f s := by
  show ∃ run, semKclr p f s = _
  unfold semKclr; exact ⟨_, rfl⟩
theorem ld (p : Pos) (f : Fields) (s : State) : Gated (.ld p f) f s := by
  show ∃ run, semLd p f s = _
  unfold semLd; exact ⟨_, rfl⟩
theorem st (p : Pos) (f : Fields) (s : State) : Gated (.st p f) f s := by
  show ∃ run, semSt p f s = _
  unfold semSt; exact ⟨_, rfl⟩
theorem vld (p : Pos) (f : Fields) (s : State) : Gated (.vld p f) f s := by
  show ∃ run, semVld p f s = _
  unfold semVld; exact ⟨_, rfl⟩
theorem vst (p : Pos) (f : Fields) (s : State) : Gated (.vst p f) f s := by
  show ∃ run, semVst p f s = _
  unfold semVst; exact ⟨_, rfl⟩
theorem vlds (p : Pos) (f : Fields) (s : State) : Gated (.vlds p f) f s := by
  show ∃ run, semVlds p f s = _
  unfold semVlds; exact ⟨_, rfl⟩
theorem vsts (p : Pos) (f : Fields) (s : State) : Gated (.vsts p f) f s := by
  show ∃ run, semVsts p f s = _
  unfold semVsts; exact ⟨_, rfl⟩
theorem vldx (p : Pos) (f : Fields) (s : State) : Gated (.vldx p f) f s := by
  show ∃ run, semVldx p f s = _
  unfold semVldx; exact ⟨_, rfl⟩
theorem vstx (p : Pos) (f : Fields) (s : State) : Gated (.vstx p f) f s := by
  show ∃ run, semVstx p f s = _
  unfold semVstx; exact ⟨_, rfl⟩
theorem gath (p : Pos) (f : Fields) (s : State) : Gated (.gath p f) f s := by
  show ∃ run, semGath p f s = _
  unfold semGath; exact ⟨_, rfl⟩
theorem scat (p : Pos) (f : Fields) (s : State) : Gated (.scat p f) f s := by
  show ∃ run, semScat p f s = _
  unfold semScat; exact ⟨_, rfl⟩
theorem fld (p : Pos) (f : Fields) (s : State) : Gated (.fld p f) f s := by
  show ∃ run, semFld p f s = _
  unfold semFld; exact ⟨_, rfl⟩
theorem fst (p : Pos) (f : Fields) (s : State) : Gated (.fst p f) f s := by
  show ∃ run, semFst p f s = _
  unfold semFst; exact ⟨_, rfl⟩
theorem fldv (p : Pos) (f : Fields) (s : State) : Gated (.fldv p f) f s := by
  show ∃ run, semFldv p f s = _
  unfold semFldv; exact ⟨_, rfl⟩
theorem fstv (p : Pos) (f : Fields) (s : State) : Gated (.fstv p f) f s := by
  show ∃ run, semFstv p f s = _
  unfold semFstv; exact ⟨_, rfl⟩
theorem spill (p : Pos) (f : Fields) (s : State) : Gated (.spill p f) f s := by
  show ∃ run, semSpill p f s = _
  unfold semSpill; exact ⟨_, rfl⟩
theorem fill (p : Pos) (f : Fields) (s : State) : Gated (.fill p f) f s := by
  show ∃ run, semFill p f s = _
  unfold semFill; exact ⟨_, rfl⟩
theorem vspill (p : Pos) (f : Fields) (s : State) : Gated (.vspill p f) f s := by
  show ∃ run, semVspill p f s = _
  unfold semVspill; exact ⟨_, rfl⟩
theorem vfill (p : Pos) (f : Fields) (s : State) : Gated (.vfill p f) f s := by
  show ∃ run, semVfill p f s = _
  unfold semVfill; exact ⟨_, rfl⟩
theorem amo (p : Pos) (f : Fields) (s : State) : Gated (.amo p f) f s := by
  show ∃ run, semAmo p f s = _
  unfold semAmo; exact ⟨_, rfl⟩
theorem amocas (p : Pos) (f : Fields) (s : State) : Gated (.amocas p f) f s := by
  show ∃ run, semAmocas p f s = _
  unfold semAmocas; exact ⟨_, rfl⟩
theorem probe (p : Pos) (f : Fields) (s : State) : Gated (.probe p f) f s := by
  show ∃ run, semProbe p f s = _
  unfold semProbe; exact ⟨_, rfl⟩
theorem cwb (p : Pos) (f : Fields) (s : State) : Gated (.cwb p f) f s := by
  show ∃ run, semCwb p f s = _
  unfold semCwb maintIssue; exact ⟨_, rfl⟩
theorem cinv (p : Pos) (f : Fields) (s : State) : Gated (.cinv p f) f s := by
  show ∃ run, semCinv p f s = _
  unfold semCinv maintIssue; exact ⟨_, rfl⟩
theorem cwbi (p : Pos) (f : Fields) (s : State) : Gated (.cwbi p f) f s := by
  show ∃ run, semCwbi p f s = _
  unfold semCwbi maintIssue; exact ⟨_, rfl⟩
theorem qfence (p : Pos) (f : Fields) (s : State) : Gated (.qfence p f) f s := by
  show ∃ run, semQfence p f s = _
  unfold semQfence; exact ⟨_, rfl⟩
theorem vldb (p : Pos) (f : Fields) (s : State) : Gated (.vldb p f) f s := by
  show ∃ run, semVldb p f s = _
  unfold semVldb; exact ⟨_, rfl⟩
theorem tag (p : Pos) (f : Fields) (s : State) : Gated (.tag p f) f s := by
  show ∃ run, semTag p f s = _
  unfold semTag; exact ⟨_, rfl⟩
theorem tagrd (p : Pos) (f : Fields) (s : State) : Gated (.tagrd p f) f s := by
  show ∃ run, semTagrd p f s = _
  unfold semTagrd; exact ⟨_, rfl⟩
theorem vadd (p : Pos) (f : Fields) (s : State) : Gated (.vadd p f) f s := by
  show ∃ run, semVadd p f s = _
  unfold semVadd vec2 vecOp; exact ⟨_, rfl⟩
theorem vsub (p : Pos) (f : Fields) (s : State) : Gated (.vsub p f) f s := by
  show ∃ run, semVsub p f s = _
  unfold semVsub vec2 vecOp; exact ⟨_, rfl⟩
theorem vmul (p : Pos) (f : Fields) (s : State) : Gated (.vmul p f) f s := by
  show ∃ run, semVmul p f s = _
  unfold semVmul vec2 vecOp; exact ⟨_, rfl⟩
theorem vmulh (p : Pos) (f : Fields) (s : State) : Gated (.vmulh p f) f s := by
  show ∃ run, semVmulh p f s = _
  unfold semVmulh veci vecOp; exact ⟨_, rfl⟩
theorem vfma (p : Pos) (f : Fields) (s : State) : Gated (.vfma p f) f s := by
  show ∃ run, semVfma p f s = _
  unfold semVfma vmac vecOp; exact ⟨_, rfl⟩
theorem vfms (p : Pos) (f : Fields) (s : State) : Gated (.vfms p f) f s := by
  show ∃ run, semVfms p f s = _
  unfold semVfms vmac vecOp; exact ⟨_, rfl⟩
theorem vfnma (p : Pos) (f : Fields) (s : State) : Gated (.vfnma p f) f s := by
  show ∃ run, semVfnma p f s = _
  unfold semVfnma vmac vecOp; exact ⟨_, rfl⟩
theorem vmin (p : Pos) (f : Fields) (s : State) : Gated (.vmin p f) f s := by
  show ∃ run, semVmin p f s = _
  unfold semVmin vec2 vecOp; exact ⟨_, rfl⟩
theorem vmax (p : Pos) (f : Fields) (s : State) : Gated (.vmax p f) f s := by
  show ∃ run, semVmax p f s = _
  unfold semVmax vec2 vecOp; exact ⟨_, rfl⟩
theorem vabs (p : Pos) (f : Fields) (s : State) : Gated (.vabs p f) f s := by
  show ∃ run, semVabs p f s = _
  unfold semVabs vecOp; exact ⟨_, rfl⟩
theorem vneg (p : Pos) (f : Fields) (s : State) : Gated (.vneg p f) f s := by
  show ∃ run, semVneg p f s = _
  unfold semVneg vecOp; exact ⟨_, rfl⟩
theorem vadds (p : Pos) (f : Fields) (s : State) : Gated (.vadds p f) f s := by
  show ∃ run, semVadds p f s = _
  unfold semVadds veci vecOp; exact ⟨_, rfl⟩
theorem vsubs (p : Pos) (f : Fields) (s : State) : Gated (.vsubs p f) f s := by
  show ∃ run, semVsubs p f s = _
  unfold semVsubs veci vecOp; exact ⟨_, rfl⟩
theorem vand (p : Pos) (f : Fields) (s : State) : Gated (.vand p f) f s := by
  show ∃ run, semVand p f s = _
  unfold semVand veci vecOp; exact ⟨_, rfl⟩
theorem vor (p : Pos) (f : Fields) (s : State) : Gated (.vor p f) f s := by
  show ∃ run, semVor p f s = _
  unfold semVor veci vecOp; exact ⟨_, rfl⟩
theorem vxor (p : Pos) (f : Fields) (s : State) : Gated (.vxor p f) f s := by
  show ∃ run, semVxor p f s = _
  unfold semVxor veci vecOp; exact ⟨_, rfl⟩
theorem vsll (p : Pos) (f : Fields) (s : State) : Gated (.vsll p f) f s := by
  show ∃ run, semVsll p f s = _
  unfold semVsll veci vecOp; exact ⟨_, rfl⟩
theorem vsrl (p : Pos) (f : Fields) (s : State) : Gated (.vsrl p f) f s := by
  show ∃ run, semVsrl p f s = _
  unfold semVsrl veci vecOp; exact ⟨_, rfl⟩
theorem vsra (p : Pos) (f : Fields) (s : State) : Gated (.vsra p f) f s := by
  show ∃ run, semVsra p f s = _
  unfold semVsra veci vecOp; exact ⟨_, rfl⟩
theorem vclz (p : Pos) (f : Fields) (s : State) : Gated (.vclz p f) f s := by
  show ∃ run, semVclz p f s = _
  unfold semVclz vecOp; exact ⟨_, rfl⟩
theorem vpopc (p : Pos) (f : Fields) (s : State) : Gated (.vpopc p f) f s := by
  show ∃ run, semVpopc p f s = _
  unfold semVpopc vecOp; exact ⟨_, rfl⟩
theorem vcmp (p : Pos) (f : Fields) (s : State) : Gated (.vcmp p f) f s := by
  show ∃ run, semVcmp p f s = _
  unfold semVcmp vecPred; exact ⟨_, rfl⟩
theorem vsel (p : Pos) (f : Fields) (s : State) : Gated (.vsel p f) f s := by
  show ∃ run, semVsel p f s = _
  unfold semVsel vecOp; exact ⟨_, rfl⟩
theorem vmov (p : Pos) (f : Fields) (s : State) : Gated (.vmov p f) f s := by
  show ∃ run, semVmov p f s = _
  unfold semVmov vecOp; exact ⟨_, rfl⟩
theorem vli (p : Pos) (f : Fields) (s : State) : Gated (.vli p f) f s := by
  show ∃ run, semVli p f s = _
  unfold semVli vecOp; exact ⟨_, rfl⟩
theorem vext (p : Pos) (f : Fields) (s : State) : Gated (.vext p f) f s := by
  show ∃ run, semVext p f s = _
  unfold semVext vecOp; exact ⟨_, rfl⟩
theorem vcvt (p : Pos) (f : Fields) (s : State) : Gated (.vcvt p f) f s := by
  show ∃ run, semVcvt p f s = _
  unfold semVcvt vecOp; exact ⟨_, rfl⟩
theorem vrnd (p : Pos) (f : Fields) (s : State) : Gated (.vrnd p f) f s := by
  show ∃ run, semVrnd p f s = _
  unfold semVrnd vecOp; exact ⟨_, rfl⟩
theorem vscale (p : Pos) (f : Fields) (s : State) : Gated (.vscale p f) f s := by
  show ∃ run, semVscale p f s = _
  unfold semVscale vecOp; exact ⟨_, rfl⟩
theorem vrcp (p : Pos) (f : Fields) (s : State) : Gated (.vrcp p f) f s := by
  show ∃ run, semVrcp p f s = _
  unfold semVrcp vecApprox vecOp; exact ⟨_, rfl⟩
theorem vrsqrt (p : Pos) (f : Fields) (s : State) : Gated (.vrsqrt p f) f s := by
  show ∃ run, semVrsqrt p f s = _
  unfold semVrsqrt vecApprox vecOp; exact ⟨_, rfl⟩
theorem vexp2 (p : Pos) (f : Fields) (s : State) : Gated (.vexp2 p f) f s := by
  show ∃ run, semVexp2 p f s = _
  unfold semVexp2 vecApprox vecOp; exact ⟨_, rfl⟩
theorem vlog2 (p : Pos) (f : Fields) (s : State) : Gated (.vlog2 p f) f s := by
  show ∃ run, semVlog2 p f s = _
  unfold semVlog2 vecApprox vecOp; exact ⟨_, rfl⟩
theorem vred (p : Pos) (f : Fields) (s : State) : Gated (.vred p f) f s := by
  show ∃ run, semVred p f s = _
  unfold semVred; exact ⟨_, rfl⟩
theorem vscan (p : Pos) (f : Fields) (s : State) : Gated (.vscan p f) f s := by
  show ∃ run, semVscan p f s = _
  unfold semVscan vecOp; exact ⟨_, rfl⟩
theorem vperm (p : Pos) (f : Fields) (s : State) : Gated (.vperm p f) f s := by
  show ∃ run, semVperm p f s = _
  unfold semVperm vecOp; exact ⟨_, rfl⟩
theorem vbcast (p : Pos) (f : Fields) (s : State) : Gated (.vbcast p f) f s := by
  show ∃ run, semVbcast p f s = _
  unfold semVbcast vecOp; exact ⟨_, rfl⟩
theorem vrot (p : Pos) (f : Fields) (s : State) : Gated (.vrot p f) f s := by
  show ∃ run, semVrot p f s = _
  unfold semVrot vecOp; exact ⟨_, rfl⟩
theorem vslide (p : Pos) (f : Fields) (s : State) : Gated (.vslide p f) f s := by
  show ∃ run, semVslide p f s = _
  unfold semVslide vecOp; exact ⟨_, rfl⟩
theorem viota (p : Pos) (f : Fields) (s : State) : Gated (.viota p f) f s := by
  show ∃ run, semViota p f s = _
  unfold semViota vecOp; exact ⟨_, rfl⟩
theorem vpack (p : Pos) (f : Fields) (s : State) : Gated (.vpack p f) f s := by
  show ∃ run, semVpack p f s = _
  unfold semVpack; exact ⟨_, rfl⟩
theorem vunpack (p : Pos) (f : Fields) (s : State) : Gated (.vunpack p f) f s := by
  show ∃ run, semVunpack p f s = _
  unfold semVunpack; exact ⟨_, rfl⟩
theorem vdot (p : Pos) (f : Fields) (s : State) : Gated (.vdot p f) f s := by
  show ∃ run, semVdot p f s = _
  unfold semVdot vecOp; exact ⟨_, rfl⟩
theorem vdotsu (p : Pos) (f : Fields) (s : State) : Gated (.vdotsu p f) f s := by
  show ∃ run, semVdotsu p f s = _
  unfold semVdotsu vecOp; exact ⟨_, rfl⟩
theorem vpset (p : Pos) (f : Fields) (s : State) : Gated (.vpset p f) f s := by
  show ∃ run, semVpset p f s = _
  unfold semVpset vecPred; exact ⟨_, rfl⟩
theorem vpget (p : Pos) (f : Fields) (s : State) : Gated (.vpget p f) f s := by
  show ∃ run, semVpget p f s = _
  unfold semVpget vecOp; exact ⟨_, rfl⟩
theorem vfirst (p : Pos) (f : Fields) (s : State) : Gated (.vfirst p f) f s := by
  show ∃ run, semVfirst p f s = _
  unfold semVfirst vecOp; exact ⟨_, rfl⟩
theorem mcall (p : Pos) (f : Fields) (s : State) : Gated (.mcall p f) f s := by
  show ∃ run, semMcall p f s = _
  unfold semMcall engOp; exact ⟨_, rfl⟩
theorem mpset (p : Pos) (f : Fields) (s : State) : Gated (.mpset p f) f s := by
  show ∃ run, semMpset p f s = _
  unfold semMpset; exact ⟨_, rfl⟩
theorem mload (p : Pos) (f : Fields) (s : State) : Gated (.mload p f) f s := by
  show ∃ run, semMload p f s = _
  unfold semMload descOp engOp; exact ⟨_, rfl⟩
theorem smcopy (p : Pos) (f : Fields) (s : State) : Gated (.smcopy p f) f s := by
  show ∃ run, semSmcopy p f s = _
  unfold semSmcopy descOp engOp; exact ⟨_, rfl⟩
theorem ncopy (p : Pos) (f : Fields) (s : State) : Gated (.ncopy p f) f s := by
  show ∃ run, semNcopy p f s = _
  unfold semNcopy descOp engOp; exact ⟨_, rfl⟩
theorem egath (p : Pos) (f : Fields) (s : State) : Gated (.egath p f) f s := by
  show ∃ run, semEgath p f s = _
  unfold semEgath descOp engOp; exact ⟨_, rfl⟩
theorem escat (p : Pos) (f : Fields) (s : State) : Gated (.escat p f) f s := by
  show ∃ run, semEscat p f s = _
  unfold semEscat descOp engOp; exact ⟨_, rfl⟩
theorem mcast (p : Pos) (f : Fields) (s : State) : Gated (.mcast p f) f s := by
  show ∃ run, semMcast p f s = _
  unfold semMcast descOp engOp; exact ⟨_, rfl⟩
theorem mcastb (p : Pos) (f : Fields) (s : State) : Gated (.mcastb p f) f s := by
  show ∃ run, semMcastb p f s = _
  unfold semMcastb descOp engOp; exact ⟨_, rfl⟩
theorem coll (p : Pos) (f : Fields) (s : State) : Gated (.coll p f) f s := by
  show ∃ run, semColl p f s = _
  unfold semColl descOp engOp; exact ⟨_, rfl⟩
theorem tnld (p : Pos) (f : Fields) (s : State) : Gated (.tnld p f) f s := by
  show ∃ run, semTnld p f s = _
  unfold semTnld descOp engOp; exact ⟨_, rfl⟩
theorem tnst (p : Pos) (f : Fields) (s : State) : Gated (.tnst p f) f s := by
  show ∃ run, semTnst p f s = _
  unfold semTnst descOp engOp; exact ⟨_, rfl⟩
theorem tnpf (p : Pos) (f : Fields) (s : State) : Gated (.tnpf p f) f s := by
  show ∃ run, semTnpf p f s = _
  unfold semTnpf descOp engOp; exact ⟨_, rfl⟩
theorem emit (p : Pos) (f : Fields) (s : State) : Gated (.emit p f) f s := by
  show ∃ run, semEmit p f s = _
  unfold semEmit descOp engOp; exact ⟨_, rfl⟩
theorem estat (p : Pos) (f : Fields) (s : State) : Gated (.estat p f) f s := by
  show ∃ run, semEstat p f s = _
  unfold semEstat get64; exact ⟨_, rfl⟩
theorem accld (p : Pos) (f : Fields) (s : State) : Gated (.accld p f) f s := by
  show ∃ run, semAccld p f s = _
  unfold semAccld descOp engOp; exact ⟨_, rfl⟩
theorem accst (p : Pos) (f : Fields) (s : State) : Gated (.accst p f) f s := by
  show ∃ run, semAccst p f s = _
  unfold semAccst descOp engOp; exact ⟨_, rfl⟩
theorem adrain (p : Pos) (f : Fields) (s : State) : Gated (.adrain p f) f s := by
  show ∃ run, semAdrain p f s = _
  unfold semAdrain descOp engOp; exact ⟨_, rfl⟩
theorem aclr (p : Pos) (f : Fields) (s : State) : Gated (.aclr p f) f s := by
  show ∃ run, semAclr p f s = _
  unfold semAclr engOp; exact ⟨_, rfl⟩
theorem ecancel (p : Pos) (f : Fields) (s : State) : Gated (.ecancel p f) f s := by
  show ∃ run, semEcancel p f s = _
  unfold semEcancel engOp; exact ⟨_, rfl⟩
theorem ebar (p : Pos) (f : Fields) (s : State) : Gated (.ebar p f) f s := by
  show ∃ run, semEbar p f s = _
  unfold semEbar engOp; exact ⟨_, rfl⟩

/-- Every slot operation stands behind the gate: a transfer operation behind its own, tkwait behind its wait. -/
theorem cases_gate (i : Instr) (cls : Cls) (code : Nat) (p : Pos) (f : Fields) (s : State)
    (hp : i.parts = some (cls, code, p, f)) :
    (isTransfer i = true ∧ GatedTransfer i f s) ∨ (isTransfer i = false ∧ (Gated i f s ∨ i = .tkwait p f)) := by
  cases i
  case br => cases hp; exact .inl ⟨rfl, Gates.br _ _ _⟩
  case jmp => cases hp; exact .inl ⟨rfl, Gates.jmp _ _ _⟩
  case call => cases hp; exact .inl ⟨rfl, Gates.call _ _ _⟩
  case callc => cases hp; exact .inl ⟨rfl, Gates.callc _ _ _⟩
  case ret => cases hp; exact .inl ⟨rfl, Gates.ret _ _ _⟩
  case loop => cases hp; exact .inr ⟨rfl, .inl (Gates.loop _ _ _)⟩
  case loopd => cases hp; exact .inr ⟨rfl, .inl (Gates.loopd _ _ _)⟩
  case loopx => cases hp; exact .inl ⟨rfl, Gates.loopx _ _ _⟩
  case fork => cases hp; exact .inr ⟨rfl, .inl (Gates.fork _ _ _)⟩
  case forkr => cases hp; exact .inr ⟨rfl, .inl (Gates.forkr _ _ _)⟩
  case join => cases hp; exact .inr ⟨rfl, .inl (Gates.join _ _ _)⟩
  case take => cases hp; exact .inl ⟨rfl, Gates.take _ _ _⟩
  case retire => cases hp; exact .inr ⟨rfl, .inl (Gates.retire _ _ _)⟩
  case retireT => cases hp; exact .inr ⟨rfl, .inl (Gates.retireT _ _ _)⟩
  case yield => cases hp; exact .inr ⟨rfl, .inl (Gates.yield _ _ _)⟩
  case fget => cases hp; exact .inr ⟨rfl, .inl (Gates.fget _ _ _)⟩
  case fput => cases hp; exact .inr ⟨rfl, .inl (Gates.fput _ _ _)⟩
  case phase => cases hp; exact .inr ⟨rfl, .inl (Gates.phase _ _ _)⟩
  case binit => cases hp; exact .inr ⟨rfl, .inl (Gates.binit _ _ _)⟩
  case barrive => cases hp; exact .inr ⟨rfl, .inl (Gates.barrive _ _ _)⟩
  case bwait => cases hp; exact .inr ⟨rfl, .inl (Gates.bwait _ _ _)⟩
  case frd => cases hp; exact .inr ⟨rfl, .inl (Gates.frd _ _ _)⟩
  case lvlrd => cases hp; exact .inr ⟨rfl, .inl (Gates.lvlrd _ _ _)⟩
  case emrd => cases hp; exact .inr ⟨rfl, .inl (Gates.emrd _ _ _)⟩
  case srd => cases hp; exact .inr ⟨rfl, .inl (Gates.srd _ _ _)⟩
  case swr => cases hp; exact .inr ⟨rfl, .inl (Gates.swr _ _ _)⟩
  case ecall => cases hp; exact .inr ⟨rfl, .inl (Gates.ecall _ _ _)⟩
  case trap => cases hp; exact .inr ⟨rfl, .inl (Gates.trap _ _ _)⟩
  case uret => cases hp; exact .inl ⟨rfl, Gates.uret _ _ _⟩
  case dbrk => cases hp; exact .inr ⟨rfl, .inl (Gates.dbrk _ _ _)⟩
  case tkwait => cases hp; exact .inr ⟨rfl, .inr rfl⟩
  case cli => cases hp; exact .inr ⟨rfl, .inl (Gates.cli _ _ _)⟩
  case clui => cases hp; exact .inr ⟨rfl, .inl (Gates.clui _ _ _)⟩
  case cadd => cases hp; exact .inr ⟨rfl, .inl (Gates.cadd _ _ _)⟩
  case csub => cases hp; exact .inr ⟨rfl, .inl (Gates.csub _ _ _)⟩
  case cmul => cases hp; exact .inr ⟨rfl, .inl (Gates.cmul _ _ _)⟩
  case cand => cases hp; exact .inr ⟨rfl, .inl (Gates.cand _ _ _)⟩
  case cor => cases hp; exact .inr ⟨rfl, .inl (Gates.cor _ _ _)⟩
  case cxor => cases hp; exact .inr ⟨rfl, .inl (Gates.cxor _ _ _)⟩
  case csll => cases hp; exact .inr ⟨rfl, .inl (Gates.csll _ _ _)⟩
  case csrl => cases hp; exact .inr ⟨rfl, .inl (Gates.csrl _ _ _)⟩
  case csra => cases hp; exact .inr ⟨rfl, .inl (Gates.csra _ _ _)⟩
  case ccmp => cases hp; exact .inr ⟨rfl, .inl (Gates.ccmp _ _ _)⟩
  case cmov => cases hp; exact .inr ⟨rfl, .inl (Gates.cmov _ _ _)⟩
  case cpset => cases hp; exact .inr ⟨rfl, .inl (Gates.cpset _ _ _)⟩
  case cpget => cases hp; exact .inr ⟨rfl, .inl (Gates.cpget _ _ _)⟩
  case add => cases hp; exact .inr ⟨rfl, .inl (Gates.add _ _ _)⟩
  case sub => cases hp; exact .inr ⟨rfl, .inl (Gates.sub _ _ _)⟩
  case mul => cases hp; exact .inr ⟨rfl, .inl (Gates.mul _ _ _)⟩
  case mulh => cases hp; exact .inr ⟨rfl, .inl (Gates.mulh _ _ _)⟩
  case div => cases hp; exact .inr ⟨rfl, .inl (Gates.div _ _ _)⟩
  case rem => cases hp; exact .inr ⟨rfl, .inl (Gates.rem _ _ _)⟩
  case and => cases hp; exact .inr ⟨rfl, .inl (Gates.and _ _ _)⟩
  case or => cases hp; exact .inr ⟨rfl, .inl (Gates.or _ _ _)⟩
  case xor => cases hp; exact .inr ⟨rfl, .inl (Gates.xor _ _ _)⟩
  case sll => cases hp; exact .inr ⟨rfl, .inl (Gates.sll _ _ _)⟩
  case srl => cases hp; exact .inr ⟨rfl, .inl (Gates.srl _ _ _)⟩
  case sra => cases hp; exact .inr ⟨rfl, .inl (Gates.sra _ _ _)⟩
  case min => cases hp; exact .inr ⟨rfl, .inl (Gates.min _ _ _)⟩
  case max => cases hp; exact .inr ⟨rfl, .inl (Gates.max _ _ _)⟩
  case abs => cases hp; exact .inr ⟨rfl, .inl (Gates.abs _ _ _)⟩
  case clz => cases hp; exact .inr ⟨rfl, .inl (Gates.clz _ _ _)⟩
  case popc => cases hp; exact .inr ⟨rfl, .inl (Gates.popc _ _ _)⟩
  case ext => cases hp; exact .inr ⟨rfl, .inl (Gates.ext _ _ _)⟩
  case xtr => cases hp; exact .inr ⟨rfl, .inl (Gates.xtr _ _ _)⟩
  case ins => cases hp; exact .inr ⟨rfl, .inl (Gates.ins _ _ _)⟩
  case li => cases hp; exact .inr ⟨rfl, .inl (Gates.li _ _ _)⟩
  case lea => cases hp; exact .inr ⟨rfl, .inl (Gates.lea _ _ _)⟩
  case cmp => cases hp; exact .inr ⟨rfl, .inl (Gates.cmp _ _ _)⟩
  case sel => cases hp; exact .inr ⟨rfl, .inl (Gates.sel _ _ _)⟩
  case pand => cases hp; exact .inr ⟨rfl, .inl (Gates.pand _ _ _)⟩
  case por => cases hp; exact .inr ⟨rfl, .inl (Gates.por _ _ _)⟩
  case pxor => cases hp; exact .inr ⟨rfl, .inl (Gates.pxor _ _ _)⟩
  case pset => cases hp; exact .inr ⟨rfl, .inl (Gates.pset _ _ _)⟩
  case pget => cases hp; exact .inr ⟨rfl, .inl (Gates.pget _ _ _)⟩
  case xfer => cases hp; exact .inr ⟨rfl, .inl (Gates.xfer _ _ _)⟩
  case fadd => cases hp; exact .inr ⟨rfl, .inl (Gates.fadd _ _ _)⟩
  case fsub => cases hp; exact .inr ⟨rfl, .inl (Gates.fsub _ _ _)⟩
  case fmul => cases hp; exact .inr ⟨rfl, .inl (Gates.fmul _ _ _)⟩
  case fma => cases hp; exact .inr ⟨rfl, .inl (Gates.fma _ _ _)⟩
  case fdiv => cases hp; exact .inr ⟨rfl, .inl (Gates.fdiv _ _ _)⟩
  case fmin => cases hp; exact .inr ⟨rfl, .inl (Gates.fmin _ _ _)⟩
  case fmax => cases hp; exact .inr ⟨rfl, .inl (Gates.fmax _ _ _)⟩
  case fcmp => cases hp; exact .inr ⟨rfl, .inl (Gates.fcmp _ _ _)⟩
  case fcvt => cases hp; exact .inr ⟨rfl, .inl (Gates.fcvt _ _ _)⟩
  case icvt => cases hp; exact .inr ⟨rfl, .inl (Gates.icvt _ _ _)⟩
  case kld => cases hp; exact .inr ⟨rfl, .inl (Gates.kld _ _ _)⟩
  case kmov => cases hp; exact .inr ⟨rfl, .inl (Gates.kmov _ _ _)⟩
  case kbind => cases hp; exact .inr ⟨rfl, .inl (Gates.kbind _ _ _)⟩
  case kfmt => cases hp; exact .inr ⟨rfl, .inl (Gates.kfmt _ _ _)⟩
  case kadd => cases hp; exact .inr ⟨rfl, .inl (Gates.kadd _ _ _)⟩
  case ksub => cases hp; exact .inr ⟨rfl, .inl (Gates.ksub _ _ _)⟩
  case kli => cases hp; exact .inr ⟨rfl, .inl (Gates.kli _ _ _)⟩
  case kclr => cases hp; exact .inr ⟨rfl, .inl (Gates.kclr _ _ _)⟩
  case ld => cases hp; exact .inr ⟨rfl, .inl (Gates.ld _ _ _)⟩
  case st => cases hp; exact .inr ⟨rfl, .inl (Gates.st _ _ _)⟩
  case vld => cases hp; exact .inr ⟨rfl, .inl (Gates.vld _ _ _)⟩
  case vst => cases hp; exact .inr ⟨rfl, .inl (Gates.vst _ _ _)⟩
  case vlds => cases hp; exact .inr ⟨rfl, .inl (Gates.vlds _ _ _)⟩
  case vsts => cases hp; exact .inr ⟨rfl, .inl (Gates.vsts _ _ _)⟩
  case vldx => cases hp; exact .inr ⟨rfl, .inl (Gates.vldx _ _ _)⟩
  case vstx => cases hp; exact .inr ⟨rfl, .inl (Gates.vstx _ _ _)⟩
  case gath => cases hp; exact .inr ⟨rfl, .inl (Gates.gath _ _ _)⟩
  case scat => cases hp; exact .inr ⟨rfl, .inl (Gates.scat _ _ _)⟩
  case fld => cases hp; exact .inr ⟨rfl, .inl (Gates.fld _ _ _)⟩
  case fst => cases hp; exact .inr ⟨rfl, .inl (Gates.fst _ _ _)⟩
  case fldv => cases hp; exact .inr ⟨rfl, .inl (Gates.fldv _ _ _)⟩
  case fstv => cases hp; exact .inr ⟨rfl, .inl (Gates.fstv _ _ _)⟩
  case spill => cases hp; exact .inr ⟨rfl, .inl (Gates.spill _ _ _)⟩
  case fill => cases hp; exact .inr ⟨rfl, .inl (Gates.fill _ _ _)⟩
  case vspill => cases hp; exact .inr ⟨rfl, .inl (Gates.vspill _ _ _)⟩
  case vfill => cases hp; exact .inr ⟨rfl, .inl (Gates.vfill _ _ _)⟩
  case amo => cases hp; exact .inr ⟨rfl, .inl (Gates.amo _ _ _)⟩
  case amocas => cases hp; exact .inr ⟨rfl, .inl (Gates.amocas _ _ _)⟩
  case probe => cases hp; exact .inr ⟨rfl, .inl (Gates.probe _ _ _)⟩
  case cwb => cases hp; exact .inr ⟨rfl, .inl (Gates.cwb _ _ _)⟩
  case cinv => cases hp; exact .inr ⟨rfl, .inl (Gates.cinv _ _ _)⟩
  case cwbi => cases hp; exact .inr ⟨rfl, .inl (Gates.cwbi _ _ _)⟩
  case qfence => cases hp; exact .inr ⟨rfl, .inl (Gates.qfence _ _ _)⟩
  case vldb => cases hp; exact .inr ⟨rfl, .inl (Gates.vldb _ _ _)⟩
  case tag => cases hp; exact .inr ⟨rfl, .inl (Gates.tag _ _ _)⟩
  case tagrd => cases hp; exact .inr ⟨rfl, .inl (Gates.tagrd _ _ _)⟩
  case vadd => cases hp; exact .inr ⟨rfl, .inl (Gates.vadd _ _ _)⟩
  case vsub => cases hp; exact .inr ⟨rfl, .inl (Gates.vsub _ _ _)⟩
  case vmul => cases hp; exact .inr ⟨rfl, .inl (Gates.vmul _ _ _)⟩
  case vmulh => cases hp; exact .inr ⟨rfl, .inl (Gates.vmulh _ _ _)⟩
  case vfma => cases hp; exact .inr ⟨rfl, .inl (Gates.vfma _ _ _)⟩
  case vfms => cases hp; exact .inr ⟨rfl, .inl (Gates.vfms _ _ _)⟩
  case vfnma => cases hp; exact .inr ⟨rfl, .inl (Gates.vfnma _ _ _)⟩
  case vmin => cases hp; exact .inr ⟨rfl, .inl (Gates.vmin _ _ _)⟩
  case vmax => cases hp; exact .inr ⟨rfl, .inl (Gates.vmax _ _ _)⟩
  case vabs => cases hp; exact .inr ⟨rfl, .inl (Gates.vabs _ _ _)⟩
  case vneg => cases hp; exact .inr ⟨rfl, .inl (Gates.vneg _ _ _)⟩
  case vadds => cases hp; exact .inr ⟨rfl, .inl (Gates.vadds _ _ _)⟩
  case vsubs => cases hp; exact .inr ⟨rfl, .inl (Gates.vsubs _ _ _)⟩
  case vand => cases hp; exact .inr ⟨rfl, .inl (Gates.vand _ _ _)⟩
  case vor => cases hp; exact .inr ⟨rfl, .inl (Gates.vor _ _ _)⟩
  case vxor => cases hp; exact .inr ⟨rfl, .inl (Gates.vxor _ _ _)⟩
  case vsll => cases hp; exact .inr ⟨rfl, .inl (Gates.vsll _ _ _)⟩
  case vsrl => cases hp; exact .inr ⟨rfl, .inl (Gates.vsrl _ _ _)⟩
  case vsra => cases hp; exact .inr ⟨rfl, .inl (Gates.vsra _ _ _)⟩
  case vclz => cases hp; exact .inr ⟨rfl, .inl (Gates.vclz _ _ _)⟩
  case vpopc => cases hp; exact .inr ⟨rfl, .inl (Gates.vpopc _ _ _)⟩
  case vcmp => cases hp; exact .inr ⟨rfl, .inl (Gates.vcmp _ _ _)⟩
  case vsel => cases hp; exact .inr ⟨rfl, .inl (Gates.vsel _ _ _)⟩
  case vmov => cases hp; exact .inr ⟨rfl, .inl (Gates.vmov _ _ _)⟩
  case vli => cases hp; exact .inr ⟨rfl, .inl (Gates.vli _ _ _)⟩
  case vext => cases hp; exact .inr ⟨rfl, .inl (Gates.vext _ _ _)⟩
  case vcvt => cases hp; exact .inr ⟨rfl, .inl (Gates.vcvt _ _ _)⟩
  case vrnd => cases hp; exact .inr ⟨rfl, .inl (Gates.vrnd _ _ _)⟩
  case vscale => cases hp; exact .inr ⟨rfl, .inl (Gates.vscale _ _ _)⟩
  case vrcp => cases hp; exact .inr ⟨rfl, .inl (Gates.vrcp _ _ _)⟩
  case vrsqrt => cases hp; exact .inr ⟨rfl, .inl (Gates.vrsqrt _ _ _)⟩
  case vexp2 => cases hp; exact .inr ⟨rfl, .inl (Gates.vexp2 _ _ _)⟩
  case vlog2 => cases hp; exact .inr ⟨rfl, .inl (Gates.vlog2 _ _ _)⟩
  case vred => cases hp; exact .inr ⟨rfl, .inl (Gates.vred _ _ _)⟩
  case vscan => cases hp; exact .inr ⟨rfl, .inl (Gates.vscan _ _ _)⟩
  case vperm => cases hp; exact .inr ⟨rfl, .inl (Gates.vperm _ _ _)⟩
  case vbcast => cases hp; exact .inr ⟨rfl, .inl (Gates.vbcast _ _ _)⟩
  case vrot => cases hp; exact .inr ⟨rfl, .inl (Gates.vrot _ _ _)⟩
  case vslide => cases hp; exact .inr ⟨rfl, .inl (Gates.vslide _ _ _)⟩
  case viota => cases hp; exact .inr ⟨rfl, .inl (Gates.viota _ _ _)⟩
  case vpack => cases hp; exact .inr ⟨rfl, .inl (Gates.vpack _ _ _)⟩
  case vunpack => cases hp; exact .inr ⟨rfl, .inl (Gates.vunpack _ _ _)⟩
  case vdot => cases hp; exact .inr ⟨rfl, .inl (Gates.vdot _ _ _)⟩
  case vdotsu => cases hp; exact .inr ⟨rfl, .inl (Gates.vdotsu _ _ _)⟩
  case vpset => cases hp; exact .inr ⟨rfl, .inl (Gates.vpset _ _ _)⟩
  case vpget => cases hp; exact .inr ⟨rfl, .inl (Gates.vpget _ _ _)⟩
  case vfirst => cases hp; exact .inr ⟨rfl, .inl (Gates.vfirst _ _ _)⟩
  case mcall => cases hp; exact .inr ⟨rfl, .inl (Gates.mcall _ _ _)⟩
  case mpset => cases hp; exact .inr ⟨rfl, .inl (Gates.mpset _ _ _)⟩
  case mload => cases hp; exact .inr ⟨rfl, .inl (Gates.mload _ _ _)⟩
  case smcopy => cases hp; exact .inr ⟨rfl, .inl (Gates.smcopy _ _ _)⟩
  case ncopy => cases hp; exact .inr ⟨rfl, .inl (Gates.ncopy _ _ _)⟩
  case egath => cases hp; exact .inr ⟨rfl, .inl (Gates.egath _ _ _)⟩
  case escat => cases hp; exact .inr ⟨rfl, .inl (Gates.escat _ _ _)⟩
  case mcast => cases hp; exact .inr ⟨rfl, .inl (Gates.mcast _ _ _)⟩
  case mcastb => cases hp; exact .inr ⟨rfl, .inl (Gates.mcastb _ _ _)⟩
  case coll => cases hp; exact .inr ⟨rfl, .inl (Gates.coll _ _ _)⟩
  case tnld => cases hp; exact .inr ⟨rfl, .inl (Gates.tnld _ _ _)⟩
  case tnst => cases hp; exact .inr ⟨rfl, .inl (Gates.tnst _ _ _)⟩
  case tnpf => cases hp; exact .inr ⟨rfl, .inl (Gates.tnpf _ _ _)⟩
  case emit => cases hp; exact .inr ⟨rfl, .inl (Gates.emit _ _ _)⟩
  case estat => cases hp; exact .inr ⟨rfl, .inl (Gates.estat _ _ _)⟩
  case accld => cases hp; exact .inr ⟨rfl, .inl (Gates.accld _ _ _)⟩
  case accst => cases hp; exact .inr ⟨rfl, .inl (Gates.accst _ _ _)⟩
  case adrain => cases hp; exact .inr ⟨rfl, .inl (Gates.adrain _ _ _)⟩
  case aclr => cases hp; exact .inr ⟨rfl, .inl (Gates.aclr _ _ _)⟩
  case ecancel => cases hp; exact .inr ⟨rfl, .inl (Gates.ecancel _ _ _)⟩
  case ebar => cases hp; exact .inr ⟨rfl, .inl (Gates.ebar _ _ _)⟩
  all_goals cases hp

end Sys2Proof.Machine.Gates
end

