-- ==== Sys2Proof/Laws/Memory.lean ====
section
/-!
SUPPORT. The basic laws of memory: what a read gives after a write, and that every memory operation keeps the canonical
form.
-/

namespace Sys2Proof.Machine

open Sys2Proof

/-! ### The canonical form -/

/-- A lower bound that an ascending list of cells keeps. -/
theorem memAbove_mono {m : List Host.Cell} {a b : Nat} (hab : a ≤ b) (h : memAbove (some b) m = true) :
    memAbove (some a) m = true := by
  cases m with
  | nil => rfl
  | cons c m =>
    obtain ⟨k, v⟩ := c
    simp only [memAbove, Bool.and_eq_true, decide_eq_true_eq] at h ⊢
    exact ⟨⟨by omega, h.1.2⟩, h.2⟩

/-- An ascending list above a bound is canonical. -/
theorem memAbove_wf {m : List Host.Cell} {a : Nat} (h : memAbove (some a) m = true) : Memory.wf m = true := by
  cases m with
  | nil => rfl
  | cons c m =>
    obtain ⟨k, v⟩ := c
    simp only [Memory.wf, memAbove, Bool.and_eq_true, decide_eq_true_eq, Bool.true_and] at h ⊢
    exact ⟨h.1.2, h.2⟩

/-- The bound, as a number below which no key lies. -/
def boundLt (lo : Option Nat) (k : Nat) : Prop := match lo with | none => True | some l => l < k

/-- What a canonical list with a head says. -/
theorem memAbove_cons {lo : Option Nat} {k : Nat} {v : Byte} {m : List Host.Cell} :
    memAbove lo ((k, v) :: m) = true ↔ boundLt lo k ∧ v ≠ 0 ∧ memAbove (some k) m = true := by
  cases lo <;> simp [memAbove, boundLt, and_assoc]

/-- A write keeps the canonical form above a bound. -/
theorem memSet_above {m : List Host.Cell} {lo : Option Nat} {k : Nat} {v : Byte}
    (hk : boundLt lo k) (h : memAbove lo m = true) : memAbove lo (memSet m k v) = true := by
  induction m generalizing lo with
  | nil =>
    simp only [memSet]; split
    · exact h
    · rename_i hv; exact memAbove_cons.mpr ⟨hk, hv, rfl⟩
  | cons c m ih =>
    obtain ⟨a, b⟩ := c
    obtain ⟨h1, h2, h3⟩ := memAbove_cons.mp h
    simp only [memSet]
    split
    · split
      · exact h
      · rename_i hka hv; exact memAbove_cons.mpr ⟨hk, hv, memAbove_cons.mpr ⟨hka, h2, h3⟩⟩
    · split
      · rename_i hka; subst hka
        split
        · cases lo with
          | none => exact memAbove_wf h3
          | some l => exact memAbove_mono (Nat.le_of_lt h1) h3
        · rename_i hv; exact memAbove_cons.mpr ⟨h1, hv, h3⟩
      · refine memAbove_cons.mpr ⟨h1, h2, ih ?_ h3⟩
        show a < k
        omega

/-- A write keeps the canonical form. -/
@[simp] theorem memSet_wf {m : List Host.Cell} {k : Nat} {v : Byte} (h : Memory.wf m = true) :
    Memory.wf (memSet m k v) = true := memSet_above trivial h

/-- Writing bytes keeps it. -/
@[simp] theorem memSetList_wf {m : List Host.Cell} {k : Nat} {bs : List Byte} (h : Memory.wf m = true) :
    Memory.wf (memSetList m k bs) = true := by
  induction bs generalizing m k with
  | nil => exact h
  | cons b bs ih => exact ih (memSet_wf h)

/-- Writing cells keeps it. -/
@[simp] theorem foldl_memSet_wf {m : List Host.Cell} {cs : List Host.Cell} (h : Memory.wf m = true) :
    Memory.wf (cs.foldl (fun m c => memSet m c.1 c.2) m) = true := by
  induction cs generalizing m with
  | nil => exact h
  | cons c cs ih => exact ih (memSet_wf h)

/-- Dropping cells keeps the form above a bound. -/
theorem filter_above {m : List Host.Cell} {lo : Option Nat} (p : Host.Cell → Bool) (h : memAbove lo m = true) :
    memAbove lo (m.filter p) = true := by
  induction m generalizing lo with
  | nil => exact h
  | cons c m ih =>
    obtain ⟨a, b⟩ := c
    obtain ⟨h1, h2, h3⟩ := memAbove_cons.mp h
    by_cases hp : p (a, b) = true
    · rw [List.filter_cons_of_pos hp]; exact memAbove_cons.mpr ⟨h1, h2, ih h3⟩
    · rw [List.filter_cons_of_neg hp]
      cases lo with
      | none => exact memAbove_wf (ih h3)
      | some l => exact memAbove_mono (Nat.le_of_lt h1) (ih h3)

/-- Clearing a region keeps it. -/
@[simp] theorem memClear_wf {m : List Host.Cell} {lo hi : Nat} (h : Memory.wf m = true) :
    Memory.wf (memClear m lo hi) = true := filter_above _ h

/-! ### Reads after writes -/

/-- Below every entry, memory reads as zero. -/
theorem memGet_below {m : List Host.Cell} {k : Nat} (h : memAbove (some k) m = true) : memGet m k = 0 := by
  cases m with
  | nil => rfl
  | cons c m =>
    obtain ⟨a, b⟩ := c
    have h1 : k < a := (memAbove_cons.mp h).1
    simp only [memGet]
    rw [if_neg (by omega), if_pos h1]

/-- A read after a write, above a bound. -/
theorem memGet_memSet_above {m : List Host.Cell} {lo : Option Nat} {k j : Nat} {v : Byte} (h : memAbove lo m = true) :
    memGet (memSet m k v) j = if j = k then v else memGet m j := by
  induction m generalizing lo with
  | nil =>
    simp only [memSet]
    split
    · rename_i hv; by_cases hj : j = k <;> simp [memGet, hv, hj]
    · by_cases hj : j = k
      · simp [memGet, hj]
      · have hk : ¬ k = j := fun e => hj e.symm
        simp [memGet, hj, hk]
  | cons c m ih =>
    obtain ⟨a, b⟩ := c
    obtain ⟨h1, h2, h3⟩ := memAbove_cons.mp h
    have hin := ih h3
    have hlow : ∀ x, x < a → memGet m x = 0 := fun x hx => memGet_below (memAbove_mono (Nat.le_of_lt hx) h3)
    simp only [memSet]
    split
    · rename_i hka
      split
      · rename_i hv; subst hv
        by_cases hj : j = k
        · subst hj; simp only [memGet]; rw [if_neg (by omega), if_pos hka]; simp
        · simp [hj]
      · simp only [memGet]
        by_cases hj : j = k
        · subst hj; simp
        · rw [if_neg (fun e => hj e.symm), if_neg hj]
          by_cases hjk : j < k
          · rw [if_pos hjk, if_neg (by omega), if_pos (by omega)]
          · rw [if_neg hjk]
    · split
      · rename_i hka; subst hka
        split
        · rename_i hv; subst hv
          by_cases hj : j = k
          · subst hj; simp [memGet_below h3]
          · simp only [memGet]
            rw [if_neg hj, if_neg (fun e => hj e.symm)]
            by_cases hjk : j < k
            · rw [if_pos hjk, hlow j hjk]
            · rw [if_neg hjk]
        · simp only [memGet]
          by_cases hj : j = k
          · subst hj; simp
          · have hk : ¬ k = j := fun e => hj e.symm
            simp [hj, hk]
      · rename_i hka hne
        simp only [memGet]
        by_cases hja : a = j
        · subst hja; rw [if_pos rfl, if_pos rfl, if_neg (by omega)]
        · rw [if_neg hja, if_neg hja]
          by_cases hlt : j < a
          · rw [if_pos hlt, if_pos hlt, if_neg (by omega)]
          · rw [if_neg hlt, if_neg hlt, hin]

/-- A read after a write gives the byte written at its key, and what was there elsewhere. -/
theorem memGet_memSet {m : List Host.Cell} {k j : Nat} {v : Byte} (h : Memory.wf m = true) :
    memGet (memSet m k v) j = if j = k then v else memGet m j := memGet_memSet_above h

/-- Writing bytes leaves every key outside them. -/
theorem memGet_memSetList_out {m : List Host.Cell} {k j : Nat} {bs : List Byte} (h : Memory.wf m = true)
    (hj : j < k ∨ k + bs.length ≤ j) : memGet (memSetList m k bs) j = memGet m j := by
  induction bs generalizing m k with
  | nil => rfl
  | cons b bs ih =>
    simp only [List.length_cons] at hj
    rw [memSetList, ih (memSet_wf h) (by omega), memGet_memSet h, if_neg (by omega)]

/-- Reading back what was written. -/
theorem memGetList_memSetList {m : List Host.Cell} {k : Nat} {bs : List Byte} (h : Memory.wf m = true) :
    memGetList (memSetList m k bs) k bs.length = bs := by
  induction bs generalizing m k with
  | nil => rfl
  | cons b bs ih =>
    have h1 : memGet (memSetList (memSet m k b) (k + 1) bs) k = b := by
      rw [memGet_memSetList_out (memSet_wf h) (by omega), memGet_memSet h, if_pos rfl]
    show memGet (memSetList (memSet m k b) (k + 1) bs) k ::
      memGetList (memSetList (memSet m k b) (k + 1) bs) (k + 1) bs.length = b :: bs
    rw [h1, ih (memSet_wf h)]

/-- Writing cells leaves every key that none of them names. -/
theorem memGet_foldl_out {m : List Host.Cell} {j : Nat} {cs : List Host.Cell} (h : Memory.wf m = true)
    (hj : ∀ c ∈ cs, c.1 ≠ j) : memGet (cs.foldl (fun m c => memSet m c.1 c.2) m) j = memGet m j := by
  induction cs generalizing m with
  | nil => rfl
  | cons c cs ih =>
    rw [List.foldl_cons, ih (memSet_wf h) (fun d hd => hj d (List.mem_cons_of_mem _ hd)), memGet_memSet h,
      if_neg (fun e => hj c (List.mem_cons_self) e.symm)]

/-! ### The state's memory operations -/

@[simp] theorem State.store_wf {s : State} {k n v : Nat} (h : Memory.wf s.mem = true) :
    Memory.wf (s.store k n v).mem = true := memSetList_wf h

@[simp] theorem State.storeBytes_wf {s : State} {k : Nat} {bs : List Byte} (h : Memory.wf s.mem = true) :
    Memory.wf (s.storeBytes k bs).mem = true := memSetList_wf h

/-- Freeing banks keeps the form. -/
@[simp] theorem freeBanks_wf {s : State} {h : Nat} (w : Memory.wf s.mem = true) : Memory.wf (freeBanks s h).mem = true :=
  memClear_wf w

/-- A ring push writes at most one entry. -/
theorem ringPush_wf {s t : State} {a b c d : RegAddr} {en : Bool} {r : Nat → List Byte}
    (h : Memory.wf s.mem = true) (e : ringPush s a b c d en r = some t) : Memory.wf t.mem = true := by
  unfold ringPush at e
  simp only at e
  split at e
  · cases e
  · cases e; exact memSetList_wf h

@[simp] theorem errRecord_wf {s : State} {a b c d e f g : Nat} (h : Memory.wf s.mem = true) :
    Memory.wf (errRecord s a b c d e f g).mem = true := by
  unfold errRecord
  simp only
  split
  · rename_i t ht
    have := ringPush_wf h ht
    split <;> simpa using this
  · simpa using h

@[simp] theorem poisonedWrite_wf {s : State} {a b : Nat} {cs bits : List Host.Cell} (h : Memory.wf s.mem = true) :
    Memory.wf (poisonedWrite s a b cs bits).mem = true := by
  unfold poisonedWrite
  simp only
  split
  · exact h
  · split
    · exact h
    · simp [h]

/-- A fold over states keeps the form when its step does. -/
theorem foldl_wf {α : Type} {f : State → α → State} {l : List α} {s : State}
    (hf : ∀ t a, Memory.wf t.mem = true → Memory.wf (f t a).mem = true) (h : Memory.wf s.mem = true) :
    Memory.wf (l.foldl f s).mem = true := by
  induction l generalizing s with
  | nil => exact h
  | cons a l ih => exact ih (hf s a h)

/-- Writing cells at home keeps the form, whatever is poisoned. -/
@[simp] theorem writeCells_wf {s : State} {a : Nat} {cs bits : List Host.Cell} (h : Memory.wf s.mem = true) :
    Memory.wf (writeCells s a cs bits).mem = true := by
  unfold writeCells
  simp only
  apply foldl_memSet_wf
  split
  · exact h
  · exact foldl_wf (fun _ _ => poisonedWrite_wf) h

@[simp] theorem writeBytes_wf {s : State} {a k : Nat} {bs : List Byte} (h : Memory.wf s.mem = true) :
    Memory.wf (writeBytes s a k bs).mem = true := writeCells_wf h

/-- With nothing poisoned and no stopped context that has an image, a write of cells changes memory and nothing else. -/
theorem writeCells_clean {s : State} {a : Nat} {cs bits : List Host.Cell} (h : s.poison = []) (hm : s.ctxs.any (·.mirror) = false) :
    writeCells s a cs bits = { s with mem := cs.foldl (fun m c => memSet m c.1 c.2) s.mem } := by
  simp [writeCells, h, hm]

/-- The memory right after reset is canonical. -/
theorem reset_wf : Memory.wf State.reset.mem = true := rfl

end Sys2Proof.Machine
end

