-- ==== Sys2Proof/Laws/PerInstr.lean ====
section
/-!
SUPPORT. Decoding and encoding agree, constructor by constructor: a well-formed slot operation's word decodes to it at its
slot, and a micro-op's word decodes to its step (spec/03 R67, R91; spec/12 R276). An event has no word.
-/

namespace Sys2Proof.Laws

open Sys2Proof

/-! ### Bit fields of a concatenation -/

/-- A field within the low part. -/
theorem extract_low {m n : Nat} (x : BitVec m) (y : BitVec n) (lo k : Nat) (h : lo + k ≤ n) :
    (x ++ y).extractLsb' lo k = y.extractLsb' lo k := by
  ext i hi
  simp only [BitVec.getElem_extractLsb', BitVec.getLsbD_append]
  rw [if_pos (by omega)]

/-- A field above the low part. -/
theorem extract_high {m n : Nat} (x : BitVec m) (y : BitVec n) (lo k : Nat) (h : n ≤ lo) :
    (x ++ y).extractLsb' lo k = x.extractLsb' (lo - n) k := by
  ext i hi
  simp only [BitVec.getElem_extractLsb', BitVec.getLsbD_append]
  rw [if_neg (by omega)]
  congr 1
  omega

/-- All of a vector. -/
theorem extract_all {n : Nat} (x : BitVec n) : x.extractLsb' 0 n = x := by
  ext i hi
  simp

/-! ### Slot words -/

/-- A kind's two bits name it. -/
theorem kind_trip (k : Kind) : Kind.ofBits k.toBits = k := by cases k <;> rfl

/-- An operand field's twelve bits hold it. -/
theorem operand_trip (o : Operand) : Operand.ofBits o.toBits = o := by
  cases o with
  | mk s w =>
    simp only [Operand.ofBits, Operand.toBits, Operand.mk.injEq]
    exact ⟨(extract_high s w 4 8 (by omega)).trans (extract_all s),
      (extract_low s w 0 4 (by omega)).trans (extract_all w)⟩

/-- The opcode of an encoded word. -/
theorem toWord_code (c : BitVec 6) (f : Fields) : (f.toWord c).extractLsb' 58 6 = c := by
  unfold Fields.toWord
  repeat rw [extract_high _ _ _ _ (by decide)]
  exact extract_all c

/-- The fields of an encoded word. -/
theorem toWord_fields (c : BitVec 6) (f : Fields) : Fields.ofWord (f.toWord c) = f := by
  have bit : ∀ w : Word, w.getLsbD 53 = (w.extractLsb' 53 1).getLsbD 0 := by intro w; simp
  cases f with
  | mk fmt pneg pidx dst src1 src2 k1 k2 mod =>
    simp only [Fields.ofWord, Fields.toWord, Fields.mk.injEq, bit]
    refine ⟨?_, ?_, ?_, ?_, ?_, ?_, ?_, ?_, ?_⟩
    · repeat rw [extract_high _ _ _ _ (by decide)]
      rw [extract_low _ _ _ _ (by decide)]
      exact extract_all _
    · repeat rw [extract_high _ _ _ _ (by decide)]
      rw [extract_low _ _ _ _ (by decide)]
      rw [extract_all]
      cases pneg <;> rfl
    · repeat rw [extract_high _ _ _ _ (by decide)]
      rw [extract_low _ _ _ _ (by decide)]
      exact extract_all _
    · repeat rw [extract_high _ _ _ _ (by decide)]
      rw [extract_low _ _ _ _ (by decide)]
      rw [extract_all]
      exact operand_trip _
    · repeat rw [extract_high _ _ _ _ (by decide)]
      rw [extract_low _ _ _ _ (by decide)]
      rw [extract_all]
      exact operand_trip _
    · repeat rw [extract_high _ _ _ _ (by decide)]
      rw [extract_low _ _ _ _ (by decide)]
      rw [extract_all]
      exact operand_trip _
    · repeat rw [extract_high _ _ _ _ (by decide)]
      rw [extract_low _ _ _ _ (by decide)]
      rw [extract_all]
      exact kind_trip _
    · repeat rw [extract_high _ _ _ _ (by decide)]
      rw [extract_low _ _ _ _ (by decide)]
      rw [extract_all]
      exact kind_trip _
    · exact (extract_low _ _ _ _ (by decide)).trans (extract_all _)

/-- What decoding an encoded word comes to. -/
theorem decodeSlot_toWord (p : Pos) (c : BitVec 6) (f : Fields) :
    decodeSlot p (f.toWord c) = match p.cls with
      | .c => decodeC c.toNat p f
      | .a => decodeA c.toNat p f
      | .m => decodeM c.toNat p f
      | .v => decodeV c.toNat p f
      | .e => decodeE c.toNat p f
      | .k => decodeK c.toNat p f := by
  unfold decodeSlot
  rw [toWord_code, toWord_fields]
  all_goals rfl

/-! ### Micro-op words -/

/-- The op code of an encoded micro-op. -/
theorem uop_code (op : Nat) (u : MicroOp) : (u.toWord op).extractLsb' 60 4 = BitVec.ofNat 4 op := by
  unfold MicroOp.toWord
  repeat rw [extract_high _ _ _ _ (by decide)]
  exact extract_all _

/-- The fields of an encoded micro-op. -/
theorem uop_fields (op : Nat) (u : MicroOp) : MicroOp.ofWord (u.toWord op) = u := by
  cases u with
  | mk f0 f1 f2 f3 f4 f5 zero flags imm =>
    simp only [MicroOp.ofWord, MicroOp.toWord, MicroOp.mk.injEq]
    refine ⟨?_, ?_, ?_, ?_, ?_, ?_, ?_, ?_, ?_⟩
    · repeat rw [extract_high _ _ _ _ (by decide)]
      rw [extract_low _ _ _ _ (by decide)]
      exact extract_all _
    · repeat rw [extract_high _ _ _ _ (by decide)]
      rw [extract_low _ _ _ _ (by decide)]
      exact extract_all _
    · repeat rw [extract_high _ _ _ _ (by decide)]
      rw [extract_low _ _ _ _ (by decide)]
      exact extract_all _
    · repeat rw [extract_high _ _ _ _ (by decide)]
      rw [extract_low _ _ _ _ (by decide)]
      exact extract_all _
    · repeat rw [extract_high _ _ _ _ (by decide)]
      rw [extract_low _ _ _ _ (by decide)]
      exact extract_all _
    · repeat rw [extract_high _ _ _ _ (by decide)]
      rw [extract_low _ _ _ _ (by decide)]
      exact extract_all _
    · repeat rw [extract_high _ _ _ _ (by decide)]
      rw [extract_low _ _ _ _ (by decide)]
      exact extract_all _
    · repeat rw [extract_high _ _ _ _ (by decide)]
      rw [extract_low _ _ _ _ (by decide)]
      exact extract_all _
    · exact (extract_low _ _ _ _ (by decide)).trans (extract_all _)

/-! ### The family -/

/-- A well-formed slot operation's word decodes to it at its slot, and a micro-op's word to its step on its core. -/
def RoundTrip.Statement (i : Instr) : Prop :=
  i.wf = true →
    (∀ cls code p f, i.parts = some (cls, code, p, f) → decodeSlot p (f.toWord (BitVec.ofNat 6 code)) = some i) ∧
    (∀ core op u, i.uopParts = some (core, op, u) → uopOf core (u.toWord op) = some i)

/-- A slot operation, from its class's table. -/
theorem RoundTrip.slot {i : Instr} {cls : Cls} {code : Nat} {p : Pos} {f : Fields}
    (hp : i.parts = some (cls, code, p, f)) (hu : i.uopParts = none)
    (hd : p.cls = cls → i.spelled = true → decodeSlot p (f.toWord (BitVec.ofNat 6 code)) = some i) : RoundTrip.Statement i := by
  intro h
  simp only [Instr.wf, Instr.placed, hp, Bool.and_eq_true, beq_iff_eq] at h
  refine ⟨?_, ?_⟩
  · intro cls' code' p' f' h'
    rw [hp] at h'
    cases h'
    exact hd h.1.1.1 h.1.2
  · intro core op u h'
    rw [hu] at h'
    cases h'

/-- A micro-op. -/
theorem RoundTrip.uop {i : Instr} {core op : Nat} {u : MicroOp} (hp : i.parts = none) (hu : i.uopParts = some (core, op, u))
    (hd : uopOf core (u.toWord op) = some i) : RoundTrip.Statement i := by
  intro _
  refine ⟨?_, ?_⟩
  · intro _ _ _ _ h'
    rw [hp] at h'
    cases h'
  · intro _ _ _ h'
    rw [hu] at h'
    cases h'
    exact hd

/-- An event. -/
theorem RoundTrip.event {i : Instr} (hp : i.parts = none) (hu : i.uopParts = none) : RoundTrip.Statement i := by
  intro _
  refine ⟨?_, ?_⟩
  · intro _ _ _ _ h'
    rw [hp] at h'
    cases h'
  · intro _ _ _ h'
    rw [hu] at h'
    cases h'

theorem RoundTrip.br (p : Pos) (f : Fields) : RoundTrip.Statement (.br p f) :=
  RoundTrip.slot rfl rfl fun h _ => by rw [decodeSlot_toWord, h]; rfl

theorem RoundTrip.jmp (p : Pos) (f : Fields) : RoundTrip.Statement (.jmp p f) :=
  RoundTrip.slot rfl rfl fun h _ => by rw [decodeSlot_toWord, h]; rfl

theorem RoundTrip.call (p : Pos) (f : Fields) : RoundTrip.Statement (.call p f) :=
  RoundTrip.slot rfl rfl fun h _ => by rw [decodeSlot_toWord, h]; rfl

theorem RoundTrip.callc (p : Pos) (f : Fields) : RoundTrip.Statement (.callc p f) :=
  RoundTrip.slot rfl rfl fun h _ => by rw [decodeSlot_toWord, h]; rfl

theorem RoundTrip.ret (p : Pos) (f : Fields) : RoundTrip.Statement (.ret p f) :=
  RoundTrip.slot rfl rfl fun h _ => by rw [decodeSlot_toWord, h]; rfl

theorem RoundTrip.loop (p : Pos) (f : Fields) : RoundTrip.Statement (.loop p f) :=
  RoundTrip.slot rfl rfl fun h _ => by rw [decodeSlot_toWord, h]; rfl

theorem RoundTrip.loopd (p : Pos) (f : Fields) : RoundTrip.Statement (.loopd p f) :=
  RoundTrip.slot rfl rfl fun h _ => by rw [decodeSlot_toWord, h]; rfl

theorem RoundTrip.loopx (p : Pos) (f : Fields) : RoundTrip.Statement (.loopx p f) :=
  RoundTrip.slot rfl rfl fun h _ => by rw [decodeSlot_toWord, h]; rfl

theorem RoundTrip.fork (p : Pos) (f : Fields) : RoundTrip.Statement (.fork p f) :=
  RoundTrip.slot rfl rfl fun h _ => by rw [decodeSlot_toWord, h]; rfl

theorem RoundTrip.forkr (p : Pos) (f : Fields) : RoundTrip.Statement (.forkr p f) :=
  RoundTrip.slot rfl rfl fun h _ => by rw [decodeSlot_toWord, h]; rfl

theorem RoundTrip.join (p : Pos) (f : Fields) : RoundTrip.Statement (.join p f) :=
  RoundTrip.slot rfl rfl fun h _ => by rw [decodeSlot_toWord, h]; rfl

theorem RoundTrip.take (p : Pos) (f : Fields) : RoundTrip.Statement (.take p f) :=
  RoundTrip.slot rfl rfl fun h _ => by rw [decodeSlot_toWord, h]; rfl

theorem RoundTrip.retire (p : Pos) (f : Fields) : RoundTrip.Statement (.retire p f) :=
  RoundTrip.slot rfl rfl fun h g => by
    rw [decodeSlot_toWord, h]
    show some (if f.mod.getLsbD 0 then Instr.retireT p f else .retire p f) = _
    simp only [Instr.spelled, Bool.not_eq_true'] at g
    rw [g]
    rfl

theorem RoundTrip.retireT (p : Pos) (f : Fields) : RoundTrip.Statement (.retireT p f) :=
  RoundTrip.slot rfl rfl fun h g => by
    rw [decodeSlot_toWord, h]
    show some (if f.mod.getLsbD 0 then Instr.retireT p f else .retire p f) = _
    simp only [Instr.spelled] at g
    rw [g]
    rfl

theorem RoundTrip.yield (p : Pos) (f : Fields) : RoundTrip.Statement (.yield p f) :=
  RoundTrip.slot rfl rfl fun h _ => by rw [decodeSlot_toWord, h]; rfl

theorem RoundTrip.fget (p : Pos) (f : Fields) : RoundTrip.Statement (.fget p f) :=
  RoundTrip.slot rfl rfl fun h _ => by rw [decodeSlot_toWord, h]; rfl

theorem RoundTrip.fput (p : Pos) (f : Fields) : RoundTrip.Statement (.fput p f) :=
  RoundTrip.slot rfl rfl fun h _ => by rw [decodeSlot_toWord, h]; rfl

theorem RoundTrip.phase (p : Pos) (f : Fields) : RoundTrip.Statement (.phase p f) :=
  RoundTrip.slot rfl rfl fun h _ => by rw [decodeSlot_toWord, h]; rfl

theorem RoundTrip.binit (p : Pos) (f : Fields) : RoundTrip.Statement (.binit p f) :=
  RoundTrip.slot rfl rfl fun h _ => by rw [decodeSlot_toWord, h]; rfl

theorem RoundTrip.barrive (p : Pos) (f : Fields) : RoundTrip.Statement (.barrive p f) :=
  RoundTrip.slot rfl rfl fun h _ => by rw [decodeSlot_toWord, h]; rfl

theorem RoundTrip.bwait (p : Pos) (f : Fields) : RoundTrip.Statement (.bwait p f) :=
  RoundTrip.slot rfl rfl fun h _ => by rw [decodeSlot_toWord, h]; rfl

theorem RoundTrip.frd (p : Pos) (f : Fields) : RoundTrip.Statement (.frd p f) :=
  RoundTrip.slot rfl rfl fun h _ => by rw [decodeSlot_toWord, h]; rfl

theorem RoundTrip.lvlrd (p : Pos) (f : Fields) : RoundTrip.Statement (.lvlrd p f) :=
  RoundTrip.slot rfl rfl fun h _ => by rw [decodeSlot_toWord, h]; rfl

theorem RoundTrip.emrd (p : Pos) (f : Fields) : RoundTrip.Statement (.emrd p f) :=
  RoundTrip.slot rfl rfl fun h _ => by rw [decodeSlot_toWord, h]; rfl

theorem RoundTrip.srd (p : Pos) (f : Fields) : RoundTrip.Statement (.srd p f) :=
  RoundTrip.slot rfl rfl fun h _ => by rw [decodeSlot_toWord, h]; rfl

theorem RoundTrip.swr (p : Pos) (f : Fields) : RoundTrip.Statement (.swr p f) :=
  RoundTrip.slot rfl rfl fun h _ => by rw [decodeSlot_toWord, h]; rfl

theorem RoundTrip.ecall (p : Pos) (f : Fields) : RoundTrip.Statement (.ecall p f) :=
  RoundTrip.slot rfl rfl fun h _ => by rw [decodeSlot_toWord, h]; rfl

theorem RoundTrip.trap (p : Pos) (f : Fields) : RoundTrip.Statement (.trap p f) :=
  RoundTrip.slot rfl rfl fun h _ => by rw [decodeSlot_toWord, h]; rfl

theorem RoundTrip.uret (p : Pos) (f : Fields) : RoundTrip.Statement (.uret p f) :=
  RoundTrip.slot rfl rfl fun h _ => by rw [decodeSlot_toWord, h]; rfl

theorem RoundTrip.dbrk (p : Pos) (f : Fields) : RoundTrip.Statement (.dbrk p f) :=
  RoundTrip.slot rfl rfl fun h _ => by rw [decodeSlot_toWord, h]; rfl

theorem RoundTrip.tkwait (p : Pos) (f : Fields) : RoundTrip.Statement (.tkwait p f) :=
  RoundTrip.slot rfl rfl fun h _ => by rw [decodeSlot_toWord, h]; rfl

theorem RoundTrip.cli (p : Pos) (f : Fields) : RoundTrip.Statement (.cli p f) :=
  RoundTrip.slot rfl rfl fun h _ => by rw [decodeSlot_toWord, h]; rfl

theorem RoundTrip.clui (p : Pos) (f : Fields) : RoundTrip.Statement (.clui p f) :=
  RoundTrip.slot rfl rfl fun h _ => by rw [decodeSlot_toWord, h]; rfl

theorem RoundTrip.cadd (p : Pos) (f : Fields) : RoundTrip.Statement (.cadd p f) :=
  RoundTrip.slot rfl rfl fun h _ => by rw [decodeSlot_toWord, h]; rfl

theorem RoundTrip.csub (p : Pos) (f : Fields) : RoundTrip.Statement (.csub p f) :=
  RoundTrip.slot rfl rfl fun h _ => by rw [decodeSlot_toWord, h]; rfl

theorem RoundTrip.cmul (p : Pos) (f : Fields) : RoundTrip.Statement (.cmul p f) :=
  RoundTrip.slot rfl rfl fun h _ => by rw [decodeSlot_toWord, h]; rfl

theorem RoundTrip.cand (p : Pos) (f : Fields) : RoundTrip.Statement (.cand p f) :=
  RoundTrip.slot rfl rfl fun h _ => by rw [decodeSlot_toWord, h]; rfl

theorem RoundTrip.cor (p : Pos) (f : Fields) : RoundTrip.Statement (.cor p f) :=
  RoundTrip.slot rfl rfl fun h _ => by rw [decodeSlot_toWord, h]; rfl

theorem RoundTrip.cxor (p : Pos) (f : Fields) : RoundTrip.Statement (.cxor p f) :=
  RoundTrip.slot rfl rfl fun h _ => by rw [decodeSlot_toWord, h]; rfl

theorem RoundTrip.csll (p : Pos) (f : Fields) : RoundTrip.Statement (.csll p f) :=
  RoundTrip.slot rfl rfl fun h _ => by rw [decodeSlot_toWord, h]; rfl

theorem RoundTrip.csrl (p : Pos) (f : Fields) : RoundTrip.Statement (.csrl p f) :=
  RoundTrip.slot rfl rfl fun h _ => by rw [decodeSlot_toWord, h]; rfl

theorem RoundTrip.csra (p : Pos) (f : Fields) : RoundTrip.Statement (.csra p f) :=
  RoundTrip.slot rfl rfl fun h _ => by rw [decodeSlot_toWord, h]; rfl

theorem RoundTrip.ccmp (p : Pos) (f : Fields) : RoundTrip.Statement (.ccmp p f) :=
  RoundTrip.slot rfl rfl fun h _ => by rw [decodeSlot_toWord, h]; rfl

theorem RoundTrip.cmov (p : Pos) (f : Fields) : RoundTrip.Statement (.cmov p f) :=
  RoundTrip.slot rfl rfl fun h _ => by rw [decodeSlot_toWord, h]; rfl

theorem RoundTrip.cpset (p : Pos) (f : Fields) : RoundTrip.Statement (.cpset p f) :=
  RoundTrip.slot rfl rfl fun h _ => by rw [decodeSlot_toWord, h]; rfl

theorem RoundTrip.cpget (p : Pos) (f : Fields) : RoundTrip.Statement (.cpget p f) :=
  RoundTrip.slot rfl rfl fun h _ => by rw [decodeSlot_toWord, h]; rfl

theorem RoundTrip.add (p : Pos) (f : Fields) : RoundTrip.Statement (.add p f) :=
  RoundTrip.slot rfl rfl fun h _ => by rw [decodeSlot_toWord, h]; rfl

theorem RoundTrip.sub (p : Pos) (f : Fields) : RoundTrip.Statement (.sub p f) :=
  RoundTrip.slot rfl rfl fun h _ => by rw [decodeSlot_toWord, h]; rfl

theorem RoundTrip.mul (p : Pos) (f : Fields) : RoundTrip.Statement (.mul p f) :=
  RoundTrip.slot rfl rfl fun h _ => by rw [decodeSlot_toWord, h]; rfl

theorem RoundTrip.mulh (p : Pos) (f : Fields) : RoundTrip.Statement (.mulh p f) :=
  RoundTrip.slot rfl rfl fun h _ => by rw [decodeSlot_toWord, h]; rfl

theorem RoundTrip.div (p : Pos) (f : Fields) : RoundTrip.Statement (.div p f) :=
  RoundTrip.slot rfl rfl fun h _ => by rw [decodeSlot_toWord, h]; rfl

theorem RoundTrip.rem (p : Pos) (f : Fields) : RoundTrip.Statement (.rem p f) :=
  RoundTrip.slot rfl rfl fun h _ => by rw [decodeSlot_toWord, h]; rfl

theorem RoundTrip.and (p : Pos) (f : Fields) : RoundTrip.Statement (.and p f) :=
  RoundTrip.slot rfl rfl fun h _ => by rw [decodeSlot_toWord, h]; rfl

theorem RoundTrip.or (p : Pos) (f : Fields) : RoundTrip.Statement (.or p f) :=
  RoundTrip.slot rfl rfl fun h _ => by rw [decodeSlot_toWord, h]; rfl

theorem RoundTrip.xor (p : Pos) (f : Fields) : RoundTrip.Statement (.xor p f) :=
  RoundTrip.slot rfl rfl fun h _ => by rw [decodeSlot_toWord, h]; rfl

theorem RoundTrip.sll (p : Pos) (f : Fields) : RoundTrip.Statement (.sll p f) :=
  RoundTrip.slot rfl rfl fun h _ => by rw [decodeSlot_toWord, h]; rfl

theorem RoundTrip.srl (p : Pos) (f : Fields) : RoundTrip.Statement (.srl p f) :=
  RoundTrip.slot rfl rfl fun h _ => by rw [decodeSlot_toWord, h]; rfl

theorem RoundTrip.sra (p : Pos) (f : Fields) : RoundTrip.Statement (.sra p f) :=
  RoundTrip.slot rfl rfl fun h _ => by rw [decodeSlot_toWord, h]; rfl

theorem RoundTrip.min (p : Pos) (f : Fields) : RoundTrip.Statement (.min p f) :=
  RoundTrip.slot rfl rfl fun h _ => by rw [decodeSlot_toWord, h]; rfl

theorem RoundTrip.max (p : Pos) (f : Fields) : RoundTrip.Statement (.max p f) :=
  RoundTrip.slot rfl rfl fun h _ => by rw [decodeSlot_toWord, h]; rfl

theorem RoundTrip.abs (p : Pos) (f : Fields) : RoundTrip.Statement (.abs p f) :=
  RoundTrip.slot rfl rfl fun h _ => by rw [decodeSlot_toWord, h]; rfl

theorem RoundTrip.clz (p : Pos) (f : Fields) : RoundTrip.Statement (.clz p f) :=
  RoundTrip.slot rfl rfl fun h _ => by rw [decodeSlot_toWord, h]; rfl

theorem RoundTrip.popc (p : Pos) (f : Fields) : RoundTrip.Statement (.popc p f) :=
  RoundTrip.slot rfl rfl fun h _ => by rw [decodeSlot_toWord, h]; rfl

theorem RoundTrip.ext (p : Pos) (f : Fields) : RoundTrip.Statement (.ext p f) :=
  RoundTrip.slot rfl rfl fun h _ => by rw [decodeSlot_toWord, h]; rfl

theorem RoundTrip.xtr (p : Pos) (f : Fields) : RoundTrip.Statement (.xtr p f) :=
  RoundTrip.slot rfl rfl fun h _ => by rw [decodeSlot_toWord, h]; rfl

theorem RoundTrip.ins (p : Pos) (f : Fields) : RoundTrip.Statement (.ins p f) :=
  RoundTrip.slot rfl rfl fun h _ => by rw [decodeSlot_toWord, h]; rfl

theorem RoundTrip.li (p : Pos) (f : Fields) : RoundTrip.Statement (.li p f) :=
  RoundTrip.slot rfl rfl fun h _ => by rw [decodeSlot_toWord, h]; rfl

theorem RoundTrip.lea (p : Pos) (f : Fields) : RoundTrip.Statement (.lea p f) :=
  RoundTrip.slot rfl rfl fun h _ => by rw [decodeSlot_toWord, h]; rfl

theorem RoundTrip.cmp (p : Pos) (f : Fields) : RoundTrip.Statement (.cmp p f) :=
  RoundTrip.slot rfl rfl fun h _ => by rw [decodeSlot_toWord, h]; rfl

theorem RoundTrip.sel (p : Pos) (f : Fields) : RoundTrip.Statement (.sel p f) :=
  RoundTrip.slot rfl rfl fun h _ => by rw [decodeSlot_toWord, h]; rfl

theorem RoundTrip.pand (p : Pos) (f : Fields) : RoundTrip.Statement (.pand p f) :=
  RoundTrip.slot rfl rfl fun h _ => by rw [decodeSlot_toWord, h]; rfl

theorem RoundTrip.por (p : Pos) (f : Fields) : RoundTrip.Statement (.por p f) :=
  RoundTrip.slot rfl rfl fun h _ => by rw [decodeSlot_toWord, h]; rfl

theorem RoundTrip.pxor (p : Pos) (f : Fields) : RoundTrip.Statement (.pxor p f) :=
  RoundTrip.slot rfl rfl fun h _ => by rw [decodeSlot_toWord, h]; rfl

theorem RoundTrip.pset (p : Pos) (f : Fields) : RoundTrip.Statement (.pset p f) :=
  RoundTrip.slot rfl rfl fun h _ => by rw [decodeSlot_toWord, h]; rfl

theorem RoundTrip.pget (p : Pos) (f : Fields) : RoundTrip.Statement (.pget p f) :=
  RoundTrip.slot rfl rfl fun h _ => by rw [decodeSlot_toWord, h]; rfl

theorem RoundTrip.xfer (p : Pos) (f : Fields) : RoundTrip.Statement (.xfer p f) :=
  RoundTrip.slot rfl rfl fun h _ => by rw [decodeSlot_toWord, h]; rfl

theorem RoundTrip.fadd (p : Pos) (f : Fields) : RoundTrip.Statement (.fadd p f) :=
  RoundTrip.slot rfl rfl fun h _ => by rw [decodeSlot_toWord, h]; rfl

theorem RoundTrip.fsub (p : Pos) (f : Fields) : RoundTrip.Statement (.fsub p f) :=
  RoundTrip.slot rfl rfl fun h _ => by rw [decodeSlot_toWord, h]; rfl

theorem RoundTrip.fmul (p : Pos) (f : Fields) : RoundTrip.Statement (.fmul p f) :=
  RoundTrip.slot rfl rfl fun h _ => by rw [decodeSlot_toWord, h]; rfl

theorem RoundTrip.fma (p : Pos) (f : Fields) : RoundTrip.Statement (.fma p f) :=
  RoundTrip.slot rfl rfl fun h _ => by rw [decodeSlot_toWord, h]; rfl

theorem RoundTrip.fdiv (p : Pos) (f : Fields) : RoundTrip.Statement (.fdiv p f) :=
  RoundTrip.slot rfl rfl fun h _ => by rw [decodeSlot_toWord, h]; rfl

theorem RoundTrip.fmin (p : Pos) (f : Fields) : RoundTrip.Statement (.fmin p f) :=
  RoundTrip.slot rfl rfl fun h _ => by rw [decodeSlot_toWord, h]; rfl

theorem RoundTrip.fmax (p : Pos) (f : Fields) : RoundTrip.Statement (.fmax p f) :=
  RoundTrip.slot rfl rfl fun h _ => by rw [decodeSlot_toWord, h]; rfl

theorem RoundTrip.fcmp (p : Pos) (f : Fields) : RoundTrip.Statement (.fcmp p f) :=
  RoundTrip.slot rfl rfl fun h _ => by rw [decodeSlot_toWord, h]; rfl

theorem RoundTrip.fcvt (p : Pos) (f : Fields) : RoundTrip.Statement (.fcvt p f) :=
  RoundTrip.slot rfl rfl fun h _ => by rw [decodeSlot_toWord, h]; rfl

theorem RoundTrip.icvt (p : Pos) (f : Fields) : RoundTrip.Statement (.icvt p f) :=
  RoundTrip.slot rfl rfl fun h _ => by rw [decodeSlot_toWord, h]; rfl

theorem RoundTrip.kld (p : Pos) (f : Fields) : RoundTrip.Statement (.kld p f) :=
  RoundTrip.slot rfl rfl fun h _ => by rw [decodeSlot_toWord, h]; rfl

theorem RoundTrip.kmov (p : Pos) (f : Fields) : RoundTrip.Statement (.kmov p f) :=
  RoundTrip.slot rfl rfl fun h _ => by rw [decodeSlot_toWord, h]; rfl

theorem RoundTrip.kbind (p : Pos) (f : Fields) : RoundTrip.Statement (.kbind p f) :=
  RoundTrip.slot rfl rfl fun h _ => by rw [decodeSlot_toWord, h]; rfl

theorem RoundTrip.kfmt (p : Pos) (f : Fields) : RoundTrip.Statement (.kfmt p f) :=
  RoundTrip.slot rfl rfl fun h _ => by rw [decodeSlot_toWord, h]; rfl

theorem RoundTrip.kadd (p : Pos) (f : Fields) : RoundTrip.Statement (.kadd p f) :=
  RoundTrip.slot rfl rfl fun h _ => by rw [decodeSlot_toWord, h]; rfl

theorem RoundTrip.ksub (p : Pos) (f : Fields) : RoundTrip.Statement (.ksub p f) :=
  RoundTrip.slot rfl rfl fun h _ => by rw [decodeSlot_toWord, h]; rfl

theorem RoundTrip.kli (p : Pos) (f : Fields) : RoundTrip.Statement (.kli p f) :=
  RoundTrip.slot rfl rfl fun h _ => by rw [decodeSlot_toWord, h]; rfl

theorem RoundTrip.kclr (p : Pos) (f : Fields) : RoundTrip.Statement (.kclr p f) :=
  RoundTrip.slot rfl rfl fun h _ => by rw [decodeSlot_toWord, h]; rfl

theorem RoundTrip.ld (p : Pos) (f : Fields) : RoundTrip.Statement (.ld p f) :=
  RoundTrip.slot rfl rfl fun h _ => by rw [decodeSlot_toWord, h]; rfl

theorem RoundTrip.st (p : Pos) (f : Fields) : RoundTrip.Statement (.st p f) :=
  RoundTrip.slot rfl rfl fun h _ => by rw [decodeSlot_toWord, h]; rfl

theorem RoundTrip.vld (p : Pos) (f : Fields) : RoundTrip.Statement (.vld p f) :=
  RoundTrip.slot rfl rfl fun h _ => by rw [decodeSlot_toWord, h]; rfl

theorem RoundTrip.vst (p : Pos) (f : Fields) : RoundTrip.Statement (.vst p f) :=
  RoundTrip.slot rfl rfl fun h _ => by rw [decodeSlot_toWord, h]; rfl

theorem RoundTrip.vlds (p : Pos) (f : Fields) : RoundTrip.Statement (.vlds p f) :=
  RoundTrip.slot rfl rfl fun h _ => by rw [decodeSlot_toWord, h]; rfl

theorem RoundTrip.vsts (p : Pos) (f : Fields) : RoundTrip.Statement (.vsts p f) :=
  RoundTrip.slot rfl rfl fun h _ => by rw [decodeSlot_toWord, h]; rfl

theorem RoundTrip.vldx (p : Pos) (f : Fields) : RoundTrip.Statement (.vldx p f) :=
  RoundTrip.slot rfl rfl fun h _ => by rw [decodeSlot_toWord, h]; rfl

theorem RoundTrip.vstx (p : Pos) (f : Fields) : RoundTrip.Statement (.vstx p f) :=
  RoundTrip.slot rfl rfl fun h _ => by rw [decodeSlot_toWord, h]; rfl

theorem RoundTrip.gath (p : Pos) (f : Fields) : RoundTrip.Statement (.gath p f) :=
  RoundTrip.slot rfl rfl fun h _ => by rw [decodeSlot_toWord, h]; rfl

theorem RoundTrip.scat (p : Pos) (f : Fields) : RoundTrip.Statement (.scat p f) :=
  RoundTrip.slot rfl rfl fun h _ => by rw [decodeSlot_toWord, h]; rfl

theorem RoundTrip.fld (p : Pos) (f : Fields) : RoundTrip.Statement (.fld p f) :=
  RoundTrip.slot rfl rfl fun h _ => by rw [decodeSlot_toWord, h]; rfl

theorem RoundTrip.fst (p : Pos) (f : Fields) : RoundTrip.Statement (.fst p f) :=
  RoundTrip.slot rfl rfl fun h _ => by rw [decodeSlot_toWord, h]; rfl

theorem RoundTrip.fldv (p : Pos) (f : Fields) : RoundTrip.Statement (.fldv p f) :=
  RoundTrip.slot rfl rfl fun h _ => by rw [decodeSlot_toWord, h]; rfl

theorem RoundTrip.fstv (p : Pos) (f : Fields) : RoundTrip.Statement (.fstv p f) :=
  RoundTrip.slot rfl rfl fun h _ => by rw [decodeSlot_toWord, h]; rfl

theorem RoundTrip.spill (p : Pos) (f : Fields) : RoundTrip.Statement (.spill p f) :=
  RoundTrip.slot rfl rfl fun h _ => by rw [decodeSlot_toWord, h]; rfl

theorem RoundTrip.fill (p : Pos) (f : Fields) : RoundTrip.Statement (.fill p f) :=
  RoundTrip.slot rfl rfl fun h _ => by rw [decodeSlot_toWord, h]; rfl

theorem RoundTrip.vspill (p : Pos) (f : Fields) : RoundTrip.Statement (.vspill p f) :=
  RoundTrip.slot rfl rfl fun h _ => by rw [decodeSlot_toWord, h]; rfl

theorem RoundTrip.vfill (p : Pos) (f : Fields) : RoundTrip.Statement (.vfill p f) :=
  RoundTrip.slot rfl rfl fun h _ => by rw [decodeSlot_toWord, h]; rfl

theorem RoundTrip.amo (p : Pos) (f : Fields) : RoundTrip.Statement (.amo p f) :=
  RoundTrip.slot rfl rfl fun h _ => by rw [decodeSlot_toWord, h]; rfl

theorem RoundTrip.amocas (p : Pos) (f : Fields) : RoundTrip.Statement (.amocas p f) :=
  RoundTrip.slot rfl rfl fun h _ => by rw [decodeSlot_toWord, h]; rfl

theorem RoundTrip.probe (p : Pos) (f : Fields) : RoundTrip.Statement (.probe p f) :=
  RoundTrip.slot rfl rfl fun h _ => by rw [decodeSlot_toWord, h]; rfl

theorem RoundTrip.cwb (p : Pos) (f : Fields) : RoundTrip.Statement (.cwb p f) :=
  RoundTrip.slot rfl rfl fun h _ => by rw [decodeSlot_toWord, h]; rfl

theorem RoundTrip.cinv (p : Pos) (f : Fields) : RoundTrip.Statement (.cinv p f) :=
  RoundTrip.slot rfl rfl fun h _ => by rw [decodeSlot_toWord, h]; rfl

theorem RoundTrip.cwbi (p : Pos) (f : Fields) : RoundTrip.Statement (.cwbi p f) :=
  RoundTrip.slot rfl rfl fun h _ => by rw [decodeSlot_toWord, h]; rfl

theorem RoundTrip.qfence (p : Pos) (f : Fields) : RoundTrip.Statement (.qfence p f) :=
  RoundTrip.slot rfl rfl fun h _ => by rw [decodeSlot_toWord, h]; rfl

theorem RoundTrip.vldb (p : Pos) (f : Fields) : RoundTrip.Statement (.vldb p f) :=
  RoundTrip.slot rfl rfl fun h _ => by rw [decodeSlot_toWord, h]; rfl

theorem RoundTrip.tag (p : Pos) (f : Fields) : RoundTrip.Statement (.tag p f) :=
  RoundTrip.slot rfl rfl fun h _ => by rw [decodeSlot_toWord, h]; rfl

theorem RoundTrip.tagrd (p : Pos) (f : Fields) : RoundTrip.Statement (.tagrd p f) :=
  RoundTrip.slot rfl rfl fun h _ => by rw [decodeSlot_toWord, h]; rfl

theorem RoundTrip.vadd (p : Pos) (f : Fields) : RoundTrip.Statement (.vadd p f) :=
  RoundTrip.slot rfl rfl fun h _ => by rw [decodeSlot_toWord, h]; rfl

theorem RoundTrip.vsub (p : Pos) (f : Fields) : RoundTrip.Statement (.vsub p f) :=
  RoundTrip.slot rfl rfl fun h _ => by rw [decodeSlot_toWord, h]; rfl

theorem RoundTrip.vmul (p : Pos) (f : Fields) : RoundTrip.Statement (.vmul p f) :=
  RoundTrip.slot rfl rfl fun h _ => by rw [decodeSlot_toWord, h]; rfl

theorem RoundTrip.vmulh (p : Pos) (f : Fields) : RoundTrip.Statement (.vmulh p f) :=
  RoundTrip.slot rfl rfl fun h _ => by rw [decodeSlot_toWord, h]; rfl

theorem RoundTrip.vfma (p : Pos) (f : Fields) : RoundTrip.Statement (.vfma p f) :=
  RoundTrip.slot rfl rfl fun h _ => by rw [decodeSlot_toWord, h]; rfl

theorem RoundTrip.vfms (p : Pos) (f : Fields) : RoundTrip.Statement (.vfms p f) :=
  RoundTrip.slot rfl rfl fun h _ => by rw [decodeSlot_toWord, h]; rfl

theorem RoundTrip.vfnma (p : Pos) (f : Fields) : RoundTrip.Statement (.vfnma p f) :=
  RoundTrip.slot rfl rfl fun h _ => by rw [decodeSlot_toWord, h]; rfl

theorem RoundTrip.vmin (p : Pos) (f : Fields) : RoundTrip.Statement (.vmin p f) :=
  RoundTrip.slot rfl rfl fun h _ => by rw [decodeSlot_toWord, h]; rfl

theorem RoundTrip.vmax (p : Pos) (f : Fields) : RoundTrip.Statement (.vmax p f) :=
  RoundTrip.slot rfl rfl fun h _ => by rw [decodeSlot_toWord, h]; rfl

theorem RoundTrip.vabs (p : Pos) (f : Fields) : RoundTrip.Statement (.vabs p f) :=
  RoundTrip.slot rfl rfl fun h _ => by rw [decodeSlot_toWord, h]; rfl

theorem RoundTrip.vneg (p : Pos) (f : Fields) : RoundTrip.Statement (.vneg p f) :=
  RoundTrip.slot rfl rfl fun h _ => by rw [decodeSlot_toWord, h]; rfl

theorem RoundTrip.vadds (p : Pos) (f : Fields) : RoundTrip.Statement (.vadds p f) :=
  RoundTrip.slot rfl rfl fun h _ => by rw [decodeSlot_toWord, h]; rfl

theorem RoundTrip.vsubs (p : Pos) (f : Fields) : RoundTrip.Statement (.vsubs p f) :=
  RoundTrip.slot rfl rfl fun h _ => by rw [decodeSlot_toWord, h]; rfl

theorem RoundTrip.vand (p : Pos) (f : Fields) : RoundTrip.Statement (.vand p f) :=
  RoundTrip.slot rfl rfl fun h _ => by rw [decodeSlot_toWord, h]; rfl

theorem RoundTrip.vor (p : Pos) (f : Fields) : RoundTrip.Statement (.vor p f) :=
  RoundTrip.slot rfl rfl fun h _ => by rw [decodeSlot_toWord, h]; rfl

theorem RoundTrip.vxor (p : Pos) (f : Fields) : RoundTrip.Statement (.vxor p f) :=
  RoundTrip.slot rfl rfl fun h _ => by rw [decodeSlot_toWord, h]; rfl

theorem RoundTrip.vsll (p : Pos) (f : Fields) : RoundTrip.Statement (.vsll p f) :=
  RoundTrip.slot rfl rfl fun h _ => by rw [decodeSlot_toWord, h]; rfl

theorem RoundTrip.vsrl (p : Pos) (f : Fields) : RoundTrip.Statement (.vsrl p f) :=
  RoundTrip.slot rfl rfl fun h _ => by rw [decodeSlot_toWord, h]; rfl

theorem RoundTrip.vsra (p : Pos) (f : Fields) : RoundTrip.Statement (.vsra p f) :=
  RoundTrip.slot rfl rfl fun h _ => by rw [decodeSlot_toWord, h]; rfl

theorem RoundTrip.vclz (p : Pos) (f : Fields) : RoundTrip.Statement (.vclz p f) :=
  RoundTrip.slot rfl rfl fun h _ => by rw [decodeSlot_toWord, h]; rfl

theorem RoundTrip.vpopc (p : Pos) (f : Fields) : RoundTrip.Statement (.vpopc p f) :=
  RoundTrip.slot rfl rfl fun h _ => by rw [decodeSlot_toWord, h]; rfl

theorem RoundTrip.vcmp (p : Pos) (f : Fields) : RoundTrip.Statement (.vcmp p f) :=
  RoundTrip.slot rfl rfl fun h _ => by rw [decodeSlot_toWord, h]; rfl

theorem RoundTrip.vsel (p : Pos) (f : Fields) : RoundTrip.Statement (.vsel p f) :=
  RoundTrip.slot rfl rfl fun h _ => by rw [decodeSlot_toWord, h]; rfl

theorem RoundTrip.vmov (p : Pos) (f : Fields) : RoundTrip.Statement (.vmov p f) :=
  RoundTrip.slot rfl rfl fun h _ => by rw [decodeSlot_toWord, h]; rfl

theorem RoundTrip.vli (p : Pos) (f : Fields) : RoundTrip.Statement (.vli p f) :=
  RoundTrip.slot rfl rfl fun h _ => by rw [decodeSlot_toWord, h]; rfl

theorem RoundTrip.vext (p : Pos) (f : Fields) : RoundTrip.Statement (.vext p f) :=
  RoundTrip.slot rfl rfl fun h _ => by rw [decodeSlot_toWord, h]; rfl

theorem RoundTrip.vcvt (p : Pos) (f : Fields) : RoundTrip.Statement (.vcvt p f) :=
  RoundTrip.slot rfl rfl fun h _ => by rw [decodeSlot_toWord, h]; rfl

theorem RoundTrip.vrnd (p : Pos) (f : Fields) : RoundTrip.Statement (.vrnd p f) :=
  RoundTrip.slot rfl rfl fun h _ => by rw [decodeSlot_toWord, h]; rfl

theorem RoundTrip.vscale (p : Pos) (f : Fields) : RoundTrip.Statement (.vscale p f) :=
  RoundTrip.slot rfl rfl fun h _ => by rw [decodeSlot_toWord, h]; rfl

theorem RoundTrip.vrcp (p : Pos) (f : Fields) : RoundTrip.Statement (.vrcp p f) :=
  RoundTrip.slot rfl rfl fun h _ => by rw [decodeSlot_toWord, h]; rfl

theorem RoundTrip.vrsqrt (p : Pos) (f : Fields) : RoundTrip.Statement (.vrsqrt p f) :=
  RoundTrip.slot rfl rfl fun h _ => by rw [decodeSlot_toWord, h]; rfl

theorem RoundTrip.vexp2 (p : Pos) (f : Fields) : RoundTrip.Statement (.vexp2 p f) :=
  RoundTrip.slot rfl rfl fun h _ => by rw [decodeSlot_toWord, h]; rfl

theorem RoundTrip.vlog2 (p : Pos) (f : Fields) : RoundTrip.Statement (.vlog2 p f) :=
  RoundTrip.slot rfl rfl fun h _ => by rw [decodeSlot_toWord, h]; rfl

theorem RoundTrip.vred (p : Pos) (f : Fields) : RoundTrip.Statement (.vred p f) :=
  RoundTrip.slot rfl rfl fun h _ => by rw [decodeSlot_toWord, h]; rfl

theorem RoundTrip.vscan (p : Pos) (f : Fields) : RoundTrip.Statement (.vscan p f) :=
  RoundTrip.slot rfl rfl fun h _ => by rw [decodeSlot_toWord, h]; rfl

theorem RoundTrip.vperm (p : Pos) (f : Fields) : RoundTrip.Statement (.vperm p f) :=
  RoundTrip.slot rfl rfl fun h _ => by rw [decodeSlot_toWord, h]; rfl

theorem RoundTrip.vbcast (p : Pos) (f : Fields) : RoundTrip.Statement (.vbcast p f) :=
  RoundTrip.slot rfl rfl fun h _ => by rw [decodeSlot_toWord, h]; rfl

theorem RoundTrip.vrot (p : Pos) (f : Fields) : RoundTrip.Statement (.vrot p f) :=
  RoundTrip.slot rfl rfl fun h _ => by rw [decodeSlot_toWord, h]; rfl

theorem RoundTrip.vslide (p : Pos) (f : Fields) : RoundTrip.Statement (.vslide p f) :=
  RoundTrip.slot rfl rfl fun h _ => by rw [decodeSlot_toWord, h]; rfl

theorem RoundTrip.viota (p : Pos) (f : Fields) : RoundTrip.Statement (.viota p f) :=
  RoundTrip.slot rfl rfl fun h _ => by rw [decodeSlot_toWord, h]; rfl

theorem RoundTrip.vpack (p : Pos) (f : Fields) : RoundTrip.Statement (.vpack p f) :=
  RoundTrip.slot rfl rfl fun h _ => by rw [decodeSlot_toWord, h]; rfl

theorem RoundTrip.vunpack (p : Pos) (f : Fields) : RoundTrip.Statement (.vunpack p f) :=
  RoundTrip.slot rfl rfl fun h _ => by rw [decodeSlot_toWord, h]; rfl

theorem RoundTrip.vdot (p : Pos) (f : Fields) : RoundTrip.Statement (.vdot p f) :=
  RoundTrip.slot rfl rfl fun h _ => by rw [decodeSlot_toWord, h]; rfl

theorem RoundTrip.vdotsu (p : Pos) (f : Fields) : RoundTrip.Statement (.vdotsu p f) :=
  RoundTrip.slot rfl rfl fun h _ => by rw [decodeSlot_toWord, h]; rfl

theorem RoundTrip.vpset (p : Pos) (f : Fields) : RoundTrip.Statement (.vpset p f) :=
  RoundTrip.slot rfl rfl fun h _ => by rw [decodeSlot_toWord, h]; rfl

theorem RoundTrip.vpget (p : Pos) (f : Fields) : RoundTrip.Statement (.vpget p f) :=
  RoundTrip.slot rfl rfl fun h _ => by rw [decodeSlot_toWord, h]; rfl

theorem RoundTrip.vfirst (p : Pos) (f : Fields) : RoundTrip.Statement (.vfirst p f) :=
  RoundTrip.slot rfl rfl fun h _ => by rw [decodeSlot_toWord, h]; rfl

theorem RoundTrip.mcall (p : Pos) (f : Fields) : RoundTrip.Statement (.mcall p f) :=
  RoundTrip.slot rfl rfl fun h _ => by rw [decodeSlot_toWord, h]; rfl

theorem RoundTrip.mpset (p : Pos) (f : Fields) : RoundTrip.Statement (.mpset p f) :=
  RoundTrip.slot rfl rfl fun h _ => by rw [decodeSlot_toWord, h]; rfl

theorem RoundTrip.mload (p : Pos) (f : Fields) : RoundTrip.Statement (.mload p f) :=
  RoundTrip.slot rfl rfl fun h _ => by rw [decodeSlot_toWord, h]; rfl

theorem RoundTrip.smcopy (p : Pos) (f : Fields) : RoundTrip.Statement (.smcopy p f) :=
  RoundTrip.slot rfl rfl fun h _ => by rw [decodeSlot_toWord, h]; rfl

theorem RoundTrip.ncopy (p : Pos) (f : Fields) : RoundTrip.Statement (.ncopy p f) :=
  RoundTrip.slot rfl rfl fun h _ => by rw [decodeSlot_toWord, h]; rfl

theorem RoundTrip.egath (p : Pos) (f : Fields) : RoundTrip.Statement (.egath p f) :=
  RoundTrip.slot rfl rfl fun h _ => by rw [decodeSlot_toWord, h]; rfl

theorem RoundTrip.escat (p : Pos) (f : Fields) : RoundTrip.Statement (.escat p f) :=
  RoundTrip.slot rfl rfl fun h _ => by rw [decodeSlot_toWord, h]; rfl

theorem RoundTrip.mcast (p : Pos) (f : Fields) : RoundTrip.Statement (.mcast p f) :=
  RoundTrip.slot rfl rfl fun h _ => by rw [decodeSlot_toWord, h]; rfl

theorem RoundTrip.mcastb (p : Pos) (f : Fields) : RoundTrip.Statement (.mcastb p f) :=
  RoundTrip.slot rfl rfl fun h _ => by rw [decodeSlot_toWord, h]; rfl

theorem RoundTrip.coll (p : Pos) (f : Fields) : RoundTrip.Statement (.coll p f) :=
  RoundTrip.slot rfl rfl fun h _ => by rw [decodeSlot_toWord, h]; rfl

theorem RoundTrip.tnld (p : Pos) (f : Fields) : RoundTrip.Statement (.tnld p f) :=
  RoundTrip.slot rfl rfl fun h _ => by rw [decodeSlot_toWord, h]; rfl

theorem RoundTrip.tnst (p : Pos) (f : Fields) : RoundTrip.Statement (.tnst p f) :=
  RoundTrip.slot rfl rfl fun h _ => by rw [decodeSlot_toWord, h]; rfl

theorem RoundTrip.tnpf (p : Pos) (f : Fields) : RoundTrip.Statement (.tnpf p f) :=
  RoundTrip.slot rfl rfl fun h _ => by rw [decodeSlot_toWord, h]; rfl

theorem RoundTrip.emit (p : Pos) (f : Fields) : RoundTrip.Statement (.emit p f) :=
  RoundTrip.slot rfl rfl fun h _ => by rw [decodeSlot_toWord, h]; rfl

theorem RoundTrip.estat (p : Pos) (f : Fields) : RoundTrip.Statement (.estat p f) :=
  RoundTrip.slot rfl rfl fun h _ => by rw [decodeSlot_toWord, h]; rfl

theorem RoundTrip.accld (p : Pos) (f : Fields) : RoundTrip.Statement (.accld p f) :=
  RoundTrip.slot rfl rfl fun h _ => by rw [decodeSlot_toWord, h]; rfl

theorem RoundTrip.accst (p : Pos) (f : Fields) : RoundTrip.Statement (.accst p f) :=
  RoundTrip.slot rfl rfl fun h _ => by rw [decodeSlot_toWord, h]; rfl

theorem RoundTrip.adrain (p : Pos) (f : Fields) : RoundTrip.Statement (.adrain p f) :=
  RoundTrip.slot rfl rfl fun h _ => by rw [decodeSlot_toWord, h]; rfl

theorem RoundTrip.aclr (p : Pos) (f : Fields) : RoundTrip.Statement (.aclr p f) :=
  RoundTrip.slot rfl rfl fun h _ => by rw [decodeSlot_toWord, h]; rfl

theorem RoundTrip.ecancel (p : Pos) (f : Fields) : RoundTrip.Statement (.ecancel p f) :=
  RoundTrip.slot rfl rfl fun h _ => by rw [decodeSlot_toWord, h]; rfl

theorem RoundTrip.ebar (p : Pos) (f : Fields) : RoundTrip.Statement (.ebar p f) :=
  RoundTrip.slot rfl rfl fun h _ => by rw [decodeSlot_toWord, h]; rfl

theorem RoundTrip.bundleIssue (core : Nat) : RoundTrip.Statement (.bundleIssue core) := RoundTrip.event rfl rfl

theorem RoundTrip.emptyBundle (core : Nat) : RoundTrip.Statement (.emptyBundle core) := RoundTrip.event rfl rfl

theorem RoundTrip.resultLands (core : Nat) : RoundTrip.Statement (.resultLands core) := RoundTrip.event rfl rfl

theorem RoundTrip.stallRelease (core : Nat) : RoundTrip.Statement (.stallRelease core) := RoundTrip.event rfl rfl

theorem RoundTrip.phaseComplete (core : Nat) : RoundTrip.Statement (.phaseComplete core) := RoundTrip.event rfl rfl

theorem RoundTrip.engineCommandStart (cid : Nat) : RoundTrip.Statement (.engineCommandStart cid) := RoundTrip.event rfl rfl

theorem RoundTrip.engineCommandComplete (cid : Nat) : RoundTrip.Statement (.engineCommandComplete cid) := RoundTrip.event rfl rfl

theorem RoundTrip.collStart (cid : Nat) : RoundTrip.Statement (.collStart cid) := RoundTrip.event rfl rfl

theorem RoundTrip.uopEnd (core : Nat) (u : MicroOp) : RoundTrip.Statement (.uopEnd core u) :=
  RoundTrip.uop rfl rfl (by unfold uopOf; rw [uop_code, uop_fields]; rfl)

theorem RoundTrip.uopNop (core : Nat) (u : MicroOp) : RoundTrip.Statement (.uopNop core u) :=
  RoundTrip.uop rfl rfl (by unfold uopOf; rw [uop_code, uop_fields]; rfl)

theorem RoundTrip.uopSeti (core : Nat) (u : MicroOp) : RoundTrip.Statement (.uopSeti core u) :=
  RoundTrip.uop rfl rfl (by unfold uopOf; rw [uop_code, uop_fields]; rfl)

theorem RoundTrip.uopSetp (core : Nat) (u : MicroOp) : RoundTrip.Statement (.uopSetp core u) :=
  RoundTrip.uop rfl rfl (by unfold uopOf; rw [uop_code, uop_fields]; rfl)

theorem RoundTrip.uopMad (core : Nat) (u : MicroOp) : RoundTrip.Statement (.uopMad core u) :=
  RoundTrip.uop rfl rfl (by unfold uopOf; rw [uop_code, uop_fields]; rfl)

theorem RoundTrip.uopLoop (core : Nat) (u : MicroOp) : RoundTrip.Statement (.uopLoop core u) :=
  RoundTrip.uop rfl rfl (by unfold uopOf; rw [uop_code, uop_fields]; rfl)

theorem RoundTrip.uopEndl (core : Nat) (u : MicroOp) : RoundTrip.Statement (.uopEndl core u) :=
  RoundTrip.uop rfl rfl (by unfold uopOf; rw [uop_code, uop_fields]; rfl)

theorem RoundTrip.uopLdw (core : Nat) (u : MicroOp) : RoundTrip.Statement (.uopLdw core u) :=
  RoundTrip.uop rfl rfl (by unfold uopOf; rw [uop_code, uop_fields]; rfl)

theorem RoundTrip.uopMma (core : Nat) (u : MicroOp) : RoundTrip.Statement (.uopMma core u) :=
  RoundTrip.uop rfl rfl (by unfold uopOf; rw [uop_code, uop_fields]; rfl)

theorem RoundTrip.uopAclr (core : Nat) (u : MicroOp) : RoundTrip.Statement (.uopAclr core u) :=
  RoundTrip.uop rfl rfl (by unfold uopOf; rw [uop_code, uop_fields]; rfl)

theorem RoundTrip.uopMsk (core : Nat) (u : MicroOp) : RoundTrip.Statement (.uopMsk core u) :=
  RoundTrip.uop rfl rfl (by unfold uopOf; rw [uop_code, uop_fields]; rfl)

theorem RoundTrip.uopDrn (core : Nat) (u : MicroOp) : RoundTrip.Statement (.uopDrn core u) :=
  RoundTrip.uop rfl rfl (by unfold uopOf; rw [uop_code, uop_fields]; rfl)

theorem RoundTrip.uopBwt (core : Nat) (u : MicroOp) : RoundTrip.Statement (.uopBwt core u) :=
  RoundTrip.uop rfl rfl (by unfold uopOf; rw [uop_code, uop_fields]; rfl)

theorem RoundTrip.uopBar (core : Nat) (u : MicroOp) : RoundTrip.Statement (.uopBar core u) :=
  RoundTrip.uop rfl rfl (by unfold uopOf; rw [uop_code, uop_fields]; rfl)

theorem RoundTrip.offcoreCommandPerform (cid : Nat) : RoundTrip.Statement (.offcoreCommandPerform cid) := RoundTrip.event rfl rfl

theorem RoundTrip.ctxKilled (ctx : Nat) : RoundTrip.Statement (.ctxKilled ctx) := RoundTrip.event rfl rfl

theorem RoundTrip.sequencerEnd (ctx : Nat) : RoundTrip.Statement (.sequencerEnd ctx) := RoundTrip.event rfl rfl

theorem RoundTrip.gridEnd (gkey : Nat) : RoundTrip.Statement (.gridEnd gkey) := RoundTrip.event rfl rfl

theorem RoundTrip.trapRecordEnqueue (cluster : Nat) : RoundTrip.Statement (.trapRecordEnqueue cluster) := RoundTrip.event rfl rfl

theorem RoundTrip.contextSave (ctx : Nat) : RoundTrip.Statement (.contextSave ctx) := RoundTrip.event rfl rfl

theorem RoundTrip.pageWalkComplete (part : Nat) (ia : Nat) :
    RoundTrip.Statement (.pageWalkComplete part ia) := RoundTrip.event rfl rfl

theorem RoundTrip.faultEntryCreate (cid : Nat) : RoundTrip.Statement (.faultEntryCreate cid) := RoundTrip.event rfl rfl

theorem RoundTrip.fqReplay (cluster : Nat) (seq : Nat) : RoundTrip.Statement (.fqReplay cluster seq) := RoundTrip.event rfl rfl

theorem RoundTrip.fqRefuse (cluster : Nat) (seq : Nat) (code : Nat) :
    RoundTrip.Statement (.fqRefuse cluster seq code) := RoundTrip.event rfl rfl

theorem RoundTrip.fqExhausted (cluster : Nat) (seq : Nat) : RoundTrip.Statement (.fqExhausted cluster seq) := RoundTrip.event rfl rfl

theorem RoundTrip.rangeEntryCommit (cluster : Nat) (value : Word) :
    RoundTrip.Statement (.rangeEntryCommit cluster value) := RoundTrip.event rfl rfl

theorem RoundTrip.xltInv (part : Nat) (value : Word) : RoundTrip.Statement (.xltInv part value) := RoundTrip.event rfl rfl

theorem RoundTrip.xltInvDone (part : Nat) : RoundTrip.Statement (.xltInvDone part) := RoundTrip.event rfl rfl

theorem RoundTrip.swapStart (part : Nat) : RoundTrip.Statement (.swapStart part) := RoundTrip.event rfl rfl

theorem RoundTrip.swapLine (part : Nat) : RoundTrip.Statement (.swapLine part) := RoundTrip.event rfl rfl

theorem RoundTrip.xltClrAdd (part : Nat) (value : Word) : RoundTrip.Statement (.xltClrAdd part value) := RoundTrip.event rfl rfl

theorem RoundTrip.clearSweepLine (part : Nat) : RoundTrip.Statement (.clearSweepLine part) := RoundTrip.event rfl rfl

theorem RoundTrip.ctxSaveCmd (cluster : Nat) (ctx : Nat) : RoundTrip.Statement (.ctxSaveCmd cluster ctx) := RoundTrip.event rfl rfl

theorem RoundTrip.ctxRestoreCmd (cluster : Nat) (ctx : Nat) :
    RoundTrip.Statement (.ctxRestoreCmd cluster ctx) := RoundTrip.event rfl rfl

theorem RoundTrip.ctxEndCmd (cluster : Nat) (ctx : Nat) : RoundTrip.Statement (.ctxEndCmd cluster ctx) := RoundTrip.event rfl rfl

theorem RoundTrip.taskCommit (part : Nat) (dom : Nat) : RoundTrip.Statement (.taskCommit part dom) := RoundTrip.event rfl rfl

theorem RoundTrip.lehrStallAbort (part : Nat) (dom : Nat) : RoundTrip.Statement (.lehrStallAbort part dom) := RoundTrip.event rfl rfl

theorem RoundTrip.abortRedirect (ctx : Nat) : RoundTrip.Statement (.abortRedirect ctx) := RoundTrip.event rfl rfl

theorem RoundTrip.launchConsume (part : Nat) : RoundTrip.Statement (.launchConsume part) := RoundTrip.event rfl rfl

theorem RoundTrip.hostQueueConsume (queue : Nat) : RoundTrip.Statement (.hostQueueConsume queue) := RoundTrip.event rfl rfl

theorem RoundTrip.launchRelease (gkey : Nat) : RoundTrip.Statement (.launchRelease gkey) := RoundTrip.event rfl rfl

theorem RoundTrip.gangPlace (gkey : Nat) : RoundTrip.Statement (.gangPlace gkey) := RoundTrip.event rfl rfl

theorem RoundTrip.sliceExpiry (gkey : Nat) (gang : Nat) : RoundTrip.Statement (.sliceExpiry gkey gang) := RoundTrip.event rfl rfl

theorem RoundTrip.yieldLate (gkey : Nat) (gang : Nat) : RoundTrip.Statement (.yieldLate gkey gang) := RoundTrip.event rfl rfl

theorem RoundTrip.tokenArrival (session : Nat) (port : Nat) (payload : List Byte) :
    RoundTrip.Statement (.tokenArrival session port payload) := RoundTrip.event rfl rfl

theorem RoundTrip.unsupportedPacket (packet : BadPacket) :
    RoundTrip.Statement (.unsupportedPacket packet) := RoundTrip.event rfl rfl

theorem RoundTrip.jobRelease (job : Nat) : RoundTrip.Statement (.jobRelease job) := RoundTrip.event rfl rfl

theorem RoundTrip.deadlineMiss (gkey : Nat) : RoundTrip.Statement (.deadlineMiss gkey) := RoundTrip.event rfl rfl

theorem RoundTrip.holdChunkEmit (part : Nat) (session : Nat) :
    RoundTrip.Statement (.holdChunkEmit part session) := RoundTrip.event rfl rfl

theorem RoundTrip.emissionDeparture (port : Nat) : RoundTrip.Statement (.emissionDeparture port) := RoundTrip.event rfl rfl

theorem RoundTrip.mirrorCopy (gkey : Nat) : RoundTrip.Statement (.mirrorCopy gkey) := RoundTrip.event rfl rfl

theorem RoundTrip.failoverSwitch (session : Nat) : RoundTrip.Statement (.failoverSwitch session) := RoundTrip.event rfl rfl

theorem RoundTrip.sessionAdmit (part : Nat) : RoundTrip.Statement (.sessionAdmit part) := RoundTrip.event rfl rfl

theorem RoundTrip.sessionClose (part : Nat) : RoundTrip.Statement (.sessionClose part) := RoundTrip.event rfl rfl

theorem RoundTrip.sessionCloseDone (part : Nat) (session : Nat) :
    RoundTrip.Statement (.sessionCloseDone part session) := RoundTrip.event rfl rfl

theorem RoundTrip.sessionForceLevel (part : Nat) (level : Nat) :
    RoundTrip.Statement (.sessionForceLevel part level) := RoundTrip.event rfl rfl

theorem RoundTrip.sessionForceRelease (part : Nat) : RoundTrip.Statement (.sessionForceRelease part) := RoundTrip.event rfl rfl

theorem RoundTrip.sessionSuspend (part : Nat) (session : Nat) :
    RoundTrip.Statement (.sessionSuspend part session) := RoundTrip.event rfl rfl

theorem RoundTrip.dsqEnable (part : Nat) (value : Word) : RoundTrip.Statement (.dsqEnable part value) := RoundTrip.event rfl rfl

theorem RoundTrip.ptpEventMessage (port : Nat) (message : PtpEvent) (rate : Int) :
    RoundTrip.Statement (.ptpEventMessage port message rate) := RoundTrip.event rfl rfl

theorem RoundTrip.holdover : RoundTrip.Statement (.holdover) := RoundTrip.event rfl rfl

theorem RoundTrip.ptmStep (value : Word) : RoundTrip.Statement (.ptmStep value) := RoundTrip.event rfl rfl

theorem RoundTrip.dirRd (cluster : Nat) (line : Nat) : RoundTrip.Statement (.dirRd cluster line) := RoundTrip.event rfl rfl

theorem RoundTrip.dirWn (cluster : Nat) (line : Nat) : RoundTrip.Statement (.dirWn cluster line) := RoundTrip.event rfl rfl

theorem RoundTrip.dirEvc (cluster : Nat) (line : Nat) : RoundTrip.Statement (.dirEvc cluster line) := RoundTrip.event rfl rfl

theorem RoundTrip.dirWb (cluster : Nat) (line : Nat) (evict : Bool) :
    RoundTrip.Statement (.dirWb cluster line evict) := RoundTrip.event rfl rfl

theorem RoundTrip.dirHw (line : Nat) : RoundTrip.Statement (.dirHw line) := RoundTrip.event rfl rfl

theorem RoundTrip.dirVic (line : Nat) : RoundTrip.Statement (.dirVic line) := RoundTrip.event rfl rfl

theorem RoundTrip.wheelTurn (stack : Nat) (ch : Nat) : RoundTrip.Statement (.wheelTurn stack ch) := RoundTrip.event rfl rfl

theorem RoundTrip.rowHammerThrottle (stack : Nat) (ch : Nat) (bank : Nat) (row : Nat) :
    RoundTrip.Statement (.rowHammerThrottle stack ch bank row) := RoundTrip.event rfl rfl

theorem RoundTrip.rowHammerRefreshEnd (stack : Nat) (ch : Nat) (bank : Nat) :
    RoundTrip.Statement (.rowHammerRefreshEnd stack ch bank) := RoundTrip.event rfl rfl

theorem RoundTrip.eccUncorrectable (store : Nat) (unit : Nat) (addr : Nat) :
    RoundTrip.Statement (.eccUncorrectable store unit addr) := RoundTrip.event rfl rfl

theorem RoundTrip.partitionReset (part : Nat) (cls : Nat) : RoundTrip.Statement (.partitionReset part cls) := RoundTrip.event rfl rfl

theorem RoundTrip.partitionResetDone (part : Nat) : RoundTrip.Statement (.partitionResetDone part) := RoundTrip.event rfl rfl

theorem RoundTrip.mergePair (pair : Nat) : RoundTrip.Statement (.mergePair pair) := RoundTrip.event rfl rfl

theorem RoundTrip.splitPair (pair : Nat) : RoundTrip.Statement (.splitPair pair) := RoundTrip.event rfl rfl

theorem RoundTrip.mergeW : RoundTrip.Statement (.mergeW) := RoundTrip.event rfl rfl

theorem RoundTrip.splitW : RoundTrip.Statement (.splitW) := RoundTrip.event rfl rfl

theorem RoundTrip.partitionQuiet : RoundTrip.Statement (.partitionQuiet) := RoundTrip.event rfl rfl

theorem RoundTrip.quiesceTimeout : RoundTrip.Statement (.quiesceTimeout) := RoundTrip.event rfl rfl

theorem RoundTrip.partitionFlushDone : RoundTrip.Statement (.partitionFlushDone) := RoundTrip.event rfl rfl

theorem RoundTrip.leaseRenew (port : Nat) : RoundTrip.Statement (.leaseRenew port) := RoundTrip.event rfl rfl

theorem RoundTrip.leaseExpiry : RoundTrip.Statement (.leaseExpiry) := RoundTrip.event rfl rfl

theorem RoundTrip.doorbell (port : Nat) (value : Word) : RoundTrip.Statement (.doorbell port value) := RoundTrip.event rfl rfl

theorem RoundTrip.queueReset (port : Nat) : RoundTrip.Statement (.queueReset port) := RoundTrip.event rfl rfl

theorem RoundTrip.csqUpdate (queue : Nat) : RoundTrip.Statement (.csqUpdate queue) := RoundTrip.event rfl rfl

theorem RoundTrip.hostLinkDown (port : Nat) : RoundTrip.Statement (.hostLinkDown port) := RoundTrip.event rfl rfl

theorem RoundTrip.claim (res : Nat) (who : Nat) : RoundTrip.Statement (.claim res who) := RoundTrip.event rfl rfl

theorem RoundTrip.claimRelease (res : Nat) (who : Nat) : RoundTrip.Statement (.claimRelease res who) := RoundTrip.event rfl rfl

theorem RoundTrip.claimHandover (res : Nat) (who : Nat) (target : Nat) :
    RoundTrip.Statement (.claimHandover res who target) := RoundTrip.event rfl rfl

theorem RoundTrip.dbgSave (cluster : Nat) (ctx : Nat) : RoundTrip.Statement (.dbgSave cluster ctx) := RoundTrip.event rfl rfl

theorem RoundTrip.dbgRestore (cluster : Nat) (ctx : Nat) : RoundTrip.Statement (.dbgRestore cluster ctx) := RoundTrip.event rfl rfl

theorem RoundTrip.dbgResume (cluster : Nat) (ctx : Nat) : RoundTrip.Statement (.dbgResume cluster ctx) := RoundTrip.event rfl rfl

theorem RoundTrip.histSample (cluster : Nat) : RoundTrip.Statement (.histSample cluster) := RoundTrip.event rfl rfl

theorem RoundTrip.histWindowEnd (cluster : Nat) : RoundTrip.Statement (.histWindowEnd cluster) := RoundTrip.event rfl rfl

theorem RoundTrip.stallRatioWindow (core : Nat) : RoundTrip.Statement (.stallRatioWindow core) := RoundTrip.event rfl rfl

theorem RoundTrip.counterLowRead (fn : Nat) (core : Nat) (k : Nat) :
    RoundTrip.Statement (.counterLowRead fn core k) := RoundTrip.event rfl rfl

theorem RoundTrip.counterHighRead (fn : Nat) (core : Nat) (k : Nat) :
    RoundTrip.Statement (.counterHighRead fn core k) := RoundTrip.event rfl rfl

theorem RoundTrip.dvfRequest (island : Nat) (value : Word) : RoundTrip.Statement (.dvfRequest island value) := RoundTrip.event rfl rfl

theorem RoundTrip.voltageStep (island : Nat) : RoundTrip.Statement (.voltageStep island) := RoundTrip.event rfl rfl

theorem RoundTrip.clockRestart (island : Nat) : RoundTrip.Statement (.clockRestart island) := RoundTrip.event rfl rfl

theorem RoundTrip.thermalThrottle (island : Nat) : RoundTrip.Statement (.thermalThrottle island) := RoundTrip.event rfl rfl

theorem RoundTrip.throttleClear (island : Nat) (celsius : Nat) :
    RoundTrip.Statement (.throttleClear island celsius) := RoundTrip.event rfl rfl

theorem RoundTrip.attestationRequest (port : Nat) (value : Word) :
    RoundTrip.Statement (.attestationRequest port value) := RoundTrip.event rfl rfl

theorem RoundTrip.attestationDone (port : Nat) : RoundTrip.Statement (.attestationDone port) := RoundTrip.event rfl rfl

theorem RoundTrip.powerOn : RoundTrip.Statement (.powerOn) := RoundTrip.event rfl rfl

theorem RoundTrip.packageReset : RoundTrip.Statement (.packageReset) := RoundTrip.event rfl rfl

theorem RoundTrip.singlePortPerst (port : Nat) : RoundTrip.Statement (.singlePortPerst port) := RoundTrip.event rfl rfl

theorem RoundTrip.vfReset (vf : Nat) : RoundTrip.Statement (.vfReset vf) := RoundTrip.event rfl rfl

theorem RoundTrip.registerWrite (who : Party) (reg : RegAddr) (value : Word) :
    RoundTrip.Statement (.registerWrite who reg value) := RoundTrip.event rfl rfl

theorem RoundTrip.hostLinkUp (port : Nat) : RoundTrip.Statement (.hostLinkUp port) := RoundTrip.event rfl rfl

theorem RoundTrip.eccCorrected (store : Nat) (unit : Nat) (addr : Nat) :
    RoundTrip.Statement (.eccCorrected store unit addr) := RoundTrip.event rfl rfl

theorem RoundTrip.refreshWindowEnd (stack : Nat) (ch : Nat) (bank : Nat) :
    RoundTrip.Statement (.refreshWindowEnd stack ch bank) := RoundTrip.event rfl rfl

theorem RoundTrip.ptpGeneralMessage (port : Nat) (kind : Nat) (offset : Int) :
    RoundTrip.Statement (.ptpGeneralMessage port kind offset) := RoundTrip.event rfl rfl

theorem RoundTrip.supervisorFence (cluster : Nat) (code : Bool) :
    RoundTrip.Statement (.supervisorFence cluster code) := RoundTrip.event rfl rfl

theorem RoundTrip.supervisorStore (cluster : Nat) (ia : Nat) (data : List Byte) :
    RoundTrip.Statement (.supervisorStore cluster ia data) := RoundTrip.event rfl rfl

theorem RoundTrip.hostBar2Write (port : Nat) (vault : Nat) (data : List Byte) :
    RoundTrip.Statement (.hostBar2Write port vault data) := RoundTrip.event rfl rfl

end Sys2Proof.Laws
end

