-- ==== Sys2Proof/Laws/Scratchpad.lean ====
section
/-!
SUPPORT. The scratchpad operations over several lanes, and tags.
-/

namespace Sys2Proof.Machine

open Sys2Proof

/-- The bytes that a lane's read list holds. -/
theorem readLanes_get (s : State) (mask : Mask) (addr n : Nat → Nat) (i : Nat) (hi : i < 64) :
    (readLanes s mask addr n)[i]? =
      some (if mask.getLsbD i then spmRead s s.curCtx (addr i % 2 ^ 32) (n i) else .ok []) := by
  simp [readLanes, hi]

/-- No lane of a list of successful reads fails. -/
theorem lanesFate_none (rs : List MemRes) (addr : Nat → Nat)
    (h : ∀ i, i < 64 → ((rs[i]?).getD .range).isOk = true) : lanesFate rs addr = none := by
  unfold lanesFate
  rw [List.findSome?_eq_none_iff]
  intro i hi
  simp [h i (List.mem_range.mp hi)]

/-- Only the 64 lanes of a vector result matter. -/
theorem putVec_congr {s : State} {p : Pos} {o : Operand} {lat : Nat} {mask : Mask} {v w : Nat → Nat}
    (h : ∀ i, i < 64 → v i = w i) : putVec s p o lat mask v = putVec s p o lat mask w := by
  have e : (List.range 64).map (fun i => BitVec.ofNat 64 (v i)) = (List.range 64).map (fun i => BitVec.ofNat 64 (w i)) :=
    List.map_congr_left fun i hi => by rw [h i (List.mem_range.mp hi)]
  unfold putVec
  rw [e]

/-- A vector load whose enabled lanes are all readable. -/
theorem vecLoad_ok (s : State) (p : Pos) (f : Fields) (lat : Nat) (addr n : Nat → Nat) (val : Nat → Nat → Nat)
    (bs : Nat → List Byte)
    (h : ∀ i, i < 64 → (guardMask s.curCtx f).getLsbD i = true →
      spmRead s s.curCtx (addr i % 2 ^ 32) (n i) = .ok (bs i)) :
    vecLoad s p f lat addr n val = .ok (putVec s p f.dst lat (guardMask s.curCtx f) fun i =>
      val i (if (guardMask s.curCtx f).getLsbD i then ofBytesLE (bs i) else 0)) := by
  have hget : ∀ i, i < 64 → ((readLanes s (guardMask s.curCtx f) addr n)[i]?).getD .range =
      (if (guardMask s.curCtx f).getLsbD i then .ok (bs i) else .ok []) := by
    intro i hi
    rw [readLanes_get s _ addr n i hi]
    by_cases hm : (guardMask s.curCtx f).getLsbD i = true
    · rw [Option.getD_some, if_pos hm, if_pos hm, h i hi hm]
    · simp [hm]
  unfold vecLoad
  simp only []
  rw [lanesFate_none]
  · simp only [SlotRes.ok.injEq]
    apply putVec_congr
    intro i hi
    rw [hget i hi]
    by_cases hm : (guardMask s.curCtx f).getLsbD i = true
    · simp [hm, MemRes.num]
    · simp [hm, MemRes.num, ofBytesLE]
  · intro i hi
    rw [hget i hi]
    split <;> rfl

/-- A vector store whose enabled lanes all exist. -/
theorem vecStore_ok (s : State) (f : Fields) (addr : Nat → Nat) (bytes : Nat → List Byte) (k : Nat → List Nat)
    (h : ∀ i ∈ (List.range 64).filter fun i => (guardMask s.curCtx f).getLsbD i,
      spmRange s s.curCtx (addr i) (bytes i).length = some (k i)) :
    vecStore s f addr bytes = .ok (spmWrite s s.curCtx
      (((List.range 64).filter fun i => (guardMask s.curCtx f).getLsbD i).flatMap fun i => (k i).zip (bytes i))) := by
  unfold vecStore
  simp only []
  have hn : ((List.range 64).filter fun i => (guardMask s.curCtx f).getLsbD i).find?
      (fun i => (spmRange s s.curCtx (addr i) (bytes i).length).isNone) = none := by
    rw [List.find?_eq_none]
    intro i hi
    simp [h i hi]
  rw [hn]
  simp only [SlotRes.ok.injEq]
  rw [List.flatMap_congr fun i hi => by rw [h i hi, Option.getD_some]]

/-- What older values of stored bytes are forgotten touches no memory. -/
@[simp] theorem dropOlder_mem (s : State) (cells : List Host.Cell) : (dropOlder s cells).mem = s.mem := by
  unfold dropOlder; split <;> rfl

/-- A sequencer's store changes memory as the writing of its cells does. -/
@[simp] theorem spmWrite_mem (s : State) (c : Ctx) (cells bits : List Host.Cell) :
    (spmWrite s c cells bits).mem = (writeCells s c.handle cells bits).mem := by
  unfold spmWrite; simp only; split <;> simp

/-- A command's store changes memory as the writing of its cells does. -/
@[simp] theorem cmdStore_mem (s : State) (w : Nat) (cells bits : List Host.Cell) :
    (cmdStore s w cells bits).mem = (writeCells s w cells bits).mem := by simp [cmdStore]

/-- Bytes of a number. -/
@[simp] theorem length_toBytesLE (n x : Nat) : (toBytesLE n x).length = n := by
  induction n generalizing x with
  | zero => rfl
  | succ n ih => simp [toBytesLE, ih]

/-- Marking a word empty empties it and no other. -/
theorem tagFull_setTag_false (s : State) (k j : Nat) :
    tagFull (setTag s k false) j = (tagFull s j && decide (j / 8 ≠ k / 8)) := by
  unfold tagFull setTag
  simp only [Bool.false_eq_true, if_false]
  split
  · rename_i h
    by_cases e : j / 8 = k / 8
    · rw [e, h]; simp
    · simp [e]
  · by_cases e : j / 8 = k / 8
    · rw [e]; simp
    · simp [e]

/-- Marking a word full fills it and changes no other. -/
theorem tagFull_setTag_true (s : State) (k j : Nat) :
    tagFull (setTag s k true) j = (tagFull s j || decide (j / 8 = k / 8)) := by
  unfold tagFull setTag
  simp only [if_true]
  by_cases e : j / 8 = k / 8
  · rw [e]; simp
  · simp [e]

end Sys2Proof.Machine
end

