-- ==== Sys2Proof/Tests/Slice0.lean ====
section
/-!
SUPPORT. The package's own tests: what well-formedness refuses, the words of the spec's encodings, one step of small
states, and for every statement a state and operands that meet its hypotheses, clause by clause.
-/

namespace Sys2Proof.Tests

open Sys2Proof Sys2Proof.Machine Sys2Proof.Safety

-- One theorem after another: many at once would need more memory than a check has.
set_option Elab.async false

/-- The fields of a slot word. -/
abbrev W (w : Word) : Fields := Fields.ofWord w

/-- A sequencer with one bank, full windows and two barrier slots. -/
def seq1 : Ctx :=
  { noCtx with handle := 1, gkey := 1, hdr := { aG := 16, vG := 16, banks := 1, barriers := 2 }, bankList := [0] }

/-- The grid of that sequencer: slot 0 a join slot, slot 1 a barrier of two. -/
def grid1 : Grid :=
  { key := 1, part := 0, kind := .launch, status := .ready, sub := 1, desc := {}, hdr := seq1.hdr, setUp := true,
    nextGang := 1, gangs := [{ index := 0, status := .running, members := [1], bars := [{}, { joinMode := false, target := 2 }] }] }

/-- A part that runs with that sequencer alone, on core 0, which issues it. -/
def with1 (c : Ctx) : State :=
  { State.reset with ctxs := [c], cores := [(0, { cur := some 1 })], grids := [grid1], boot := .running, nextCtx := 2, nextKey := 2 }

/-- The same, with the sequencer as its dispatch leaves it. -/
def one : State := with1 seq1

/-- The first scratchpad byte of the sequencer, as a key. -/
def spm1 : Nat := spmBase + 2 ^ 20

/-- The keys of a run of scratchpad bytes from there. -/
def spmKeys (n : Nat) : List Nat := (List.range n).map (spm1 + ·)

/-! ### The hypotheses of the statements about slot operations -/

/-- Operations that meet the hypotheses of ScalarIntegerOperations. -/
theorem witness_ScalarIntegerOperations :
    (([.add .a0 (W 0x400010010010000), .sub .a0 (W 0x800010010010000), .mul .a0 (W 0xc00010010010000),
   .mulh .a0 (W 0x1000010010010000), .lea .a0 (W 0x5800010010010000), .and .a0 (W 0x1c00010010010000),
   .or .a0 (W 0x2000010010010000), .xor .a0 (W 0x2400010010010000), .sll .a0 (W 0x2800010010010000),
   .srl .a0 (W 0x2c00010010010000), .sra .a0 (W 0x3000010010010000), .min .a0 (W 0x3400010010010000),
   .max .a0 (W 0x3800010010010000), .abs .a0 (W 0x3c00010010000000)] : List Instr).all (issues · one)) = true := by decide

/-- Operations that meet the hypotheses of ScalarDivision. -/
theorem witness_ScalarDivision :
    (([.div .a0 (W 0x1400010010010000), .rem .a0 (W 0x1800010010010000)] : List Instr).all (issues · one)) = true := by decide

/-- Operations that meet the hypotheses of ScalarFieldsAndMoves. -/
theorem witness_ScalarFieldsAndMoves :
    (([.clz .a0 (W 0x4000010010000000), .popc .a0 (W 0x4400010010000000), .ext .a0 (W 0x4800010010000000),
   .xtr .a0 (W 0x4c00010010010000), .ins .a0 (W 0x5000010010010000), .li .a0 (W 0x5400010000000000),
   .sel .a0 (W 0x6000010010010000), .pget .a0 (W 0x7400010010000000), .xfer .a0 (W 0x7800010010000000)] : List Instr).all (issues · one)) = true := by decide

/-- Operations that meet the hypotheses of ScalarFloat. -/
theorem witness_ScalarFloat :
    ((([.fadd .a0 (W 0x7dc0011811811800), .fsub .a0 (W 0x81c0011811811800), .fmul .a0 (W 0x85c0011811811800),
   .fma .a0 (W 0x89c0011811811800), .fdiv .a0 (W 0x8dc0011811811800), .fmin .a0 (W 0x91c0011811811800),
   .fmax .a0 (W 0x95c0011811811800), .fcvt .a0 (W 0x9d4001081180001c), .icvt .a0 (W 0xa140010010800004),
   .icvt .a0 (W 0xa140010810000000), .icvt .a0 (W 0xa140010810000600)] : List Instr).all (issues · one)) = true) ∧
    (W 0xa140010010800004).mod.getLsbD 2 = true ∧ (W 0xa140010810000000).mod.getLsbD 2 = false ∧
    (W 0xa140010810000000).k1 ≠ .imm ∧ (W 0xa140010810000600).k1 = .imm := by decide

/-- Operations that meet the hypotheses of PredicateResults. -/
theorem witness_PredicateResults :
    ((([.cmp .a0 (W 0x5c00010010010000), .fcmp .a0 (W 0x99c0010011811800), .ccmp .c (W 0xa800010017817a80),
   .pand .a0 (W 0x6400010010010000), .por .a0 (W 0x6800010010010000), .pxor .a0 (W 0x6c00010010010000),
   .pset .a0 (W 0x7000010010000000)] : List Instr).all (issues · one)) = true) ∧ 6 ≤ ((W 6).mod.extractLsb' 0 3).toNat := by decide

/-- Operations that meet the hypotheses of VectorIntegerOperations. -/
theorem witness_VectorIntegerOperations :
    ((([.vadd .v0 (W 0x400010010010000), .vsub .v0 (W 0x800010010010000), .vmul .v0 (W 0xc00010010010000),
   .vmulh .v0 (W 0x1000010010010000), .vfma .v0 (W 0x1400010010010000), .vfms .v0 (W 0x1800010010010000),
   .vfnma .v0 (W 0x1c00010010010000), .vmin .v0 (W 0x2000010010010000), .vmax .v0 (W 0x2400010010010000),
   .vabs .v0 (W 0x2800010010000000), .vneg .v0 (W 0x2c00010010000000), .vadds .v0 (W 0x3000010010010000),
   .vsubs .v0 (W 0x3400010010010000), .viota .v0 (W 0xa000010010010000), .vand .v0 (W 0x3800010010010000),
   .vor .v0 (W 0x3c00010010010000), .vxor .v0 (W 0x4000010010010000), .vsll .v0 (W 0x4400010010010000),
   .vsrl .v0 (W 0x4800010010010000), .vsra .v0 (W 0x4c00010010010000), .vclz .v0 (W 0x5000010010000000),
   .vpopc .v0 (W 0x5400010010000000), .vext .v0 (W 0x6800010010010000), .vmov .v0 (W 0x6000010010000000),
   .vli .v0 (W 0x6400010000000000), .vsel .v0 (W 0x5c00010010010000)] : List Instr).all (issues · one)) = true) ∧ ([0x400010010010000, 0x800010010010000, 0xc00010010010000, 0x1000010010010000, 0x1400010010010000, 0x1800010010010000, 0x1c00010010010000, 0x2000010010010000, 0x2400010010010000, 0x2800010010000000, 0x2c00010010000000, 0x3000010010010000, 0x3400010010010000, 0xa000010010010000] : List Word).all (fun w => (W w).fmt = 0) = true := by decide

/-- Operations that meet the hypotheses of VectorFloat. -/
theorem witness_VectorFloat :
    ((([.vadd .v0 (W 0x540010810810800), .vsub .v0 (W 0x940010810810800), .vmul .v0 (W 0xd40010810810800),
   .vfma .v0 (W 0x1540010810810800), .vfms .v0 (W 0x1940010810810800), .vfnma .v0 (W 0x1d40010810810800),
   .vmin .v0 (W 0x2140010810810800), .vmax .v0 (W 0x2540010810810800), .vabs .v0 (W 0x2940010810800000),
   .vneg .v0 (W 0x2d40010810800000), .vscale .v0 (W 0x7540010810810800), .vrnd .v0 (W 0x7140010810800000),
   .vrcp .v0 (W 0x79c0011811800000), .vrsqrt .v0 (W 0x7dc0011811800000), .vexp2 .v0 (W 0x81c0011811800000),
   .vlog2 .v0 (W 0x85c0011811800000), .vcvt .v0 (W 0x6d40010810000000)] : List Instr).all (issues · one)) = true) ∧ ([0x540010810810800, 0x940010810810800, 0xd40010810810800, 0x1540010810810800, 0x1940010810810800, 0x1d40010810810800, 0x2140010810810800, 0x2540010810810800, 0x2940010810800000, 0x2d40010810800000, 0x7540010810810800, 0x7140010810800000, 0x79c0011811800000, 0x7dc0011811800000, 0x81c0011811800000, 0x85c0011811800000] : List Word).all (fun w => (W w).fmt ≠ 0) = true := by decide

/-- Operations that meet the hypotheses of VectorPredicates. -/
theorem witness_VectorPredicates :
    ((([.vcmp .v0 (W 0x5800010010010000), .vcmp .v0 (W 0x5940010010810800), .vpset .v0 (W 0xb400010010000000),
   .vpget .v0 (W 0xb800010010000000), .vfirst .v0 (W 0xbc00010010000000)] : List Instr).all (issues · one)) = true) ∧ (W 0x5800010010010000).fmt = 0 ∧ (W 0x5940010010810800).fmt ≠ 0 := by decide

/-- Operations that meet the hypotheses of VectorAcrossLanes. -/
theorem witness_VectorAcrossLanes :
    ((([.vred .v0 (W 0x8800010010000000), .vscan .v0 (W 0x8c00010010000000), .vperm .v0 (W 0x9000010010010000),
   .vbcast .v0 (W 0x9400010010010080), .vrot .v0 (W 0x9800010010010080), .vslide .v0 (W 0x9c00010010010080),
   .vslide .v0 (W 0x9c00010010010081), .vpack .v0 (W 0xa400010810000001), .vunpack .v0 (W 0xa800010010800001),
   .vdot .v0 (W 0xac00013810010000), .vdotsu .v0 (W 0xb000013810010000)] : List Instr).all (issues · one)) = true) ∧ (W 0x9c00010010010080).mod.getLsbD 0 = false ∧ (W 0x9c00010010010081).mod.getLsbD 0 = true := by decide

/-- Operations that meet the hypotheses of CommonArithmetic. -/
theorem witness_CommonArithmetic :
    ((([.cli .c (W 0x7c00017800000000), .clui .c (W 0x8000017817800000), .cadd .c (W 0x8400017817817a80),
   .csub .c (W 0x8800017817817a80), .cmul .c (W 0x8c00017817817a80), .cand .c (W 0x9000017817817a80),
   .cor .c (W 0x9400017817817a80), .cxor .c (W 0x9800017817817a80), .csll .c (W 0x9c00017817817a80),
   .csrl .c (W 0xa000017817817a80), .csra .c (W 0xa400017817817a80), .cmov .c (W 0xac00017817800200),
   .cpget .c (W 0xb400017800000000), .cpset .c (W 0xb000010017800200)] : List Instr).all (issues · one)) = true) ∧ 48 ≤ ((W 48).mod.extractLsb' 0 6).toNat := by decide
/-- Scratchpad loads from an empty bank: every address is 0, where 64 elements lie in the bank; its last byte is readable
and the next one is not. -/
theorem witness_ScratchpadLoads :
    ([.ld .m0 (W 0x440010810010000), .vldb .m0 (W 0x6840010810010000), .vld .m0 (W 0xc00010010010000),
      .vlds .m0 (W 0x1440010810010000), .vldx .m0 (W 0x1c40010810010000), .gath .m0 (W 0x2440010813800000)]
      : List Instr).all (issues · one) = true ∧
    (spmRead one seq1 0 1).isOk = true ∧ (spmRead one seq1 0x3FFF 1).isOk = true ∧ (spmRead one seq1 0x4000 1).isOk = false ∧
    (List.range 64).all (fun i =>
      (spmRead one seq1 ((fmtOf (W 0xc00010010010000)).span i).1 ((fmtOf (W 0xc00010010010000)).span i).2.1).isOk &&
      (spmRead one seq1 (strideAddr one .m0 (W 0x1440010810010000) i % 2 ^ 32) 1).isOk &&
      decide (indexAddr one .m0 (W 0x1c40010810010000) i < 2 ^ 20) &&
      (spmRead one seq1 (indexAddr one .m0 (W 0x1c40010810010000) i % 2 ^ 32) 1).isOk &&
      (spmRead one seq1 (gatherAddr one .m0 (W 0x2440010813800000) i % 2 ^ 32) 1).isOk) = true := by decide +kernel

/-- Scratchpad stores into an empty bank, vst of a byte format and of a packed one; also the premises that no stored data is
poisoned and that memory is in its form. -/
theorem witness_ScratchpadStores :
    ([.st .m0 (W 0x840010810010000), .vst .m0 (W 0x1040010810010000), .vst .m0 (W 0x1000010010010000),
      .vsts .m0 (W 0x1840010810010000), .vstx .m0 (W 0x2040010810010000), .scat .m0 (W 0x2840010813800000)]
      : List Instr).all (issues · one) = true ∧
    (fmtOf (W 0x1040010810010000)).isByte = true ∧ (fmtOf (W 0x1000010010010000)).isByte = false ∧
    spmRange one seq1 0 1 = some [spm1] ∧ spmKey one seq1 0x3FFF = some (spm1 + 0x3FFF) ∧ spmKey one seq1 0x4000 = none ∧
    ((List.range 64).filter fun i => (guardMask seq1 (W 0x1000010010010000)).getLsbD i).head? = some 0 ∧
    (List.range 64).all (fun i =>
      (spmRange one seq1 i 1).isSome &&
      (spmRange one seq1 ((fmtOf (W 0x1000010010010000)).span i).1 ((fmtOf (W 0x1000010010010000)).span i).2.1).isSome &&
      (spmRange one seq1 (strideAddr one .m0 (W 0x1840010810010000) i) 1).isSome &&
      (spmRange one seq1 (indexAddr one .m0 (W 0x2040010810010000) i) 1).isSome &&
      (spmRange one seq1 (gatherAddr one .m0 (W 0x2840010813800000) i) 1).isSome) = true ∧
    one.poison = [] ∧ Memory.wf one.mem = true := by decide +kernel

/-- Spills, fills, tags and the scale file; the format code 9 is the last legal one. -/
theorem witness_SpillsTagsAndScaleFile :
    ([.spill .m0 (W 0x3c00010010000000), .fill .m0 (W 0x4000010010000000), .vspill .m0 (W 0x4400010010000000),
      .vfill .m0 (W 0x4800010010000000), .tag .m0 (W 0x6c00000010000000), .tagrd .m0 (W 0x7000010010000000),
      .kld .k (W 0x400010017817a80), .kmov .k (W 0x800010000000000), .kbind .k (W 0xc00000017800200),
      .kfmt .k (W 0x1000000017800200), .kfmt .k (W 0x1000000005000600), .kadd .k (W 0x1400010017800200), .ksub .k (W 0x1800010017800200),
      .kli .k (W 0x1c00010010000600), .kclr .k (W 0x2000000000000000)] : List Instr).all (issues · one) = true ∧
    (nibKeys one 0 1).isSome = true ∧ (readNibs one 0 1).isOk = true ∧ (nibKeys one 0x7FFF 1).isSome = true ∧
    (List.range 64).all (fun i => (nibKeys one i 1).isSome && (readNibs one i 1).isOk) = true ∧
    spmRange one seq1 0 8 = some (spmKeys 8) ∧ (spmRead one seq1 0 1).isOk = true ∧
    src64 one .common (W 0x1000000017800200).src1 = 0 ∧ src64 one .imm (W 0x1000000005000600).src1 = 10 := by decide
/-- Reads of the scheduler and of special registers, and writes of special registers; management register 0x40 for the
management sequencer and for another one. -/
theorem witness_SchedulerAndSpecialRegisters :
    ([.frd .c (W 0x5400017817800200), .lvlrd .c (W 0x5800017800000000), .emrd .c (W 0x5c00017800000000),
      .srd .c (W 0x6000017817800400), .estat .e (W 0x3c00017817800200), .swr .c (W 0x640000008f88fc80),
      .swr .c (W 0x6400000107817c80), .swr .c (W 0x6400000147817c80), .swr .c (W 0x6400000207817c80),
      .mpset .e (W 0x800010017800200)] : List Instr).all (issues · one) = true ∧
    (W 0x640000008f88fc80).src1.start = 0x11 ∧ (W 0x6400000107817c80).src1.start = 0x20 ∧
    (W 0x6400000147817c80).src1.start = 0x28 ∧ (W 0x6400000207817c80).src1.start = 0x40 ∧ one.isMgmt seq1 = false ∧
    issues (.swr .c (W 0x6400000207817c80)) (one.setReg (partReg .dvf 0 0) 1) = true ∧
    (one.setReg (partReg .dvf 0 0) 1).isMgmt seq1 = true ∧
    (let c : Ctx := { seq1 with mgmt := some (0x40, 3) }
     (with1 c).ctx? c.handle = some c) := by decide +kernel

/-- A write of DVF_SEL has its effect when it lands (spec/25 R452). -/
theorem test_management_write_lands :
    (let t := landMgmt (with1 { seq1 with mgmt := some (0x40, 3) }) 1
     (t.ctx 1).dvfSel = 3 ∧ (t.ctx 1).mgmt = none) := by decide

/-- GRID is the submission number (spec/25 R450): what srd reads and what DVF_MGMT names. -/
theorem test_grid_is_submission_number :
    (let s : State := { one with grids := [{ grid1 with sub := 0x2C3 }] }
     s.special seq1 0x0A = 0x2C3 ∧ (s.setReg (partReg .dvf 0 0) 0x2C3).isMgmt seq1 = true ∧
     (s.setReg (partReg .dvf 0 0) 1).isMgmt seq1 = false) := by decide

/-- Transfers, and the loop stack: a count of 1 and of 0, five entries and six; a nest of one level, which runs and is
skipped, nests of no level and of seven and one too many; leaving the only level, and one level more than there are. -/
theorem witness_TransfersAndLoops :
    ([.br .c (W 0x400000000000000), .jmp .c (W 0x800000017800200), .ret .c (W 0x1400000017800200),
      .call .c (W 0xc00017800000000), .callc .c (W 0x1000017817800200), .loop .c (W 0x1800000017800000),
      .loopd .c (W 0x1c00000017800200), .loopx .c (W 0x2000000017800200)] : List Instr).all (issues · one) = true ∧
    (let l := List.replicate 5 (⟨1, 0, 0⟩ : LoopEntry)
     let s := with1 { seq1 with loops := l, com := seq1.com.set 2 1 }
     issues (.loop .c (W 0x1800000017800000)) s = true ∧ s.curCtx.loops.length < 6 ∧ 0 < (s.curCtx.common 2).toInt) ∧
    (one.curCtx.loops.length < 6 ∧ (one.curCtx.common 2).toInt ≤ 0) ∧
    (let s := with1 { seq1 with loops := List.replicate 6 ⟨1, 0, 0⟩ }
     issues (.loop .c (W 0x1800000017800000)) s = true ∧ 6 ≤ s.curCtx.loops.length) ∧
    (let s := (one.store spm1 8 1).store (spm1 + 8) 8 2
     issues (.loopd .c (W 0x1c00000017800200)) s = true ∧ (spmRead s s.curCtx 0 8).isOk = true ∧
     (spmRead s s.curCtx 8 8).isOk = true ∧ s.load spm1 8 = 1) ∧
    ([(0, 0), (7, 0), (1, 6), (6, 1)].all fun y =>
       let s := (with1 { seq1 with loops := List.replicate y.2 ⟨1, 0, 0⟩ }).store spm1 8 y.1
       issues (.loopd .c (W 0x1c00000017800200)) s && (spmRead s s.curCtx 0 8).isOk && decide (s.load spm1 8 = y.1) &&
       (decide (y.1 = 0) || decide (y.1 = 7) || decide (6 < s.curCtx.loops.length + y.1))) = true ∧
    (one.curCtx.loops.length < 1) ∧
    (let s := with1 { seq1 with loops := [⟨1, 0, 0⟩] }
     issues (.loopx .c (W 0x2000000017800200)) s = true ∧ 1 ≤ s.curCtx.loops.length) := by decide

/-- A task of the sequencer, started with one loop entry. -/
def task1 : RunTask :=
  { ts := 0, argp := 0, seq := 1, dom := 0, jslot := 0, depth := 0, range := false, parent := 0, ord := false,
    slotIx := 0, takePc := 0, takeReg := 4 }

/-- fork, forkr, take, join and retire, and retire.t with no task and with one; a fork whose slot is no join slot or none, a
take below five loop levels and below six, a join on the wrong slot and in an ordered task. -/
theorem witness_Tasks :
    ([.fork .c (W 0x2400010017800200), .forkr .c (W 0x2800010017800200), .take .c (W 0x3000017800000000),
      .join .c (W 0x2c00000017800200), .retire .c (W 0x3400000000000000), .retireT .c (W 0x3400000017800201)]
      : List Instr).all (issues · one) = true ∧
    (spmRead one seq1 0 32).isOk = true ∧ one.bar? 1 0 0 = some {} ∧ ({} : Barrier).joinMode = true ∧
    one.curCtx.loops.length < 6 ∧
    ([(1, some { joinMode := false, target := 2 }), (2, none), (511, none)].all fun y =>
       let s := one.store spm1 8 (y.1 * 2 ^ 44)
       issues (.fork .c (W 0x2400010017800200)) s && issues (.forkr .c (W 0x2800010017800200)) s &&
       (spmRead s s.curCtx 0 32).isOk && decide (s.load spm1 8 / 2 ^ 44 = y.1) && decide (s.bar? 1 0 y.1 = y.2)) = true ∧
    ([5, 6].all fun n =>
       let s := with1 { seq1 with loops := List.replicate n ⟨1, 0, 0⟩ }
       issues (.take .c (W 0x3000017800000000)) s && decide (s.curCtx.loops.length = n)) = true ∧
    (let s := with1 { seq1 with com := seq1.com.set 2 1 }
     issues (.join .c (W 0x2c00000017800200)) s = true ∧
     s.bar? 1 0 (src64 s .common (W 0x2c00000017800200).src1).toNat = some { joinMode := false, target := 2 }) ∧
    (let s := with1 { seq1 with tasks := [{ task1 with ord := true }] }
     issues (.join .c (W 0x2c00000017800200)) s = true ∧ s.curCtx.inOrdered = true) ∧
    one.curCtx.inOrdered = false ∧ one.curCtx.tasks = [] ∧
    (let s := with1 { seq1 with tasks := [task1] }
     issues (.retireT .c (W 0x3400000017800201)) s = true ∧ s.curCtx.tasks = [task1]) := by decide

/-- Futures full and empty, barriers in either mode, in use and absent, the last arrival and another, a phase that can go on, one
that a lead and one that a command holds back, and the rest. -/
theorem witness_Synchronisation :
    ([.fget .c (W 0x3c00017817800200), .fput .c (W 0x4000000017817a80), .binit .c (W 0x4800000017817a80),
      .phase .c (W 0x4400010000000000), .tkwait .c (W 0x7800000087800200), .yield .c (W 0x3800000000000000)]
      : List Instr).all (issues · one) = true ∧
    spmRange one seq1 0 8 = some (spmKeys 8) ∧ tagKey one seq1 0 = spm1 ∧ tagFull one spm1 = true ∧ (spmRead one seq1 0 8).isOk = true ∧
    (let s : State := { one with emptyTags := [spm1 / 8] }
     issues (.fput .c (W 0x4000000017817a80)) s = true ∧ issues (.fget .c (W 0x3c00017817800200)) s = true ∧
     spmRange s s.curCtx 0 8 = some (spmKeys 8) ∧ tagKey s s.curCtx 0 = spm1 ∧ tagFull s spm1 = false) ∧
    ([(0, some { count := 1 }), (0, some { waiters := 1 }), (2, none)].all fun y =>
       let s : State := { with1 { seq1 with com := seq1.com.map fun _ => BitVec.ofNat 64 y.1 } with
         grids := [{ grid1 with gangs := [{ index := 0, status := .running, members := [1], bars := [(y.2.getD {}), {}] }] }] }
       issues (.binit .c (W 0x4800000017817a80)) s &&
       decide (s.bar? 1 0 (src64 s .common (W 0x4800000017817a80).src1).toNat = y.2)) = true ∧
    (issues (.barrive .c (W 0x4c00000017800200)) one = true ∧ issues (.bwait .c (W 0x5000000017800200)) one = true) ∧
    (let x : Cmd := { cid := 1, instr := .fld .m0 (W 0), ctx := 1, gkey := 1, core := 0, queue := .off 0, token := none, args := [0] }
     let s : State := { one with cmds := [x], nextCid := 2 }
     issues (.phase .c (W 0x4400010000000000)) s = true ∧ s.offBusy s.curCtx = true) ∧
    (let c : Ctx := { seq1 with hdr := { seq1.hdr with stages := 2 }, phase := 3, lead := 1 }
     let s : State := { with1 c with ctxs := [c, { c with handle := 2, stage := 1, phase := 0 }] }
     issues (.phase .c (W 0x4400010000000000)) s = true ∧ leadWaits s s.curCtx = true) ∧
    one.bar? 1 0 0 = some {} ∧ leadWaits one seq1 = false ∧ one.offBusy seq1 = false ∧
    (let s := with1 { seq1 with com := seq1.com.set 2 1 }
     issues (.barrive .c (W 0x4c00000017800200)) s = true ∧ issues (.bwait .c (W 0x5000000017800200)) s = true ∧
     s.bar? 1 0 (src64 s .common (W 0x5000000017800200).src1).toNat = some { joinMode := false, target := 2 }) := by decide +kernel

/-- ecall, trap, dbrk with and without a debug owner, uret with and without an active trap. -/
theorem witness_StopsAndReturn :
    ([.ecall .c (W 0x6800000000000000), .trap .c (W 0x6c00000000000000), .dbrk .c (W 0x7400000010000600),
      .uret .c (W 0x7000000000000000)] : List Instr).all (issues · one) = true ∧
    one.dbgActive 0 = false ∧ seq1.trapInfo.getLsbD 63 = false ∧
    (let s : State := { one.setReg (redReg 0 0) 4 with claims := [⟨72, true, 1, none, none⟩] }
     issues (.dbrk .c (W 0x7400000010000600)) s = true ∧ s.dbgActive 0 = true) ∧
    (let s := with1 { seq1 with trapInfo := 1 <<< 63 }
     issues (.uret .c (W 0x7000000000000000)) s = true ∧ s.curCtx.trapInfo.getLsbD 63 = true) := by decide

/-- Off-core and engine commands enter empty queues, and a queue of 15 entries takes its last. -/
theorem witness_CommandsIssue :
    ([.fld .m0 (W 0x2c40087810010000), .fst .m0 (W 0x3040087810810800), .fldv .m0 (W 0x3400087810010000),
      .fstv .m0 (W 0x3800087810010000), .amo .m0 (W 0x4cc0087813813800), .amocas .m0 (W 0x50c0087813813800),
      .probe .m0 (W 0x5400087810010000), .cwb .m0 (W 0x5800000010010000), .cinv .m0 (W 0x5c00000010010000),
      .cwbi .m0 (W 0x6000000010010000), .qfence .m0 (W 0x6400000000000000), .mcall .e (W 0x400087817800200),
      .mload .e (W 0xc00087817800200), .smcopy .e (W 0x1000087817800200), .ncopy .e (W 0x1400087817800200),
      .egath .e (W 0x1800087817800200), .escat .e (W 0x1c00087817800200), .mcast .e (W 0x2000087817800200),
      .mcastb .e (W 0x2400087817800200), .coll .e (W 0x2800087817800200), .tnld .e (W 0x2c00087817800200),
      .tnst .e (W 0x3000087817800200), .tnpf .e (W 0x3400087817800200), .emit .e (W 0x3800087817800200),
      .accld .e (W 0x4000087817800200), .accst .e (W 0x4400087817800200), .adrain .e (W 0x4800087817800200),
      .aclr .e (W 0x4c00000017817a80), .ecancel .e (W 0x5000087817800200), .ebar .e (W 0x5400087817800200)]
      : List Instr).all (issues · one) = true ∧
    one.queueLen 0 (.off 0) = 0 ∧ one.queueLen 0 .mq = 0 ∧ one.mySlot seq1 = none ∧ one.isSpec seq1 = false ∧
    rangeHit seq1 0 = none ∧ one.cmds = [] ∧ (spmRead one seq1 0 72).isOk = true ∧
    (let x : Cmd := { cid := 1, instr := .fld .m0 (W 0), ctx := 2, gkey := 1, core := 0, queue := .off 0, token := none, args := [] }
     let s : State := { one with cmds := List.replicate 15 x }
     s.queueLen 0 (.off 0) < 16 ∧ issues (.fld .m0 (W 0x2c40087810010000)) s = true) := by decide
/-! ### The hypotheses of the statements about every operation -/

/-- An add and a br whose guard p1 is clear. -/
theorem witness_DisabledOperations :
    ([.add .a0 (W 0x0400810010010000), .br .c (W 0x0400800000000000)] : List Instr).all
      (fun i => passes i && inWindow i one && !guardOn i one) = true := by decide

/-- An add with sat 11 fails its own rule; an add whose slices end one above a window of 16 slices. -/
theorem witness_FailingWords :
    (wordFail (.add .a0 (W 0x40001001001000c)) ((opInfo (.add .a0 (W 0))).getD { cls := .a, code := 0 })
      (W 0x40001001001000c) = some 0) ∧
    (opInfo (.add .a0 (W 0x400080808080000))).isSome = true ∧
    (let f : Fields := { W 0x400010010010000 with dst := ⟨16, 0⟩ }
     let s := with1 { seq1 with hdr := { seq1.hdr with aG := 1 } }
     wordFail (.add .a0 f) ((opInfo (.add .a0 f)).getD { cls := .a, code := 0 }) f = none ∧
     (sliceFail s.curCtx none (.add .a0 f) ((opInfo (.add .a0 f)).getD { cls := .a, code := 0 }) .a0 f).isSome = true) := by
  decide

/-- A tkwait of c16 while c16 is a pending token. -/
theorem witness_PendingTokens :
    (let s := with1 { seq1 with tokPend := 1 <<< 16 }
     let i : Instr := .tkwait .c (W 0x7800000087800200)
     slotInstr i && passes i && inWindow i s && guardOn i s && !tokensFree i s) = true := by decide

/-- An add, a vadd, a kmov and a cadd. -/
theorem witness_ResultsOnlyGoInFlight :
    ([.add .a0 (W 0x400010010010000), .vadd .v0 (W 0x400010010010000), .kmov .k (W 0x800010000000000),
      .cadd .c (W 0x8400017817817a80)] : List Instr).all (fun i => computes i && issues i one) = true := by decide

/-- The premises that no stored data is poisoned and that memory is in its form; the rest are those of ScratchpadStores and
SpillsTagsAndScaleFile. -/
theorem witness_StoresKeepOtherBytes :
    memoryOk one ∧ one.poison = [] ∧
    ([.st .m0 (W 0x840010810010000), .vst .m0 (W 0x1040010810010000), .vst .m0 (W 0x1000010010010000),
      .vsts .m0 (W 0x1840010810010000), .vstx .m0 (W 0x2040010810010000), .scat .m0 (W 0x2840010813800000),
      .spill .m0 (W 0x3c00010010000000), .vspill .m0 (W 0x4400010010000000), .tag .m0 (W 0x6c00000010000000)]
      : List Instr).all (issues · one) = true ∧
    (nibKeys one 0 1).isSome = true ∧ spmRange one seq1 0 8 = some (spmKeys 8) :=
  ⟨by decide, by decide, by decide, by decide, by decide⟩

/-- The least failing lane of a lane-wise access. -/
def badLane (ok : Nat → Bool) : Option Nat := (List.range 64).find? fun j => !ok j

/-- Accesses of a sequencer without a bank: of one address, of each lane, of nibbles, and of the words of a loop nest past the end
of its only bank. -/
theorem witness_ScratchpadRange :
    (let s := with1 { seq1 with hdr := { seq1.hdr with banks := 0 } }
     let c := s.curCtx
     ([.ld .m0 (W 0x440010810010000), .vldb .m0 (W 0x6840010810010000), .st .m0 (W 0x840010810010000),
       .tag .m0 (W 0x6c00000010000000), .tagrd .m0 (W 0x7000010010000000), .kld .k (W 0x400010017817a80),
       .fget .c (W 0x3c00017817800200), .fput .c (W 0x4000000017817a80), .loopd .c (W 0x1c00000017800200),
       .fork .c (W 0x2400010017800200), .forkr .c (W 0x2800010017800200), .vld .m0 (W 0xc00010010010000),
       .vlds .m0 (W 0x1440010810010000), .vldx .m0 (W 0x1c40010810010000), .gath .m0 (W 0x2440010813800000),
       .vst .m0 (W 0x1040010810010000), .vst .m0 (W 0x1000010010010000), .vsts .m0 (W 0x1840010810010000),
       .vstx .m0 (W 0x2040010810010000), .scat .m0 (W 0x2840010813800000), .spill .m0 (W 0x3c00010010000000),
       .fill .m0 (W 0x4000010010000000), .vspill .m0 (W 0x4400010010000000), .vfill .m0 (W 0x4800010010000000)]
       : List Instr).all (issues · s) = true ∧
     spmRange s c 0 1 = none ∧ spmRange s c 0 8 = none ∧ spmRange s c 0 32 = none ∧ nibKeys s 0 1 = none ∧
     guardMask c (W 0xc00010010010000) = BitVec.allOnes 64 ∧
     badLane (fun i => (spmRead s c ((fmtOf (W 0xc00010010010000)).span i).1 ((fmtOf (W 0xc00010010010000)).span i).2.1).isOk) = some 0 ∧
     badLane (fun i => (spmRead s c (strideAddr s .m0 (W 0x1440010810010000) i % 2 ^ 32) 1).isOk) = some 0 ∧
     badLane (fun i => (spmRead s c (indexAddr s .m0 (W 0x1c40010810010000) i % 2 ^ 32) 1).isOk) = some 0 ∧
     badLane (fun i => (spmRead s c (gatherAddr s .m0 (W 0x2440010813800000) i % 2 ^ 32) 1).isOk) = some 0 ∧
     badLane (fun i => (spmRange s c i 1).isSome) = some 0 ∧
     badLane (fun i => (spmRange s c ((fmtOf (W 0x1000010010010000)).span i).1 ((fmtOf (W 0x1000010010010000)).span i).2.1).isSome) = some 0 ∧
     badLane (fun i => (spmRange s c (strideAddr s .m0 (W 0x1840010810010000) i) 1).isSome) = some 0 ∧
     badLane (fun i => (spmRange s c (indexAddr s .m0 (W 0x2040010810010000) i) 1).isSome) = some 0 ∧
     badLane (fun i => (spmRange s c (gatherAddr s .m0 (W 0x2840010813800000) i) 1).isSome) = some 0 ∧
     badLane (fun i => (nibKeys s i 1).isSome) = some 0 ∧ badLane (fun i => (readNibs s i 1).isOk) = some 0 ∧
     (List.range 64).all (fun i => decide (indexAddr s .m0 (W 0x1c40010810010000) i < 2 ^ 20)) = true) ∧
    (let s := (with1 { seq1 with com := seq1.com.map fun _ => 0x3FF8 }).store (spm1 + 0x3FF8) 8 6
     let c := s.curCtx
     issues (.loopd .c (W 0x1c00000017800200)) s = true ∧ (spmRead s c 0x3FF8 8).isOk = true ∧ s.load (spm1 + 0x3FF8) 8 = 6 ∧
     c.loops = [] ∧ spmRange s c 0x4000 48 = none) ∧
    (let s := with1 { seq1 with vec0 := Vector.replicate 64 (BitVec.allOnes 1024), scal0 := BitVec.allOnes 1024 }
     ([0x1c40010810010000, 0x2040010810010000].all fun w =>
       let f : Fields := { W w with src2 := ⟨0, 5⟩ }
       issues (if w = 0x1c40010810010000 then .vldx .m0 f else .vstx .m0 f) s &&
       badLane (fun i => decide (indexAddr s .m0 f i < 2 ^ 20)) == some 0) = true) ∧
    (let s : State := { one with poison := [eccBase spm1] }
     (match spmRead s s.curCtx 0 1 with | .poison b => b == 0 | _ => false) = true ∧ s.isSpec s.curCtx = false) := by decide +kernel

/-- A result for `file`, of the widest operand, that starts at `start` in a region of `wrap` slices, with `n` bundles to go. -/
def res1 (file : FileId) (start wrap n : Nat) : Flight :=
  { file := file, start := start, width := 16, wrap := wrap, lanes := [7], mask := 1, remaining := n, age := 0, slot := 0, rep := 0 }

/-- Results of each file, at the top of the file and across the end of the smallest and the largest region, of latency 1; two that
land together, by age, slot and repetition, and one that lands before another. -/
theorem witness_ResultsLand :
    noCtx.flight = [] ∧
    ([res1 (.scal false) 240 0 1, res1 (.scal true) 0 0 1, res1 (.vec false) 240 0 1, res1 (.vec true) 8 16 1,
      res1 (.vec false) 255 256 12, res1 .common 31 0 1, res1 .pred 0 0 1, res1 .pred 47 0 1, res1 .scale 15 0 3, res1 .scale 16 0 1,
      res1 .special 0x87 0 1, res1 .special 0x11 0 1, res1 .special 0x20 0 1, res1 .special 0x28 0 1, res1 .special 0x29 0 1].all
      fun x => decide (0 < x.remaining) && decide (x.width ≤ 16) &&
        (decide (x.wrap = 0 ∧ x.start + x.width ≤ 256) || decide (16 ≤ x.wrap ∧ x.wrap ≤ 256))) = true ∧
    (res1 .common 4 0 1).remaining < (res1 .common 4 0 3).remaining ∧
    ([({ res1 .common 4 0 2 with age := 1 }, res1 .common 4 0 2), (res1 .common 4 0 2, { res1 .common 4 0 2 with slot := 8 }),
      (res1 .common 4 0 2, { res1 .common 4 0 2 with rep := 1 })].all fun (y : Flight × Flight) =>
      decide (y.1.remaining = y.2.remaining) && (decide (y.2.age < y.1.age) || decide (y.2.age = y.1.age) &&
        (decide (y.1.slot < y.2.slot) || decide (y.1.slot = y.2.slot ∧ y.1.rep < y.2.rep)))) = true := by decide

/-- The widest operand at the top of a lane; a sequencer at the end of a bundle with and without LEND, with a base that the bundle
itself writes in flight, and without. -/
theorem witness_RotatingBases :
    63 < 64 ∧ 240 + 16 ≤ 256 ∧ one.ctx? 1 = some seq1 ∧ seq1.status = .ready ∧ seq1.leave = none ∧ seq1.flight = [] ∧
    hdrLend 0 = false ∧ hdrLend 0x200 = true ∧
    (let c : Ctx := { seq1 with flight := [res1 .special 0x29 0 1] }
     (with1 c).ctx? 1 = some c ∧ c.flight = [res1 .special 0x29 0 1] ∧ (res1 .special 0x29 0 1).age = 0 ∧
     (res1 .special 0x29 0 1).lanes = [7]) ∧
    (let c : Ctx := { seq1 with flight := [{ res1 .special 0x28 0 1 with age := 1 }] }
     (with1 c).ctx? 1 = some c ∧ c.flight.all (fun x => decide (x.age ≠ 0)) = true) := by decide +kernel

/-- A bundle without LEND with no transfer and at a transfer's last shadow bundle; one with LEND before and at its
count, one that has pushed an entry of its own, and one that leaves. -/
theorem witness_BundleEnds :
    one.ctx? 1 = some seq1 ∧ seq1.status = .ready ∧ seq1.nextPc = none ∧ hdrLend 0 = false ∧ seq1.pend = false ∧
    (let c : Ctx := { seq1 with pend := true, shl := 1 }
     (with1 c).ctx? 1 = some c ∧ c.pend = true ∧ c.shl = 1) ∧
    hdrLend 0x200 = true ∧
    (let c : Ctx := { seq1 with loops := [⟨2, 0, 0⟩] }
     (with1 c).ctx? 1 = some c ∧ c.loops = [⟨2, 0, 0⟩] ∧ (0#32).toNat + 1 < (2#32).toNat ∧ (2#32).toNat ≤ (1#32).toNat + 1) ∧
    (let c : Ctx := { seq1 with loops := [⟨1, 0, 0⟩, ⟨2, 1, 0⟩] }
     (with1 c).ctx? 1 = some c ∧ c.loops = [⟨1, 0, 0⟩] ++ ⟨2, 1, 0⟩ :: []) ∧
    ([Leave.retire, Leave.yield].all fun l => decide ((with1 { seq1 with leave := some l }).ctx? 1 = some { seq1 with leave := some l }))
      = true := by
  decide +kernel

/-- A context with a trap handler, one without, and the handle that finds it. -/
theorem witness_TrapEntry :
    (one.ctx? 1 = some seq1 ∧ seq1.mgmt = none ∧ (with1 { seq1 with mgmt := some (0x40, 3) }).ctx? 1 =
      some { seq1 with mgmt := some (0x40, 3) }) ∧
    one.ctx? 1 = some seq1 ∧ seq1.trapInfo.getLsbD 63 = false ∧ seq1.shl = 0 ∧ seq1.trapVec = 0 ∧
    (with1 { seq1 with trapVec := 64 }).ctx? 1 = some { seq1 with trapVec := 64 } ∧ (64 : PC) ≠ 0 := by decide +kernel

/-- A memory in its form. -/
theorem witness_MemoryCells : memoryOk (one.store spm1 8 0x0100) := by decide

/-- Two memories in their form. -/
theorem witness_MemoryIsCanonical :
    Memory.wf [(5, 1), (9, 2)] = true ∧ ∀ a, memGet [(5, 1), (9, 2)] a = memGet [(5, 1), (9, 2)] a := ⟨by decide, fun _ => rfl⟩

/-- An agenda whose head happens, one whose head does not, and an empty one. -/
theorem witness_StepRunsWhatComesNext :
    (∃ t, exec (.hostLinkDown 0) { State.reset with agenda := [] } = .next t) ∧
    (∃ r, exec .leaseExpiry { State.reset with agenda := [] } = .refused r) ∧ State.reset.agenda = [] :=
  ⟨⟨_, rfl⟩, ⟨_, rfl⟩, rfl⟩

/-- Well-formed operations, a micro-op, a word that decodes and a bundle. -/
theorem witness_DecodeEncode :
    ([.add .a0 (W 0x400010010010000), .vfma .v0 (W 0x1540010810810800), .retireT .c (W 0x3400000017800201)]
      : List Instr).all Instr.wf = true ∧
    Instr.wf (.uopMad 3 ⟨1, 2, 3, 0, 0, 0, 0, 0, 7⟩) = true ∧ (decodeSlot .a0 0x400010010010000).isSome = true ∧
    (let b : Bundle := ⟨0x000FF002, none, [(.a0, 0x400010010010000)]⟩
     b.words.map (·.1) = Pos.all.filter (hdrPres b.header) ∧ b.rpt.isSome = hdrRpt b.header) := by decide

/-! ### The hypotheses of the statements about issue -/

/-- A meaning that takes effect. -/
def takesEffect (r : SlotRes) : Bool := match r with | .ok _ => true | _ => false

/-- What that says. -/
theorem takesEffect_iff (r : SlotRes) : takesEffect r = true ↔ ∃ w, r = .ok w := by
  cases r <;> simp [takesEffect]

/-- The part with one bundle placed: a header and a slot word. -/
def placed (header word : Nat) : State := State.reset.withFetchWord 96 (header + word * 2 ^ 32)

/-- The sequencer that it issues. -/
def placedCtx (s : State) : Ctx := (pick s 0).getD noCtx

/-- The context before the slots take effect. -/
def ticked (s : State) (c : Ctx) (header : BitVec 32) : State :=
  let t0 := (landMgmt (issuing s 0 c) c.handle).modCtx c.handle tickFlight
  t0.modCtx c.handle fun d =>
    { d with view := some (takeView t0 d (bundleLen header)), began := some (decide (c.shl ≠ 0), c.loops.length) }

/-- A bundle stands at the pc, with nothing to come before it. -/
def freshCheck (s : State) (b : Bundle) : Bool :=
  let c := placedCtx s
  decide (pick { s with cur := 0 } 0 = some c) && decide ((s.island 0).stage ≠ 2) && decide (c.killCause = none) &&
  decide (c.barWait = none) && !c.redirecting && !c.pend && decide (c.done = 0) && !c.partBundle &&
  (match fetchBytes (issuing s 0 c) c c.pc.toNat 4 with
   | some hb => match fetchBytes (issuing s 0 c) c c.pc.toNat (bundleLen (BitVec.ofNat 32 (ofBytesLE hb))) with
     | some bs => decide (decodeBundle bs = .ok (b, [])) && !breaksAt (issuing s 0 c) c.core c.pc 15
     | none => false
   | none => false)

/-- An add alone in its bundle. -/
def addBundle : Bundle := ⟨0x000FF002, none, [(.a0, 0x400010010010000)]⟩

/-- The add of that bundle. -/
def addOp : Instr := .add .a0 (W 0x400010010010000)

/-- The bundle of an add meets every hypothesis, and so does its only operation. -/
theorem witness_BundleIssues :
    (let s := placed 0x000FF002 0x400010010010000
     let c := placedCtx s
     let t := ticked s c 0x000FF002
     let all := addBundle.words.filterMap slotIn
     let xs := all.map fun x => (x, stepInstr none c.rep x, slotFate t (stepInstr none c.rep x))
     freshCheck s addBundle &&
     decide (reported (headerRows addBundle ++ slotRows addBundle ++ bundleRows addBundle all false c.loops.isEmpty) = none) &&
     let ct := t.ctx c.handle
     decide (ct.flight.length + (xs.map (newResults ct (t.isSpec ct))).sum ≤ 32) &&
     all.all (fun x => decide (sliceFail ct none x.i x.info x.p x.f = none)) && xs.all (fun x => takesEffect x.2.2) &&
     (firstStop t ct xs).isNone &&
     (match commitAll c.handle t xs with | .ok _ => true | .error _ => false)) = true := by decide +kernel

/-- A bundle without slots. -/
theorem witness_BundleIssues_empty :
    (let s := placed 0x000FF000 0
     let c := placedCtx s
     freshCheck s ⟨0x000FF000, none, []⟩ &&
     decide (reported (headerRows ⟨0x000FF000, none, []⟩ ++ slotRows ⟨0x000FF000, none, []⟩ ++
       bundleRows ⟨0x000FF000, none, []⟩ [] false c.loops.isEmpty) = none)) = true := by decide +kernel

/-- The add by itself, over the tokens that were pending. -/
theorem witness_OneSlotCommits :
    (let s := placed 0x000FF002 0x400010010010000
     let c := placedCtx s
     let t := ticked s c 0x000FF002
     let t1 := t.modCtx c.handle fun d => { d with tokPend := (t.ctx c.handle).tokPend }
     passes addOp && inWindow addOp t1 && takesEffect (semOf addOp t1)) = true := by decide +kernel

/-- And the step that runs it. -/
theorem witness_StepRunsTheDecodedOperation :
    (let s := placed 0x000FF002 0x400010010010000
     let c := placedCtx s
     let t := ticked s c 0x000FF002
     let ct := t.ctx c.handle
     decide (s.agenda = []) && decide (s.cur = 0) && freshCheck s addBundle &&
     (match slotIn (.a0, 0x400010010010000) with
      | some x => decide (x.i = addOp) && decide (stepInstr none c.rep x = addOp) &&
          decide (reported (headerRows addBundle ++ slotRows addBundle ++ bundleRows addBundle [x] false c.loops.isEmpty) = none) &&
          decide (sliceFail ct none x.i x.info x.p x.f = none) && takesEffect (slotFate t addOp) &&
          passes addOp && inWindow addOp (t.modCtx c.handle fun d => { d with tokPend := ct.tokPend }) &&
          takesEffect (semOf addOp (t.modCtx c.handle fun d => { d with tokPend := ct.tokPend })) &&
          decide (ct.flight.length + newResults ct (t.isSpec ct) (x, addOp, slotFate t addOp) ≤ 32) &&
          (firstStop t ct [(x, addOp, slotFate t addOp)]).isNone
      | none => false)) = true := by decide +kernel

/-- The fates of the slots of a bundle of one word of slot C, which stands at the pc. -/
def fatesOf (s : State) (b : Bundle) : List (SlotIn × Instr × SlotRes) :=
  let t := ticked s (placedCtx s) b.header
  (b.words.filterMap slotIn).map fun x => (x, stepInstr b.rpt (placedCtx s).rep x, slotFate t (stepInstr b.rpt (placedCtx s).rep x))

/-- The checks before a bundle's commit find nothing. -/
def cleanCheck (s : State) (b : Bundle) : Bool :=
  let c := placedCtx s
  let t := ticked s c b.header
  let ct := t.ctx c.handle
  let all := b.words.filterMap slotIn
  freshCheck s b && decide (reported (headerRows b ++ slotRows b ++ bundleRows b all (decide (c.shl ≠ 0)) c.loops.isEmpty) = none) &&
  all.all (fun x => decide (sliceFail ct b.rpt x.i x.info x.p x.f = none)) &&
  decide (ct.flight.length + ((fatesOf s b).map (newResults ct (t.isSpec ct))).sum ≤ 32)

/-- A bundle of one word of slot C, which has the common read port. -/
def cBundle (word : Word) : Bundle := ⟨0x000F0001, none, [(.c, word)]⟩

/-- That bundle, placed, its sequencer and its part changed. -/
def cPlaced (word : Nat) (c : Ctx → Ctx := id) : State :=
  let s := placed 0x000F0001 word
  s.modCtx (placedCtx s).handle c

/-- How often a bundle's slot comes to an illegal bundle. -/
def illegals (xs : List (SlotIn × Instr × SlotRes)) : Nat := xs.countP fun x => x.2.2 matches .illegal

/-- A cmov while every token is pending, a tkwait, an fget of an empty future, and a loopx with no loop. -/
theorem witness_BundleWaits :
    (let s := cPlaced 0xac00017817800200 fun c => { c with tokPend := -1 }
     let b := cBundle 0xac00017817800200
     cleanCheck s b && (firstStall (fatesOf s b) true).isSome && !(placedCtx s).yieldReq) = true ∧
    (let s := cPlaced 0x7800000087800200 fun c => { c with tokPend := 1 <<< 16 }
     let b := cBundle 0x7800000087800200
     cleanCheck s b && (firstStall (fatesOf s b) true).isNone && (firstStall (fatesOf s b) false).isSome &&
     illegals (fatesOf s b) == 0 && !(placedCtx s).yieldReq) = true ∧
    (let s0 := cPlaced 0x3c00017817800200
     let b := cBundle 0x3c00017817800200
     let s : State := { s0 with emptyTags := [tagKey s0 (placedCtx s0) 0 / 8] }
     cleanCheck s b && (firstStall (fatesOf s b) false).isNone && illegals (fatesOf s b) == 0 &&
     (fatesOf s b).all fun x => match x.2.2 with | .utrap a => a == 0 | _ => false) = true ∧
    (let s := cPlaced 0x2000000017800200
     let b := cBundle 0x2000000017800200
     cleanCheck s b && (firstStall (fatesOf s b) true).isNone && (fatesOf s b).length == 1 && illegals (fatesOf s b) == 1) = true := by
  decide +kernel

/-- What a core's issue is: issued, of an empty bundle, completing a phase. -/
def issuedAs (s : State) : Option (Bool × Bool) := match issueOn s 0 with | .issued _ e ph => some (e, ph) | _ => none

/-- A result in flight that lands next. -/
def dueNext : Flight := { res1 .common 4 0 1 with width := 16 }

/-- A bundle issues with a result due or with a management write in flight, on a core that stalled, without slots, and with a phase
alone, before which nothing stands. -/
theorem witness_IssueEvents :
    (let s := placed 0x000FF002 0x400010010010000
     let h := (placedCtx s).handle
     let s1 := s.modCtx h fun c => { c with flight := [dueNext] }
     let s2 := s.setCore 0 { s.core 0 with stalled := true }
     let s3 := (placed 0x000FF000 0).modCtx h fun c => { c with mgmt := some (0x40, 3) }
     (issuedAs s1).isSome && (placedCtx s1).flight.any (fun x => decide (x.remaining ≤ 1)) &&
     (issuedAs s2).isSome && (s2.core 0).stalled && cleanCheck s3 ⟨0x000FF000, none, []⟩ && (placedCtx s3).mgmt.isSome &&
     decide (issuedAs (placed 0x000FF000 0) = some (true, false)) &&
     decide (issuedAs (cPlaced 0x4400010000000000) = some (false, true))) = true ∧
    (let s := cPlaced 0x4400010000000000
     let c := placedCtx s
     let t := ticked s c 0x000F0001
     cleanCheck s (cBundle 0x4400010000000000) && !t.dbgActive (clusterOf (t.ctx c.handle).core) &&
     (fatesOf s (cBundle 0x4400010000000000)).all (fun x => x.2.1 matches .phase _ _) &&
     ((cBundle 0x4400010000000000).words.filterMap slotIn).all (fun x => enabled (t.ctx c.handle) x.f) &&
     [t, t.modCtx c.handle fun d => { d with tokPend := (t.ctx c.handle).tokPend }].all fun v =>
       issues (.phase .c (W 0x4400010000000000)) v && !leadWaits v v.curCtx && !v.offBusy v.curCtx) = true := by decide +kernel

/-! ### The hypotheses of the statements about events -/

/-- A call of writable routine 32 with parameters of zero and the reset scale binding (both operands T8, the output FP32). -/
def call1 : Cmd :=
  { cid := 1, instr := .mcall .e (W 0x400087817800200), ctx := 1, gkey := 1, core := 0, queue := .mq, token := some 16,
    args := 32 :: List.replicate 8 0 ++ [0x00966210, 0, 0, 0], started := true }

/-- Core 0 has come to a micro-op of that routine, its registers ix0, ix1, ... as listed. -/
def atUop (op : Nat) (u : MicroOp) (ix : List (BitVec 32)) (waiting : Option BarWait) : State :=
  let s : State := { with1 { seq1 with com := seq1.com } with cmds := [call1] }
  s.setCore 0 { s.core 0 with
    store := [{ index := 32, gkey := 1, ops := [u.toWord op] }]
    run := some { cid := 1, index := 32, upc := 0, waiting := waiting,
                  ix := (ix.foldl (fun (a : Vector (BitVec 32) 8 × Nat) v => (a.1.setIfInBounds a.2 v, a.2 + 1))
                    (Vector.replicate 8 0, 0)).1 } }

/-- The run of core 0's routine, and the state that a micro-op of it finds. -/
def runOf (s : State) : EngineRun := ((s.core 0).run).getD { cid := 0, index := 0, upc := 0 }
def foundAt (s : State) : State := setRun s 0 (some (runOf s))

/-- The core is at that micro-op, in a grid that no fatal error has ended, with no clock stopped and no DRN running. -/
def isAt (s : State) (i : Instr) (x : Cmd := call1) : Bool :=
  let r := runOf s
  !s.clockStopped 0 && decide ((s.core 0).run = some r) && decide (s.cmd? r.cid = some x) && !s.gridKilled x.gkey &&
  !(s.islands.any fun x => x.2.stage == 2) && r.drains.isEmpty &&
  (match (s.core 0).store.find? fun y => y.index == r.index with
   | some y => decide ((y.ops[r.upc]?).bind (uopOf 0) = some i)
   | none => false)

/-- What that says, in the terms of the statement. -/
theorem isAt_meets {s : State} {i : Instr} {x : Cmd} (h : isAt s i x = true) :
    uopAt s 0 i (runOf s) x ∧ s.gridKilled x.gkey = false ∧ noneStopped s ∧ landRows s x (runOf s).drains = (s, none) ∧
    ∀ all, uopFinds s 0 (runOf s) x all (foundAt s) (runOf s) := by
  simp only [isAt, Bool.and_eq_true, Bool.not_eq_true', decide_eq_true_eq, List.isEmpty_iff] at h
  obtain ⟨⟨⟨⟨⟨⟨h1, h2⟩, h3⟩, h4⟩, h5⟩, h6⟩, h7⟩ := h
  refine ⟨⟨h1, h2, h3, ?_⟩, h4, h5, by simp [h6, landRows], fun all => ⟨h5, by cases hr : runOf s; simp_all, s, by simp [h6, landRows], rfl⟩⟩
  split at h7
  · exact ⟨_, by assumption, of_decide_eq_true h7⟩
  · exact absurd h7 (by simp)

/-- Fields of a micro-op that names ix0 to ix5 in order. -/
def uop (flags : BitVec 7) (imm : BitVec 32) : MicroOp := ⟨0, 1, 2, 3, 4, 5, 0, flags, imm⟩

/-- The micro-ops of the registers and of the routine's flow: a count of zero, one and two. -/
theorem witness_MicroOps :
    ([(0, Instr.uopEnd 0 (uop 0 0)), (1, .uopNop 0 (uop 0 0))].all fun y => isAt (atUop y.1 (uop 0 0) [] none) y.2) = true ∧
    isAt (atUop 2 (uop 0 5) [] none) (.uopSeti 0 (uop 0 5)) = true ∧ isAt (atUop 3 (uop 0 0) [] none) (.uopSetp 0 (uop 0 0)) = true ∧
    isAt (atUop 4 (uop 0 7) [] none) (.uopMad 0 (uop 0 7)) = true ∧
    ([0, 1].all fun n => let s := atUop 5 (uop 0 3) [n] none
      isAt s (.uopLoop 0 (uop 0 3)) && decide ((runOf s).reg 0 = n)) = true ∧
    ([0, 1, 2].all fun n =>
      let s0 := atUop 6 (uop 0 3) [] none
      let s := setRun s0 0 (some { runOf s0 with lc := (runOf s0).lc.setIfInBounds 0 n })
      isAt s (.uopEndl 0 (uop 0 3)) && decide ((runOf s).lc[0]?.getD 0 = n)) = true := by decide +kernel

/-- LDW from a scratchpad that it can read, both dense and sparse spans, MMA at the last row and column of the accumulators and of no
row, and each where a format is no format or a limit is passed. -/
theorem witness_MicroOps_matrix :
    ([0, 4].all fun fl =>
      let s := atUop 7 (uop fl 0) [] none
      let k := callCtx (foundAt s) call1
      isAt s (.uopLdw 0 (uop fl 0)) && k.fmtsOk &&
      (match (List.range (if fl.getLsbD 2 then 128 else 64)).mapM fun kk => (List.range 64).mapM fun nn =>
         ldwElem { foundAt s with loose := [] } k (uop fl 0) 0 0 0 0 0 kk nn with | .ok _ => true | .error _ => false)) = true ∧
    (let s := atUop 8 (uop 0 0) [0, 0, 1, 127, 128] none
     let k := callCtx (foundAt s) call1
     let r := runOf s
     isAt s (.uopMma 0 (uop 0 0)) && k.fmtsOk && decide ((r.reg 2).toNat = 1) && decide ((r.reg 3).toNat + 1 ≤ 128) &&
     decide ((r.reg 4).toNat + r.wb0.validN ≤ 128) &&
     (match mmaTile { foundAt s with loose := [] } k r (uop 0 0) r.wb0 with | .ok _ => true | .error _ => false)) = true ∧
    (let s := atUop 8 (uop 0 0) [] none
     isAt s (.uopMma 0 (uop 0 0)) && (callCtx (foundAt s) call1).fmtsOk && decide (((runOf s).reg 2).toNat = 0)) = true ∧
    ([[0, 0, 1, 128, 0], [0, 0, 1, 0, 129]].all fun ix =>
      let s := atUop 8 (uop 0 0) ix none
      let r := runOf s
      isAt s (.uopMma 0 (uop 0 0)) && decide (0 < (r.reg 2).toNat) &&
      (decide (128 < (r.reg 3).toNat + (r.reg 2).toNat) || decide (128 < (r.reg 4).toNat + r.wb0.validN))) = true ∧
    ([(7, Instr.uopLdw 0 (uop 0 0)), (8, .uopMma 0 (uop 0 0))].all fun y =>
      let x : Cmd := { call1 with args := 32 :: List.replicate 12 0xFFFFFF }
      let s : State := { atUop y.1 (uop 0 0) [] none with cmds := [x] }
      isAt s y.2 x && !(callCtx (foundAt s) x).fmtsOk) = true := by decide +kernel

/-- ACLR, MSK and DRN of no row, of the last row and column, and past them; a DRN that packs half a byte. -/
theorem witness_MicroOps_rows :
    ([([127, 0], true), ([127, 1], true), ([128, 1], false)].all fun (y : List (BitVec 32) × Bool) =>
      let s := atUop 9 (uop 0 0) y.1 none
      let r := runOf s
      isAt s (.uopAclr 0 (uop 0 0)) && decide ((r.reg 0).toNat + (r.reg 1).toNat ≤ 128) == y.2) = true ∧
    ([([127, 0, 0], true), ([127, 1, 127], true), ([127, 1, 128], false)].all fun (y : List (BitVec 32) × Bool) =>
      let s := atUop 10 (uop 0 0) y.1 none
      let r := runOf s
      isAt s (.uopMsk 0 (uop 0 0)) && decide ((r.reg 0).toNat + (r.reg 1).toNat ≤ 128 ∧ (r.reg 2).toNat ≤ 127) == y.2) = true ∧
    ([([127, 0, 0, 1], true), ([127, 1, 127, 0], true), ([127, 1, 127, 1], true), ([127, 1, 127, 2], false)].all
      fun (y : List (BitVec 32) × Bool) =>
      let s := atUop 11 (uop 0 0) y.1 none
      let r := runOf s
      isAt s (.uopDrn 0 (uop 0 0)) && packsOk ((callCtx s call1).fmt 20) (r.reg 3).toNat &&
      decide ((r.reg 0).toNat + (r.reg 1).toNat ≤ 128 ∧ (r.reg 2).toNat + (r.reg 3).toNat ≤ 128) == y.2) = true ∧
    (packsOk (some .int4) 1 = false ∧ packsOk none 1 = false) := by decide +kernel

/-- BWT that arrives and BWT whose episode has passed, BAR with and without a release, in barrier slot 1; each micro-op in a grid that a
fatal error is ending. -/
theorem witness_MicroOps_barriers :
    (let s := atUop 12 (uop 0 1) [] none
     isAt s (.uopBwt 0 (uop 0 1)) && (runOf s).waiting.isNone &&
     decide ((foundAt s).bar? 1 0 1 = some { joinMode := false, target := 2 })) = true ∧
    (let s := (atUop 12 (uop 0 1) [] (some ⟨1, 0⟩)).modBar 1 0 1 fun _ => { joinMode := false, target := 2, episode := 1 }
     isAt s (.uopBwt 0 (uop 0 1)) && decide ((runOf s).waiting = some ⟨1, 0⟩) && (foundAt s).barPassed 1 0 ⟨1, 0⟩) = true ∧
    ([0, 1].all fun fl =>
      let s := atUop 13 (uop fl 1) [] none
      isAt s (.uopBar 0 (uop fl 1)) && (foundAt s).barMode (callCtx (foundAt s) call1).c 1 && relReady (foundAt s) call1) = true ∧
    (let s : State := { atUop 1 (uop 0 0) [] none with grids := [{ grid1 with cause := some 1 }] }
     s.gridKilled 1) = true := by decide +kernel

/-- An engine command of that sequencer in a queue, not started. -/
def eng (i : Instr) (q : Queue) (args : List Word) : Cmd :=
  { cid := 1, instr := i, ctx := 1, gkey := 1, core := 0, queue := q, token := some 16, args := args }

/-- That sequencer with its commands. -/
def withCmds (l : List Cmd) : State := { one with cmds := l }

/-- An aclr of all rows that waits for nothing, one whose wait ended in error, one of too many rows; one that has started; a
collective of one member, presented, and one that disagrees with its peer; a far load; a coop gemm whose barrier has passed. -/
theorem witness_EngineCommands :
    (let x := eng (.aclr .e (W 0x4c00000017817a80)) .mq [0, 128]
     engTurn (withCmds [x]) x && x.waitCid.isNone && !x.dep && descGood (zeroEngine (withCmds [x]) 0 1) x) = true ∧
    (let x := { eng (.aclr .e (W 0x4c00000017817a80)) .mq [0, 128] with dep := true }
     engTurn (withCmds [x]) x && x.dep) = true ∧
    (let x := eng (.aclr .e (W 0x4c00000017817a80)) .mq [0, 129]
     engTurn (withCmds [x]) x && !descGood (zeroEngine (withCmds [x]) 0 1) x) = true ∧
    (let x := { eng (.aclr .e (W 0x4c00000017817a80)) .mq [0, 128] with started := true }
     engReady (withCmds [x]) x) = true ∧
    (let x := { eng (.coll .e (W 0x2800087817800200)) .cq [0, 0, 0, 1, 0] with progress := 1 }
     let s := withCmds [x]
     let peers := collPeers s x
     let parts := (maskMembers (x.word 2)).filterMap (collOf s peers)
     decide (x.queue = .cq) && !x.started && peers.all (fun y => !s.clockStopped y.core) &&
     peers.all (fun y => y.word 1 == x.word 1 && y.word 2 == x.word 2) &&
     decide (parts.length = (maskMembers (x.word 2)).length) && decide (parts.length = 1) &&
     parts.all (fun y => match collSource s y .int4 with | .ok _ => true | .error _ => false)) = true ∧
    (let x := { eng (.coll .e (W 0x2800087817800200)) .cq [0, 0, 0, 1, 0] with progress := 1 }
     let y := { x with cid := 2, args := [0, 0, 1, 1, 0] }
     (collPeers (withCmds [x, y]) x).all (fun z => !(withCmds [x, y]).clockStopped z.core) &&
     (collPeers (withCmds [x, y]) x).any fun z => z.word 1 != x.word 1) = true ∧
    (let x := eng (.fld .m0 (W 0x2c40087810010000)) (.off 0) [0]
     (withCmds [x]).offReady x) = true ∧
    (let x : Cmd := { eng (.mcall .e (W 0x400087817800200)) .mq (24 :: List.replicate 12 0) with started := true }
     let r : EngineRun := { cid := 1, index := 24, upc := 0, waiting := some ⟨1, 0⟩ }
     let s := ((withCmds [x]).setCore 0 { one.core 0 with run := some r }).modBar 1 0 1 fun b => { b with episode := 1 }
     decide (coopWaits s x = some (r, ⟨1, 0⟩)) && !s.clockStopped x.core && s.barPassed x.gkey (s.ctx x.ctx).gang ⟨1, 0⟩) = true := by
  decide +kernel

/-- A command held on a fault, without an entry that covers it and with one; an entry that is resolved, and none. -/
def heldCmd : Cmd := { eng (.fld .m0 (W 0x2c40087810010000)) (.off 0) [0] with fault := some (1, 0x80000), faultAt := (0, 0) }

/-- An entry of cluster 0. -/
def entry1 : FaultEntry :=
  { cluster := 0, seq := 7, ia := 0, va := 0x80000, ctx := 1, code := 1, wr := false, eng := false, slot := 3, token := 16, core := 0,
    level := 0, waiters := [], rung := true }

/-- Fault entries. -/
theorem witness_FaultEntries :
    ((withCmds [heldCmd]).cmd? 1 = some heldCmd ∧ heldCmd.entry = none ∧ (withCmds [heldCmd]).faults = []) ∧
    (let s : State := { withCmds [heldCmd] with faults := [entry1] }
     ((s.faults.filter fun e => e.cluster == 0 && e.unres).find? fun e => e.ia == heldCmd.faultAt.1 && (!heldCmd.needsWrite || e.wr)) =
       some entry1 ∧ s.supWaits 0 = false ∧
     s.faultEntry? 0 7 = some entry1 ∧ s.faultEntry? 0 8 = none) := by decide +kernel

/-- An entry that loses its last waiter to a grid's end stays unresolved (spec/16 R349), and the grid's token never completes. -/
theorem test_withdrawn_entry_stays :
    (match exec (.fqExhausted 0 7) { withCmds [{ heldCmd with entry := some 7 }, { heldCmd with cid := 2, entry := some 8 }] with
        faults := [{ entry1 with waiters := [1] }, { entry1 with seq := 8, waiters := [2] }] } with
     | .next t => t.cmds.isEmpty && t.faults.map (fun e => (e.seq, e.waiters)) == [(8, [])] &&
         t.trapWait.map (fun r => r.2.cause) == [causeMemExhausted]
     | _ => false) = true := by decide +kernel

/-- An engine command does not start while its core's clock is stopped (spec/24 R447). -/
theorem test_stopped_clock_pauses_engines :
    (let x := eng (.aclr .e (W 0x4c00000017817a80)) .mq [0, 128]
     engTurn ((withCmds [x]).setIsland 0 { stage := 2 }) x) = false := by decide +kernel

/-- A trapped context, saved and not, whose image reads back; a context in a debug stop; each with a pending token; one that is
neither; a waiting record
and a ring of the smallest size that takes it. -/
theorem witness_StoppedContexts :
    (let c : Ctx := { seq1 with hdr := {}, bankList := [], status := .trapped, imgAt := some 0x1000 }
     let s0 := (with1 c).setReg (supReg 0 0x20) 0x1000
     let s := (s0.store (vaultBase + 0x103C) 4 0x5A514358).store (vaultBase + 0x1008) 4 66
     s.ctxIn 0 1 = some c ∧ (match readImage s c 0x1000 with | .ok _ => true | .error _ => false) = true) ∧
    (let c : Ctx := { seq1 with hdr := {}, bankList := [], status := .debug, imgAt := some 0x1000 }
     let s0 := (with1 c).setReg (redReg 0 0x60) 0x1000
     let s := (s0.store (vaultBase + 0x103C) 4 0x5A514358).store (vaultBase + 0x1008) 4 66
     s.ctxIn 0 1 = some c ∧ (match readImage s c 0x1000 with | .ok _ => true | .error _ => false) = true) ∧
    (let c : Ctx := { seq1 with hdr := {}, bankList := [], status := .trapped, imgAt := some 0x1000 }
     let s := (with1 c).setReg (supReg 0 0x20) 0x1000
     s.ctxIn 0 1 = some c ∧ (match readImage s c 0x1000 with | .ok _ => false | .error _ => true) = true) ∧
    (({ seq1 with status := .trapped } : Ctx).imgAt = none ∧ seq1.tokPend = 0 ∧ (let c : Ctx := { seq1 with status := .trapped, tokPend := 1 <<< 16 }
     (with1 c).ctxIn 0 1 = some c ∧ c.tokPend ≠ 0) ∧
     (let c : Ctx := { seq1 with status := .debug, tokPend := 1 <<< 16 }
     (with1 c).ctxIn 0 1 = some c ∧ c.imgAt = none ∧ c.tokPend ≠ 0)) ∧
    (one.ctxIn 0 1 = some seq1 ∧ one.supWaits 0 = false ∧ seq1.status ≠ .trapped ∧ seq1.status ≠ .debug) ∧
    (let r := mkRec seq1 1 0 0 0 false 0
     popTrap 0 [(0, r)] = some (r, []) ∧
     (ringPush (one.setReg (supReg 0 8) 0x100) (supReg 0 0) (supReg 0 8) (supReg 0 0x10) (supReg 0 0x18)
       (((one.setReg (supReg 0 8) 0x100).reg (supReg 0 8)).getLsbD 8) (recBytes r)).isSome = true) := by decide +kernel

/-- An ordered task of domain 0. -/
def entryOf (seq : Nat) : DequeEntry :=
  { gkey := 1, entry := 0, esz := 0, jslot := 0, dom := 0, argp := 0, lo := 0, hi := 0, range := false, ts := 0, parent := 0,
    seq := seq, ord := true }

/-- Domain 0, in which nothing has gone on since time 0. -/
def dom1 : Domain :=
  { part := 0, dom := 0, bound := true, ordered := true, gkey := 1, cfgGrid := 1, nextSeq := 3, commits := 0, conflicts := 0,
    others := 0, discards := 0, deadFrom := some 0 }

/-- Core 0 holds a task in speculation slot 0, and others wait in its deque; its sequencer is stalled in that task. -/
def spec1 (x : SpecSlot) (deque : List DequeEntry) : State :=
  let rt : RunTask := { ts := 0, argp := 0, seq := 2, dom := 0, jslot := 0, depth := 0, range := false, parent := 0,
                        ord := true, slotIx := 0, takePc := 0, takeReg := 4 }
  { with1 { seq1 with tasks := [rt] } with
    domains := [dom1], nowPs := 2000000
    cores := [(0, { cur := some 1, slots := [x, {}, {}, {}], deque := deque, stalled := true, samp := (0, 0, 7) })] }

/-- A speculative task's load of an address without a range is deferred and leaves its token register as it was (spec/18
R377). -/
theorem test_deferred_load_keeps_token :
    (let x : Cmd := { eng (.fld .m0 (W 0x2c40087810010000)) (.off 0) [0] with ord := true, task := some 0 }
     let s := (spec1 { state := .running, task := some (entryOf 2), ctx := 1 } [entryOf 1]).modCtx 1
       fun c => { c with com := c.com.setIfInBounds 16 5 }
     match exec (.offcoreCommandPerform 1) { s with cmds := [x] } with
     | .next t => (t.ctx 1).com[16]?.getD 0 == 5 && (t.slot 0 0).deferred == some causeFarFault && t.trapWait.isEmpty
     | _ => false) = true := by decide +kernel

/-- A task to redirect at a boundary and in a delay shadow; the frontier task, finished; a domain that has been dead for 2000 ns. -/
theorem witness_TaskEvents :
    (let r : RunTask := { ts := 0, argp := 0, seq := 1, dom := 0, jslot := 0, depth := 0, range := false, parent := 0,
                          ord := true, slotIx := 0, takePc := 0x20, takeReg := 4, gone := true }
     let c : Ctx := { seq1 with tasks := [r] }
     (with1 c).ctx? 1 = some c ∧ c.redirecting = true ∧ c.tasks = r :: [] ∧ c.status = .ready ∧ c.shl = 0 ∧
       c.rep = 0 ∧ c.pend = false ∧ c.done = 0 ∧ c.partBundle = false ∧
     (let d : Ctx := { c with shl := 1, stallTask := true }
      (with1 d).ctx? 1 = some d ∧ d.redirecting = true ∧ d.stallTask = true)) ∧
    (let x : SpecSlot := { state := .finished, task := some (entryOf 1), ctx := 1 }
     (spec1 x []).frontierSlot 0 0 = some (0, 0, x) ∧ (spec1 x []).slotQuiet 0 0 = true) ∧
    (let s := spec1 { state := .running, task := some (entryOf 2), ctx := 1 } [entryOf 1]
     s.dom? 0 0 = some dom1 ∧ domainDead s dom1 = true ∧ 0 + 2000 ≤ s.now ∧ stalledTasks s 0 0 = [(0, 0, entryOf 2)]) := by
  decide +kernel

/-- An action job of session 3, active, at its deadline. -/
def job1 : Grid :=
  { grid1 with kind := .action, session := 3, jobNo := 4, deadline := 0, nextGang := 1, emission := 0 }

/-- A hold chunk of that session, due at time 0. -/
def due1 : HoldDue := { part := 0, session := 3, instant := 0 }

/-- Session 3 of partition 0. -/
def ses (state level : Nat) : Session := { part := 0, index := 3, state := state, level := level }

/-- A sequencer of a grid that a fatal error is ending, a retired one, a grid whose sequencers have all ended in each of its
five cases, a job at its deadline with and without a sequencer, and both forms of the hold chunk. -/
theorem witness_EndsOfWork :
    ([{ seq1 with killCause := some 1 }, { seq1 with killCause := some 1, rep := 1, stallTok := true },
      { seq1 with killCause := some 1, rep := 1, status := .saved }].all fun c =>
       decide ((with1 c).ctx? 1 = some c) && (c.atStart || c.stallTok || decide (c.status ≠ .ready)) && decide (c.status ≠ .ended) &&
       decide (c.status ≠ .retired)) = true ∧
    (let c : Ctx := { seq1 with status := .retired }
     (with1 c).ctx? 1 = some c ∧ c.tokPend = 0) ∧
    ([grid1, { grid1 with cause := some 1 }, { grid1 with kind := .reasoning },
      { grid1 with kind := .action, missed := true, cause := some 1 }, { grid1 with kind := .action, cause := some 1 }].all fun g =>
       let s : State := { with1 { seq1 with status := .ended } with grids := [g] }
       decide (s.grid? 1 = some g) && decide (g.status = .ready) && (s.ctxs.all fun c => c.status == .ended) &&
       (g.cause.isSome || decide (g.desc.gangs ≤ g.nextGang)) && s.cmds.isEmpty && !otherFirst s g s.nowPs) = true ∧
    ([([seq1], true), ([], false)].all fun y =>
       let s : State := { one with ctxs := y.1, grids := [job1], sessions := [ses 1 0] }
       let s1 := missJob (s.setGrid { job1 with missed := true }) job1
       decide (s.grid? 1 = some job1) && job1.openJob && decide (job1.deadline ≤ s.now) && !otherFirst s job1 job1.missAt && !job1.missed &&
       job1.cause.isNone && decide ((s.session job1.part job1.session).level ≠ 3) &&
       ((s1.ctxs.find? fun c => c.gkey == 1 && c.status != .ended && !c.dead).isSome == y.2)) = true ∧
    (let s : State := { one with holds := [due1] }
     (s.holds.find? fun h => h.part == 0 && h.session == 3 && decide (h.instant ≤ s.now)) = some due1) ∧
    (let s : State := { one with grids := [{ job1 with nextGang := 0 }], sessions := [ses 1 3] }
     s.holds = [] ∧ heldJob s 0 3 = some { job1 with nextGang := 0 }) := by
  decide +kernel

/-- Cells of some 32-bit words. -/
def words (s : State) : List (Nat × Nat) → State
  | [] => s
  | (k, v) :: l => words (s.store k 4 v) l

/-- Page 0 of partition 0 at home, mapped by tables at 0, 0x1000, 0x2000 and 0x2080, with an image at 0x3000, whose code is one
bundle, and a template of one gang of one member at 0x4000. -/
def images : State :=
  { one.setReg (xltpReg 0 0) 0x8000000000000000 with
    ctxs := [], grids := []
    mem := [(0x1, 0x10), (0x7, 0x80), (0x1001, 0x20), (0x1007, 0x80), (0x2000, 0x80), (0x2001, 0x20), (0x2007, 0x80), (0x2087, 0xC0),
      (0x3000, 0x48), (0x3001, 0x4B), (0x3002, 0x51), (0x3003, 0x5A), (0x3004, 0x20), (0x3006, 1), (0x3008, 4), (0x3010, 0x21),
      (0x3011, 4), (0x3012, 0x40), (0x3014, 0x21), (0x3018, 1), (0x301A, 1), (0x4001, 0x30), (0x4028, 1), (0x4030, 1), (0x4031, 1),
      (0x4032, 1), (0x4033, 1), (0x4034, 1), (0x4035, 1), (0x4036, 1), (0x4039, 0x21)] }

/-- A launch of that image. -/
def launch1 : Grid :=
  { key := 5, part := 0, kind := .launch, status := .pending, sub := 1, hdr := {},
    desc := { image := 0x3000, cmask := 1, sb := [0, 1, 1, 1, 1, 1, 1, 1], ranges := 0x2100 } }

/-- A host queue of partition 0 with one entry that its last doorbell named. -/
def queue1 : HostQueue := { q := 2, cfg := 0x10, state := 1, last := 1 }

/-- Eight sequencers that fill core 0. -/
def residents8 : List Ctx := (List.range 8).map fun k => { seq1 with handle := k + 1, res := k }

/-! ### What the Gaffer's own reads leave as it was -/

/-- The leaf that maps page 0 of those tables. -/
def page0 : Leaf := { part := 0, die := 0, level := 3, base := 0, entry := 0xC000000000000000 }

/-- A state that differs by what reads of page 0 touch: the translation caches and runs, the memory-side cache and the channels. -/
def Touched (s u : State) : Prop :=
  ∃ le ru ms ch, u = { s with leaves := le, runs := ru, msc := ms, chans := ch } ∧ (∀ l ∈ le, l = page0) ∧ ∀ r ∈ ru, 1 ≤ r.len

/-- Page 0 is mapped by that leaf. -/
abbrev MapsPage0 (s : State) : Prop := walk s 0 0 = .leaf 3 0xC000000000000000 0x2080

theorem walkFrom_low (s : State) (part ia : Nat) (h : ia < 2 ^ 19) (n level table : Nat) :
    walkFrom s part ia n level table = walkFrom s part 0 n level table := by
  induction n generalizing level table with
  | zero => rfl
  | succ n ih =>
    have : ia / 2 ^ lvlShift level = 0 := by
      refine Nat.div_eq_of_lt (lt_of_lt_of_le h (Nat.pow_le_pow_right (by decide) ?_))
      unfold lvlShift; split <;> decide
    simp [walkFrom, this, ih]

theorem walkFrom_touched (s : State) (le ru ms ch) (part ia n level table : Nat) :
    walkFrom { s with leaves := le, runs := ru, msc := ms, chans := ch } part ia n level table = walkFrom s part ia n level table := by
  induction n generalizing level table with
  | zero => rfl
  | succ n ih => simp only [walkFrom, ih]; rfl

theorem walk_touched {s u : State} (h : Touched s u) (part ia : Nat) : walk u part ia = walk s part ia := by
  obtain ⟨le, ru, ms, ch, rfl, -, -⟩ := h
  simp only [walk, walkFrom_touched]; rfl

theorem walk_low {s : State} (h : MapsPage0 s) {ia : Nat} (hi : ia < 2 ^ 19) : walk s 0 ia = .leaf 3 0xC000000000000000 0x2080 := by
  rw [← h]; simp only [walk, walkFrom_low s 0 ia hi]

theorem touched_refl {s : State} (hl : s.leaves = []) (hr : s.runs = []) : Touched s s :=
  ⟨s.leaves, s.runs, s.msc, s.chans, rfl, by simp [hl], by simp [hr]⟩

theorem chanPush_shape (s : State) (rq : Requester) (key : Nat) : ∃ ch, chanPush s rq key = { s with chans := ch } := ⟨_, rfl⟩

theorem mscTouch_shape (s : State) (part : Nat) (rq : Requester) (u : Use) (key : Nat) :
    ∃ ms ch, mscTouch s part rq u key = { s with msc := ms, chans := ch } := by
  have hp : ∃ ms ch, (if u = .atomic then chanPush (chanPush s rq key) rq key else chanPush s rq key) =
      { s with msc := ms, chans := ch } := by split <;> exact ⟨_, _, rfl⟩
  unfold mscTouch
  split
  · exact ⟨_, _, rfl⟩
  extract_lets line pol
  split
  · split <;> exact ⟨_, _, rfl⟩
  · split
    · exact hp
    rename_i fresh victim _ _ _
    clear_value fresh victim
    rcases fresh with _ | w
    · rcases victim with _ | v
      · exact hp
      · rcases v with ⟨_, _, _, _ | _⟩ <;> exact ⟨_, _, rfl⟩
    · exact ⟨_, _, rfl⟩

theorem touched_msc {s u : State} (h : Touched s u) (part : Nat) (rq : Requester) (w : Use) (key : Nat) :
    Touched s (mscTouch u part rq w key) := by
  obtain ⟨le, ru, ms, ch, rfl, h1, h2⟩ := h
  obtain ⟨ms', ch', e⟩ := mscTouch_shape { s with leaves := le, runs := ru, msc := ms, chans := ch } part rq w key
  exact ⟨le, ru, ms', ch', e, h1, h2⟩

theorem touched_walk {s u : State} (h : Touched s u) (part ia : Nat) : Touched s (touchWalk u part ia) := by
  have key : ∀ (l : List Nat) (v : State), Touched s v → Touched s (l.foldl (fun t a => mscTouch t part sysReq .read a) v) := by
    intro l
    induction l with
    | nil => exact fun v h => h
    | cons a l ih => exact fun v h => ih _ (touched_msc h part sysReq .read a)
  simp only [touchWalk]
  split
  · exact key _ u h
  · exact h

theorem touched_lookup {s u : State} (hm : MapsPage0 s) (h : Touched s u) {ia : Nat} (hi : ia < 2 ^ 19) :
    Touched s (lookupLeaf u 0 0 ia).1 ∧ ∃ at', (lookupLeaf u 0 0 ia).2 = .leaf 3 0xC000000000000000 at' := by
  have hw : walk u 0 ia = .leaf 3 0xC000000000000000 0x2080 := (walk_touched h 0 ia).trans (walk_low hm hi)
  unfold lookupLeaf
  split
  · rename_i l hl
    obtain ⟨le, ru, ms, ch, rfl, h1, h2⟩ := h
    have : l = page0 := h1 l (List.mem_of_find?_eq_some (Option.mem_filter_iff.1 hl).1)
    exact ⟨⟨le, ru, ms, ch, rfl, h1, h2⟩, 0, by rw [this]; rfl⟩
  · rw [hw]
    have hp : predicted u 0 0 ia = none := by
      obtain ⟨le, ru, ms, ch, rfl, -, h2⟩ := h
      have : (ru.find? fun r => r.part == 0 && r.die == 0 && r.base + r.len * 2 ^ 19 == ia / 2 ^ 19 * 2 ^ 19 && !r.attrs.getLsbD 12)
          = none := by
        refine List.find?_eq_none.2 fun r hr => ?_
        have := h2 r hr
        have : ia / 2 ^ 19 = 0 := Nat.div_eq_of_lt hi
        simp; omega
      simp only [predicted, this]; rfl
    have ht := touched_walk h 0 ia
    simp only [hp, ↓reduceIte]
    refine ⟨?_, 0x2080, rfl⟩
    obtain ⟨le, ru, ms, ch, e, h1, h2⟩ := ht
    rw [e]
    have ha : ∃ rn, addRun { s with leaves := le, runs := ru, msc := ms, chans := ch } 0 0 ia 0xC000000000000000 =
        { s with leaves := le, runs := rn, msc := ms, chans := ch } ∧ ∀ r ∈ rn, 1 ≤ r.len := by
      unfold addRun
      extract_lets pg mine ends
      split
      · exact ⟨ru, rfl, h2⟩
      split
      · refine ⟨_, rfl, fun r hr => ?_⟩
        obtain ⟨q, hq, rfl⟩ := List.mem_map.1 hr
        split
        · exact Nat.le_add_left 1 _
        · exact h2 q hq
      · refine ⟨_, rfl, fun r hr => ?_⟩
        rcases List.mem_append.1 hr with hr | hr
        · exact h2 r hr
        · rw [List.mem_singleton.1 hr]
    obtain ⟨rn, ea, h3⟩ := ha
    rw [ea]
    refine ⟨_, rn, ms, ch, rfl, fun l hl => ?_, h3⟩
    rcases List.mem_cons.1 hl with rfl | hl
    · have : ia / 2 ^ lvlShift 3 = 0 := Nat.div_eq_of_lt hi
      simp [page0, this]
    · exact h1 l (List.mem_filter.1 hl).1

theorem touched_gaf {s u : State} (hm : MapsPage0 s) (h : Touched s u) (runs : List (Nat × Nat))
    (hr : ∀ r ∈ runs, r.2 = 0 ∨ r.1 + r.2 ≤ 2 ^ 19) : Touched s (gafTouch u 0 runs) := by
  unfold gafTouch
  have hl : ∀ line ∈ (runs.flatMap fun r => if r.2 = 0 then [] else
      (List.range ((r.1 % 64 + r.2 + 63) / 64)).map fun j => r.1 / 64 * 64 + 64 * j), line < 2 ^ 19 := by
    intro line hline
    obtain ⟨r, hr1, hr2⟩ := List.mem_flatMap.1 hline
    split at hr2
    · simp at hr2
    · obtain ⟨j, hj, rfl⟩ := List.mem_map.1 hr2
      have := List.mem_range.1 hj
      have := hr r hr1
      omega
  generalize (runs.flatMap fun r => if r.2 = 0 then [] else
      (List.range ((r.1 % 64 + r.2 + 63) / 64)).map fun j => r.1 / 64 * 64 + 64 * j) = l at hl
  induction l generalizing u with
  | nil => exact h
  | cons a l ih =>
    refine ih ?_ (fun x hx => hl x (List.mem_cons_of_mem a hx))
    obtain ⟨h1, at', h2⟩ := touched_lookup hm h (hl a List.mem_cons_self)
    have : partDie 0 = 0 := rfl
    rw [this]
    show Touched s (match lookupLeaf u 0 0 a with
      | (u, .leaf lv e _) => mscTouch u 0 sysReq .read (homeKey lv a e)
      | (u, _) => u)
    generalize lookupLeaf u 0 0 a = p at h1 h2
    obtain ⟨v, r⟩ := p
    obtain rfl : r = .leaf 3 0xC000000000000000 at' := h2
    exact touched_msc h1 0 sysReq .read _

theorem lookupLeaf_walks {u : State} {part die ia : Nat} (h : u.leafFor part die ia = none) :
    (lookupLeaf u part die ia).2 = walk u part ia := by
  unfold lookupLeaf
  rw [h]
  cases hw : walk u part ia <;> simp

theorem iaByte_touched {s u : State} (hm : MapsPage0 s) (hs : s.leaves = []) (h : Touched s u) (ia : Nat) :
    iaByte u 0 ia = iaByte s 0 ia := by
  have hd : partDie 0 = 0 := rfl
  have hl : (lookupLeaf s 0 0 ia).2 = walk s 0 ia := lookupLeaf_walks (by simp [State.leafFor, hs])
  have key : ∃ a b, ((lookupLeaf u 0 0 ia).2 = (lookupLeaf s 0 0 ia).2 ∨
      ((lookupLeaf u 0 0 ia).2 = .leaf 3 0xC000000000000000 a ∧ (lookupLeaf s 0 0 ia).2 = .leaf 3 0xC000000000000000 b)) := by
    by_cases hi : ia < 2 ^ 19
    · obtain ⟨-, a, h1⟩ := touched_lookup hm h hi
      exact ⟨a, 0x2080, .inr ⟨h1, hl.trans (walk_low hm hi)⟩⟩
    · refine ⟨0, 0, .inl ?_⟩
      have hn : u.leafFor 0 0 ia = none := by
        obtain ⟨le, ru, ms, ch, rfl, h1, -⟩ := h
        refine List.find?_eq_none.2 fun l hl => ?_
        rw [h1 l hl]
        have : 0 < ia / 2 ^ 19 := Nat.div_pos (Nat.le_of_not_lt hi) (by decide)
        simp [page0, lvlShift]; omega
      rw [hl, ← walk_touched h, lookupLeaf_walks hn]
  obtain ⟨a, b, key⟩ := key
  obtain ⟨le, ru, ms, ch, rfl, -, -⟩ := h
  unfold iaByte
  rw [hd]
  rcases key with key | ⟨k1, k2⟩
  · rw [key]; rfl
  · rw [k1, k2]; rfl

theorem iaRead_touched {s u : State} (hm : MapsPage0 s) (hs : s.leaves = []) (h : Touched s u) : iaRead u 0 = iaRead s 0 := by
  funext ia n
  induction n generalizing ia with
  | zero => rfl
  | succ n ih => simp only [iaRead, iaByte_touched hm hs h, ih]

/-- Nothing but memory says what a byte of page 0 is. -/
abbrev Plain (s : State) : Prop := MapsPage0 s ∧ s.leaves = [] ∧ s.runs = [] ∧ s.swaps = [] ∧ s.poison = [] ∧ s.clear = []

/-- A byte and a run of bytes read from memory alone where they lie in page 0. -/
def fastByte (s : State) (ia : Nat) : Option Byte := if ia < 2 ^ 19 then some (memGet s.mem ia) else iaByte s 0 ia
def fastRead (s : State) (ia n : Nat) : Option (List Byte) :=
  if ia + n ≤ 2 ^ 19 then some (memGetList s.mem ia n) else iaRead s 0 ia n

theorem iaByte_fast {s : State} (h : Plain s) : iaByte s 0 = fastByte s := by
  obtain ⟨hm, hs, -, hw, hp, hc⟩ := h
  funext ia
  unfold fastByte
  split
  · rename_i hi
    have hl : (lookupLeaf s 0 (partDie 0) ia).2 = .leaf 3 0xC000000000000000 0x2080 :=
      (lookupLeaf_walks (by simp [State.leafFor, hs])).trans (walk_low hm hi)
    have hk : homeKey 3 ia 0xC000000000000000 = ia := by
      have h1 : pteH 0xC000000000000000 = false := by decide
      have h2 : pteAddr 0xC000000000000000 = 0 := by decide
      simp only [homeKey, h1, h2, Bool.false_eq_true, ↓reduceIte, Nat.zero_add]
      exact Nat.mod_eq_of_lt hi
    have h1 : pteH 0xC000000000000000 = false := by decide
    unfold iaByte
    simp only [hl, swapEntry, hw, List.find?_nil, h1, Bool.false_eq_true, false_and, ↓reduceIte, hk, homeRead, pendingLine, hc,
      true_or, readBytes, State.poisonAt, hp, memGetList, List.head?_cons]
  · rfl

theorem iaRead_fast {s : State} (h : Plain s) : iaRead s 0 = fastRead s := by
  have hb := iaByte_fast h
  funext ia n
  unfold fastRead
  split
  · rename_i hi
    induction n generalizing ia with
    | zero => rfl
    | succ n ih =>
      have : ia < 2 ^ 19 := by omega
      simp only [iaRead, hb, fastByte, this, ↓reduceIte, ih (ia + 1) (by omega), memGetList, Option.map_some]
  · rfl

/-- The runs that a set-up reads, but for code and data. -/
def setupRuns (s : State) (g : Grid) : List (Nat × Nat) :=
  let d := g.desc
  let h := match iaRead s 0 d.image 32 with | some bs => parseHeader bs | none => {}
  [(d.image, 32), (d.ranges, 512), (d.image + 32 + h.codeLen + h.dataLen, 64 * h.tensors), (d.tensors, 8 * h.tensors)]

/-- They lie in page 0. -/
def lowRuns (l : List (Nat × Nat)) : Bool := l.all fun r => decide (r.2 = 0) || decide (r.1 + r.2 ≤ 2 ^ 19)

theorem lowRuns_iff {l : List (Nat × Nat)} (h : lowRuns l = true) : ∀ r ∈ l, r.2 = 0 ∨ r.1 + r.2 ≤ 2 ^ 19 := by
  simpa [lowRuns] using h

theorem touched_setup {s u : State} (hm : MapsPage0 s) (hs : s.leaves = []) (h : Touched s u) {g : Grid} (hp : g.part = 0)
    (hr : lowRuns (setupRuns s g) = true) : Touched s (setupTouch u g) := by
  simp only [setupTouch, hp, iaRead_touched hm hs h]
  exact touched_gaf hm h _ (lowRuns_iff hr)

/-- What the Gaffer makes of what it reads depends on no touch. -/
theorem reads_touched {s u : State} (hm : MapsPage0 s) (hs : s.leaves = []) (h : Touched s u) :
    iaMapped u 0 = iaMapped s 0 ∧ checkImage u 0 = checkImage s 0 ∧ readRanges u 0 = readRanges s 0 ∧
    readHandles u 0 = readHandles s 0 ∧ checkTemplate u 0 = checkTemplate s 0 := by
  have hr := iaRead_touched hm hs h
  have h1 : iaMapped u 0 = iaMapped s 0 := by funext d n; simp only [iaMapped, iaByte_touched hm hs h]
  have h2 : checkImage u 0 = checkImage s 0 := by funext d n; simp only [checkImage, hr, h1]
  have h3 : readRanges u 0 = readRanges s 0 := by funext d; simp only [readRanges, hr]
  exact ⟨h1, h2, h3, by funext d n; simp only [readHandles, hr], by funext k a; simp only [checkTemplate, h2, h3, hr]⟩

/-- Nor does a set-up. -/
theorem setupGrid_touched {s u : State} (hm : MapsPage0 s) (hs : s.leaves = []) (h : Touched s u) {g : Grid} (hp : g.part = 0)
    (e : Bool) : (setupGrid u g e).map (·.2) = (setupGrid s g e).map (·.2) := by
  obtain ⟨h1, h2, h3, h4, -⟩ := reads_touched hm hs h
  have h5 : u.dom? 0 = s.dom? 0 := by obtain ⟨le, ru, ms, ch, rfl, -, -⟩ := h; rfl
  simp only [setupGrid, hp, h1, h2, h3, h4, h5]
  repeat' split
  all_goals rfl

/-- Nor does what an admission answers. -/
theorem admitSession_touched {s u : State} (hm : MapsPage0 s) (hs : s.leaves = []) (h : Touched s u) {x : Session}
    (hp : x.part = 0) : (admitSession u x).isOk = (admitSession s x).isOk := by
  obtain ⟨-, -, -, -, h2⟩ := reads_touched hm hs h
  obtain ⟨le, ru, ms, ch, rfl, -, -⟩ := h
  generalize hu : ({ s with leaves := le, runs := ru, msc := ms, chans := ch } : State) = u at h2 ⊢
  have h3 : u.part 0 = s.part 0 ∧ entryLimits u x = entryLimits s x ∧ freePos u = freePos s ∧ vaultUsed u 0 = vaultUsed s 0 ∧
      chooseLane u = chooseLane s := by subst hu; exact ⟨rfl, rfl, rfl, rfl, rfl⟩
  simp only [admitSession, hp, h2, h3]
  repeat' split
  all_goals rfl

theorem eq_some_getD {α : Type} {o : Option α} (h : o.isSome = true) (d : α) : o = some (o.getD d) := by
  cases o with
  | none => cases h
  | some _ => rfl

theorem isOk_map {ε α β : Type} (r : Except ε α) (f : α → β) : (r.map f).isOk = r.isOk := by cases r <;> rfl

/-- A ring with one entry, a ring overrun by one, a queue with one entry; a session that is not ACTIVE. -/
theorem witness_LaunchesAndJobReleases :
    ([(1, true), (33, false)].all fun y =>
       let s := (one.setReg (gafReg 0 0x38) 0x100).store vaultBase 8 y.1
       partOpen s 0 && (s.reg (gafReg 0 0x38)).getLsbD 8 && !(s.reg (gafReg 0 0x38)).getLsbD 9 &&
       decide (s.reg (gafReg 0 0x30) = 0) && decide (0 < s.load vaultBase 8) &&
       decide (s.load vaultBase 8 ≤ 0 + ringSize 0x100) == y.2) = true ∧
    (let s : State := { one with queues := [queue1], hostIf := { valid := true } }
     let q := s.queue 2
     q = queue1 ∧ q.cfg.getLsbD 4 = true ∧ partOpen s q.part = true ∧ q.ri < q.last ∧
     q.outstanding + (q.cwi - s.load (vaultBase + 0 + 0x10) 8) < ringSize q.cfg) ∧
    ((({ images with sessions := [ses 2 0] } : State).session 0 3).state = 2) := by decide +kernel

/-- The launch of the image at an address of page 0, and the part that holds it. -/
def launchAt (image : Nat) : Grid := { launch1 with desc := { launch1.desc with image := image } }
def launching (image : Nat) : State := { images with grids := [launchAt image] }

/-- A launch whose image is one, and one whose image is none. -/
theorem witness_LaunchReleases :
    ∀ y ∈ [(0x3000, true), (0x4800, false)],
      (launching y.1).grid? 5 = some (launchAt y.1) ∧ (launchAt y.1).release ≤ (launching y.1).now ∧
      ((launching y.1).part 0).resetting = false ∧ otherFirst (launching y.1) (launchAt y.1) (launchAt y.1).eventAt = false ∧
      (setupGrid (setupTouch (launching y.1) (launchAt y.1)) { launchAt y.1 with complete := false } (!(launchAt y.1).complete)).isOk
        = y.2 := by
  have run : ∀ y ∈ [(0x3000, true), (0x4800, false)], Plain (launching y.1) ∧
      (launching y.1).grid? 5 = some (launchAt y.1) ∧ otherFirst (launching y.1) (launchAt y.1) (launchAt y.1).eventAt = false := by
    decide +kernel
  intro y hy
  obtain ⟨h1, h4, h5⟩ := run y hy
  have hr := iaRead_fast h1
  have hb := iaByte_fast h1
  have hp : (launchAt y.1).part = 0 := rfl
  have h2 : lowRuns (setupRuns (launching y.1) (launchAt y.1)) = true := by
    simp only [setupRuns, hr]
    rcases List.mem_pair.1 hy with rfl | rfl <;> decide +kernel
  refine ⟨h4, Nat.zero_le _, rfl, h5, ?_⟩
  rw [← isOk_map, setupGrid_touched h1.1 rfl (touched_setup h1.1 rfl (touched_refl rfl rfl) rfl h2) rfl, isOk_map]
  simp only [setupGrid, hp, checkImage, iaMapped, readRanges, readHandles, hr, hb]
  rcases List.mem_pair.1 hy with rfl | rfl <;> decide +kernel

/-- A job of session 3, whose entry has its template at an address, in a part with some contexts. -/
def jobDue : Job := { id := 9, part := 0, session := 3, action := true, release := 0, tokenAt := 0, number := 0 }
def jobPart (template : Nat) (full : Bool) : State :=
  { images with
    jobs := [jobDue], ctxs := if full then residents8 else []
    sessions := [{ ses 1 0 with words := (List.replicate 16 0).set 1 (BitVec.ofNat 64 template) }] }

/-- The part once its job has left the waiting jobs and has taken its number. -/
def jobTaken (s : State) : State := { (takeSub { s with jobs := [] } 0).1 with nextKey := s.nextKey + 1 }

/-- The bytes of the job's template, and its grid. -/
def jobBytes (template : Nat) : List Byte := memGetList images.mem template 128
def jobOf (template : Nat) : Grid :=
  { key := 2, part := 0, kind := .action, status := .pending, sub := 1, session := 3, desc := parseDesc (jobBytes template), hdr := {} }

/-- A job of an ACTIVE session whose lane has room, one whose lane is full, and one whose template is bad. -/
theorem witness_JobReleases :
    ∀ y ∈ [(0x4000, false, some true), (0x4000, true, some false), (0x4800, false, none)],
      ∀ s, s = jobPart y.1 y.2.1 →
      let r := setupTouch (gafTouch (jobTaken s) 0 [(y.1, 128)]) (jobOf y.1)
      ((s.jobs.find? fun y => y.id == 9) = some jobDue ∧ jobDue.release ≤ s.now ∧ (s.part 0).resetting = false ∧
      s.headJob jobDue = true ∧ otherFirst s (jobDue.asGrid s) (jobDue.asGrid s).eventAt = false ∧ (s.session 0 3).state = 1) ∧
      jobGrid { s with jobs := [] } (s.session 0 3) jobDue (takeSub { s with jobs := [] } 0).2 = some (jobBytes y.1, jobOf y.1) ∧
      (match (setupGrid r (jobOf y.1) (descZero (jobBytes y.1))).map (·.2) with
       | .ok g => some (laneRoom r g)
       | .error _ => none) = y.2.2 := by
  intro y hy s hs r
  have run : ∀ y ∈ [(0x4000, false, some true), (0x4000, true, some false), (0x4800, false, none)],
      let s := jobPart y.1 y.2.1
      Plain (jobTaken s) ∧ Plain { s with jobs := [] } ∧ lowRuns [(y.1, 128)] = true ∧
      (s.jobs.find? fun y => y.id == 9) = some jobDue ∧ jobDue.release ≤ s.now ∧ (s.part 0).resetting = false ∧
      s.headJob jobDue = true ∧ otherFirst s (jobDue.asGrid s) (jobDue.asGrid s).eventAt = false ∧ (s.session 0 3).state = 1 := by
    decide +kernel
  have run := run y hy
  simp only [← hs] at run
  obtain ⟨h1, h0, h2, h3⟩ := run
  simp only [List.mem_cons, List.not_mem_nil, or_false] at hy
  have hr := iaRead_fast h1
  have hb := iaByte_fast h1
  have hj := iaRead_fast h0
  have hp : (jobOf y.1).part = 0 := rfl
  have hq : jobDue.part = 0 := rfl
  have h8 : lowRuns (setupRuns (jobTaken s) (jobOf y.1)) = true := by
    simp only [setupRuns, hr]
    subst hs
    rcases hy with rfl | rfl | rfl <;> decide +kernel
  have ht : Touched (jobTaken s) r :=
    touched_setup h1.1 h1.2.1 (touched_gaf h1.1 (touched_refl h1.2.1 h1.2.2.1) _ (lowRuns_iff h2)) hp h8
  have hl : laneRoom r = laneRoom (jobTaken s) := by obtain ⟨le, ru, ms, ch, e, -, -⟩ := ht; rw [e]; rfl
  refine ⟨h3, ?_, ?_⟩
  · simp only [jobGrid, hq, hj]
    subst hs
    rcases hy with rfl | rfl | rfl <;> decide +kernel
  · rw [setupGrid_touched h1.1 h1.2.1 ht hp, hl]
    simp only [setupGrid, hp, checkImage, iaMapped, readRanges, readHandles, hr, hb]
    subst hs
    rcases hy with rfl | rfl | rfl <;> decide +kernel

/-- The launch of that image, as its set-up leaves it. -/
def ready1 : Grid :=
  { launch1 with
    status := .ready, deadline := 7, setUp := true
    hdr := { aG := 1, vG := 1, banks := 1, barriers := 1, stages := 1, lead := 1, safeint := 1, safedist := 1, codeLen := 4 }
    gangs := [{ index := 0, bars := [{}] }] }

/-- Eight sequencers that fill cluster 0, of a launch whose deadline is the same. -/
def full1 (g : Grid) : State :=
  { images with
    ctxs := (List.range 8).map fun k => { seq1 with handle := k + 1, core := k }
    grids := [{ grid1 with deadline := g.deadline + 1, desc := { grid1.desc with members := 8 } }, g] }

/-- A launch that finds a core, one that does not while a less urgent gang runs there, one whose equal's slice is over; a gang
that has not yielded in time; a context to save. -/
theorem witness_Placement :
    (let s : State := { images with grids := [ready1] }
     s.grid? 5 = some ready1 ∧ waits s ready1 = true ∧ aheadOf s ready1 = [] ∧ (placeNext s ready1).isSome = true ∧
     nextGangOf (s.setGrid (withLevel s ready1)) (withLevel s ready1) = some 0) ∧
    (let s := full1 ready1
     s.grid? 5 = some ready1 ∧ waits s ready1 = true ∧ aheadOf s ready1 = [] ∧ (placeNext s ready1).isNone = true ∧
     (displaced s ready1).isSome = true) ∧
    (let g : Grid := { grid1 with deadline := 7 }
     let x : Gang := (grid1.gangs.head?).getD { index := 0 }
     let s : State := { full1 ready1 with grids := [g, ready1] }
     s.grid? 1 = some g ∧ g.gang? 0 = some x ∧ g.isJob = false ∧ x.status = .running ∧ x.placedAt + g.slice ≤ s.now ∧
     ready1.isJob = false ∧ ready1.keyDeadline = g.keyDeadline ∧ waits s ready1 = true ∧
     gangOn s g x (neededCores s ready1) = true) ∧
    (let x : Gang := { index := 0, status := .yielding, yieldAt := some 0 }
     let g : Grid := { grid1 with gangs := [x] }
     let s : State := { one with grids := [g], nowPs := 1000000000000 }
     s.grid? 1 = some g ∧ g.gang? 0 = some x ∧ yieldPast g.hdr 0 s.now = true) ∧
    (let c : Ctx := { seq1 with status := .yielding }
     (with1 c).ctx? 1 = some c ∧ c.tokPend = 0) := by decide +kernel

/-- Entry words of session 3: both periods and deadlines 2^20 ns, both templates at 0x4000, a hold chunk of a byte. -/
def entryWords : List Word :=
  [0, 0x4000, 0x4000, 0x0010000000100000, 0, 0x0010000000100000, 0x0010000000000000, 0, 1, 0, 0, 0, 0, 0, 0, 0]

/-- The two entries of those words and of none, and the part once the templates of an entry have been read. -/
def admits (ws : List Word) : Session := { ses 0 0 with words := ws }

/-- The descriptor of that template and the header of its image. -/
def desc1 : Desc := { image := 0x3000, gangs := 1, members := 1, sb := [0, 1, 1, 1, 1, 1, 1, 1], ranges := 0x2100 }
def header1 : KHeader :=
  { aG := 1, vG := 1, banks := 1, barriers := 1, stages := 1, lead := 1, safeint := 1, safedist := 1, codeLen := 4 }

/-- A session that is admitted and one that is refused. -/
theorem witness_Sessions_admission :
    (admitSession (touchTemplates images (admits entryWords)) (admits entryWords)).isOk = true ∧
    ((admits entryWords).state = 0 ∧ (images.part 0).resetting = false ∧ entryZero (admits entryWords) = true ∧
      entryLimits images (admits entryWords) = true) ∧
    (admitSession images (admits [])).isOk = false := by
  have hm : Plain images := by decide +kernel
  have hr := iaRead_fast hm
  have hb := iaByte_fast hm
  have e0 : (admits entryWords).part = 0 := rfl
  have e1 : (((admits entryWords).words[1]?).getD 0).toNat = 0x4000 := by decide
  have e2 : (((admits entryWords).words[2]?).getD 0).toNat = 0x4000 := by decide
  let runs := [((parseDesc (jobBytes 0x4000)).image, 32), ((parseDesc (jobBytes 0x4000)).ranges, 512)]
  have hl : lowRuns [(0x4000, 128)] = true ∧ lowRuns runs = true := by decide +kernel
  have ht : ∀ u, Touched images u → Touched images (gafTouch (gafTouch u 0 [(0x4000, 128)]) 0 runs) :=
    fun u h => touched_gaf hm.1 (touched_gaf hm.1 h _ (lowRuns_iff hl.1)) _ (lowRuns_iff hl.2)
  have hread : ∀ u, Touched images u → iaRead u 0 0x4000 128 = some (jobBytes 0x4000) := fun u h => by
    rw [iaRead_touched hm.1 rfl h, hr]; decide +kernel
  have t0 : Touched images images := touched_refl rfl rfl
  have tt : Touched images (touchTemplates images (admits entryWords)) := by
    show Touched images ([1, 2].foldl _ images)
    simp only [List.foldl_cons, List.foldl_nil, e0, e1, e2, hread _ t0]
    exact ht _ (ht _ t0)
  refine ⟨?_, by decide +kernel, by decide +kernel⟩
  rw [admitSession_touched hm.1 rfl tt rfl]
  have hc : ∀ k ∈ [GridKind.action, .reasoning], checkTemplate images 0 k 0x4000 = .ok (desc1, header1) := by
    simp only [checkTemplate, checkImage, iaMapped, readRanges, hr, hb]
    decide +kernel
  simp only [admitSession, e0, e1, e2, hc _ (List.mem_cons_self), hc _ (List.mem_cons_of_mem _ List.mem_cons_self)]
  decide +kernel

/-- A closing session without a job; an ACTIVE one whose host has been gone for 64 periods. -/
theorem witness_Sessions :
    (let s : State := { one with sessions := [ses 2 0] }
     (s.session 0 3).state = 2 ∧ (s.grids.all fun g => !g.isJob) = true) ∧
    (let s : State := { one with sessions := [{ ses 1 0 with words := entryWords }], nowPs := 2 ^ 26 * 1000 }
     (s.session 0 3).state = 1 ∧ s.hostIf.valid = false ∧ max s.hostIf.lapsedAt 0 + 64 * (s.session 0 3).field 3 0 32 ≤ s.now) := by
  decide +kernel
/-- A part whose host holds the lease on port 0. -/
def held1 : State := { one with hostIf := { valid := true } }

/-- A part that is off and one that runs; a request of the holder with a buffer in the vaults and one outside; a report in
the making. -/
theorem witness_BootAndResets :
    (State.reset.boot = .off ∧ one.boot ≠ .off) ∧
    (held1.isHolder 0 = true ∧ (1 : Word).getLsbD 0 = true ∧ held1.hostIf.attBusy = [] ∧
      (held1.reg (hifReg 0 0xA0)).toNat / 2 ^ 12 * 2 ^ 12 + 2676 ≤ 2 ^ 33) ∧
    (let s := held1.setReg (hifReg 0 0xA0) 0x1FFFFF000
     s.isHolder 0 = true ∧ s.hostIf.attBusy = [] ∧ (s.reg (hifReg 0 0xA0)).toNat / 2 ^ 12 * 2 ^ 12 + 2676 ≤ 2 ^ 33) ∧
    (let s := held1.setReg (hifReg 0 0xA0) 0x200000000
     s.isHolder 0 = true ∧ s.hostIf.attBusy = [] ∧ 2 ^ 33 < (s.reg (hifReg 0 0xA0)).toNat / 2 ^ 12 * 2 ^ 12 + 2676) ∧
    (let s : State := { held1 with hostIf := { valid := true, attBusy := [(0, 0, [])] } }
     (s.hostIf.attBusy.find? fun y => y.1 == 0) = some (0, 0, [])) ∧ 63 < 64 := by decide +kernel

/-- A free lease, one held by port 0 and one by port 1, which took it before and at the same instant; a part in recovery; an expiry with the other port armed and not; links;
a window's write at the top of the vaults; a doorbell that goes back, one that fills the ring, one that overruns it, one from
another port and one in overrun; a queue's update. -/
theorem witness_LeaseAndHostQueues :
    (one.boot = .running ∧ one.hostIf.valid = false) ∧
    (held1.boot = .running ∧ held1.hostIf.valid = true ∧ held1.hostIf.holder = 0 ∧ (1 : Nat) ≠ 0) ∧
    (let s : State := { one with hostIf := { valid := true, holder := 1 } }
     s.boot = .running ∧ s.hostIf.valid = true ∧ s.hostIf.holder ≠ 0 ∧ s.hostIf.takenAt ≠ some s.nowPs) ∧
    (let s : State := { one with hostIf := { valid := true, holder := 1, takenAt := some 0 } }
     s.boot = .running ∧ s.hostIf.valid = true ∧ s.hostIf.holder ≠ 0 ∧ s.hostIf.takenAt = some s.nowPs) ∧
    (({ one with boot := .recovery } : State).boot = .recovery) ∧
    (held1.hostIf.exp ≤ held1.now ∧ ((held1.setReg (hifReg 1 0x20) 1).reg (hifReg (1 - 0) 0x20)).getLsbD 0 = true ∧
      (held1.reg (hifReg 1 0x20)).getLsbD 0 = false) ∧
    (held1.hostIf.up0 = true ∧ held1.boot ≠ .held ∧ held1.boot ≠ .recovery ∧ 2 ^ 33 - 1 + [(7 : Byte)].length ≤ 2 ^ 33) ∧
    (let s : State := { held1 with queues := [{ queue1 with q := 0, last := 3 }] }
     let q := s.queue (queueSel s)
     q.state = 1 ∧ q.last = 3 ∧ s.isHolder 0 = true ∧ (2 : Word).toNat < q.last ∧ (32 : Word).toNat - q.ri ≤ ringSize q.cfg ∧
     ringSize q.cfg < (33 : Word).toNat - q.ri ∧ s.isHolder 1 = false) ∧
    (({ held1 with queues := [{ queue1 with q := 0, state := 2 }] } : State).queue 0).state = 2 ∧
    ([1, 32, 33].all fun w =>
      let s := (held1.setReg (csqReg 63 0x68) 0x10).store vaultBase 8 w
      (s.reg (csqReg 63 0x68)).getLsbD 4 && decide ((tabGet? s.csqSeen 63).getD 0 < s.load vaultBase 8) && !(s.reg (csqReg 63 0x70)).getLsbD 0) = true := by decide +kernel

/-- A claim of resource `res` held by `owner`, with a claimant that waits. -/
def claimed (res owner : Nat) (pending : Option Nat) : State := { one with claims := [⟨res, true, owner, pending, none⟩] }

/-- The first and the last resource, free; one taken at this instant; a cluster's resources held below and taken from above, with windows and without;
one that is no cluster's; owners at their releases, and a party that owns nothing. -/
theorem witness_Claims :
    ([1, 135].all fun r => !(one.claim r).held && partyCounts one 0x8000) = true ∧
    (let s : State := { one with claims := [⟨8, true, 0x4002, none, some 0⟩] }
     (s.claim 8).held = true ∧ (s.claim 8).since = some s.nowPs ∧ claimFirst 0x8000 (s.claim 8).owner = true ∧
     claimFirst 0x4001 (s.claim 8).owner = true ∧ partyCounts held1 0x4001 = true ∧ partyCounts one 0x4001 = false) ∧
    ([8, 71, 72, 135].all fun r =>
      let s := claimed r 0x4001 none
      (s.claim r).held && hyperRank 0x8000 && !hyperRank 0x4001 && (claimCluster r).isSome && !histOn s ((claimCluster r).getD 0) &&
      histOn (s.setReg (redReg ((claimCluster r).getD 0) 0) 1) ((claimCluster r).getD 0)) = true ∧
    ([1, 7].all fun r => (claimed r 0x4001 none).owns 0x4001 r && (claimCluster r).isNone) = true ∧
    ((claimed 8 0x8000 none).claim 8).owner = 0x8000 ∧ hyperRank ((claimed 8 0x8000 none).claim 8).owner = true ∧
    (claimed 8 0x4001 none).owns 0x4001 8 = true ∧ (claimed 8 0x4001 (some 0x8000)).owns 0x4001 8 = true ∧
    ((claimed 8 0x4001 (some 0x8000)).claim 8).pending = some 0x8000 ∧ (claimed 8 0x4001 none).owns 0x4002 8 = false := by
  decide +kernel

/-- A cluster whose windows are of one sample of 1000 ns: before the sample and after it; core 0 at the end of its first and of a
later window of 10 us; a latch that holds the counter and one that does not; a part that does not run. -/
theorem witness_HistogramsAndCounters :
    (let s : State := { one.setReg (redReg 0 0) 1 with nowPs := 10000000 }
     histOn s 0 = true ∧ (s.red 0).samples < histLength s 0 ∧ (s.red 0).winStart + (0 + 1) * histPeriod s 0 ≤ s.now) ∧
    ([(0, 1, 10000000), (5, 2, 20000000)].all fun y =>
     let s : State := { one.setReg ⟨.red, 0, 0x300⟩ (BitVec.ofNat 64 (y.1 * 2 ^ 32)) with winNo := y.2.1, nowPs := y.2.2 }
     decide (s.winNo = s.now / 10000) && decide (10000 ≤ s.now) &&
     (decide ((s.reg ⟨.red, 0, 0x300⟩).toNat / 2 ^ 32 % 2 ^ 32 ≠ (s.now / 10000 - 1) % 2 ^ 32) ||
      decide (s.reg ⟨.red, 0, 0x300⟩ = 0))) = true ∧ one.boot = .running ∧ State.reset.boot ≠ .running ∧
    (let s : State := { one.setReg (redReg 0 0) 1 with reds := [{ cluster := 0, samples := 1 }] }
     histOn s 0 = true ∧ histLength s 0 ≤ (s.red 0).samples) ∧
    (let s : State := { one with latches := [(3, BitVec.ofNat 64 (2 ^ 39 + 63 * 2 ^ 32))] }
     let l := (tabGet? s.latches 3).getD 0
     l.getLsbD 39 = true ∧ (l.extractLsb' 32 7).toNat = counterIndex 7 7 % 128 ∧ (l.extractLsb' 32 7).toNat ≠ counterIndex 0 0 % 128) ∧
    ((tabGet? one.latches 3).getD 0).getLsbD 39 = false := by decide +kernel

/-- An island at reset asked for its own point and for too much; one at each phase of a change, and of the throttle's own; one that
is throttled; a part that does not run. -/
theorem witness_Islands :
    requestCode one 511 54 80 = 0 ∧ requestCode one 511 61 80 ≠ 0 ∧ 511 < 512 ∧
    one.boot = .running ∧ State.reset.boot ≠ .running ∧
    ([1, 2, 3].all fun n => (one.setIsland 5 { stage := n }).island 5 == { stage := n } &&
      decide ((({ stage := n } : Island).nextAt ≤ one.nowPs) ∧ ({ stage := n } : Island).forced = false)) = true ∧
    (let x : Island := { stage := 1, forced := true }
     (one.setIsland 5 x).island 5 = x ∧ x.stage ≠ 0 ∧ x.forced = true) ∧
    (one.setIsland 5 { throttled := true }).island 5 = { throttled := true } ∧ 99 < (one.island 5).tHi := by decide +kernel

/-- A session that takes tokens. -/
def tokens1 (state enabled : Nat) (full : Bool) : State :=
  { (if full then one.store vaultBase 8 32 else one) with
    sessions := [ses state 0], eps := [{ session := 3, words := (List.replicate 8 0).set 0 (BitVec.ofNat 64 enabled) }] }

/-- A token that is accepted, one whose ring is full, one of a closed session, one of no session; the longest message and one
that is too long. -/
theorem witness_Tokens :
    ([(1, 1, false), (1, 1, true), (2, 1, false), (1, 0, false)].all fun y =>
      let s := tokens1 y.1 y.2.1 y.2.2
      let e := s.ep 3
      (match primaryOf s 3 with
       | some p =>
         let part := activePart s e p
         (decide (e.field 0 0 1 ≠ 0) && decide ((s.session part 3).state = 1) && !(s.part part).resetting) ==
           (y.1 == 1 && y.2.1 == 1) &&
         (decide (s.load vaultBase 8 - s.load (vaultBase + 8) 8 < 32) == !y.2.2)
       | none => false)) = true ∧
    (primaryOf one 4095).isNone = true ∧ 4095 < 4096 ∧ 3 < 4 ∧ one.boot = .running ∧
    (List.replicate 9000 (0 : Byte)).length ≤ 9000 ∧ 9000 < (List.replicate 9001 (0 : Byte)).length := by
  refine ⟨by decide +kernel, by decide +kernel, by omega, by omega, rfl, List.length_replicate.le, ?_⟩
  rw [List.length_replicate]; omega

/-- A chunk of session 3 on port 2, at an instant. -/
def chunk1 (instant : Nat) (late : Bool) : Chunk :=
  { part := 0, port := 2, session := 3, instant := instant, bytes := [], hold := false, cid := none, late := late }

/-- A chunk that leaves 20 ns after its instant, one that is 21 ns late and one that a time step made late; a job whose end is
mirrored; a session to fail over. -/
theorem witness_EmissionsAndFailover :
    ([(20000, false), (21000, false), (0, true)].all fun y =>
      let s : State := { one with chunks := [chunk1 1 y.2], portFree := [(2, 1000 + y.1)], nowPs := 100000 }
      let start := max (1 * 1000) (max ((tabGet? s.portFree 2).getD 0) 0)
      nextChunk s 2 == some (chunk1 1 y.2) && !holdFirst s (chunk1 1 y.2) && decide (1 * 1000 ≤ s.nowPs) && decide (start ≤ s.nowPs) &&
      (decide (start ≤ 1 * 1000 + 20000) == decide (y.1 ≤ 20000))) = true ∧
    (let g : Grid := { job1 with status := .ended }
     let x : Session := { ses 1 0 with words := (List.replicate 16 0).set 9 0x10 }
     let s : State := { one with grids := [g], sessions := [x] }
     s.grid? 1 = some g ∧ g.kind = .action ∧ (s.session 0 3).field 9 4 1 = 1 ∧ onShadow (s.ep 3) (s.session 0 3) = false ∧
     g.part = 0 ∧ g.session = 3 ∧ g.past = false ∧ g.mirrored = false ∧ (s.part 0).resetting = false ∧ g.missed = false) ∧
    (let s : State := { one with sessions := [ses 1 0], eps := [{ session := 3, failAt := some 0 }] }
     (s.ep 3).failAt = some 0 ∧ (primaryOf s 3).isSome = true) := by decide +kernel

/-- A two-step sync of port 3 that waits for its follow-up, a request of either delay mechanism that waits, a time unit without a
sync for eight intervals, and the least and the largest step. -/
theorem witness_TimeUnitEvents :
    ((({ one with time := { sync := some (3, 0) } } : State).time.sync = some (3, 0) ∧ 3 < 4) ∧
     ({ one with time := { req := some (3, 0) } } : State).time.req = some (3, 0) ∧
     (let s : State := { one with time := { peerReq := some (3, 0), peerResp := some (3, 0, 0) } }
      s.time.peerReq = some (3, 0) ∧ s.time.peerResp = some (3, 0, 0)) ∧
     (0 < (1 : Word).toNat ∧ (0x100000000 : Word).toNat ≤ 2 ^ 32 ∧ (0 : Word).toNat = 0 ∧ 2 ^ 32 < (0x100000001 : Word).toNat)) ∧
    (let s : State := { one with nowPs := (8 * Config.syncInterval) * 1000 }
     s.time.holdover = false ∧ s.time.lastSync + 8 * Config.syncInterval ≤ s.now) := by
  refine ⟨by decide +kernel, rfl, ?_⟩
  generalize Config.syncInterval = n
  simp only [State.now, Nat.mul_div_cancel _ (by decide : 0 < 1000)]
  exact (Nat.zero_add (8 * n)).le

/-- Words of the tables of partition 0: the root table at 0x8000, then 0x10000, 0x20000 and 0x21000, where page 0 is
mapped to host frame 0, page 1 to near frame 1 and the next 16 pages by one leaf of level 2. -/
def mapped : State :=
  { words (one.setReg (xltpReg 0 0) 0x8000000000008000)
      [(0x8000, 0x10000), (0x8004, 0x80000000), (0x10000, 0x20000), (0x10004, 0x80000000), (0x20000, 0x21000),
       (0x20004, 0x80000000), (0x2000C, 0xC0000000), (0x21004, 0xC4000000), (0x21008, 0x80000), (0x2100C, 0xC0000000)] with
    leaves := [], hostIf := { up0 := true, up1 := true } }

/-- A swap of those two pages, with `n` lines done. -/
def swap1 (n : Nat) : Swap := { part := 0, farIa := 0, nearIa := 0x80000, farPte := 0x21000, nearPte := 0x21008, done := n }

/-- A range entry of a context that does not exist, of one that does and does not run, of one that runs; an entry that the
limits refuse; an invalidation with one pending and without; a swap that can start, a leaf that is no 512 KiB leaf, a swap's
last and its next line; a clear that has a frame. -/
theorem witness_TranslationSwapAndClear :
    ((one.setReg (xltcReg 0 0x30) 7).ctx? ((((one.setReg (xltcReg 0 0x30) 7).reg (xltcReg 0 0x30)).toNat) % 2 ^ 32) = none) ∧
    ([(CtxStatus.trapped, false), (.ready, true)].all fun y =>
      let s := (with1 { seq1 with status := y.1 }).setReg (xltcReg 0 0x30) 1
      (match s.ctx? ((s.reg (xltcReg 0 0x30)).toNat % 2 ^ 32) with
       | some c => decide (c.status ≠ .ended) && (c.part == s.partOfCluster 0) && rangeOk c.part (0, 0x80000, 0, 0xC) &&
         !rangeOk c.part (1, 0x80000, 0, 0xC) && (ctxRuns c == y.2)
       | none => false)) = true ∧
    ((one.part 0).invGran = none ∧ (({ one with parts := [{ part := 0, invGran := some (0, 1) }] } : State).part 0).invGran = some (0, 1) ∧
      one.supWaits 0 = false) ∧
    (let s := (mapped.setReg (xltpReg 0 0x28) 0x80000)
     s.swapOf 0 = none ∧ walk s 0 0 = .leaf 3 0xC400000000000000 0x21000 ∧ walk s 0 0x80000 = .leaf 3 0xC000000000080000 0x21008 ∧
     pteH 0xC400000000000000 = true ∧ pteH 0xC000000000080000 = false ∧
     walk s 0 (2 ^ 23) = .leaf 2 0xC000000000000000 0x20008) ∧
    ([0, 8191].all fun n => 
      let s : State := { mapped with swaps := [swap1 n] }
      s.swapOf 0 == some (swap1 n) && (pteAt s 0x21000).isSome && (pteAt s 0x21008).isSome) = true ∧
    (∀ n f, hostDown { mapped with swaps := [swap1 n] } f = false) ∧
    (({ one with clear := [⟨0, 0, 0, []⟩] } : State).clear.find? fun f => f.part == 0) = some ⟨0, 0, 0, []⟩ := by
  refine ⟨?_, ?_, ?_, ?_, ?_, fun n f => ?_, ?_⟩
  · decide +kernel
  · decide +kernel
  · decide +kernel
  · decide +kernel
  · decide +kernel
  · cases h : Config.hostPort f <;> simp [hostDown, h, mapped]
  · decide +kernel

/-- A line of cluster 0. -/
def line1 (dirty : BitVec 64) : CacheLine :=
  { cluster := 0, part := 0, line := 0x40, data := List.replicate 64 0, valid := -1#64, dirty := dirty, nc := false, key := 0x40,
    writers := [] }

/-- A request of bank 3, row 9, in the queue of position 1. -/
def req1 : ChanReq := { tenant := none, cls := 0, pos := some 1, bank := 3, row := 9, line := 0 }

/-- The release of a posted line, with an engine-queue command of a scope. -/
def relCmd (scope : Nat) : Cmd := eng (.ebar .e (W (0x5400087817800240 + BitVec.ofNat 64 (4 * scope)))) .none []

/-- The bytes that core 0 has posted to line 0x40. -/
def posted1 : PostedLine :=
  { core := 0, ctx := 1, part := 0, line := 0x40, data := List.replicate 64 7, mask := 1, nc := false, key := 0x40 }

/-- A directory entry of that line's home. -/
def entryAt (n : Nat) : DirEntry := ⟨0, 0x40 + 0x400 * n, [(0, false)], false, 8192, false⟩

/-- An atomic on line 0x40 of page 0, which here can be read and written. -/
def atomic1 : State :=
  { images with
    mem := images.mem.map fun c => if c.1 == 0x2087 then (0x2087, 0xF0) else c
    cmds := [eng (.amo .m0 (W 0x4cc0087813813800)) (.off 0) [0x40, 1]], grids := [grid1]
    ctxs := [{ seq1 with live := [(0, 0x80000, 0, 0xC)] }] }

/-- A line that can be fetched, with no copy and with one that is valid in part; the release that posts a line's first dirty
byte, and the one that writes a dirty copy home; a copy that is clean and one that is dirty; an atomic that writes its line at
home; a full set, one of whose entries a release displaces. -/
theorem witness_CachesAndChannels_lines :
    ((images.copyIn 0 0x40).isNone = true ∧ (linePlace images 0 0x40).2.isSome = true) ∧
    (let s : State := { images with lines := [{ line1 0 with valid := 1 }] }
     ((s.copyIn 0 0x40).map (·.valid)) ≠ some (BitVec.allOnes 64) ∧ (linePlace s 0 0x40).2.isSome = true) ∧
    (let s : State := { withCmds [relCmd 0] with posted := [posted1], lines := [line1 0] }
     ((s.copyIn 0 0x40).map (·.dirty)).getD 0 = 0 ∧ postedIn s 0 0x40 = true ∧
     (match cmdNext s (relCmd 0) with | some u => !postedIn u 0 0x40 | none => false) = true) ∧
    (let s : State := { withCmds [relCmd 2] with lines := [line1 1] }
     s.copyIn 0 0x40 = some (line1 1) ∧ (relCmd 2).releases = true ∧ clusterOf (relCmd 2).core = 0 ∧
     (match cmdNext s (relCmd 2) with | some u => !dirtyIn u 0 0x40 | none => false) = true) ∧
    ([0, 1].all fun d => (({ one with lines := [line1 d] } : State).copyIn 0 0x40) == some (line1 d)) = true ∧
    (match atomic1.cmds with
     | [y] => (match homeWriter atomic1 y with | some u => wroteHome atomic1 u y 0x40 | none => false)
     | _ => false) = true ∧
    (let s : State := { withCmds [relCmd 0] with posted := [posted1], lines := [line1 0], dir := [1, 2, 3, 4].map entryAt }
     (entriesOf s 0x1040).length = 1 ∧ isVictim s (entryAt 4) = true ∧ entriesOf s 0x1040 = [] ++ entryAt 4 :: [] ∧
     (match cmdNext s (relCmd 0) with | some u => displaces s u (entryAt 4) | none => false) = true) := by decide +kernel

/-- An idle channel's turn, the turn that reaches the threshold, a bank at the end of its 320 ns and of its first refresh window;
a store below 2^48 that a page maps, one in the vaults, one in an instruction store. -/
theorem witness_CachesAndChannels :
    (turnServes one (one.chan 7 31)).isNone = true ∧
    (let c : Chan := { stack := 7, ch := 31, reqs := [req1], rows := [(3, 9, 1023)] }
     let s : State := { one with chans := [c] }
     s.chan 7 31 = c ∧ turnServes s c = some req1 ∧ activates c req1 = true ∧ rowCount c 3 9 + 1 = (s.reg ⟨.mrv, 7, 0x1010⟩).toNat) ∧
    (let s : State := { one with chans := [{ stack := 7, ch := 31, busy := [(3, 0)] }], nowPs := 320000 }
     ((s.chan 7 31).busy.find? fun b => b.1 == 3) = some (3, 0) ∧ 0 + 320000 ≤ s.nowPs) ∧
    (({ one with nowPs := 32000000000 } : State).nowPs = 32000000000 ∧
     (((tabGet? (one.chan 7 31).windows 31).getD 0) + 1) * 32000000000 ≤ 32000000000) ∧
    ((supStore images 0 0x7FFFF [1] ([1].length + 1)).isSome = true ∧ 0x7FFFF + 1 ≤ 2 ^ 48) ∧
    (∃ s1 lv e0 at' e, lookupLeaf images 0 0 0x7FFFF = (s1, .leaf lv e0 at') ∧ swapEntry s1 0 0x7FFFF e0 = .ok e ∧
      0x7FFFF % 64 + [(1 : Byte)].length ≤ 64 ∧ (pteH e = true → hostDown s1 (pteAddr e) = false)) ∧
    (vaultOk 0 (2 ^ 60 - 2 ^ 60) = true ∧ vaultOk 0 (2 ^ 60 - 2 ^ 60 + (8 - 1)) = true) ∧
    (vaultOk 0 (2 ^ 61 - 2 ^ 60) = false ∧ 2 ^ 61 - 2 ^ 61 + 2 ^ 21 ≤ 2 ^ 21) := by
  refine ⟨?_, ?_, ?_, ?_, ?_, ⟨_, 3, 0xC000000000000000, 0x2080, 0xC000000000000000, rfl, ?_⟩, ?_, ?_⟩
  all_goals decide +kernel

/-- A part whose partitions are configured so. -/
def config1 (cfg : Nat) : State := one.setReg (prtReg 0x1000) (BitVec.ofNat 64 cfg)

/-- A partition that can reset and one that resets; errors in each store, at a clean and at a dirty line; each command where it
begins, where PRT_CFG does not fit and where a session is not FREE; a command under way, quiet, not quiet in time, and at its
flush. -/
theorem witness_ResetsErrorsAndPartitions :
    (partPresent one.prtCfg 3 = true ∧ (one.part 3).resetting = false ∧ partPresent (config1 7).prtCfg 6 = true) ∧
    ((({ one with parts := [{ part := 0, resetting := true }] } : State).part 0).resetting = true ∧
     (({ one with parts := [{ part := 0, resetting := true }] } : State).part 0).imageBad = false) ∧
    ([0, 1].all fun d => (({ one with lines := [line1 d] } : State).copyIn 0 0x40) == some (line1 d)) = true ∧
    ([(1, 0, 0, 3), (1, 1, 0, 3), (2, 0, 3, 0), (2, 1, 3, 0), (3, 0, 3, 0), (4, 0, 7, 0)].all fun y =>
      let fits := config1 y.2.2.1
      let not' := config1 y.2.2.2
      let inUse : State := { fits with sessions := [{ ses 1 0 with part := ((concerned y.1 y.2.1)[0]?).getD 0 }] }
      let busy (s : State) : Bool := s.sessions.any fun x => (concerned y.1 y.2.1).contains x.part && x.state != 0
      fits.partCmd.isNone && (newCfg fits.prtCfg y.1 y.2.1).isSome && !busy fits && (newCfg not'.prtCfg y.1 y.2.1).isNone &&
      (newCfg inUse.prtCfg y.1 y.2.1).isSome && busy inUse) = true ∧
    (let s : State := { one with partCmd := some ⟨1, 0, 1, 0⟩, grids := [], queues := [] }
     unquiet s (concerned 1 0) = none) ∧
    (let s : State := { one with partCmd := some ⟨1, 0, 1, 0⟩, nowPs := 10 ^ 12 }
     (unquiet s (concerned 1 0)).isSome = true ∧ 0 + quiesceLimit s ≤ s.nowPs) ∧
    (let s : State := { one with partCmd := some ⟨1, 0, 2, 0⟩ }
     (newCfg s.prtCfg 1 0).isSome = true) := by decide +kernel

/-- A part that runs and one that does not; a supervisor that waits and one that does not; a party that is the cluster's supervisor and one that is not; the last register of
a stack's map; a block that the party does not own. -/
theorem witness_RegisterWrites :
    one.boot = .running ∧ State.reset.boot ≠ .running ∧ Block.sup ≠ Block.hif ∧ Party.supervisor 63 ≠ Party.gaffer ∧
    (7 < 8 ∧ 0xFFC < 0x1000 ∧ 0xFFC % 4 = 0) ∧ (counterOff 0 = false ∧ partyOwns one .gaffer (72 + 63) = false) ∧
    one.supWaits 63 = false ∧ ({ one with resolving := [(63, 1)] } : State).supWaits 63 = true ∧
    held1.isHolder 1 = false ∧ Block.prt ≠ Block.hif := by
  decide +kernel

/-- A core's share of a step keeps the domains. -/
theorem passStep_domains (s : State) (k core : Nat) : (passStep s k core).domains = s.domains := by
  have hr : ∀ (t : State) x n, (romGoesOn t x n).domains = t.domains := fun t x n => by
    unfold romGoesOn
    split
    · split <;> rfl
    · rfl
  have hp : ∀ (t : State) n, (passCycles t core n).domains = t.domains := fun t n => by
    unfold passCycles chargeCore holdCounters
    split
    · rfl
    split
    · rfl
    have hs : ∀ (t : State) c, (t.setCore core c).domains = t.domains := fun _ _ => rfl
    have hd : ∀ (t : State) r, (t.setRed r).domains = t.domains := fun _ _ => rfl
    split <;> dsimp only <;> split <;> simp only [hs, hd, hr]
  have hc : ∀ t : State, (closeWindow t core).domains = t.domains := fun t => rfl
  unfold passStep
  dsimp only
  split
  · exact hp _ _
  split <;> simp only [hp, hc]

/-- A step of a part with a domain. -/
theorem witness_StalledDomainsAreTimed :
    ∃ t, step { State.reset with domains := [dom1] } = .next t ∧ t.domains.length = 1 :=
  ⟨_, rfl, by
    simp only [advance, tickDomains, List.length_map]
    have h : ∀ (l : List Nat) (f : State → Nat → State) (s : State), (∀ t i, (f t i).domains = t.domains) →
        (l.foldl f s).domains = s.domains := fun l f s hf => by
      induction l generalizing s with
      | nil => rfl
      | cons a l ih => exact (ih _).trans (hf _ _)
    rw [h _ _ _ fun t i => passStep_domains _ _ _]
    rfl⟩

/-! ### Off-core and engine commands -/

/-- Range entries of page 0 and of the vaults' first bytes, both to be read and written. -/
def farEntry : BitVec 64 × BitVec 64 × BitVec 64 × BitVec 64 := (0, 0x80000, 0, 0xC)
def vaultEntry : BitVec 64 × BitVec 64 × BitVec 64 × BitVec 64 := (0x100000, 0x80000, 0, 0xD)

/-- An off-core command of that sequencer, and the machine in which its turn has come. -/
def offCmd (i : Instr) (args : List Word) : Cmd := eng i (.off 0) args
def offAt (x : Cmd) (poison : List Nat := []) : State :=
  { atomic1 with cmds := [x], ctxs := [{ seq1 with live := [farEntry, vaultEntry] }], poison := poison }

/-- Its turn has come, and a condition holds. -/
def turns (x : Cmd) (poison : List Nat) (p : State → Bool) : Bool :=
  let s := offAt x poison
  decide (s.cmd? 1 = some x) && s.offReady x && p s

/-- The fields of a command with a modifier. -/
def F (m : BitVec 7) : Fields := { W 0x2c40087810010000 with mod := m }

/-- What a resolution comes to, and what a read comes to. -/
def placedAt (r : State × FarRes) : Option Place := match r.2 with | .place pl => some pl | _ => none
def faulted (r : State × FarRes) : Option Nat := match r.2 with | .fault code _ _ => some code | _ => none
def isOk {α β : Type} : Except α β → Bool
  | .ok _ => true
  | .error _ => false

/-- Loads and stores of a vault and of a far address, in a task and in none, each outside its space; a load of poisoned data; one
that a speculative task defers. -/
theorem witness_OffcoreResults :
    (let x := offCmd (.fld .m0 (F 1)) [0]
     turns x [] fun s => vaultOk 0 0 && vaultOk 0 ((fmtOf (F 1)).bytes - 1) && x.task.isNone && isOk (readBytes s vaultBase 2)) = true ∧
    (let x := offCmd (.fld .m0 (F 0)) [0x100000]
     turns x [] fun s => match placedAt (resolveFar s (s.cmdCtx x) 0x100000 .read) with
       | some pl => isOk (cmdRead s x pl (fmtOf (F 0)).bytes).2
       | none => false) = true ∧
    (let x := offCmd (.fld .m0 (F 1)) [2 ^ 33]
     turns x [] fun _ => !x.ord && !vaultOk 0 (2 ^ 33)) = true ∧
    (let x := offCmd (.fld .m0 (F 0)) [0x80000]
     turns x [] fun s => faulted (resolveFar s (s.cmdCtx x) 0x80000 .read) == some 6) = true ∧
    (let x := offCmd (.fld .m0 (F 1)) [0]
     turns x [eccBase vaultBase] fun s => !isOk (readBytes s vaultBase (fmtOf (F 1)).bytes)) = true ∧
    (let x := offCmd (.fld .m0 (F 0)) [0x100000]
     turns x [eccBase vaultBase] fun s => match placedAt (resolveFar s (s.cmdCtx x) 0x100000 .read) with
       | some pl => !isOk (cmdRead s x pl (fmtOf (F 0)).bytes).2
       | none => false) = true ∧
    (let x := { offCmd (.fld .m0 (F 0)) [0] with ord := true, task := some 0 }
     let s : State := { spec1 { state := .running, task := some (entryOf 2), ctx := 1 } [entryOf 1] with cmds := [x] }
     s.cmd? 1 = some x ∧ s.offReady x = true ∧ faulted (resolveFar s (s.cmdCtx x) 0 .read) = some 6 ∧
     (s.slot 0 0).task = some (entryOf 2) ∧ s.nonSpec (s.ctx 1).part (entryOf 2) = false) ∧
    ([none, some 0].all fun t =>
      let x := { offCmd (.fst .m0 (F 1)) [0, 7] with task := t }
      turns x [] fun _ => vaultOk 0 0 && !x.ord) = true ∧
    ([(none, false), (some 0, false), (none, true)].all fun y =>
      let x := { offCmd (.fst .m0 (F 0)) [0, 7] with task := y.1, ord := y.2 }
      turns x [] fun s => (placedAt (resolveFar s (s.cmdCtx x) 0 .write)).any fun pl => !pl.vault) = true ∧
    (let x := offCmd (.fst .m0 (F 1)) [2 ^ 33, 7]
     turns x [] fun _ => !vaultOk 0 (2 ^ 33)) = true ∧
    (let x := offCmd (.fst .m0 (F 0)) [0x80000, 7]
     turns x [] fun s => faulted (resolveFar s (s.cmdCtx x) 0x80000 .write) == some 6) = true := by decide +kernel

/-- fldv and fstv of a line, at their start and at their end, in a vault and far; a run outside the banks; a poisoned source. -/
theorem witness_OffcoreResults_lines :
    (let x := offCmd (.fldv .m0 (F 1)) [0, 0]
     turns x [] fun s => (ownRange s (s.cmdCtx x) 0 (lineBytes (F 1))).isSome && !x.started && vaultOk 0 0 && vaultOk 0 63 &&
       isOk (readBytes s vaultBase 64)) = true ∧
    (let x := offCmd (.fldv .m0 (F 0)) [0, 0x100000]
     turns x [] fun s => (readLines s x false 0x100000 1).2.isSome) = true ∧
    (let x := { offCmd (.fldv .m0 (F 0)) [0, 0x100000] with started := true }
     turns x [] fun s => (ownRange s (s.cmdCtx x) 0 (lineBytes (F 0))).isSome) = true ∧
    ([Instr.fldv .m0 (F 0), .fstv .m0 (F 0)].all fun i =>
      let x := offCmd i [0x20000, 0]
      turns x [] fun s => (ownRange s (s.cmdCtx x) 0x20000 (lineBytes (F 0))).isNone && !x.ord) = true ∧
    ([(0, false), (1, true), (0, true)].all fun (y : BitVec 7 × Bool) =>
      let x := { offCmd (.fstv .m0 (F y.1)) [0, if y.1 = 1 then 0 else 0x100000] with started := y.2 }
      turns x [] fun s => (ownRange s (s.cmdCtx x) 0 (lineBytes (F y.1))).any fun ks =>
        isOk (readKeys s (memGet s.mem) ks) && lineBytes (F y.1) == 64 &&
        (!x.started || (writeLines s x (y.1 == 1) (x.arg 1) (List.replicate 64 0) 1).2)) = true ∧
    (let x := offCmd (.fstv .m0 (F 0)) [0, 0]
     turns x [eccBase spm1] fun s => (ownRange s (s.cmdCtx x) 0 64).any fun ks => !isOk (readKeys s (memGet s.mem) ks)) = true := by
  decide +kernel

/-- Each atomic; a compare that holds, one that is not asked for, and one that fails; an atomic at an address without a range and
at poisoned data. -/
theorem witness_OffcoreResults_atomics :
    ((List.range 8).all fun op =>
      let x := offCmd (.amo .m0 (F (BitVec.ofNat 7 (4 * op)))) [0x100000, 5]
      turns x [] fun s => ((F (BitVec.ofNat 7 (4 * op))).mod.extractLsb' 2 3).toNat == op &&
        (match placedAt (resolveFar s (s.cmdCtx x) 0x100000 .atomic) with
         | some pl => isOk (readBytes (mscTouch s 0 (ctxReq s 1 none) .atomic pl.key) pl.key (fmtOf (F 0)).bytes)
         | none => false)) = true ∧
    ([(4, 9), (0, 0), (0, 9)].all fun (y : BitVec 7 × Word) =>
      let x := offCmd (.amocas .m0 (F y.1)) [0x100000, 5, y.2]
      turns x [] fun s => (placedAt (resolveFar s (s.cmdCtx x) 0x100000 .atomic)).isSome && memGetList s.mem vaultBase 8 == List.replicate 8 0) = true ∧
    ([Instr.amo .m0 (F 0), .amocas .m0 (F 0)].all fun i =>
      (let x := offCmd i [0x80000, 5, 0]
       turns x [] fun s => faulted (resolveFar s (s.cmdCtx x) 0x80000 .atomic) == some 6 && !x.ord) &&
      (let x := offCmd i [0x100000, 5, 0]
       turns x [eccBase vaultBase] fun s => match placedAt (resolveFar s (s.cmdCtx x) 0x100000 .atomic) with
         | some pl => !isOk (readBytes (mscTouch s 0 (ctxReq s 1 none) .atomic pl.key) pl.key (fmtOf (F 0)).bytes)
         | none => false)) = true := by decide +kernel

/-- A probe of no byte, of one page, of a page that is not mapped, and of an address without a range; a maintenance of no byte, of
a line that is not cached, and of one that is, clean and dirty. -/
theorem witness_OffcoreResults_probes :
    (let x := offCmd (.probe .m0 (F 0)) [0, 0]
     turns x [] fun _ => decide (x.arg 1 ≤ x.progress)) = true ∧
    (let x := offCmd (.probe .m0 (F 0)) [0, 0x80000]
     turns x [] fun s => (placedAt (resolveFar s (s.cmdCtx x) 0 .read)).isSome && decide (x.arg 1 ≤ x.progress + (2 ^ 19 - 0 % 2 ^ 19))) = true ∧
    (let x := offCmd (.probe .m0 (F 0)) [0, 1]
     let s : State := { offAt x with mem := [] }
     s.cmd? 1 = some x ∧ s.offReady x = true ∧ faulted (resolveFar s (s.cmdCtx x) 0 .read) = some 1) ∧
    (let x := offCmd (.probe .m0 (F 0)) [0x80000, 1]
     turns x [] fun s => faulted (resolveFar s (s.cmdCtx x) 0x80000 .read) == some 6) = true ∧
    ([Instr.cwb .m0 (F 0), .cinv .m0 (F 0), .cwbi .m0 (F 0)].all fun i =>
      (let x := offCmd i [0x40, 0]
       turns x [] fun _ => x.arg 1 == 0) &&
      (let x := offCmd i [0x40, 64]
       turns x [] fun s => decide (0 < x.arg 1) && decide (0x40 % 64 + x.arg 1 ≤ 64) && (ncLine s x 0x40).isNone) &&
      [0, 1].all fun d =>
        let x := offCmd i [0x40, 64]
        let l := { line1 d with nc := true }
        let s : State := { offAt x with lines := [l] }
        decide (s.cmd? 1 = some x) && s.offReady x && decide (ncLine s x 0x40 = some l)) = true := by decide +kernel

/-- An atomic through a tiered range entry, in a sequencer without a task. -/
theorem witness_OffcoreResults_tiered :
    let s := with1 { seq1 with live := [(0, 0x80000, 0, 0x1C)] }
    issues (.amo .m0 (W 0x4cc0087813813800)) s = true ∧ issues (.amocas .m0 (W 0x50c0087813813800)) s = true ∧
    alignDown (farOp s .m0 (W 0x4cc0087813813800).k1 (W 0x4cc0087813813800).src1) 4 = 0 ∧ (rangeHit s.curCtx 0).any (·.tiered) = true := by
  decide +kernel

/-- An engine command of that sequencer that can complete, and the machine that holds it. -/
def engCmd (i : Fields → Instr) (q : Queue) (args : List Word) : Cmd := { eng (i (F 0)) q args with started := true, count := 1000000 }
def engAt (x : Cmd) (p : State → Bool) : Bool :=
  let s := withCmds [x]
  decide (s.cmd? 1 = some x) && engReady s x && p s

/-- What a read of the scratchpad comes to. -/
def readsOk : MemRes → Bool
  | .ok _ => true
  | _ => false

/-- The commands that have no data; a copy into the side store of no byte and of one; an accumulator block of a word read, stored
and drained, in which the words are then cleared or stay. -/
theorem witness_EngineResults_accumulators :
    ([engCmd (.ebar .e) .none [], engCmd (.ecancel .e) .none [], engCmd (.aclr .e) .mq [0, 0], engCmd (.aclr .e) .mq [127, 1]].all
      fun x => engAt x fun _ => true) = true ∧
    (engAt (engCmd (.smcopy .e) .mq [0, 0]) fun _ => bitsOf ((engCmd (.smcopy .e) .mq [0, 0]).word 0) 48 15 == 0) = true ∧
    (let x := engCmd (.smcopy .e) .mq [0, 0x0001000000000000]
     engAt x fun s => bitsOf (x.word 0) 48 15 == 1 && readsOk (spmRead (srcView s x) (s.cmdCtx x) 0 1)) = true ∧
    (let x := engCmd (.accld .e) .mq [0, 0]
     engAt x fun s => readsOk (spmRead (srcView s x) (s.cmdCtx x) 0 4)) = true ∧
    (let x := engCmd (.accst .e) .mq [0, 0]
     engAt x fun s => (spmRange s (s.cmdCtx x) 0 4).isSome) = true ∧
    ([0, 2].all fun m =>
      let x := { engCmd (.adrain .e) .mq [0, 0, 0x100000, 0] with instr := .adrain .e (F m) }
      engAt x fun s => x.mods == m && (spmRange s (s.cmdCtx x) 0 1).isSome) = true := by decide +kernel

/-- Loads of a routine: one of a ROM routine's number, and one of a routine of one END. -/
theorem witness_EngineResults_mload :
    (let x := engCmd (.mload .e) .mq [0, 0]
     engAt x fun _ => decide (¬32 ≤ bitsOf (x.word 0) 0 6)) = true ∧
    (let x := engCmd (.mload .e) .mq [0, 0x10020]
     engAt x fun s => bitsOf (x.word 0) 0 6 == 32 && bitsOf (x.word 0) 16 11 == 1 && bitsOf (x.word 0) 6 10 == 0 &&
       bitsOf (x.word 0) 27 37 == 0 && (s.core 0).store.isEmpty && decide (1 ≤ 1024 - (s.core 0).usedOps) &&
       readsOk (spmRead (srcView s x) (s.cmdCtx x) 8 8)) = true ∧ uopOk 1 0 0 = true := by decide +kernel

/-- A source byte that was the same when its mover began. -/
theorem movedByte_same {s : State} {snap : List Host.Cell} {k : Nat} {v : Byte} (h : memGet snap k = v) (h' : memGet s.mem k = v) :
    movedByte s snap k = v := by
  unfold movedByte
  split <;> assumption

/-- A load of a routine whose one micro-op is a NOP. -/
def badLoad : Cmd := { engCmd (.mload .e) .mq [0, 0x10020] with snap := [(spm1 + 15, 0x10)] }
def badAt : State := { withCmds [badLoad] with mem := [(spm1 + 15, 0x10)] }

theorem witness_EngineResults_badLoad :
    badAt.cmd? 1 = some badLoad ∧ engReady badAt badLoad = true ∧ uopOk 1 0 0x1000000000000000 = false ∧
    (match spmRead (srcView badAt badLoad) (badAt.cmdCtx badLoad) 8 8 with
     | .ok bs => ofBytesLE bs == 0x1000000000000000
     | _ => false) = true := by
  have h : srcView badAt badLoad = { badAt with loose := [] } := by
    have hm : movedByte badAt badLoad.snap (spm1 + 15) = 0x10 := movedByte_same (by decide +kernel) (by decide +kernel)
    have hl : badLoad.snap.map (·.1) ++ (badAt.mem.map (·.1)).filter (· ≥ spmBase) = [spm1 + 15, spm1 + 15] := by decide +kernel
    unfold srcView
    rw [hl]
    simp only [List.foldl_cons, List.foldl_nil, hm]
    decide +kernel
  rw [h]
  decide +kernel

/-- Copies, gathers, scatters and multicasts of no byte and of one, a copy from outside the banks, and the one byte's place. -/
theorem witness_EngineResults_movers :
    (let x := engCmd (.ncopy .e) .xq [0]
     engAt x fun s => (copyRun s {} x (ncopyHop x) 0 (ncopyTotal x)).2.2 == none) = true ∧
    (let x := engCmd (.ncopy .e) .xq [0, 0, 64, 0x0001000100010001, 0x00010001]
     engAt x fun s => ncopyTotal x == 1 && ((List.range 6).all fun t => ncopyCount x t == 1) &&
       (copyRun s {} x (ncopyHop x) 0 1).2.2 == none) = true ∧
    (let x := engCmd (.ncopy .e) .xq [0, 0x20000, 64, 0x0001000100010001, 0x00010001]
     engAt x fun s => (copyRun s {} x (ncopyHop x) 0 1).2.2.isSome) = true ∧
    ([Instr.egath .e (F 0), .escat .e (F 0)].all fun i =>
      let x := { engCmd (.egath .e) .xq [0] with instr := i }
      engAt x fun _ => bitsOf (x.word 2) 48 16 == 0) = true ∧
    ([Instr.egath .e (F 0), .escat .e (F 0)].all fun i =>
      let x := { engCmd (.egath .e) .xq [0, 64, 0, 0x0001000100000000, 0] with instr := i }
      engAt x fun s => bitsOf (x.word 2) 48 16 == 1 && bitsOf (x.word 2) 32 16 == 1 && ownForm (bitsOf (x.word 1) 0 32) &&
        isOk (idxList s x) && (copyRun s {} x (fun j => if i = .escat .e (F 0) then ⟨0, j, 0, 64 + j⟩ else ⟨0, 64 + j, 0, j⟩) 0 1).2.2 == none) = true ∧
    ([Instr.mcast .e (F 0), .mcastb .e (F 0)].all fun i =>
      (let x := { engCmd (.mcast .e) .xq [0] with instr := i }
       engAt x fun _ => bitsOf (x.word 1) 0 32 == 0) &&
      (let x := { engCmd (.mcast .e) .xq [0, 0x4000000000, 0x100000001, 1] with instr := i }
       engAt x fun s => bitsOf (x.word 1) 0 32 == 1 && maskMembers (x.word 2) == [0] &&
         ((ownRange s (s.cmdCtx x) 0 1).any fun ks => isOk (readKeys s (movedByte s x.snap) ks)) &&
         (spmRange s (s.cmdCtx x) (2 ^ 31 + bitsOf (x.word 0) 32 20) 1).isSome)) = true := by decide +kernel

/-- Tiles of no element and of one, in a vault; a collective's result of no byte and of one, and one that it first fixes. -/
theorem witness_EngineResults_tiles :
    ([Instr.tnld .e (F 0), .tnst .e (F 0), .tnpf .e (F 0)].mapIdx (fun op i =>
      let g : Grid := { grid1 with handles := [[0, 0x81, 0x100000001, 0x100000001, 0x100000001]] }
      (let x := { engCmd (.tnld .e) .xq [0] with instr := i }
       let s : State := { withCmds [x] with grids := [g] }
       decide (s.cmd? 1 = some x) && engReady s x && (handleOf s x).isSome && tileCount x == 0) &&
      (let x := { engCmd (.tnld .e) .xq [0, 0, 0, 0, 0, 0x0001000100010001, 0x00010001] with instr := i }
       let s : State := { withCmds [x] with grids := [g] }
       decide (s.cmd? 1 = some x) && engReady s x && tileCount x == 1 && ownForm (bitsOf (x.word 0) 32 32) &&
         (handleOf s x).any fun h => (tileRun s {} x h op 0 0 1).2.2 == none)) |>.all id) = true ∧
    (let x := { engCmd (.coll .e) .cq [0, 0, 0, 1, 0] with progress := 2 }
     engAt x fun _ => x.args.drop 5 == []) = true ∧
    (let x := { engCmd (.coll .e) .cq [0, 0, 0, 1, 0, 7] with progress := 2 }
     engAt x fun s => x.args.drop 5 != [] && (ownRange s (s.cmdCtx x) 0 1).isSome) = true ∧
    (let x := { engCmd (.coll .e) .cq [0, 0, 0, 1, 0] with progress := 1 }
     engAt x fun s => ((collFix s x).cmd? x.cid).isSome) = true := by decide +kernel

/-- ROM routines of a tile of one word, one whose operand lies outside the banks, coop at its first source, cdrain; a writable routine
that has ended, with no row left and with one that cannot be written. -/
theorem witness_EngineResults_calls :
    (let call (idx : Word) (mp0 : Word) : Cmd :=
      engCmd (.mcall .e) .mq ([idx, mp0, 0, 0x10101, 0, 0x20000000000, 0, 0, 0] ++ [0x00966210, 0, 0, 0])
     (engAt (call 0 0) fun s => isOk (romTile (srcView s (call 0 0)) (callCtx s (call 0 0)) 0 0)) ∧
     (engAt (call 0 0x20000) fun s => !isOk (romTile (srcView s (call 0 0x20000)) (callCtx s (call 0 0x20000)) 0 0)) ∧
     (engAt (call 24 0) fun s => isOk (romTile { s with loose := [] } (callCtx s (call 24 0)) 6 0)) ∧
     (engAt (call 28 0) fun s => (runCdrain s (callCtx s (call 28 0)) 0).2 == none) ∧
     (engAt (call 32 0) fun s => (s.core 0).run.isNone) ∧
     (let x := call 32 0
      let d : DrainRow := { space := 0, addr := 0x20000, cls := 0, bytes := [0] }
      let s0 := withCmds [x]
      let s := s0.setCore 0 { s0.core 0 with run := some { cid := 1, index := 32, upc := 2048, drains := [d] } }
      s.cmd? 1 = some x ∧ engReady s x = true ∧ (landRows (setRun s 0 none) x [d]).2.isSome = true)) := by decide +kernel
/-! ### Decoding: a word of each code of R91, and of each op of R276 and R277 -/

/-- The words of class C, and no other code. -/
theorem test_decode_c :
    decodeSlot .c 0x0400000000000000 = some (.br .c (W 0x0400000000000000)) ∧
    decodeSlot .c 0x0800000000000000 = some (.jmp .c (W 0x0800000000000000)) ∧
    decodeSlot .c 0x0c00000000000000 = some (.call .c (W 0x0c00000000000000)) ∧
    decodeSlot .c 0x1000000000000000 = some (.callc .c (W 0x1000000000000000)) ∧
    decodeSlot .c 0x1400000000000000 = some (.ret .c (W 0x1400000000000000)) ∧
    decodeSlot .c 0x1800000000000000 = some (.loop .c (W 0x1800000000000000)) ∧
    decodeSlot .c 0x1c00000000000000 = some (.loopd .c (W 0x1c00000000000000)) ∧
    decodeSlot .c 0x2000000000000000 = some (.loopx .c (W 0x2000000000000000)) ∧
    decodeSlot .c 0x2400000000000000 = some (.fork .c (W 0x2400000000000000)) ∧
    decodeSlot .c 0x2800000000000000 = some (.forkr .c (W 0x2800000000000000)) ∧
    decodeSlot .c 0x2c00000000000000 = some (.join .c (W 0x2c00000000000000)) ∧
    decodeSlot .c 0x3000000000000000 = some (.take .c (W 0x3000000000000000)) ∧
    decodeSlot .c 0x3400000000000000 = some (.retire .c (W 0x3400000000000000)) ∧
    decodeSlot .c 0x3400000000000001 = some (.retireT .c (W 0x3400000000000001)) ∧
    decodeSlot .c 0x3800000000000000 = some (.yield .c (W 0x3800000000000000)) ∧
    decodeSlot .c 0x3c00000000000000 = some (.fget .c (W 0x3c00000000000000)) ∧
    decodeSlot .c 0x4000000000000000 = some (.fput .c (W 0x4000000000000000)) ∧
    decodeSlot .c 0x4400000000000000 = some (.phase .c (W 0x4400000000000000)) ∧
    decodeSlot .c 0x4800000000000000 = some (.binit .c (W 0x4800000000000000)) ∧
    decodeSlot .c 0x4c00000000000000 = some (.barrive .c (W 0x4c00000000000000)) ∧
    decodeSlot .c 0x5000000000000000 = some (.bwait .c (W 0x5000000000000000)) ∧
    decodeSlot .c 0x5400000000000000 = some (.frd .c (W 0x5400000000000000)) ∧
    decodeSlot .c 0x5800000000000000 = some (.lvlrd .c (W 0x5800000000000000)) ∧
    decodeSlot .c 0x5c00000000000000 = some (.emrd .c (W 0x5c00000000000000)) ∧
    decodeSlot .c 0x6000000000000000 = some (.srd .c (W 0x6000000000000000)) ∧
    decodeSlot .c 0x6400000000000000 = some (.swr .c (W 0x6400000000000000)) ∧
    decodeSlot .c 0x6800000000000000 = some (.ecall .c (W 0x6800000000000000)) ∧
    decodeSlot .c 0x6c00000000000000 = some (.trap .c (W 0x6c00000000000000)) ∧
    decodeSlot .c 0x7000000000000000 = some (.uret .c (W 0x7000000000000000)) ∧
    decodeSlot .c 0x7400000000000000 = some (.dbrk .c (W 0x7400000000000000)) ∧
    decodeSlot .c 0x7800000000000000 = some (.tkwait .c (W 0x7800000000000000)) ∧
    decodeSlot .c 0x7c00000000000000 = some (.cli .c (W 0x7c00000000000000)) ∧
    decodeSlot .c 0x8000000000000000 = some (.clui .c (W 0x8000000000000000)) ∧
    decodeSlot .c 0x8400000000000000 = some (.cadd .c (W 0x8400000000000000)) ∧
    decodeSlot .c 0x8800000000000000 = some (.csub .c (W 0x8800000000000000)) ∧
    decodeSlot .c 0x8c00000000000000 = some (.cmul .c (W 0x8c00000000000000)) ∧
    decodeSlot .c 0x9000000000000000 = some (.cand .c (W 0x9000000000000000)) ∧
    decodeSlot .c 0x9400000000000000 = some (.cor .c (W 0x9400000000000000)) ∧
    decodeSlot .c 0x9800000000000000 = some (.cxor .c (W 0x9800000000000000)) ∧
    decodeSlot .c 0x9c00000000000000 = some (.csll .c (W 0x9c00000000000000)) ∧
    decodeSlot .c 0xa000000000000000 = some (.csrl .c (W 0xa000000000000000)) ∧
    decodeSlot .c 0xa400000000000000 = some (.csra .c (W 0xa400000000000000)) ∧
    decodeSlot .c 0xa800000000000000 = some (.ccmp .c (W 0xa800000000000000)) ∧
    decodeSlot .c 0xac00000000000000 = some (.cmov .c (W 0xac00000000000000)) ∧
    decodeSlot .c 0xb000000000000000 = some (.cpset .c (W 0xb000000000000000)) ∧
    decodeSlot .c 0xb400000000000000 = some (.cpget .c (W 0xb400000000000000)) ∧
    ((List.range 64).all fun c => !(c == 0 || (decide (46 ≤ c) && decide (c ≤ 63))) ||
      (decodeSlot .c (BitVec.ofNat 64 (c * 2 ^ 58))).isNone) = true :=
  ⟨rfl, rfl, rfl, rfl, rfl, rfl, rfl, rfl, rfl, rfl, rfl, rfl, rfl, rfl, rfl, rfl, rfl, rfl, rfl, rfl, rfl, rfl, rfl,
    rfl, rfl, rfl, rfl, rfl, rfl, rfl, rfl, rfl, rfl, rfl, rfl, rfl, rfl, rfl, rfl, rfl, rfl, rfl, rfl, rfl, rfl,
    rfl, by decide +kernel⟩

/-- The words of class A, and no other code. -/
theorem test_decode_a :
    decodeSlot .a0 0x0400000000000000 = some (.add .a0 (W 0x0400000000000000)) ∧
    decodeSlot .a0 0x0800000000000000 = some (.sub .a0 (W 0x0800000000000000)) ∧
    decodeSlot .a0 0x0c00000000000000 = some (.mul .a0 (W 0x0c00000000000000)) ∧
    decodeSlot .a0 0x1000000000000000 = some (.mulh .a0 (W 0x1000000000000000)) ∧
    decodeSlot .a0 0x1400000000000000 = some (.div .a0 (W 0x1400000000000000)) ∧
    decodeSlot .a0 0x1800000000000000 = some (.rem .a0 (W 0x1800000000000000)) ∧
    decodeSlot .a0 0x1c00000000000000 = some (.and .a0 (W 0x1c00000000000000)) ∧
    decodeSlot .a0 0x2000000000000000 = some (.or .a0 (W 0x2000000000000000)) ∧
    decodeSlot .a0 0x2400000000000000 = some (.xor .a0 (W 0x2400000000000000)) ∧
    decodeSlot .a0 0x2800000000000000 = some (.sll .a0 (W 0x2800000000000000)) ∧
    decodeSlot .a0 0x2c00000000000000 = some (.srl .a0 (W 0x2c00000000000000)) ∧
    decodeSlot .a0 0x3000000000000000 = some (.sra .a0 (W 0x3000000000000000)) ∧
    decodeSlot .a0 0x3400000000000000 = some (.min .a0 (W 0x3400000000000000)) ∧
    decodeSlot .a0 0x3800000000000000 = some (.max .a0 (W 0x3800000000000000)) ∧
    decodeSlot .a0 0x3c00000000000000 = some (.abs .a0 (W 0x3c00000000000000)) ∧
    decodeSlot .a0 0x4000000000000000 = some (.clz .a0 (W 0x4000000000000000)) ∧
    decodeSlot .a0 0x4400000000000000 = some (.popc .a0 (W 0x4400000000000000)) ∧
    decodeSlot .a0 0x4800000000000000 = some (.ext .a0 (W 0x4800000000000000)) ∧
    decodeSlot .a0 0x4c00000000000000 = some (.xtr .a0 (W 0x4c00000000000000)) ∧
    decodeSlot .a0 0x5000000000000000 = some (.ins .a0 (W 0x5000000000000000)) ∧
    decodeSlot .a0 0x5400000000000000 = some (.li .a0 (W 0x5400000000000000)) ∧
    decodeSlot .a0 0x5800000000000000 = some (.lea .a0 (W 0x5800000000000000)) ∧
    decodeSlot .a0 0x5c00000000000000 = some (.cmp .a0 (W 0x5c00000000000000)) ∧
    decodeSlot .a0 0x6000000000000000 = some (.sel .a0 (W 0x6000000000000000)) ∧
    decodeSlot .a0 0x6400000000000000 = some (.pand .a0 (W 0x6400000000000000)) ∧
    decodeSlot .a0 0x6800000000000000 = some (.por .a0 (W 0x6800000000000000)) ∧
    decodeSlot .a0 0x6c00000000000000 = some (.pxor .a0 (W 0x6c00000000000000)) ∧
    decodeSlot .a0 0x7000000000000000 = some (.pset .a0 (W 0x7000000000000000)) ∧
    decodeSlot .a0 0x7400000000000000 = some (.pget .a0 (W 0x7400000000000000)) ∧
    decodeSlot .a0 0x7800000000000000 = some (.xfer .a0 (W 0x7800000000000000)) ∧
    decodeSlot .a0 0x7c00000000000000 = some (.fadd .a0 (W 0x7c00000000000000)) ∧
    decodeSlot .a0 0x8000000000000000 = some (.fsub .a0 (W 0x8000000000000000)) ∧
    decodeSlot .a0 0x8400000000000000 = some (.fmul .a0 (W 0x8400000000000000)) ∧
    decodeSlot .a0 0x8800000000000000 = some (.fma .a0 (W 0x8800000000000000)) ∧
    decodeSlot .a0 0x8c00000000000000 = some (.fdiv .a0 (W 0x8c00000000000000)) ∧
    decodeSlot .a0 0x9000000000000000 = some (.fmin .a0 (W 0x9000000000000000)) ∧
    decodeSlot .a0 0x9400000000000000 = some (.fmax .a0 (W 0x9400000000000000)) ∧
    decodeSlot .a0 0x9800000000000000 = some (.fcmp .a0 (W 0x9800000000000000)) ∧
    decodeSlot .a0 0x9c00000000000000 = some (.fcvt .a0 (W 0x9c00000000000000)) ∧
    decodeSlot .a0 0xa000000000000000 = some (.icvt .a0 (W 0xa000000000000000)) ∧
    ((List.range 64).all fun c => !(c == 0 || (decide (41 ≤ c) && decide (c ≤ 63))) ||
      (decodeSlot .a0 (BitVec.ofNat 64 (c * 2 ^ 58))).isNone) = true :=
  ⟨rfl, rfl, rfl, rfl, rfl, rfl, rfl, rfl, rfl, rfl, rfl, rfl, rfl, rfl, rfl, rfl, rfl, rfl, rfl, rfl, rfl, rfl, rfl,
    rfl, rfl, rfl, rfl, rfl, rfl, rfl, rfl, rfl, rfl, rfl, rfl, rfl, rfl, rfl, rfl, rfl, by decide +kernel⟩

/-- The words of class M, and no other code. -/
theorem test_decode_m :
    decodeSlot .m0 0x0400000000000000 = some (.ld .m0 (W 0x0400000000000000)) ∧
    decodeSlot .m0 0x0800000000000000 = some (.st .m0 (W 0x0800000000000000)) ∧
    decodeSlot .m0 0x0c00000000000000 = some (.vld .m0 (W 0x0c00000000000000)) ∧
    decodeSlot .m0 0x1000000000000000 = some (.vst .m0 (W 0x1000000000000000)) ∧
    decodeSlot .m0 0x1400000000000000 = some (.vlds .m0 (W 0x1400000000000000)) ∧
    decodeSlot .m0 0x1800000000000000 = some (.vsts .m0 (W 0x1800000000000000)) ∧
    decodeSlot .m0 0x1c00000000000000 = some (.vldx .m0 (W 0x1c00000000000000)) ∧
    decodeSlot .m0 0x2000000000000000 = some (.vstx .m0 (W 0x2000000000000000)) ∧
    decodeSlot .m0 0x2400000000000000 = some (.gath .m0 (W 0x2400000000000000)) ∧
    decodeSlot .m0 0x2800000000000000 = some (.scat .m0 (W 0x2800000000000000)) ∧
    decodeSlot .m0 0x2c00000000000000 = some (.fld .m0 (W 0x2c00000000000000)) ∧
    decodeSlot .m0 0x3000000000000000 = some (.fst .m0 (W 0x3000000000000000)) ∧
    decodeSlot .m0 0x3400000000000000 = some (.fldv .m0 (W 0x3400000000000000)) ∧
    decodeSlot .m0 0x3800000000000000 = some (.fstv .m0 (W 0x3800000000000000)) ∧
    decodeSlot .m0 0x3c00000000000000 = some (.spill .m0 (W 0x3c00000000000000)) ∧
    decodeSlot .m0 0x4000000000000000 = some (.fill .m0 (W 0x4000000000000000)) ∧
    decodeSlot .m0 0x4400000000000000 = some (.vspill .m0 (W 0x4400000000000000)) ∧
    decodeSlot .m0 0x4800000000000000 = some (.vfill .m0 (W 0x4800000000000000)) ∧
    decodeSlot .m0 0x4c00000000000000 = some (.amo .m0 (W 0x4c00000000000000)) ∧
    decodeSlot .m0 0x5000000000000000 = some (.amocas .m0 (W 0x5000000000000000)) ∧
    decodeSlot .m0 0x5400000000000000 = some (.probe .m0 (W 0x5400000000000000)) ∧
    decodeSlot .m0 0x5800000000000000 = some (.cwb .m0 (W 0x5800000000000000)) ∧
    decodeSlot .m0 0x5c00000000000000 = some (.cinv .m0 (W 0x5c00000000000000)) ∧
    decodeSlot .m0 0x6000000000000000 = some (.cwbi .m0 (W 0x6000000000000000)) ∧
    decodeSlot .m0 0x6400000000000000 = some (.qfence .m0 (W 0x6400000000000000)) ∧
    decodeSlot .m0 0x6800000000000000 = some (.vldb .m0 (W 0x6800000000000000)) ∧
    decodeSlot .m0 0x6c00000000000000 = some (.tag .m0 (W 0x6c00000000000000)) ∧
    decodeSlot .m0 0x7000000000000000 = some (.tagrd .m0 (W 0x7000000000000000)) ∧
    ((List.range 64).all fun c => !(c == 0 || (decide (29 ≤ c) && decide (c ≤ 63))) ||
      (decodeSlot .m0 (BitVec.ofNat 64 (c * 2 ^ 58))).isNone) = true :=
  ⟨rfl, rfl, rfl, rfl, rfl, rfl, rfl, rfl, rfl, rfl, rfl, rfl, rfl, rfl, rfl, rfl, rfl, rfl, rfl, rfl, rfl, rfl, rfl,
    rfl, rfl, rfl, rfl, rfl, by decide +kernel⟩

/-- The words of class V, and no other code. -/
theorem test_decode_v :
    decodeSlot .v0 0x0400000000000000 = some (.vadd .v0 (W 0x0400000000000000)) ∧
    decodeSlot .v0 0x0800000000000000 = some (.vsub .v0 (W 0x0800000000000000)) ∧
    decodeSlot .v0 0x0c00000000000000 = some (.vmul .v0 (W 0x0c00000000000000)) ∧
    decodeSlot .v0 0x1000000000000000 = some (.vmulh .v0 (W 0x1000000000000000)) ∧
    decodeSlot .v0 0x1400000000000000 = some (.vfma .v0 (W 0x1400000000000000)) ∧
    decodeSlot .v0 0x1800000000000000 = some (.vfms .v0 (W 0x1800000000000000)) ∧
    decodeSlot .v0 0x1c00000000000000 = some (.vfnma .v0 (W 0x1c00000000000000)) ∧
    decodeSlot .v0 0x2000000000000000 = some (.vmin .v0 (W 0x2000000000000000)) ∧
    decodeSlot .v0 0x2400000000000000 = some (.vmax .v0 (W 0x2400000000000000)) ∧
    decodeSlot .v0 0x2800000000000000 = some (.vabs .v0 (W 0x2800000000000000)) ∧
    decodeSlot .v0 0x2c00000000000000 = some (.vneg .v0 (W 0x2c00000000000000)) ∧
    decodeSlot .v0 0x3000000000000000 = some (.vadds .v0 (W 0x3000000000000000)) ∧
    decodeSlot .v0 0x3400000000000000 = some (.vsubs .v0 (W 0x3400000000000000)) ∧
    decodeSlot .v0 0x3800000000000000 = some (.vand .v0 (W 0x3800000000000000)) ∧
    decodeSlot .v0 0x3c00000000000000 = some (.vor .v0 (W 0x3c00000000000000)) ∧
    decodeSlot .v0 0x4000000000000000 = some (.vxor .v0 (W 0x4000000000000000)) ∧
    decodeSlot .v0 0x4400000000000000 = some (.vsll .v0 (W 0x4400000000000000)) ∧
    decodeSlot .v0 0x4800000000000000 = some (.vsrl .v0 (W 0x4800000000000000)) ∧
    decodeSlot .v0 0x4c00000000000000 = some (.vsra .v0 (W 0x4c00000000000000)) ∧
    decodeSlot .v0 0x5000000000000000 = some (.vclz .v0 (W 0x5000000000000000)) ∧
    decodeSlot .v0 0x5400000000000000 = some (.vpopc .v0 (W 0x5400000000000000)) ∧
    decodeSlot .v0 0x5800000000000000 = some (.vcmp .v0 (W 0x5800000000000000)) ∧
    decodeSlot .v0 0x5c00000000000000 = some (.vsel .v0 (W 0x5c00000000000000)) ∧
    decodeSlot .v0 0x6000000000000000 = some (.vmov .v0 (W 0x6000000000000000)) ∧
    decodeSlot .v0 0x6400000000000000 = some (.vli .v0 (W 0x6400000000000000)) ∧
    decodeSlot .v0 0x6800000000000000 = some (.vext .v0 (W 0x6800000000000000)) ∧
    decodeSlot .v0 0x6c00000000000000 = some (.vcvt .v0 (W 0x6c00000000000000)) ∧
    decodeSlot .v0 0x7000000000000000 = some (.vrnd .v0 (W 0x7000000000000000)) ∧
    decodeSlot .v0 0x7400000000000000 = some (.vscale .v0 (W 0x7400000000000000)) ∧
    decodeSlot .v0 0x7800000000000000 = some (.vrcp .v0 (W 0x7800000000000000)) ∧
    decodeSlot .v0 0x7c00000000000000 = some (.vrsqrt .v0 (W 0x7c00000000000000)) ∧
    decodeSlot .v0 0x8000000000000000 = some (.vexp2 .v0 (W 0x8000000000000000)) ∧
    decodeSlot .v0 0x8400000000000000 = some (.vlog2 .v0 (W 0x8400000000000000)) ∧
    decodeSlot .v0 0x8800000000000000 = some (.vred .v0 (W 0x8800000000000000)) ∧
    decodeSlot .v0 0x8c00000000000000 = some (.vscan .v0 (W 0x8c00000000000000)) ∧
    decodeSlot .v0 0x9000000000000000 = some (.vperm .v0 (W 0x9000000000000000)) ∧
    decodeSlot .v0 0x9400000000000000 = some (.vbcast .v0 (W 0x9400000000000000)) ∧
    decodeSlot .v0 0x9800000000000000 = some (.vrot .v0 (W 0x9800000000000000)) ∧
    decodeSlot .v0 0x9c00000000000000 = some (.vslide .v0 (W 0x9c00000000000000)) ∧
    decodeSlot .v0 0xa000000000000000 = some (.viota .v0 (W 0xa000000000000000)) ∧
    decodeSlot .v0 0xa400000000000000 = some (.vpack .v0 (W 0xa400000000000000)) ∧
    decodeSlot .v0 0xa800000000000000 = some (.vunpack .v0 (W 0xa800000000000000)) ∧
    decodeSlot .v0 0xac00000000000000 = some (.vdot .v0 (W 0xac00000000000000)) ∧
    decodeSlot .v0 0xb000000000000000 = some (.vdotsu .v0 (W 0xb000000000000000)) ∧
    decodeSlot .v0 0xb400000000000000 = some (.vpset .v0 (W 0xb400000000000000)) ∧
    decodeSlot .v0 0xb800000000000000 = some (.vpget .v0 (W 0xb800000000000000)) ∧
    decodeSlot .v0 0xbc00000000000000 = some (.vfirst .v0 (W 0xbc00000000000000)) ∧
    ((List.range 64).all fun c => !(c == 0 || (decide (48 ≤ c) && decide (c ≤ 63))) ||
      (decodeSlot .v0 (BitVec.ofNat 64 (c * 2 ^ 58))).isNone) = true :=
  ⟨rfl, rfl, rfl, rfl, rfl, rfl, rfl, rfl, rfl, rfl, rfl, rfl, rfl, rfl, rfl, rfl, rfl, rfl, rfl, rfl, rfl, rfl, rfl,
    rfl, rfl, rfl, rfl, rfl, rfl, rfl, rfl, rfl, rfl, rfl, rfl, rfl, rfl, rfl, rfl, rfl, rfl, rfl, rfl, rfl, rfl,
    rfl, rfl, by decide +kernel⟩

/-- The words of class E, and no other code. -/
theorem test_decode_e :
    decodeSlot .e 0x0400000000000000 = some (.mcall .e (W 0x0400000000000000)) ∧
    decodeSlot .e 0x0800000000000000 = some (.mpset .e (W 0x0800000000000000)) ∧
    decodeSlot .e 0x0c00000000000000 = some (.mload .e (W 0x0c00000000000000)) ∧
    decodeSlot .e 0x1000000000000000 = some (.smcopy .e (W 0x1000000000000000)) ∧
    decodeSlot .e 0x1400000000000000 = some (.ncopy .e (W 0x1400000000000000)) ∧
    decodeSlot .e 0x1800000000000000 = some (.egath .e (W 0x1800000000000000)) ∧
    decodeSlot .e 0x1c00000000000000 = some (.escat .e (W 0x1c00000000000000)) ∧
    decodeSlot .e 0x2000000000000000 = some (.mcast .e (W 0x2000000000000000)) ∧
    decodeSlot .e 0x2400000000000000 = some (.mcastb .e (W 0x2400000000000000)) ∧
    decodeSlot .e 0x2800000000000000 = some (.coll .e (W 0x2800000000000000)) ∧
    decodeSlot .e 0x2c00000000000000 = some (.tnld .e (W 0x2c00000000000000)) ∧
    decodeSlot .e 0x3000000000000000 = some (.tnst .e (W 0x3000000000000000)) ∧
    decodeSlot .e 0x3400000000000000 = some (.tnpf .e (W 0x3400000000000000)) ∧
    decodeSlot .e 0x3800000000000000 = some (.emit .e (W 0x3800000000000000)) ∧
    decodeSlot .e 0x3c00000000000000 = some (.estat .e (W 0x3c00000000000000)) ∧
    decodeSlot .e 0x4000000000000000 = some (.accld .e (W 0x4000000000000000)) ∧
    decodeSlot .e 0x4400000000000000 = some (.accst .e (W 0x4400000000000000)) ∧
    decodeSlot .e 0x4800000000000000 = some (.adrain .e (W 0x4800000000000000)) ∧
    decodeSlot .e 0x4c00000000000000 = some (.aclr .e (W 0x4c00000000000000)) ∧
    decodeSlot .e 0x5000000000000000 = some (.ecancel .e (W 0x5000000000000000)) ∧
    decodeSlot .e 0x5400000000000000 = some (.ebar .e (W 0x5400000000000000)) ∧
    ((List.range 64).all fun c => !(c == 0 || (decide (22 ≤ c) && decide (c ≤ 63))) ||
      (decodeSlot .e (BitVec.ofNat 64 (c * 2 ^ 58))).isNone) = true :=
  ⟨rfl, rfl, rfl, rfl, rfl, rfl, rfl, rfl, rfl, rfl, rfl, rfl, rfl, rfl, rfl, rfl, rfl, rfl, rfl, rfl, rfl,
    by decide +kernel⟩

/-- The words of class K, and no other code. -/
theorem test_decode_k :
    decodeSlot .k 0x0400000000000000 = some (.kld .k (W 0x0400000000000000)) ∧
    decodeSlot .k 0x0800000000000000 = some (.kmov .k (W 0x0800000000000000)) ∧
    decodeSlot .k 0x0c00000000000000 = some (.kbind .k (W 0x0c00000000000000)) ∧
    decodeSlot .k 0x1000000000000000 = some (.kfmt .k (W 0x1000000000000000)) ∧
    decodeSlot .k 0x1400000000000000 = some (.kadd .k (W 0x1400000000000000)) ∧
    decodeSlot .k 0x1800000000000000 = some (.ksub .k (W 0x1800000000000000)) ∧
    decodeSlot .k 0x1c00000000000000 = some (.kli .k (W 0x1c00000000000000)) ∧
    decodeSlot .k 0x2000000000000000 = some (.kclr .k (W 0x2000000000000000)) ∧
    ((List.range 64).all fun c => !(c == 0 || (decide (9 ≤ c) && decide (c ≤ 63))) ||
      (decodeSlot .k (BitVec.ofNat 64 (c * 2 ^ 58))).isNone) = true :=
  ⟨rfl, rfl, rfl, rfl, rfl, rfl, rfl, rfl, by decide +kernel⟩

/-- The words of the micro-ops, every field with a value of its own, and ops 0xE and 0xF, which are none. -/
theorem test_decode_uop :
    uopOf 5 0x029cbbf889abcdef = some (.uopEnd 5 ⟨1, 2, 3, 4, 5, 6, 7, 0x78, 0x89abcdef⟩) ∧
    uopOf 5 0x129cbbf889abcdef = some (.uopNop 5 ⟨1, 2, 3, 4, 5, 6, 7, 0x78, 0x89abcdef⟩) ∧
    uopOf 5 0x229cbbf889abcdef = some (.uopSeti 5 ⟨1, 2, 3, 4, 5, 6, 7, 0x78, 0x89abcdef⟩) ∧
    uopOf 5 0x329cbbf889abcdef = some (.uopSetp 5 ⟨1, 2, 3, 4, 5, 6, 7, 0x78, 0x89abcdef⟩) ∧
    uopOf 5 0x429cbbf889abcdef = some (.uopMad 5 ⟨1, 2, 3, 4, 5, 6, 7, 0x78, 0x89abcdef⟩) ∧
    uopOf 5 0x529cbbf889abcdef = some (.uopLoop 5 ⟨1, 2, 3, 4, 5, 6, 7, 0x78, 0x89abcdef⟩) ∧
    uopOf 5 0x629cbbf889abcdef = some (.uopEndl 5 ⟨1, 2, 3, 4, 5, 6, 7, 0x78, 0x89abcdef⟩) ∧
    uopOf 5 0x729cbbf889abcdef = some (.uopLdw 5 ⟨1, 2, 3, 4, 5, 6, 7, 0x78, 0x89abcdef⟩) ∧
    uopOf 5 0x829cbbf889abcdef = some (.uopMma 5 ⟨1, 2, 3, 4, 5, 6, 7, 0x78, 0x89abcdef⟩) ∧
    uopOf 5 0x929cbbf889abcdef = some (.uopAclr 5 ⟨1, 2, 3, 4, 5, 6, 7, 0x78, 0x89abcdef⟩) ∧
    uopOf 5 0xa29cbbf889abcdef = some (.uopMsk 5 ⟨1, 2, 3, 4, 5, 6, 7, 0x78, 0x89abcdef⟩) ∧
    uopOf 5 0xb29cbbf889abcdef = some (.uopDrn 5 ⟨1, 2, 3, 4, 5, 6, 7, 0x78, 0x89abcdef⟩) ∧
    uopOf 5 0xc29cbbf889abcdef = some (.uopBwt 5 ⟨1, 2, 3, 4, 5, 6, 7, 0x78, 0x89abcdef⟩) ∧
    uopOf 5 0xd29cbbf889abcdef = some (.uopBar 5 ⟨1, 2, 3, 4, 5, 6, 7, 0x78, 0x89abcdef⟩) ∧
    uopOf 5 0xe29cbbf889abcdef = none ∧ uopOf 5 0xf29cbbf889abcdef = none := by decide

/-! ### What well-formedness refuses: one term for each check -/

/-- A well-formed add, with other fields. -/
def addOf (g : Fields → Fields) : Instr := .add .a0 (g (W 0x0400143943800980))

/-- Each word check of R89 refuses a term (rows 6 to 17), and so do the slot's class, a move's own rule and retire's spelling. -/
theorem test_wf_refuses_words :
    (addOf id).wf = true ∧
    (addOf fun f => { f with fmt := 10 }).wf = false ∧                                   -- fmt 0xA
    (Instr.br .c { W 0 with fmt := 3 }).wf = false ∧                                     -- a format where none is taken
    (addOf fun f => { f with pidx := 48 }).wf = false ∧                                  -- pidx in 48 to 63
    (Instr.jmp .c { W 0 with k1 := .slices, src1 := ⟨2, 15⟩ }).wf = false ∧              -- private slices in slot C
    (addOf fun f => { f with k1 := .common, src1 := ⟨32, 7⟩ }).wf = false ∧              -- common register 32
    (Instr.jmp .c { W 0 with k1 := .common, src1 := ⟨2, 14⟩ }).wf = false ∧              -- wm1 14 in slot C
    (Instr.jmp .c { W 0 with k1 := .common, src1 := ⟨2, 15⟩ }).wf = true ∧
    (Instr.kclr .k { W 0 with dst := ⟨16, 0⟩ }).wf = false ∧                             -- scale register 16
    (addOf fun f => { f with src1 := ⟨40, 15⟩ }).wf = false ∧                            -- a source wider than its result
    (Instr.retire .c { W 0 with src1 := ⟨2, 15⟩ }).wf = false ∧                          -- an unused operand field
    (addOf fun f => { f with mod := 0x40 }).wf = false ∧                                 -- an undefined mod bit
    (Instr.tkwait .c { W 0 with k1 := .common, src1 := ⟨15, 15⟩ }).wf = false ∧          -- token c15
    (Instr.tkwait .c { W 0 with k1 := .common, src1 := ⟨16, 15⟩ }).wf = true ∧
    (addOf fun f => { f with mod := 0xC }).wf = false ∧                                  -- both saturations
    (Instr.add .v0 (W 0x0400143943800980)).wf = false ∧                                  -- slot V0
    (Instr.retireT .c (W 0x3400000000000000)).wf = false := by decide +kernel

/-- A write of a loop index is refused, and a micro-op with a stray field, flag or immediate bit. -/
theorem test_wf_refuses_more :
    (Instr.swr .c { W 0 with k1 := .special, src1 := ⟨5, 15⟩, k2 := .common, src2 := ⟨2, 15⟩ }).wf = false ∧
    (Instr.uopNop 0 ⟨1, 0, 0, 0, 0, 0, 0, 0, 0⟩).wf = false ∧ (Instr.uopNop 0 ⟨0, 0, 0, 0, 0, 0, 1, 0, 0⟩).wf = false ∧
    (Instr.uopNop 0 ⟨0, 0, 0, 0, 0, 0, 0, 1, 0⟩).wf = false ∧ (Instr.uopNop 0 ⟨0, 0, 0, 0, 0, 0, 0, 0, 1⟩).wf = false ∧
    (Instr.uopNop 0 ⟨0, 0, 0, 0, 0, 0, 0, 0, 0⟩).wf = true ∧ (Instr.gangPlace 3).wf = true := by decide +kernel

/-- The worked bundle, with one field of its header or a word changed. -/
def bundleOf (header : BitVec 32) (rpt : Option (BitVec 32)) (ws : List (Pos × Word)) : Bool := Bundle.wf ⟨header, rpt, ws⟩

/-- Each bundle check of R89 refuses a bundle (rows 1 to 5 and 18 to 20), and the worked bundle passes them. -/
theorem test_wf_refuses_bundles :
    (let add : Pos × Word := (.a0, 0x0400143943800980)
     let two : Pos × Word := (.a0, 0x0400143801780280 ||| 0x20)                         -- no such mod bit
     let cr : Pos × Word := (.a0, Fields.toWord 1 { W 0 with dst := ⟨40, 15⟩, src1 := ⟨2, 15⟩, k1 := .common })
     let cli : Pos × Word := (.c, Fields.toWord 0x1F { W 0 with dst := ⟨4, 15⟩ })
     let ebar : Pos × Word := (.e, Fields.toWord 0x15 { W 0 with dst := ⟨16, 15⟩, k1 := .imm })
     bundleOf 0x000FF002 none [add] = true ∧
     bundleOf 0x001FF002 none [add] = false ∧                                            -- bits 31:20
     bundleOf 0x000F9002 none [add] = false ∧                                            -- CP0 = 9
     bundleOf 0x000F3002 none [add] = false ∧                                            -- CP0 names an absent slot
     bundleOf 0x000FF802 (some 0x04000001) [add] = false ∧                               -- prefix bits 2:0
     bundleOf 0x000FF002 none [(.a0, 0)] = false ∧                                       -- code 0
     bundleOf 0x000FF002 none [two] = false ∧
     bundleOf 0x000FF002 none [cr] = false ∧                                         -- a common read without a port
     bundleOf 0x000F1002 none [cr] = true ∧
     bundleOf 0x000FF001 none [cli] = true ∧ bundleOf 0x000FF080 none [ebar] = true ∧
     bundleOf 0x000FF081 none [cli, ebar] = false ∧                                      -- two common writes
     bundleOf 0x000FF201 none [(.c, 0x0400000000000000)] = false) := by decide +kernel   -- LEND with a transfer

/-- The bytes of the worked repeated bundle, header, prefix and word, are those of its encoder and its decoder (R64 to R70). -/
theorem test_worked_bundle :
    encodeBundle ⟨0x000FF820, some 0x0F400040, [(.v0, 0x05C0001801901800)]⟩ =
      [0x20, 0xF8, 0x0F, 0, 0x40, 0, 0x40, 0x0F, 0, 0x18, 0x90, 0x01, 0x18, 0, 0xC0, 0x05] ∧
    (match decodeBundle [0x20, 0xF8, 0x0F, 0, 0x40, 0, 0x40, 0x0F, 0, 0x18, 0x90, 0x01, 0x18, 0, 0xC0, 0x05, 7] with
     | .ok (b, rest) => decide (b = ⟨0x000FF820, some 0x0F400040, [(.v0, 0x05C0001801901800)]⟩) && decide (rest = [7])
     | .error _ => false) = true := by decide +kernel

/-! ### One step of small states -/

/-- The worked add (R64): it reads no register that holds anything, so that 1 goes in flight for s40, 8 slices wide. -/
theorem test_add_one :
    ((exec (.add .a0 (W 0x0400143943800980)) one) matches .next _) = true ∧
    (match exec (.add .a0 (W 0x0400143943800980)) one with
     | .next t => (t.ctx 1).flight.map fun f => (f.start, f.width, f.lanes.map (·.toNat))
     | _ => []) = [(40, 8, [1])] := by decide +kernel

/-- The sequencer with 8-bit values in slices 0 and 1, and 2 and 3, of scalar file 0. -/
def bytes2 (a b : Nat) : State := with1 { seq1 with scal0 := BitVec.ofNat 1024 (a + b * 256) }

/-- What an A operation on those two bytes leaves in flight. -/
def sent (i : Pos → Fields → Instr) (mod : BitVec 7) (a b : Nat) : List Nat :=
  match exec (i .a0 { W 0 with dst := ⟨8, 1⟩, src1 := ⟨0, 1⟩, src2 := ⟨2, 1⟩, mod := mod }) (bytes2 a b) with
  | .next t => (t.ctx 1).flight.flatMap fun f => f.lanes.map (·.toNat)
  | _ => []

/-- R135 by hand at eight bits: sums wrap or clamp, products keep their low or high half, a shift by the width gives 0. -/
theorem test_scalar_bytes :
    sent .add 0 255 2 = [1] ∧ sent .add 5 127 1 = [127] ∧ sent .sub 0 0 1 = [255] ∧ sent .mul 0 16 17 = [16] ∧
    sent .mulh 0 255 255 = [0] ∧ sent .sll 0 1 8 = [0] ∧ sent .srl 0 128 7 = [1] ∧ sent .sra 0 128 7 = [255] := by
  decide +kernel

/-- R136 by hand: quotients round towards zero and remainders take the dividend's sign. -/
theorem test_scalar_division : sent .div 0 249 2 = [253] ∧ sent .rem 0 249 2 = [255] := by decide +kernel

end Sys2Proof.Tests
end

/-!
An operation that meets a pending token has no effect (spec/01 R32).
-/
namespace Sys2Proof.MachineState
open Sys2Proof Sys2Proof.Machine Sys2Proof.Safety

/-- R32: the gate of an enabled operation that meets a pending token is the stall on a token. -/
theorem slotOp_stalls {i : Instr} {cls : Cls} {code : Nat} {p : Pos} {f : Fields} {s : State}
    {run : OpInfo → State → SlotRes} (hp : i.parts = some (cls, code, p, f)) (hg : guardOn i s = true)
    (ht : tokensFree i s = false) : slotOp i f s run = .stall 1 := by
  cases hi : opInfo i with
  | none => simp [guardOn, hp, hi] at hg
  | some info =>
    simp only [guardOn, tokensFree, hp, hi, Bool.not_eq_false'] at hg ht
    by_cases hv : isVector i info f = true
    · simp only [hv, if_true, decide_eq_true_eq] at hg
      simp [slotOp, gated, hi, hv, ht]
      exact hg
    · simp only [hv] at hg
      simp_all [slotOp, gated]

/-- A transfer operation is no vector operation: its guard is that of slot C. -/
theorem enabled_of_transfer {i : Instr} {cls : Cls} {code : Nat} {p : Pos} {f : Fields} {s : State}
    (hp : i.parts = some (cls, code, p, f)) (ht : isTransfer i = true) (hg : guardOn i s = true) :
    enabled s.curCtx f = true := by
  cases i <;> cases ht <;> cases hp <;> exact hg

/-- R32: an enabled operation that meets a pending token comes to a stall, whatever its own meaning is. -/
theorem semOf_stalls {i : Instr} {cls : Cls} {code : Nat} {p : Pos} {f : Fields} {s : State}
    (hp : i.parts = some (cls, code, p, f)) (hg : guardOn i s = true) (ht : tokensFree i s = false) :
    ∃ r, semOf i s = .stall r := by
  rcases Gates.cases_gate i cls code p f s hp with ⟨htr, run, h⟩ | ⟨-, ⟨run, h⟩ | rfl⟩
  · refine ⟨1, ?_⟩
    rw [h, transferOp, enabled_of_transfer hp htr hg]
    exact slotOp_stalls hp hg ht
  · exact ⟨1, h.trans (slotOp_stalls hp hg ht)⟩
  · rw [semOf_tkwait, semTkwait]
    split
    · exact ⟨4, rfl⟩
    · exact ⟨1, slotOp_stalls hp hg ht⟩

/-- Settles O22: the gate in front of every slot operation turns a pending token into a stall, and a stall settles
to the state as it was. -/
theorem pendingTokens : Obligations.PendingTokens := by
  intro i s hs hp hw hg ht
  obtain ⟨⟨cls, code, p, f⟩, hparts⟩ := Option.isSome_iff_exists.mp hs
  obtain ⟨r, hr⟩ := semOf_stalls hparts hg ht
  rw [exec_slot s hparts, runSlot_passes hparts hp hw, hr]
  rfl
end Sys2Proof.MachineState

/-!
Taking a trap (spec/11 R236, R238, R240, R256; spec/01 R41), and user-level traps (spec/05 R120).
-/
namespace Sys2Proof.MachineState
open Sys2Proof Sys2Proof.Machine Sys2Proof.Safety

/-! ### What a management write leaves alone -/

/-- Two states agree but for the contexts, the islands and the notes of their MMIO writes. -/
def SameButIslands (s t : State) : Prop := ∃ cs is dl, t = { s with ctxs := cs, islands := is, dvfLast := dl }

theorem SameButIslands.refl (s : State) : SameButIslands s s := ⟨_, _, _, rfl⟩

theorem SameButIslands.trans {s t u : State} (h : SameButIslands s t) (k : SameButIslands t u) : SameButIslands s u := by
  obtain ⟨_, _, _, rfl⟩ := h
  obtain ⟨_, _, _, rfl⟩ := k
  exact ⟨_, _, _, rfl⟩

theorem SameButIslands.trapWait {s t : State} (h : SameButIslands s t) : t.trapWait = s.trapWait := by
  obtain ⟨_, _, _, rfl⟩ := h; rfl

/-- Whether a context re-runs a deferred task is read from the speculation slots and its running tasks alone. -/
theorem SameButIslands.reruns {s t : State} (h : SameButIslands s t) (c : Ctx) (z : Word) (m : Option (Nat × Word)) :
    t.reruns { c with dvfSel := z, mgmt := m } = s.reruns c := by
  obtain ⟨_, _, _, rfl⟩ := h; rfl

/-- A write of an island's register touches its island alone. -/
theorem islandWrite_sameButIslands (s : State) (i off : Nat) (v : Word) : SameButIslands s (islandWrite s i off v) := by
  unfold islandWrite requestPoint setThigh
  simp only
  repeat' split
  all_goals exact ⟨_, _, _, rfl⟩

/-- So does a write over MMIO, which is noted beside it. -/
theorem busWrite_sameButIslands (s : State) (i off : Nat) (v : Word) : SameButIslands s (busWrite s i off v) :=
  (islandWrite_sameButIslands s i off v).trans ⟨_, _, _, rfl⟩

/-- MMIO writes taken again touch islands alone. -/
theorem busWrites_sameButIslands (l : List DvfWrite) (i : Nat) (s : State) :
    SameButIslands s (l.foldl (fun t d => busWrite t i d.off d.value) s) := by
  induction l generalizing s with
  | nil => exact .refl s
  | cons d l ih => exact (busWrite_sameButIslands s i d.off d.value).trans (ih _)

/-- A sequencer's write of an island's register touches islands alone. -/
theorem seqWrite_sameButIslands (s : State) (i off : Nat) (v : Word) : SameButIslands s (seqWrite s i off v) := by
  unfold seqWrite
  simp only
  split
  · exact islandWrite_sameButIslands s i off v
  · exact (SameButIslands.trans ⟨_, _, _, rfl⟩ (islandWrite_sameButIslands _ i off v)).trans (busWrites_sameButIslands _ i _)

/-- A management write (R452) touches its writer's selector and islands alone. -/
theorem mgmtWrite_sameButIslands (s : State) (c : Ctx) (n : Nat) (v : Word) : SameButIslands s (mgmtWrite s c n v) := by
  unfold mgmtWrite
  simp only
  repeat' split
  · exact ⟨_, _, _, rfl⟩
  · exact .refl s
  · exact seqWrite_sameButIslands ..
  · exact seqWrite_sameButIslands ..
  · exact .refl s

/-- A management write leaves every other context as it was. -/
theorem mgmtWrite_ctx?_ne (s : State) (c : Ctx) (n : Nat) (v : Word) (k : Nat) (hk : k ≠ c.handle) :
    (mgmtWrite s c n v).ctx? k = s.ctx? k := by
  unfold mgmtWrite
  simp only
  repeat' split
  · exact ctx?_modCtx_ne _ _ _ _ (fun _ => rfl) hk
  · rfl
  · exact ctx?_congr (seqWrite_ctxs ..) k
  · exact ctx?_congr (seqWrite_ctxs ..) k
  · rfl

/-! ### The landing of a management write (R41) -/

/-- Nothing in flight for the management registers: nothing lands. -/
theorem landMgmt_none {s : State} {h : Nat} {c : Ctx} (hc : s.ctx? h = some c) (hm : c.mgmt = none) : landMgmt s h = s := by
  simp only [landMgmt, ctx_of_ctx? hc, hm]

/-- The write in flight is performed. -/
theorem landMgmt_some {s : State} {h n : Nat} {v : Word} {c : Ctx} (hc : s.ctx? h = some c) (hm : c.mgmt = some (n, v)) :
    landMgmt s h = mgmtWrite (s.setCtx { c with mgmt := none }) { c with mgmt := none } n v := by
  simp only [landMgmt, ctx_of_ctx? hc, hm]

theorem landMgmt_sameButIslands (s : State) (h : Nat) : SameButIslands s (landMgmt s h) := by
  unfold landMgmt
  simp only
  split
  · exact SameButIslands.trans ⟨_, _, _, rfl⟩ (mgmtWrite_sameButIslands ..)
  · exact .refl s

/-- The landing leaves every other context as it was. -/
theorem landMgmt_ctx?_ne {s : State} {h k : Nat} {c : Ctx} (hc : s.ctx? h = some c) (hk : k ≠ h) :
    (landMgmt s h).ctx? k = s.ctx? k := by
  have hk' : k ≠ c.handle := by rw [handle_of_ctx? hc]; exact hk
  cases hm : c.mgmt with
  | none => rw [landMgmt_none hc hm]
  | some w =>
    rw [landMgmt_some hc (hm.trans rfl : c.mgmt = some (w.1, w.2)), mgmtWrite_ctx?_ne _ { c with mgmt := none } _ _ _ hk']
    exact ctx?_setCtx_ne _ { c with mgmt := none } _ hk'

/-- A write performed leaves none in flight. -/
theorem mgmtWrite_landed {s : State} {h n : Nat} {v : Word} {c : Ctx} (hc : s.ctx? h = some c) :
    ∃ z, (mgmtWrite (s.setCtx { c with mgmt := none }) { c with mgmt := none } n v).ctx? h =
      some { c with mgmt := none, dvfSel := z } :=
  have hh : c.handle = h := handle_of_ctx? hc
  mgmtWrite_ctx _ h { c with mgmt := none } { c with mgmt := none } n v
    (ctx?_setCtx_of s { c with mgmt := none } h hh) hh

/-! ### Taking a trap (R236, R238, R240, R256) -/

/-- What trap entry makes of a context that stops with a done mask. -/
def trappedCtx (c : Ctx) (done : BitVec 9) (part : Bool) : Ctx :=
  { c with status := .trapped, done := done, partBundle := part, view := none, imgAt := none, mirror := false }

/-- The trap operation stops its context, and no other. -/
theorem takeTrap_ctx? {s : State} {h cause slot : Nat} {done : BitVec 9} {part spec : Bool} {info : Word} {c : Ctx}
    (hc : s.ctx? h = some c) (k : Nat) :
    (takeTrap s h cause slot done part spec info).ctx? k = if k = h then some (trappedCtx c done part) else s.ctx? k := by
  have hh := handle_of_ctx? hc
  simp only [takeTrap, ctx_of_ctx? hc, releaseCore_ctx?]
  change (s.setCtx (trappedCtx c done part)).ctx? k = _
  split
  · subst k; exact ctx?_setCtx_of s (trappedCtx c done part) h hh
  · rename_i hk
    exact ctx?_setCtx_ne s (trappedCtx c done part) k (by rwa [show (trappedCtx c done part).handle = h from hh])

/-- Its record waits for its cluster's ring, behind those that wait already. -/
theorem takeTrap_trapWait {s : State} {h cause slot : Nat} {done : BitVec 9} {part spec : Bool} {info : Word} {c : Ctx}
    (hc : s.ctx? h = some c) :
    (takeTrap s h cause slot done part spec info).trapWait =
      s.trapWait ++ [(clusterOf c.core, mkRec c cause slot done 0 spec info)] := by
  simp only [takeTrap, ctx_of_ctx? hc, releaseCore_trapWait, State.setCtx_trapWait]

/-- A trap with its trace record stops the context that the management write in flight has left, and no other. -/
theorem stopTrap_ctx? {s : State} {h cause slot : Nat} {done : BitVec 9} {part : Bool} {info : Word} {d : Ctx}
    (hd : (landMgmt s h).ctx? h = some d) (k : Nat) :
    (stopTrap s h cause slot done part info).ctx? k =
      if k = h then some (trappedCtx d done part) else (landMgmt s h).ctx? k := by
  simp only [stopTrap, stopTrapAs, traceStop]
  rw [takeTrap_ctx? (c := d) (by simpa using hd)]
  simp

/-- The record of a trap describes the context as it stopped. -/
theorem stopTrap_trapWait {s : State} {h cause slot : Nat} {done : BitVec 9} {part : Bool} {info : Word} {c d : Ctx}
    (hc : s.ctx? h = some c) (hd : (landMgmt s h).ctx? h = some d) :
    (stopTrap s h cause slot done part info).trapWait =
      s.trapWait ++ [(clusterOf d.core, mkRec d cause slot done 0 (specBit cause (s.reruns c)) info)] := by
  simp only [stopTrap, stopTrapAs, traceStop]
  rw [takeTrap_trapWait (c := d) (by simpa using hd)]
  simp [(landMgmt_sameButIslands s h).trapWait, ctx_of_ctx? hc]

/-- A trap performs the management write in flight first (R41). -/
theorem stopTrap_lands_first {s : State} {h cause slot n : Nat} {v : Word} {done : BitVec 9} {part : Bool} {info : Word}
    {c : Ctx} (hc : s.ctx? h = some c) (hm : c.mgmt = some (n, v)) :
    stopTrap s h cause slot done part info = stopTrap
      (mgmtWrite (s.setCtx { c with mgmt := none }) { c with mgmt := none } n v) h cause slot done part info := by
  obtain ⟨z, hz⟩ := mgmtWrite_landed (n := n) (v := v) hc
  have hr := SameButIslands.reruns (landMgmt_sameButIslands s h) c z none
  rw [landMgmt_some hc hm] at hr
  simp only [stopTrap, stopTrapAs, landMgmt_some hc hm, landMgmt_none hz rfl, ctx_of_ctx? hc, ctx_of_ctx? hz]
  exact congrArg (fun b => takeTrap _ h cause slot done part (specBit cause b) info) hr.symm

/-! ### User-level traps (R120) -/

/-- What a user-level trap makes of its context. -/
def enterHandler (addr : Nat) (c : Ctx) : Ctx :=
  { c with trapInfo := mkTrapInfo causeFutureEmpty addr c.pc, pc := c.trapVec, rep := 0, done := 0, partBundle := false,
           bpSkip := 0, view := none, began := none, leave := none }

theorem takeUserTrap_ctx? (s : State) (h addr : Nat) :
    (takeUserTrap s h causeFutureEmpty addr).ctx? h = (s.ctx? h).map (enterHandler addr) :=
  ctx?_modCtx_self s h (enterHandler addr) fun _ => rfl

/-- A user-level trap that is not fatal redirects its context to the handler. -/
theorem userTrap_taken {s : State} {h addr : Nat} {c : Ctx} (hc : s.ctx? h = some c)
    (h0 : c.trapInfo.getLsbD 63 = false) (h1 : c.trapVec ≠ 0) (h2 : c.shl = 0) :
    userTrap s h addr = takeUserTrap (traceRec s c.core 4 0 c.pc.toNat c.trapVec.toNat) h causeFutureEmpty addr := by
  rw [userTrap, ctx_of_ctx? hc]
  exact if_neg (by rw [h0, h2]; rintro (h | h | h) <;> [cases h; exact h1 h; exact h rfl])

/-- One raised while a trap is active, without a handler or in a delay shadow is fatal. -/
theorem userTrap_fatal {s : State} {h addr : Nat} {c : Ctx} (hc : s.ctx? h = some c)
    (hf : c.trapInfo.getLsbD 63 = true ∨ c.trapVec = 0 ∨ c.shl ≠ 0) :
    userTrap s h addr = fatalNow s h causeUtrapFatal 15 0 c.trapInfo := by
  simp only [userTrap, ctx_of_ctx? hc, if_pos hf]

/-- Settles O28: a stop's context, record and frame follow from those of the trap operation, after the landing of the
management write in flight. -/
theorem trapEntry : Obligations.TrapEntry := by
  intro s h cause slot addr done part info c hc t u
  obtain ⟨z, m, hd⟩ := landMgmt_ctx s h c hc
  refine ⟨fun hm => ?_, fun n v hm => stopTrap_lands_first hc hm, ?_, fun k hk => ?_, fun h0 h1 h2 => ⟨?_, ?_⟩,
    userTrap_fatal hc⟩
  · have hc' : (landMgmt s h).ctx? h = some c := by rw [landMgmt_none hc hm]; exact hc
    rw [stopTrap_ctx? hc' h, if_pos rfl]
    rfl
  · have ht := stopTrap_trapWait (cause := cause) (slot := slot) (done := done) (part := part) (info := info) hc hd
    exact ⟨_, ht, rfl, rfl, rfl, rfl, rfl, rfl, rfl, rfl, rfl, rfl, rfl, rfl, rfl, rfl, rfl⟩
  · rw [stopTrap_ctx? hd k, if_neg hk, landMgmt_ctx?_ne hc hk]
  · rw [show u = _ from userTrap_taken hc h0 h1 h2, takeUserTrap_ctx?, traceRec_ctx?, hc]
    rfl
  · rw [show u = _ from userTrap_taken hc h0 h1 h2, takeUserTrap, State.modCtx_trapWait, traceRec_trapWait]
end Sys2Proof.MachineState

/-!
The commands on stopped contexts (spec/11 R256, R257; spec/23 R437): what each of them comes to, by the status of its
context, once for the supervisor and for the debug unit.
-/
namespace Sys2Proof.MachineState
open Sys2Proof Sys2Proof.Machine Sys2Proof.Safety

/-- A context of a cluster is the one that its handle finds. -/
theorem ctx?_of_ctxIn {s : State} {cl h : Nat} {c : Ctx} (hc : s.ctxIn cl h = some c) : s.ctx? h = some c :=
  (Option.filter_eq_some_iff.mp hc).1

/-- A supervisor that does not wait has its register access performed. -/
theorem supAccess_performs {s t : State} {cl : Nat} (name : String) (hw : s.supWaits cl = false) :
    supAccess name cl s t = .next (s.whenUp t) := by
  simp [supAccess, hw]

@[simp] theorem isTrapped_iff (x : CtxStatus) : x.isTrapped = true ↔ x = .trapped := by cases x <;> decide

@[simp] theorem isDebug_iff (x : CtxStatus) : x.isDebug = true ↔ x = .debug := by cases x <;> decide

section Commands

variable {s : State} {cl h img : Nat} {c : Ctx} {sts : RegAddr} {mine : CtxStatus → Bool}

/-- A save of a context that is not stopped for the commanding party reports 2. -/
theorem saveCmd_other (hc : s.ctxIn cl h = some c) (hm : mine c.status = false) :
    saveCmd s cl h sts img mine = cmdStatus s sts 2 0 := by
  simp [saveCmd, hc, hm]

/-- A save waits, busy, while a token is pending. -/
theorem saveCmd_busy (hc : s.ctxIn cl h = some c) (hm : mine c.status = true) (ht : c.tokPend ≠ 0) :
    saveCmd s cl h sts img mine = s.setReg sts 1 := by
  simp only [saveCmd, hc, hm, Bool.not_true, Bool.false_eq_true, if_false, if_pos ht]

/-- A save without pending tokens writes the image and reports 0. -/
theorem saveCmd_saves (hc : s.ctxIn cl h = some c) (hm : mine c.status = true) (ht : c.tokPend = 0) :
    saveCmd s cl h sts img mine = cmdStatus (saveStopped s c img) sts 0 0 := by
  simp [saveCmd, hc, hm, ht]

/-- A restore of a context that is not stopped for the commanding party reports 2. -/
theorem restoreCmd_other (hc : s.ctxIn cl h = some c) (hm : mine c.status = false) :
    restoreCmd s cl h sts img mine = cmdStatus s sts 2 0 := by
  simp [restoreCmd, hc, hm]

/-- A restore of a context that has not been saved reports 4. -/
theorem restoreCmd_unsaved (hc : s.ctxIn cl h = some c) (hm : mine c.status = true) (hi : c.imgAt = none) :
    restoreCmd s cl h sts img mine = cmdStatus s sts 4 0 := by
  simp [restoreCmd, hc, hm, hi]

/-- A restore from an image that fails a rule of R250 reports 3 and the rule. -/
theorem restoreCmd_refused {r : Nat} (hc : s.ctxIn cl h = some c) (hm : mine c.status = true) (hi : c.imgAt.isSome = true)
    (hr : readImage s c img = .error r) : restoreCmd s cl h sts img mine = cmdStatus s sts 3 r := by
  simp [restoreCmd, hc, hm, Option.isNone_eq_false_iff.mpr hi, hr]

/-- A restore from a good image resumes the context that it describes, with the image's banks, and reports 0. -/
theorem restoreCmd_resumes {c' : Ctx} (hc : s.ctxIn cl h = some c) (hm : mine c.status = true) (hi : c.imgAt.isSome = true)
    (hr : readImage s c img = .ok c') : restoreCmd s cl h sts img mine =
      cmdStatus (resumeCtx (restoreBanks s c img) { c' with stallTask := c'.redirecting && !c'.mid }) sts 0 0 := by
  simp [restoreCmd, hc, hm, Option.isNone_eq_false_iff.mpr hi, hr]

end Commands

/-- What a save makes of the contexts: the saved one takes stores to its image, and one whose image it overwrites no
longer does. -/
def noteSave (c : Ctx) (img : Nat) (x : Ctx) : Ctx :=
  if x.handle == c.handle then { x with mirror := true }
  else match x.imgAt with
    | some a => if decide (a < img + imgLen c) && decide (img < a + imgLen x) then { x with mirror := false } else x
    | none => x

theorem noteSave_handle (c : Ctx) (img : Nat) (x : Ctx) : (noteSave c img x).handle = x.handle := by
  unfold noteSave
  repeat' split
  all_goals rfl

/-- A change of every context that keeps the handles is found by handle. -/
theorem ctx?_map (s t : State) (f : Ctx → Ctx) (hf : ∀ x, (f x).handle = x.handle) (ht : t.ctxs = s.ctxs.map f) (h : Nat) :
    t.ctx? h = (s.ctx? h).map f := by
  have hp : ((fun x : Ctx => x.handle == h) ∘ f) = fun x => x.handle == h := by funext x; simp [hf]
  rw [State.ctx?, State.ctx?, ht, List.find?_map, hp]

/-- A saved context stands as it was, with its image's place noted. -/
theorem saveStopped_ctx? {s : State} {h img : Nat} {c : Ctx} (hc : s.ctx? h = some c) :
    (saveStopped s c img).ctx? h = some { c with imgAt := some img, mirror := true } := by
  have hh := handle_of_ctx? hc
  rw [ctx?_map (saveImage s c img) _ (noteSave c img) (noteSave_handle c img) rfl h, saveImage,
    ctx?_setCtx_of _ { c with imgAt := some img } h hh]
  simp [noteSave]

/-- Settles O37: each event is its command's case for the status of its context. -/
theorem stoppedContexts : Obligations.StoppedContexts := by
  intro s cl h c hc hw img dbg sup red out back
  have ofSup : ∀ {name : String} {t u : State}, t = u → supAccess name cl s t = .next (s.whenUp u) :=
    fun e => e ▸ supAccess_performs _ hw
  have ofDbg : ∀ {t u : State}, t = u →
      (.next (s.whenUp t) : Host.Outcome State Fault Refusal) = .next (s.whenUp u) := fun e => e ▸ rfl
  have trapped : c.status = .trapped → c.status.isTrapped = true := (isTrapped_iff _).mpr
  have debug : c.status = .debug → c.status.isDebug = true := (isDebug_iff _).mpr
  have notTrapped : c.status ≠ .trapped → c.status.isTrapped = false := by simp [← Bool.not_eq_true]
  have notDebug : c.status ≠ .debug → c.status.isDebug = false := by simp [← Bool.not_eq_true]
  refine ⟨?_, ?_, saveStopped_ctx? (ctx?_of_ctxIn hc), ?_, ?_, ?_, ?_, ?_, ?_, ?_, ?_, ?_, ?_, ?_⟩
  · exact fun hs ht => ofSup (saveCmd_saves hc (trapped hs) ht)
  · exact fun hs ht => ofDbg (saveCmd_saves hc (debug hs) ht)
  · exact fun hs ht => ofSup (saveCmd_busy hc (trapped hs) ht)
  · exact fun hs ht => ofDbg (saveCmd_busy hc (debug hs) ht)
  · exact fun c' hs hi hr => ofSup (restoreCmd_resumes hc (trapped hs) hi hr)
  · exact fun c' hs hi hr => ofDbg (restoreCmd_resumes hc (debug hs) hi hr)
  · exact fun r hs hi hr => ofSup (restoreCmd_refused hc (trapped hs) hi hr)
  · exact fun hs hi => ofSup (restoreCmd_unsaved hc (trapped hs) hi)
  · intro hs
    change execDbgResume cl h s = _
    simp only [execDbgResume, hc, debug hs, if_true]
    rfl
  · exact ofSup (by simp only [hc]; rfl)
  · exact fun hs => ⟨ofSup (saveCmd_other hc (notTrapped hs)), ofSup (restoreCmd_other hc (notTrapped hs))⟩
  · intro hs
    refine ⟨ofDbg (saveCmd_other hc (notDebug hs)), ofDbg (restoreCmd_other hc (notDebug hs)), ?_⟩
    change execDbgResume cl h s = _
    simp only [execDbgResume, hc, notDebug hs, Bool.false_eq_true, if_false]
    rfl
  · intro r rest t hp hr
    change execTrapRecordEnqueue cl s = _
    simp only [execTrapRecordEnqueue, hp, hr]
end Sys2Proof.MachineState

/-!
The issue of a bundle that starts afresh (spec/03 R77, R89; spec/01 R32): the way from a core's issue to the decision
over the slots' outcomes, and each outcome of that decision.
-/
namespace Sys2Proof.MachineState
open Sys2Proof Sys2Proof.Machine Sys2Proof.Safety

/-- The state over which a bundle's slots run: results have moved one bundle on, and the view of the bundle's start is
taken (R77). -/
def bundleStart (s0 : State) (c : Ctx) (b : Bundle) : State :=
  let t0 := (landMgmt s0 c.handle).modCtx c.handle tickFlight
  t0.modCtx c.handle fun c' =>
    { c' with view := some (takeView t0 c' (bundleLen b.header)), began := some (decide (c.shl ≠ 0), c.loops.length) }

/-- The slots of a bundle with their operations in this repetition and what each of them comes to. -/
def slotFates (t : State) (c : Ctx) (b : Bundle) : List (SlotIn × Instr × SlotRes) :=
  (b.words.filterMap slotIn).map fun x => (x, stepInstr b.rpt c.rep x, slotFate t (stepInstr b.rpt c.rep x))

/-- A bundle that starts afresh passes the checks that the whole bundle meets: the rows of R89, room for its results
(spec/01 R43) and the windows of its slices (R90). -/
structure PassesChecks (t : State) (c : Ctx) (b : Bundle) : Prop where
  rows : reported (headerRows b ++ slotRows b ++ bundleRows b (b.words.filterMap slotIn) (decide (c.shl ≠ 0)) c.loops.isEmpty)
    = none
  room : (t.ctx c.handle).flight.length +
    ((slotFates t c b).map (newResults (t.ctx c.handle) (t.isSpec (t.ctx c.handle)))).sum ≤ 32
  slices : ∀ x ∈ b.words.filterMap slotIn, sliceFail (t.ctx c.handle) b.rpt x.i x.info x.p x.f = none

/-- A core whose next sequencer stands at the start of a bundle comes to that bundle's slots. -/
theorem issueOn_fresh {s : State} {core : Nat} {c : Ctx} {b : Bundle} (hf : freshBundle s core c b)
    (hr : reported (headerRows b ++ slotRows b ++ bundleRows b (b.words.filterMap slotIn) (decide (c.shl ≠ 0))
      c.loops.isEmpty) = none) :
    issueOn s core = issueSlots (issuing s core c) c b (b.words.filterMap slotIn) none := by
  obtain ⟨hpick, hisl, hkill, hbar, hred, hpend, hdone, hpart, hb, bs, rest, hfetch, hbytes, hdec, hbrk⟩ := hf
  have hmid : c.mid = false := by simp [Ctx.mid, hpart, hdone]
  have hisl' : ((landOthers { s with cur := core } core c.handle).island core).stage ≠ 2 := hisl
  calc issueOn s core = issueCtx (issuing s core c) c := by
        simp only [issueOn, hpick, if_neg hisl', hkill, hbar, hred]
        exact if_neg (fun h => by simp at h)
    _ = issueBundle (issuing s core c) c := if_neg (by simp [hpend])
    _ = issueSlots (issuing s core c) c b (b.words.filterMap slotIn) none := by
        simp only [issueBundle, hfetch, hbytes, hdec, hmid, hr, hbrk]
        simp

/-- An outcome is an operation's failed check of its own rule. -/
def breaksRule : SlotRes → Bool
  | .illegal => true
  | _ => false

/-- The address of the empty future that an outcome traps on (spec/05 R120). -/
def emptyFuture : SlotRes → Option Nat
  | .utrap a => some a
  | _ => none

theorem breaksRule_iff (r : SlotRes) : breaksRule r = true ↔ r = .illegal := by cases r <;> simp [breaksRule]

/-- What the outcomes of a bundle's slots decide, all of its checks passed (log entry 23): a stall, an operation that breaks its own
rule, a user-level trap, or the commit of its slots. -/
def decideSlots (s t : State) (c : Ctx) (b : Bundle) : IssueRes :=
  match firstStall (slotFates t c b) true with
  | some (x, r) => stallOn s c x r
  | none =>
    match (slotFates t c b).find? fun x => breaksRule x.2.2 with
    | some x => .other (stopTrap s c.handle causeIllegal 15 c.done c.partBundle (illegalInfo 0 x.1.p.index))
    | none =>
      match firstStall (slotFates t c b) false with
      | some (x, r) => stallOn s c x r
      | none =>
        match (slotFates t c b).findSome? fun x => emptyFuture x.2.2 with
        | some a => .other (userTrap s c.handle a)
        | none => runSlots s t c b (b.words.filterMap slotIn) (slotFates t c b)

/-- A bundle that starts afresh and passes its checks is decided by its slots' outcomes. -/
theorem issueSlots_decides {s : State} {c : Ctx} {b : Bundle} (hd : c.done = 0) (hp : c.partBundle = false)
    (h : PassesChecks (bundleStart s c b) c b) :
    issueSlots s c b (b.words.filterMap slotIn) none = decideSlots s (bundleStart s c b) c b := by
  obtain ⟨-, hroom, hsl⟩ := h
  have hmid : c.mid = false := by simp [Ctx.mid, hp, hd]
  unfold issueSlots
  extract_lets h left t0 t ct spec base ys late xs illegal
  have hleft : left = b.words.filterMap slotIn := by simp [left, hd]
  have ht : t = bundleStart s c b := by simp only [t, t0, hmid, Bool.false_eq_true, if_false]; rfl
  have hys : ys = slotFates (bundleStart s c b) c b := by simp only [ys, hleft, ht]; rfl
  have hlate : late = [] := by
    simp only [late, hmid, Bool.false_eq_true, if_false]
    exact deferLoads_none (by rw [hys]; simpa only [base, spec, ct, ht] using hroom)
  have hxs : xs = slotFates (bundleStart s c b) c b := by simp [xs, hlate, hys]
  have hno : (left.findSome? fun x => (sliceFail ct b.rpt x.i x.info x.p x.f).map fun w => (x, w)) = none := by
    simp only [hleft, List.findSome?_eq_none_iff, ct, ht]
    intro x hx
    rw [hsl x hx]
    rfl
  have hfit : ¬ ((!c.mid) = true ∧ base + (xs.map (newResults ct spec)).sum > 32) := by
    rw [hxs]
    simpa [base, spec, ct, ht] using fun _ => hroom
  rw [if_neg hfit, if_neg (by simp), hno, hxs, ht]
  rfl

/-- A core whose next sequencer stands at the start of a bundle that passes its checks comes to what its slots decide. -/
theorem issueOn_decides {s : State} {core : Nat} {c : Ctx} {b : Bundle} (hf : freshBundle s core c b)
    (hp : PassesChecks (bundleStart (issuing s core c) c b) c b) :
    issueOn s core = decideSlots (issuing s core c) (bundleStart (issuing s core c) c b) c b := by
  have hrow := issueOn_fresh hf hp.rows
  obtain ⟨-, -, -, -, -, -, hdone, hpart, -⟩ := hf
  rw [hrow, issueSlots_decides hdone hpart hp]

/-! ### The stalls among outcomes -/

/-- Slots that all take effect hold nothing back. -/
theorem firstStall_none_of_ok {xs : List (SlotIn × Instr × SlotRes)} (h : ∀ x ∈ xs, ∃ w, x.2.2 = .ok w) (tok : Bool) :
    firstStall xs tok = none := by
  rw [firstStall, List.findSome?_eq_none_iff]
  intro x hx
  obtain ⟨w, hw⟩ := h x hx
  rw [hw]

/-- Where no slot stalls, none stalls on a token. -/
theorem firstStall_none_mono {xs : List (SlotIn × Instr × SlotRes)} (h : firstStall xs false = none) (tok : Bool) :
    firstStall xs tok = none := by
  rw [firstStall, List.findSome?_eq_none_iff] at h ⊢
  intro x hx
  have := h x hx
  split at this <;> simp_all

/-- Where no slot breaks its own rule, none is found. -/
theorem find_breaksRule_none {xs : List (SlotIn × Instr × SlotRes)} (h : ∀ x ∈ xs, x.2.2 ≠ .illegal) :
    (xs.find? fun x => breaksRule x.2.2) = none := by
  simpa [breaksRule_iff] using h

/-! ### What the slots decide -/

/-- A stall of a sequencer that neither ends, nor is redirected, nor yields holds its core (spec/01 R32). -/
theorem stallOn_stalls {s : State} {c : Ctx} {x : SlotIn} {r : Nat} (hk : c.killCause = none) (hr : c.redirecting = false)
    (hy : c.yieldReq = false) : ∃ onToken onTask, stallOn s c x r = .stalled (note (s.modCtx c.handle fun d =>
      { d with stallTok := onToken, stallTask := onTask }) c.core true c.pc x.p.index r) := by
  unfold stallOn
  extract_lets onToken onTask
  exact ⟨onToken, onTask, by simp [hk, hr, hy]⟩

section Decisions

variable {s t u : State} {c : Ctx} {b : Bundle}

/-- The slot that a stall is reported for: one on a token first, then, with no slot that breaks its own rule, the lowest. -/
theorem decideSlots_stall {x : SlotIn} {r : Nat}
    (h : firstStall (slotFates t c b) true = some (x, r) ∨
      firstStall (slotFates t c b) true = none ∧ (∀ x ∈ slotFates t c b, x.2.2 ≠ .illegal) ∧
        firstStall (slotFates t c b) false = some (x, r)) :
    decideSlots s t c b = stallOn s c x r := by
  rcases h with h | ⟨h1, h2, h3⟩
  · simp only [decideSlots, h]
  · simp only [decideSlots, h1, find_breaksRule_none h2, h3]

/-- An empty future among slots of which none stalls or breaks its own rule takes the user-level trap (spec/05 R120). -/
theorem decideSlots_utrap {a : Nat} (h1 : ∀ x ∈ slotFates t c b, x.2.2 ≠ .illegal)
    (h2 : firstStall (slotFates t c b) false = none)
    (h3 : ((slotFates t c b).findSome? fun x => emptyFuture x.2.2) = some a) :
    decideSlots s t c b = .other (userTrap s c.handle a) := by
  simp only [decideSlots, firstStall_none_mono h2, find_breaksRule_none h1, h3]

/-- The only slot that breaks its own rule makes the bundle illegal, where none stalls on a token. -/
theorem decideSlots_illegal {x : SlotIn × Instr × SlotRes} (hd : c.done = 0) (hp : c.partBundle = false)
    (hx : x ∈ slotFates t c b) (h1 : firstStall (slotFates t c b) true = none) (h2 : x.2.2 = .illegal)
    (h3 : ∀ y ∈ slotFates t c b, y.2.2 = .illegal → y = x) :
    decideSlots s t c b = .other (stopTrap s c.handle causeIllegal 15 0 false (illegalInfo 0 x.1.p.index)) := by
  have hfind : ((slotFates t c b).find? fun x => breaksRule x.2.2) = some x := by
    cases hy : (slotFates t c b).find? fun x => breaksRule x.2.2 with
    | none => exact absurd ((breaksRule_iff _).mpr h2) (List.find?_eq_none.mp hy x hx)
    | some y =>
      have hbreaks := List.find?_some (p := fun x : SlotIn × Instr × SlotRes => breaksRule x.2.2) hy
      rw [h3 y (List.mem_of_find?_eq_some hy) ((breaksRule_iff _).mp hbreaks)]
  simp only [decideSlots, h1, hfind, hd, hp]

/-- An operation is an enabled phase. -/
def isEnabledPhase (c : Ctx) : Instr → Bool
  | .phase _ f => enabled c f
  | _ => false

/-- The slots of a bundle that starts afresh run and none of them stops it: they commit, and the repetition completes. -/
theorem runSlots_commits {all : List SlotIn} {xs : List (SlotIn × Instr × SlotRes)} (hd : c.done = 0)
    (hp : c.partBundle = false) (hok : ∀ x ∈ xs, ∃ w, x.2.2 = .ok w) (hstop : firstStop t (t.ctx c.handle) xs = none)
    (hu : commitAll c.handle t xs = .ok u) :
    runSlots s t c b all xs = .issued (completeRep (markIssue s u c (xs.map fun x => x.2.1)) c.handle b all true)
      b.words.isEmpty (xs.any fun x => isEnabledPhase (t.ctx c.handle) x.2.1) := by
  have hdef : ∀ spec, ∀ x ∈ xs, deferredCause spec x.2.2 = none := by
    intro spec x hx
    obtain ⟨w, hw⟩ := hok x hx
    rw [hw]
    rfl
  unfold runSlots
  extract_lets h ct spec st run t1 done full count ph
  have hrun : run = xs := by simp only [run, st, ct, h, hstop, committed]
  have ht1 : t1 = t := by
    simp only [t1, hrun]
    exact List.foldlRecOn (motive := (· = t)) xs _ rfl fun v hv x hx => by rw [hdef spec x hx]; exact hv
  have hst : st = none := hstop
  have hkeep : (run.filter fun x => (deferredCause spec x.2.2).isNone) = xs := by
    rw [hrun, List.filter_eq_self]
    intro x hx
    rw [hdef spec x hx]
    rfl
  have hcount : count = true := by simp [count, Ctx.mid, hp, hd]
  have hph : ph = xs.any fun x => isEnabledPhase (t.ctx c.handle) x.2.1 := by simp only [ph, hrun]; rfl
  rw [hkeep, ht1, show commitAll h t xs = _ from hu]
  simp only [hrun, hst, hcount, hph, h]

/-- Slots that all take effect, with no stop among them, commit, and the repetition completes (R77, R89). -/
theorem decideSlots_commits (hd : c.done = 0) (hp : c.partBundle = false)
    (hok : ∀ x ∈ slotFates t c b, ∃ w, x.2.2 = .ok w) (hstop : firstStop t (t.ctx c.handle) (slotFates t c b) = none)
    (hu : commitAll c.handle t (slotFates t c b) = .ok u) :
    decideSlots s t c b = .issued
      (completeRep (markIssue s u c ((slotFates t c b).map fun x => x.2.1)) c.handle b (b.words.filterMap slotIn) true)
      b.words.isEmpty ((slotFates t c b).any fun x => isEnabledPhase (t.ctx c.handle) x.2.1) := by
  have hleg : ∀ x ∈ slotFates t c b, x.2.2 ≠ .illegal := by
    intro x hx
    obtain ⟨w, hw⟩ := hok x hx
    rw [hw]
    exact nofun
  have hfut : ((slotFates t c b).findSome? fun x => emptyFuture x.2.2) = none := by
    rw [List.findSome?_eq_none_iff]
    intro x hx
    obtain ⟨w, hw⟩ := hok x hx
    rw [hw]
    rfl
  simp only [decideSlots, firstStall_none_of_ok hok, find_breaksRule_none hleg, hfut]
  exact runSlots_commits hd hp hok hstop hu

end Decisions

/-! ### The events of an issue -/

/-- What the events of an issue complete: the bundle's issue, the end of a stall, a phase, an empty bundle. -/
theorem exec_of_issued {s t : State} {core : Nat} {e ph : Bool} (h : issueOn s core = .issued t e ph) :
    exec (.bundleIssue core) s = .next t ∧ (ph = true → exec (.phaseComplete core) s = .next t) ∧
      (e = true → exec (.emptyBundle core) s = .next t) ∧
      ((s.core core).stalled = true → exec (.stallRelease core) s = .next t) := by
  refine ⟨?_, ?_, ?_, fun hs => ?_⟩
  · change execBundleIssue core s = _
    rw [execBundleIssue, h]
    rfl
  · rintro rfl
    change execPhaseComplete core s = _
    rw [execPhaseComplete, h]
  · rintro rfl
    change execEmptyBundle core s = _
    rw [execEmptyBundle, h]
  · change execStallRelease core s = _
    simp only [execStallRelease, h, hs, if_true]

/-- Before a bundle that issues, the results due and the management write in flight land (R22, R41). -/
theorem exec_resultLands {s t : State} {core : Nat} {c : Ctx} {e ph : Bool} (h : issueOn s core = .issued t e ph)
    (hp : pick s core = some c) (hd : c.done = 0) (hpb : c.partBundle = false)
    (hdue : (c.flight.any fun x => decide (x.remaining ≤ 1)) = true ∨ c.mgmt.isSome = true) :
    exec (.resultLands core) s = .next ((landMgmt s c.handle).modCtx c.handle landDue) := by
  have hmid : c.mid = false := by simp [Ctx.mid, hpb, hd]
  change execResultLands core s = _
  simp only [execResultLands, h, hp, hmid]
  exact if_pos ⟨hdue, rfl⟩

/-- A sequencer that starts a bundle afresh has no part of it done and nothing that comes before it. -/
theorem freshBundle_ctx {s : State} {core : Nat} {c : Ctx} {b : Bundle} (hf : freshBundle s core c b) :
    c.done = 0 ∧ c.partBundle = false ∧ c.killCause = none ∧ c.redirecting = false := by
  obtain ⟨-, -, hkill, -, hred, -, hdone, hpart, -⟩ := hf
  exact ⟨hdone, hpart, hkill, hred⟩

/-- A fresh bundle whose slots all take effect, with no stop among them, issues with their commit. -/
theorem issueOn_commits {s u : State} {core : Nat} {c : Ctx} {b : Bundle} (hf : freshBundle s core c b)
    (hp : PassesChecks (bundleStart (issuing s core c) c b) c b)
    (hok : ∀ x ∈ slotFates (bundleStart (issuing s core c) c b) c b, ∃ w, x.2.2 = .ok w)
    (hstop : firstStop (bundleStart (issuing s core c) c b) ((bundleStart (issuing s core c) c b).ctx c.handle)
      (slotFates (bundleStart (issuing s core c) c b) c b) = none)
    (hu : commitAll c.handle (bundleStart (issuing s core c) c b) (slotFates (bundleStart (issuing s core c) c b) c b)
      = .ok u) :
    issueOn s core = .issued
      (completeRep (markIssue (issuing s core c) u c ((slotFates (bundleStart (issuing s core c) c b) c b).map fun x => x.2.1))
        c.handle b (b.words.filterMap slotIn) true)
      b.words.isEmpty ((slotFates (bundleStart (issuing s core c) c b) c b).any fun x =>
        isEnabledPhase ((bundleStart (issuing s core c) c b).ctx c.handle) x.2.1) := by
  obtain ⟨hd, hpb, -, -⟩ := freshBundle_ctx hf
  rw [issueOn_decides hf hp, decideSlots_commits hd hpb hok hstop hu]

/-- Settles O29: the issue of a fresh bundle is the decision over its slots' outcomes, and each clause is one of its cases. -/
theorem bundleIssues : Obligations.BundleIssues := by
  constructor
  · intro s core c b u all t0 t ct xs after hf hrow hroom hsl hok hstop hu
    obtain ⟨hd, hpb, -, -⟩ := freshBundle_ctx hf
    have hiss := issueOn_commits hf ⟨hrow, hroom, hsl⟩ hok hstop hu
    obtain ⟨h1, h2, h3, h4⟩ := exec_of_issued hiss
    refine ⟨h1, fun hb => h3 (by rw [hb]; rfl), h4, ?_, fun hdue hp => exec_resultLands hiss hp hd hpb hdue⟩
    rintro ⟨x, hx, p, f, hi, hen⟩
    refine h2 (List.any_eq_true.mpr ⟨x, hx, ?_⟩)
    rw [hi]
    exact hen
  · intro s core c b all s0 t0 t ct xs legal hf hrow hroom hsl
    obtain ⟨hd, hpb, hk, hr⟩ := freshBundle_ctx hf
    have hdec := issueOn_decides hf ⟨hrow, hroom, hsl⟩
    have hexec : ∀ {r : IssueRes}, issueOn s core = r → exec (.bundleIssue core) s = .next r.state :=
      fun e => congrArg (fun r => Host.Outcome.next (IssueRes.state r)) e
    refine ⟨fun x r hst hy => ?_, fun a hleg hst hfut => ?_, fun x hx hst hil huniq => ?_⟩
    · obtain ⟨onToken, onTask, e⟩ := stallOn_stalls (s := s0) (x := x) (r := r) hk hr hy
      exact ⟨onToken, onTask, hexec ((hdec.trans (decideSlots_stall hst)).trans e)⟩
    · exact hexec (hdec.trans (decideSlots_utrap hleg hst hfut))
    · exact hexec (hdec.trans (decideSlots_illegal hd hpb hx hst hil huniq))
end Sys2Proof.MachineState

/-!
The events of an issue (spec/01 R22, R32, R41; spec/05 R124): a bundle without slots, and one whose only operation is
an enabled phase; and the commit of a bundle's only operation (spec/03 R77).
-/
namespace Sys2Proof.MachineState
open Sys2Proof Sys2Proof.Machine Sys2Proof.Safety

/-! ### The commit of a bundle's only operation -/

/-- The commit order has four ranks. -/
theorem commitRank_lt (i : Instr) : commitRank i < 4 := by
  unfold commitRank
  repeat' split
  all_goals decide

/-- An only slot commits whatever its rank is. -/
theorem commitOrder_single (y : SlotIn × Instr × SlotRes) :
    ((List.range 4).flatMap fun k => [y].filter fun x => commitRank x.2.1 == k) = [y] := by
  have hr := commitRank_lt y.2.1
  simp only [List.filter_cons, List.filter_nil]
  generalize commitRank y.2.1 = r at hr
  interval_cases r <;> rfl

/-- The tokens that were pending when a bundle issued are those that its operations meet. -/
abbrev atIssue (t : State) (h : Nat) : State := t.modCtx h fun c => { c with tokPend := (t.ctx h).tokPend }

/-- The commit of an only operation that takes effect is its meaning over the tokens pending at the issue (R77). -/
theorem commitAll_single {h : Nat} {t w : State} {x : SlotIn} {i : Instr} {r : SlotRes} (hw : semOf i (atIssue t h) = .ok w) :
    commitAll h t [(x, i, r)] =
      .ok (w.modCtx h fun c => { c with tokPend := c.tokPend ||| (t.ctx h).tokPend }) := by
  simp only [commitAll, commitOrder_single, List.foldl_cons, List.foldl_nil, commitOne, hw]

/-- A slot operation that passes its checks and takes effect, executed by itself. -/
theorem exec_of_semOf_ok {i : Instr} {s w : State} (hp : passes i = true) (hw : inWindow i s = true)
    (hok : semOf i s = .ok w) : exec i s = .next w := by
  cases hparts : i.parts with
  | none => simp [passes, hparts] at hp
  | some y =>
    obtain ⟨cls, code, p, f⟩ := y
    rw [exec_slot s hparts, runSlot_passes hparts hp hw, hok]
    rfl

/-! ### A bundle whose only operation is a phase -/

/-- A phase whose waits have ended takes effect (R124). -/
theorem semOf_phase_ok {p : Pos} {f : Fields} {s : State} (hi : issues (.phase p f) s = true)
    (hl : leadWaits s s.curCtx = false) (ho : s.offBusy s.curCtx = false) : ∃ w, semOf (.phase p f) s = .ok w := by
  rw [semOf_phase, semPhase, slotOp_issues rfl rfl hi]
  simp [hl, ho]

/-- A phase makes no access to the scratchpad that could wait for a clock. -/
theorem slotFate_phase {p : Pos} {f : Fields} {s w : State} (h : semOf (.phase p f) s = .ok w) :
    slotFate s (.phase p f) = .ok w := by
  have hheld : heldAccess s (.phase p f) = false := by simp [heldAccess, spmNames]
  simp only [slotFate, h, hheld, Bool.false_eq_true, if_false]

/-- Where no debug unit is active, a slot that takes effect stops nothing. -/
theorem stopOf_none {s w : State} {c : Ctx} {x : SlotIn} {i : Instr} (hd : s.dbgActive (clusterOf c.core) = false) :
    stopOf s c (x, i, .ok w) = none := by
  simp [stopOf, breaksAt, watchHit, hd]

/-- The slots of a bundle of one word. -/
theorem slotFates_single {t : State} {c : Ctx} {b : Bundle} {pw : Pos × Word} {x : SlotIn} (hb : b.words = [pw])
    (hx : slotIn pw = some x) : b.words.filterMap slotIn = [x] ∧
      slotFates t c b = [(x, stepInstr b.rpt c.rep x, slotFate t (stepInstr b.rpt c.rep x))] := by
  simp [slotFates, hb, hx]

/-- A fresh bundle without slots, with room for no result, passes its checks where its header does. -/
theorem passesChecks_nil {t : State} {c : Ctx} {b : Bundle} (hb : b.words = [])
    (hroom : (t.ctx c.handle).flight.length ≤ 32)
    (hrow : reported (headerRows b ++ slotRows b ++ bundleRows b [] (decide (c.shl ≠ 0)) c.loops.isEmpty) = none) :
    PassesChecks t c b := by
  refine ⟨?_, ?_, ?_⟩
  · rw [hb]; exact hrow
  · simpa [slotFates, hb] using hroom
  · simp [hb]

/-- A fresh bundle of one word passes its checks where its word and its one result do. -/
theorem passesChecks_single {t : State} {c : Ctx} {b : Bundle} {pw : Pos × Word} {x : SlotIn} (hb : b.words = [pw])
    (hx : slotIn pw = some x)
    (hrow : reported (headerRows b ++ slotRows b ++ bundleRows b [x] (decide (c.shl ≠ 0)) c.loops.isEmpty) = none)
    (hsl : sliceFail (t.ctx c.handle) b.rpt x.i x.info x.p x.f = none)
    (hroom : (t.ctx c.handle).flight.length + newResults (t.ctx c.handle) (t.isSpec (t.ctx c.handle))
      (x, stepInstr b.rpt c.rep x, slotFate t (stepInstr b.rpt c.rep x)) ≤ 32) : PassesChecks t c b := by
  obtain ⟨hall, hxs⟩ := slotFates_single (t := t) (c := c) hb hx
  refine ⟨?_, ?_, ?_⟩
  · rw [hall]; exact hrow
  · rw [hxs]; simpa using hroom
  · rw [hall]; simpa using hsl

/-- A fresh bundle whose only operation is an enabled phase that need not wait: the phase completes with its bundle (R124). -/
theorem phaseComplete_single {s t : State} {core : Nat} {c : Ctx} {b : Bundle} {p : Pos} {f : Fields} {pw : Pos × Word}
    {x : SlotIn} (ht : bundleStart (issuing s core c) c b = t) (hf : freshBundle s core c b) (hb : b.words = [pw])
    (hx : slotIn pw = some x) (hi : stepInstr b.rpt c.rep x = .phase p f)
    (hrow : reported (headerRows b ++ slotRows b ++ bundleRows b [x] (decide (c.shl ≠ 0)) c.loops.isEmpty) = none)
    (hsl : sliceFail (t.ctx c.handle) b.rpt x.i x.info x.p x.f = none)
    (hroom : (t.ctx c.handle).flight.length + resultCount (t.ctx c.handle) (.phase p f) x.info x.f ≤ 32)
    (hdbg : t.dbgActive (clusterOf (t.ctx c.handle).core) = false) (hen : enabled (t.ctx c.handle) f = true)
    (hv : ∀ v ∈ [t, atIssue t c.handle],
      issues (.phase p f) v = true ∧ leadWaits v v.curCtx = false ∧ v.offBusy v.curCtx = false) :
    ∃ w, exec (.phase p f) (atIssue t c.handle) = .next w ∧
      exec (.phaseComplete core) s = .next (completeRep (markIssue (issuing s core c)
        (w.modCtx c.handle fun d => { d with tokPend := d.tokPend ||| (t.ctx c.handle).tokPend }) c [.phase p f])
        c.handle b [x] true) := by
  obtain ⟨hissT, hleadT, hoffT⟩ := hv t (by simp)
  obtain ⟨hiss1, hlead1, hoff1⟩ := hv (atIssue t c.handle) (by simp)
  obtain ⟨w0, hw0⟩ := semOf_phase_ok hissT hleadT hoffT
  obtain ⟨w, hw⟩ := semOf_phase_ok hiss1 hlead1 hoff1
  have hfate : slotFate t (stepInstr b.rpt c.rep x) = .ok w0 := by rw [hi]; exact slotFate_phase hw0
  obtain ⟨hall, hxs⟩ := slotFates_single (t := t) (c := c) hb hx
  have hpass : PassesChecks t c b := passesChecks_single hb hx hrow hsl (by rw [hfate, hi]; exact hroom)
  rw [hfate, hi] at hxs
  subst ht
  have hissued := issueOn_commits hf hpass (by simp [hxs]) (by simp [hxs, firstStop, stopOf_none hdbg])
    (by rw [hxs]; exact commitAll_single hw)
  rw [hxs, hall] at hissued
  obtain ⟨-, h2, -, -⟩ := exec_of_issued hissued
  exact ⟨w, by rw [exec_issues rfl hiss1, hw]; rfl, h2 (by simpa [isEnabledPhase] using hen)⟩

/-- Settles O31: the events of an issue follow from the issue itself; a bundle without slots commits nothing, and one
with an only phase commits what the phase does by itself. -/
theorem issueEvents : Obligations.IssueEvents := by
  constructor
  · intro s core c b t0 t ct pend t1 empty
    refine ⟨fun hf hb hroom hrow => ?_, ?_, fun v e ph hiss => exec_of_issued hiss, rfl⟩
    · obtain ⟨hd, hpb, -, -⟩ := freshBundle_ctx hf
      have hxs : slotFates (bundleStart (issuing s core c) c b) c b = [] := by simp [slotFates, hb]
      have hiss := issueOn_commits (u := t) hf (passesChecks_nil hb hroom hrow) (by simp [hxs]) (by rw [hxs]; rfl)
        (by rw [hxs]; rfl)
      rw [hxs, hb] at hiss
      obtain ⟨h1, -, h3, h4⟩ := exec_of_issued hiss
      exact ⟨h1, h3 rfl, h4, fun hp hdue => exec_resultLands hiss hp hd hpb hdue⟩
    · intro p f word x hf hb hx hi hrow hsl hroom hdbg hen hv
      exact phaseComplete_single rfl hf hb hx hi hrow hsl hroom hdbg hen hv
  · intro h t x i r w pend t1 hp hwin hok
    exact ⟨exec_of_semOf_ok hp hwin hok, commitAll_single hok⟩
end Sys2Proof.MachineState

/-!
Reads of the scheduler and of special registers, and writes of special registers (spec/05 R127, R128; spec/09 R211, R230).
-/
namespace Sys2Proof.MachineState
open Sys2Proof Sys2Proof.Machine Sys2Proof.Safety

/-! ### What a word that passes the checks is known by -/

/-- The row of an operation that passes its checks reports no failure. -/
theorem wordRow_none_of_passes {i : Instr} {cls : Cls} {code : Nat} {p : Pos} {f : Fields} {info : OpInfo}
    (hp : i.parts = some (cls, code, p, f)) (hi : opInfo i = some info) (h : passes i = true) : wordRow i info f = none := by
  simp only [passes, hp, hi, Option.isNone_iff_eq_none, wordFail] at h
  split at h
  · cases h
  · assumption

/-- A word that fails no row has operand kinds that its operation accepts (row 9). -/
theorem kindsOk_of_wordRow_none {i : Instr} {info : OpInfo} {f : Fields} (h : wordRow i info f = none) :
    kindsOk info f = true := by
  by_contra hk
  simp only [wordRow, Bool.eq_false_iff.mpr hk, Bool.not_false, if_true] at h
  split_ifs at h

/-- A source that an operation takes is of a kind that it accepts. -/
theorem kind1_mem {info : OpInfo} {f : Fields} (h : kindsOk info f = true) (hw : info.wide = false) (hk : info.k1 ≠ []) :
    f.k1 ∈ info.k1 := by
  rw [kindsOk, if_neg (by simp [hw]), if_neg hk, Bool.and_eq_true] at h
  exact List.contains_iff_mem.mp h.1

/-- The operation of a state has passed its checks. -/
theorem passes_of_issues {i : Instr} {s : State} (h : issues i s = true) : passes i = true := by
  simp only [issues, Bool.and_eq_true] at h
  exact h.1.1.1

/-- The source of srd names a special register. -/
theorem srd_kind {p : Pos} {f : Fields} {s : State} (h : issues (.srd p f) s = true) : f.k1 = .special := by
  have hk := kindsOk_of_wordRow_none (wordRow_none_of_passes rfl rfl (passes_of_issues h))
  simpa using kind1_mem hk rfl (List.cons_ne_nil _ _)

/-! ### Reads -/

/-- An operation with a common result puts it in flight and changes nothing else. -/
theorem exec_get64 {i : Instr} {cls : Cls} {code : Nat} {p : Pos} {f : Fields} {s : State} {info : OpInfo} {g : State → Word}
    (hp : i.parts = some (cls, code, p, f)) (hi : opInfo i = some info) (hs : semOf i s = get64 i p f s g)
    (h : issues i s = true) : exec i s = .next (putCommon s p f.dst.reg info.lat (g s)) :=
  exec_slotOp h hp hi hs rfl

/-! ### Writes of special registers (R38, R128) -/

/-- What an swr that issues does. -/
theorem exec_swr {p : Pos} {f : Fields} {s : State} (h : issues (.swr p f) s = true) :
    exec (.swr p f) s = .next
      (if isWritableSpecial f.src1.start.toNat then putSpecial s p f.src1.start.toNat 1 (cSrc2 s f)
       else if 0x40 ≤ f.src1.start.toNat ∧ f.src1.start.toNat < 0x80 ∧ s.isMgmt s.curCtx then
         s.modCur fun c => { c with mgmt := some (f.src1.start.toNat, cSrc2 s f) }
       else s) := by
  rw [exec_issues rfl h, semOf_swr, semSwr, slotOp_issues rfl rfl h]
  simp only
  split_ifs <;> rfl

/-- What an mpset that issues does. -/
theorem exec_mpset {p : Pos} {f : Fields} {s : State} (h : issues (.mpset p f) s = true) :
    exec (.mpset p f) s = .next (putSpecial s p (0x80 + f.dst.start.toNat % 8) 1 (cSrc1 s f)) := by
  rw [exec_issues rfl h, semOf_mpset, semMpset, slotOp_issues rfl rfl h]
  rfl

/-- The registers that swr puts in flight. -/
theorem isWritableSpecial_iff (n : Nat) : isWritableSpecial n = true ↔ n = 0x11 ∨ n = 0x20 ∨ n = 0x28 ∨ n = 0x29 := by
  simp [isWritableSpecial, or_assoc]

/-- Settles O14: each read is one common result; an swr is its case for the register's number. -/
theorem schedulerAndSpecialRegisters : Obligations.SchedulerAndSpecialRegisters := by
  constructor
  · intro p f s c a out
    refine ⟨exec_get64 rfl rfl (semOf_frd p f s), exec_get64 rfl rfl (semOf_lvlrd p f s), exec_get64 rfl rfl (semOf_emrd p f s),
      fun h => ?_, exec_get64 rfl rfl (semOf_estat p f s)⟩
    have hsrc : cSrc1 s f = s.special c f.src1.start.toNat := by rw [cSrc1, srd_kind h]; rfl
    rw [exec_get64 rfl rfl (semOf_srd p f s) h, hsrc]
  · intro p f s n b
    refine ⟨fun h hn => ?_, fun h h1 h2 hm => ?_, fun t c m v hc hm => landMgmt_some hc hm,
      fun h h1 h2 h3 h4 hout => ?_, exec_mpset⟩
    · rw [exec_swr h, if_pos ((isWritableSpecial_iff _).mpr hn)]
      rfl
    · have hw : ¬ isWritableSpecial n = true := by
        rw [isWritableSpecial_iff]
        omega
      rw [exec_swr h, if_neg hw, if_pos ⟨h1, h2, hm⟩]
      rfl
    · have hw : ¬ isWritableSpecial n = true := by
        rw [isWritableSpecial_iff]
        omega
      have hm : ¬ (0x40 ≤ n ∧ n < 0x80 ∧ s.isMgmt s.curCtx = true) := by
        rintro ⟨ha, hb, hc⟩
        rcases hout with h' | h' | h'
        · omega
        · omega
        · rw [hc] at h'; cases h'
      rw [exec_swr h, if_neg hw, if_neg hm]
end Sys2Proof.MachineState

/-!
The frame of the operations whose results land (spec/01 R22, R41): what they change is the list of results in flight of
the context that issues.
-/
namespace Sys2Proof.MachineState
open Sys2Proof Sys2Proof.Machine Sys2Proof.Safety

/-! ### Results put in flight -/

/-- A result put in flight changes the list of results in flight alone. -/
theorem onlyFlight_writeAt (s : State) (x : Ctx → Flight) : onlyFlight s (s.modCur fun c => c.writeAt (x c)) :=
  ⟨fun c => insertFlight (x c) c.flight, rfl⟩

/-- No result put in flight. -/
theorem onlyFlight_refl (s : State) : onlyFlight s s :=
  ⟨fun c => c.flight, by simp [State.modCur, State.modCtx]⟩

/-- A change that keeps the handles keeps the context that issues. -/
theorem curCtx_handle_modCur (s : State) (g : Ctx → Ctx) (hg : ∀ c, (g c).handle = c.handle) :
    (s.modCur g).curCtx.handle = s.curCtx.handle := by
  have hcur : ((s.modCur g).core (s.modCur g).cur).cur = (s.core s.cur).cur := rfl
  simp only [State.curCtx, hcur]
  cases (s.core s.cur).cur with
  | none => rfl
  | some h =>
    have hfind : (s.modCur g).ctx? h = (s.ctx? h).map fun c => if c.handle == s.curCtx.handle then g c else c := by
      have hp : ((fun x : Ctx => x.handle == h) ∘ fun c => if c.handle == s.curCtx.handle then g c else c) =
          fun x => x.handle == h := by
        funext x
        simp only [Function.comp]
        split
        · rw [hg]
        · rfl
      rw [State.ctx?, State.ctx?, State.modCur, State.modCtx, List.find?_map, hp]
    simp only [State.ctx, hfind]
    cases s.ctx? h with
    | none => rfl
    | some c =>
      simp only [Option.map_some, Option.getD_some]
      split
      · exact hg c
      · rfl

/-- Results put in flight one after the other. -/
theorem onlyFlight_trans {s t u : State} (h : onlyFlight s t) (k : onlyFlight t u) : onlyFlight s u := by
  obtain ⟨fl, rfl⟩ := h
  obtain ⟨gl, rfl⟩ := k
  refine ⟨fun c => gl { c with flight := fl c }, ?_⟩
  have hh := curCtx_handle_modCur s (fun c => { c with flight := fl c }) fun _ => rfl
  rw [State.modCur, hh]
  simp only [State.modCur, State.modCtx, List.map_map]
  congr 1
  refine List.map_congr_left fun c _ => ?_
  simp only [Function.comp]
  split <;> simp_all

/-- Some results put in flight one after the other. -/
theorem onlyFlight_foldl {α : Type} {g : State → α → State} (hg : ∀ s a, onlyFlight s (g s a)) (l : List α) (s : State) :
    onlyFlight s (l.foldl g s) := by
  induction l generalizing s with
  | nil => exact onlyFlight_refl s
  | cons a l ih => exact onlyFlight_trans (hg s a) (ih (g s a))

/-! ### The shapes of the operations that only compute -/

/-- An outcome that puts results in flight and does no more. -/
def PutsInFlight (s : State) (r : SlotRes) : Prop := ∃ t, r = .ok t ∧ onlyFlight s t

section Shapes

variable {i : Instr} {cls : Cls} {code : Nat} {p : Pos} {f : Fields} {s : State} {info : OpInfo}

/-- An operation behind its gate puts in flight what its meaning does. -/
theorem slotOp_puts {run : OpInfo → State → SlotRes} (hp : i.parts = some (cls, code, p, f)) (hi : opInfo i = some info)
    (h : issues i s = true) (hr : PutsInFlight s (run info s)) : PutsInFlight s (slotOp i f s run) := by
  rwa [slotOp_issues hp hi h]

/-- One result put in flight. -/
theorem puts_one (x : Ctx → Flight) : PutsInFlight s (.ok (s.modCur fun c => c.writeAt (x c))) :=
  ⟨_, rfl, onlyFlight_writeAt s x⟩

theorem alu2_puts {x : Bool} {g : Nat → Nat → Nat → Nat} (hp : i.parts = some (cls, code, p, f)) (hi : opInfo i = some info)
    (h : issues i s = true) : PutsInFlight s (alu2 i p f s x g) := slotOp_puts hp hi h (puts_one _)

theorem alu1_puts {g : Nat → Nat → Nat → Nat} (hp : i.parts = some (cls, code, p, f)) (hi : opInfo i = some info)
    (h : issues i s = true) : PutsInFlight s (alu1 i p f s g) := slotOp_puts hp hi h (puts_one _)

theorem setPred_puts {g : State → Mask} (hp : i.parts = some (cls, code, p, f)) (hi : opInfo i = some info)
    (h : issues i s = true) : PutsInFlight s (setPred i p f s g) := slotOp_puts hp hi h (puts_one _)

theorem fpu2_puts {g : Fmt → RMode → FVal → FVal → Nat} (hp : i.parts = some (cls, code, p, f)) (hi : opInfo i = some info)
    (h : issues i s = true) : PutsInFlight s (fpu2 i p f s g) := slotOp_puts hp hi h (puts_one _)

theorem vecOp_puts {g : State → Nat → Nat} (hp : i.parts = some (cls, code, p, f)) (hi : opInfo i = some info)
    (h : issues i s = true) : PutsInFlight s (vecOp i p f s g) := slotOp_puts hp hi h (puts_one _)

theorem vec2_puts {gi : Nat → Nat → Nat → Nat} {gf : Fmt → RMode → FVal → FVal → Nat}
    (hp : i.parts = some (cls, code, p, f)) (hi : opInfo i = some info) (h : issues i s = true) :
    PutsInFlight s (vec2 i p f s gi gf) := vecOp_puts hp hi h

theorem veci_puts {x : Bool} {g : Nat → Nat → Nat → Nat} (hp : i.parts = some (cls, code, p, f))
    (hi : opInfo i = some info) (h : issues i s = true) : PutsInFlight s (veci i p f s x g) := vecOp_puts hp hi h

theorem vmac_puts {sp sd : Bool} (hp : i.parts = some (cls, code, p, f)) (hi : opInfo i = some info)
    (h : issues i s = true) : PutsInFlight s (vmac i p f s sp sd) := vecOp_puts hp hi h

theorem vecApprox_puts {op : Approx} (hp : i.parts = some (cls, code, p, f)) (hi : opInfo i = some info)
    (h : issues i s = true) : PutsInFlight s (vecApprox i p f s op) := vecOp_puts hp hi h

theorem vecPred_puts {g : State → Nat → Bool} (hp : i.parts = some (cls, code, p, f)) (hi : opInfo i = some info)
    (h : issues i s = true) : PutsInFlight s (vecPred i p f s g) := slotOp_puts hp hi h (puts_one _)

theorem alu64_puts {g : Word → Word → Word} (hp : i.parts = some (cls, code, p, f)) (hi : opInfo i = some info)
    (h : issues i s = true) : PutsInFlight s (alu64 i p f s g) := slotOp_puts hp hi h (puts_one _)

theorem get64_puts {g : State → Word} (hp : i.parts = some (cls, code, p, f)) (hi : opInfo i = some info)
    (h : issues i s = true) : PutsInFlight s (get64 i p f s g) := slotOp_puts hp hi h (puts_one _)

end Shapes

/-- Every operation that only computes, kld and kfmt apart, puts its results in flight and does no more. -/
theorem semOf_puts {i : Instr} {s : State} (hc : computes i = true) (h : issues i s = true)
    (hk : ∀ p f, i ≠ .kfmt p f ∧ i ≠ .kld p f) : PutsInFlight s (semOf i s) := by
  cases i
  case kld p f => exact absurd rfl (hk p f).2
  case kfmt p f => exact absurd rfl (hk p f).1
  case add | sub | mul | mulh | div | rem | and | or | xor | sll | srl | sra | min | max | lea | sel =>
    dsimp; exact alu2_puts rfl rfl h
  case abs | clz | popc | ext | xtr | ins => dsimp; exact alu1_puts rfl rfl h
  case cmp | pand | por | pxor | pset | fcmp => dsimp; exact setPred_puts rfl rfl h
  case fadd | fsub | fmul | fma | fdiv | fmin | fmax => dsimp; exact fpu2_puts rfl rfl h
  case cadd | csub | cmul | cand | cor | cxor | csll | csrl | csra => dsimp; exact alu64_puts rfl rfl h
  case cli | clui | cmov | cpget | frd | lvlrd | emrd | srd => dsimp; exact get64_puts rfl rfl h
  case vadd | vsub | vmul | vmin | vmax => dsimp; exact vec2_puts rfl rfl h
  case vmulh | vadds | vsubs | vand | vor | vxor | vsll | vsrl | vsra => dsimp; exact veci_puts rfl rfl h
  case vfma | vfms | vfnma => dsimp; exact vmac_puts rfl rfl h
  case vrcp | vrsqrt | vexp2 | vlog2 => dsimp; exact vecApprox_puts rfl rfl h
  case vabs | vneg | vclz | vpopc | vsel | vmov | vli | vext | vcvt | vrnd | vscale | vscan | vperm | vbcast | vrot | vslide
      | viota | vdot | vdotsu | vpget | vfirst => dsimp; exact vecOp_puts rfl rfl h
  case vcmp | vpset => dsimp; exact vecPred_puts rfl rfl h
  case li | pget | fcvt | icvt | ccmp | cpset | vred | vpack | vunpack | kmov | kadd | ksub | kli | kbind =>
    dsimp; exact slotOp_puts rfl rfl h (puts_one _)
  case xfer p f =>
    rw [semOf_xfer]
    refine slotOp_puts rfl rfl h ?_
    simp only
    split
    · exact puts_one _
    · exact puts_one _
  case kclr => rw [semOf_kclr]; exact slotOp_puts rfl rfl h ⟨_, rfl, onlyFlight_foldl (fun t j => onlyFlight_writeAt t _) _ s⟩
  all_goals cases hc

/-- Settles O23: each such operation's meaning puts its results in flight, and executing the operation settles that. -/
theorem resultsOnlyGoInFlight : Obligations.ResultsOnlyGoInFlight := by
  intro i s hc h hk
  obtain ⟨t, ht, hf⟩ := semOf_puts hc h hk
  cases hp : i.parts with
  | none => simp [issues, passes, hp] at h
  | some y =>
    obtain ⟨cls, code, p, f⟩ := y
    exact ⟨t, by rw [exec_issues hp h, ht]; rfl, hf⟩
end Sys2Proof.MachineState

/-!
Off-core and engine commands enter their queues (spec/01 R32; spec/07 R167 to R175; spec/09 R205 to R209, R231).
-/
namespace Sys2Proof.MachineState
open Sys2Proof Sys2Proof.Machine Sys2Proof.Safety

/-! ### Off-core commands -/

section
variable {i : Instr} {cls : Cls} {code : Nat} {p : Pos} {f : Fields} {s : State} {info : OpInfo}
variable {token : Bool} {args : List Word} {reads writes : List Nat}

/-- A command of no task has no fault to defer. -/
theorem specFate_none {c : Ctx} {x : Cmd} (h : x.task = none) : specFate s c x = none := by
  simp [specFate, h]

/-- Outside an ordered task nothing is tracked. -/
theorem track_none {c : Ctx} {k : State → SlotRes} (h : s.mySlot c = none) : track s c reads writes k = k s := by
  simp [track, h]

/-- What a task that is not speculative issues does not wait for the frontier. -/
theorem atFrontier_passes {r : SlotRes} (h : s.isSpec s.curCtx = false) : atFrontier s r = r := by
  simp [atFrontier, h]

/-- A command outside an ordered task enters a queue that has room (R167). -/
theorem farIssue_enters (hm : s.mySlot s.curCtx = none) (hq : s.queueLen s.curCtx.core (.off (farQueue i f)) < 16) :
    farIssue s i p f token args reads writes = .ok (pushCmd s s.curCtx
      (mkCmd s s.curCtx i p (.off (farQueue i f)) (if token then some f.dst.reg else none) args)) := by
  have ht : ∀ q t, (mkCmd s s.curCtx i p q t args).task = none := by simp [mkCmd, hm]
  simp only [farIssue, specFate_none (ht _ _), if_neg (Nat.not_le.mpr hq), track_none hm]

/-- An operation whose meaning is the issue of an off-core command puts it on its queue. -/
theorem exec_far {run : OpInfo → State → SlotRes} (hp : i.parts = some (cls, code, p, f)) (hi : opInfo i = some info)
    (hs : semOf i s = slotOp i f s run) (hr : run info s = farIssue s i p f token args reads writes)
    (h : issues i s = true) (hq : s.queueLen s.curCtx.core (.off (farQueue i f)) < 16) (hm : s.mySlot s.curCtx = none) :
    exec i s = .next (pushCmd s s.curCtx
      (mkCmd s s.curCtx i p (.off (farQueue i f)) (if token then some f.dst.reg else none) args)) :=
  exec_slotOp h hp hi hs (hr.trans (farIssue_enters hm hq))

/-- A cache maintenance operation enters its queue without a token (R174). -/
theorem exec_maint (hp : i.parts = some (cls, code, p, f)) (hi : opInfo i = some info)
    (hs : semOf i s = maintIssue i p f s) (h : issues i s = true)
    (hq : s.queueLen s.curCtx.core (.off (farQueue i f)) < 16) (hm : s.mySlot s.curCtx = none)
    (hspec : s.isSpec s.curCtx = false) :
    exec i s = .next (pushCmd s s.curCtx (mkCmd s s.curCtx i p (.off (farQueue i f)) none
      [BitVec.ofNat 64 (farOp s p f.k1 f.src1), BitVec.ofNat 64 (min (farOp s p f.k2 f.src2) 0x100000)])) :=
  exec_far (token := false) hp hi hs (atFrontier_passes hspec) h hq hm

/-- An atomic through no tiered range enters its queue (R170 to R172). -/
theorem atomicIssue_enters {extra : List Word} (hspec : s.isSpec s.curCtx = false)
    (ht : ∀ h, rangeHit s.curCtx (alignDown (farOp s p f.k1 f.src1) (fmtOf f).bytes) = some h → h.tiered = false) :
    atomicIssue s i p f extra = farIssue s i p f true
      ([BitVec.ofNat 64 (alignDown (farOp s p f.k1 f.src1) (fmtOf f).bytes), BitVec.ofNat 64 (farData s p f)] ++ extra)
      [] [] := by
  rw [atomicIssue, atFrontier_passes hspec]
  split
  next hit hhit => rw [if_neg (by simp [ht hit hhit])]
  next => rfl

/-- A queue fence waits for nothing where no masked queue holds a command of the sequencer (R175). -/
theorem offWaits_false {c : Ctx} {on : Nat → Bool}
    (h : ∀ x ∈ s.cmds, x.ctx = c.handle → ∀ q, x.queue = .off q → on q = false) : s.offWaits c on = false := by
  simp only [State.offWaits, List.any_eq_false, Bool.and_eq_true, beq_iff_eq, not_and, Bool.not_eq_true]
  rintro x hx ⟨hc, -⟩
  split
  next q hq => exact h x hx hc q hq
  next => rfl

end

/-! ### Engine commands -/

section
variable {i : Instr} {cls : Cls} {code : Nat} {p : Pos} {f : Fields} {s : State} {info : OpInfo}

/-- What becomes of the state as an engine command issues: in an ordered task its lines count from here on (R365). -/
def engEntered (s : State) (p : Pos) (x : Cmd) : State :=
  match s.mySlot s.curCtx with
  | none => pushCmd s s.curCtx x
  | some (ix, y) =>
    let ls := (y.wlines ++ linesAfter s s.curCtx x).eraseDups
    if 256 < ls.length then stopTrap s s.curCtx.handle causeIllegal 15 0 false (illegalInfo 0 p.index)
    else (pushCmd s s.curCtx x).modSlot s.curCtx.core ix fun z => { z with wlines := ls }

/-- An engine command that enters its queue leaves the state as `engEntered` says. -/
theorem settleSlot_pushEng (x : Cmd) : settleSlot s p (pushEng s s.curCtx x) = engEntered s p x := by
  cases hm : s.mySlot s.curCtx with
  | none => simp only [pushEng, engEntered, hm, settleSlot]
  | some y =>
    simp only [pushEng, engEntered, hm]
    split <;> rfl

/-- An engine operation that issues outside a speculative task runs (R209). -/
theorem exec_engOp {run : State → SlotRes} (hp : i.parts = some (cls, code, p, f)) (hi : opInfo i = some info)
    (hs : semOf i s = engOp i f s run) (h : issues i s = true) (hspec : s.isSpec s.curCtx = false) :
    exec i s = .next (settleSlot s p (run s)) :=
  exec_slotOp h hp hi hs (if_neg (by simp [hspec]))

/-- The command of an engine operation, with its wait operand resolved where it takes a token. -/
def engCmd (s : State) (i : Instr) (p : Pos) (f : Fields) (q : Queue) (token : Bool) (args : List Word) : Cmd :=
  let w := if token then waitOf s s.curCtx f else (none, false)
  { mkCmd s s.curCtx i p q (if token then some f.dst.reg else none) args with waitCid := w.1, dep := w.2 }

/-- An engine command issues where its queue has room (R207). -/
theorem exec_engIssue {run : State → SlotRes} {q : Queue} {token : Bool} {args : List Word}
    (hp : i.parts = some (cls, code, p, f)) (hi : opInfo i = some info) (hs : semOf i s = engOp i f s run)
    (hr : run s = engIssue s i p f q token args) (h : issues i s = true) (hspec : s.isSpec s.curCtx = false)
    (hq : s.queueLen s.curCtx.core q < q.depth) : exec i s = .next (engEntered s p (engCmd s i p f q token args)) := by
  have hpush : run s = pushEng s s.curCtx (engCmd s i p f q token args) := hr.trans (if_neg (Nat.not_le.mpr hq))
  rw [exec_engOp hp hi hs h hspec, hpush, settleSlot_pushEng]

/-- The words of a descriptor that can be read. -/
theorem withWords_ok {addr n : Nat} {bs : List Byte} {k : List Word → SlotRes}
    (h : spmRead s s.curCtx addr (8 * n) = .ok bs) :
    withWords s addr n k =
      k ((List.range n).map fun j => BitVec.ofNat 64 (ofBytesLE ((bs.drop (8 * j)).take 8))) := by
  simp only [withWords, h]

/-- An engine operation with a descriptor enters its queue with the descriptor's words (R209). -/
theorem exec_descOp {q : Queue} {n : Nat} {extra : State → List Word} {bs : List Byte}
    (hp : i.parts = some (cls, code, p, f)) (hi : opInfo i = some info) (hs : semOf i s = descOp i p f s q n extra)
    (h : issues i s = true) (hspec : s.isSpec s.curCtx = false) (hq : s.queueLen s.curCtx.core q < q.depth)
    (hbs : spmRead s s.curCtx ((src64 s f.k1 f.src1).toNat % 2 ^ 32 / 8 * 8) (8 * n) = .ok bs) :
    exec i s = .next (engEntered s p (engCmd s i p f q true
      (BitVec.ofNat 64 ((src64 s f.k1 f.src1).toNat % 2 ^ 32 / 8 * 8) ::
        (List.range n).map (fun j => BitVec.ofNat 64 (ofBytesLE ((bs.drop (8 * j)).take 8))) ++ extra s))) :=
  exec_engIssue hp hi hs (withWords_ok hbs) h hspec hq

end

/-- Settles O19: an off-core operation is one issue on its queue, an engine operation one issue of the words it captures. -/
theorem commandsIssue : Obligations.CommandsIssue := by
  constructor
  · intro p f s c b v1 v2 d at1 line enters qf qa tok
    refine ⟨fun h hq hm _ _ => exec_far rfl rfl (semOf_fld p f s) rfl h hq hm,
      fun h hq hm _ _ => exec_far rfl rfl (semOf_fst p f s) rfl h hq hm,
      fun h hq hm _ _ => exec_far rfl rfl (semOf_fldv p f s) rfl h hq hm,
      fun h hq hm _ _ => exec_far rfl rfl (semOf_fstv p f s) rfl h hq hm,
      fun h hq hm hspec ht => exec_far rfl rfl (semOf_amo p f s) (atomicIssue_enters hspec ht) h hq hm,
      fun h hq hm hspec ht => exec_far rfl rfl (semOf_amocas p f s) (atomicIssue_enters hspec ht) h hq hm,
      fun h hq hm hspec _ => exec_far rfl rfl (semOf_probe p f s) (atFrontier_passes hspec) h hq hm,
      fun h hq hm hspec _ => exec_maint rfl rfl (semOf_cwb p f s) h hq hm hspec,
      fun h hq hm hspec _ => exec_maint rfl rfl (semOf_cinv p f s) h hq hm hspec,
      fun h hq hm hspec _ => exec_maint rfl rfl (semOf_cwbi p f s) h hq hm hspec,
      fun h hno => ?_⟩
    exact exec_slotOp (r := .ok s) h rfl rfl (semOf_qfence p f s) (if_neg (Bool.eq_false_iff.mp (offWaits_false hno)))
  · intro p f s c a wait enter enters desc
    refine ⟨fun h hspec hq => exec_engIssue rfl rfl (semOf_mcall p f s) rfl h hspec hq,
      fun bs h hspec hq hbs => exec_descOp rfl rfl (semOf_mload p f s) h hspec hq hbs,
      fun bs h hspec hq hbs => exec_descOp rfl rfl (semOf_smcopy p f s) h hspec hq hbs,
      fun bs h hspec hq hbs => exec_descOp rfl rfl (semOf_ncopy p f s) h hspec hq hbs,
      fun bs h hspec hq hbs => exec_descOp rfl rfl (semOf_egath p f s) h hspec hq hbs,
      fun bs h hspec hq hbs => exec_descOp rfl rfl (semOf_escat p f s) h hspec hq hbs,
      fun bs h hspec hq hbs => exec_descOp rfl rfl (semOf_mcast p f s) h hspec hq hbs,
      fun bs h hspec hq hbs => exec_descOp rfl rfl (semOf_mcastb p f s) h hspec hq hbs,
      fun bs h hspec hq hbs => exec_descOp rfl rfl (semOf_coll p f s) h hspec hq hbs,
      fun bs h hspec hq hbs => exec_descOp rfl rfl (semOf_tnld p f s) h hspec hq hbs,
      fun bs h hspec hq hbs => exec_descOp rfl rfl (semOf_tnst p f s) h hspec hq hbs,
      fun bs h hspec hq hbs => exec_descOp rfl rfl (semOf_tnpf p f s) h hspec hq hbs,
      fun bs h hspec hq hbs => exec_descOp rfl rfl (semOf_emit p f s) h hspec hq hbs,
      fun bs h hspec hq hbs => exec_descOp rfl rfl (semOf_accld p f s) h hspec hq hbs,
      fun bs h hspec hq hbs => exec_descOp rfl rfl (semOf_accst p f s) h hspec hq hbs,
      fun bs h hspec hq hbs => exec_descOp rfl rfl (semOf_adrain p f s) h hspec hq hbs,
      fun h hspec hq => exec_engIssue (token := false) rfl rfl (semOf_aclr p f s) rfl h hspec hq,
      fun h hspec => exec_engOp rfl rfl (semOf_ebar p f s) h hspec,
      fun h hspec => exec_engOp rfl rfl (semOf_ecancel p f s) h hspec⟩
end Sys2Proof.MachineState

/-!
Results in flight and how they land (spec/01 R22 to R25); slices of a file and the rotating bases (spec/01 R17, R23, R26
to R29).
-/
namespace Sys2Proof.MachineState
open Sys2Proof Sys2Proof.Machine Sys2Proof.Safety

/-! ### Slices of a number -/

/-- Slice `k` of a number: its hexadecimal digit. -/
def slice (n k : Nat) : Nat := n / 16 ^ k % 16

/-- The bits of a slice. -/
theorem testBit_slice (n k i : Nat) : (slice n k).testBit i = (decide (i < 4) && n.testBit (4 * k + i)) := by
  rw [slice, show (16 : Nat) = 2 ^ 4 from rfl, ← pow_mul, Nat.testBit_mod_two_pow, Nat.testBit_div_two_pow,
    Nat.add_comm i]

/-- Slices with the same bits are the same. -/
theorem slice_eq_of_testBit {n m k l : Nat} (h : ∀ i < 4, n.testBit (4 * k + i) = m.testBit (4 * l + i)) :
    slice n k = slice m l := by
  refine Nat.eq_of_testBit_eq fun i => ?_
  rw [testBit_slice, testBit_slice]
  by_cases hi : i < 4
  · rw [h i hi]
  · simp [hi]

/-- A number shifted by whole slices. -/
theorem slice_shiftRight (n s j : Nat) : slice (n >>> (4 * s)) j = slice n (s + j) :=
  slice_eq_of_testBit fun i _ => by rw [Nat.testBit_shiftRight]; congr 1; omega

/-- A slice that a truncation to `w` slices keeps. -/
theorem slice_mod {n w j : Nat} (h : j < w) : slice (n % 2 ^ (4 * w)) j = slice n j :=
  slice_eq_of_testBit fun i hi => by rw [Nat.testBit_mod_two_pow, decide_eq_true (by omega), Bool.true_and]

/-! ### Writing slices -/

/-- The bits of a file after `n` bits from `lo` are replaced. -/
theorem putBits_testBit (file : BitVec 1024) {lo n v i : Nat} (hi : i < 1024) :
    (putBits file lo n v).toNat.testBit i =
      if lo ≤ i ∧ i < lo + n then v.testBit (i - lo) else file.toNat.testBit i := by
  simp only [putBits, BitVec.testBit_toNat, BitVec.getLsbD_or, BitVec.getLsbD_and, BitVec.getLsbD_not,
    BitVec.getLsbD_ofNat, Nat.testBit_mul_two_pow, Nat.testBit_two_pow_sub_one, Nat.testBit_mod_two_pow, hi, decide_true,
    Bool.true_and]
  by_cases h1 : lo ≤ i
  · by_cases h2 : i < lo + n
    · simp [h1, h2, show i - lo < n by omega]
    · simp [h1, h2, show ¬ i - lo < n by omega]
  · simp [h1]

/-- The slices of a file after `n` slices from `lo` are replaced. -/
theorem putBits_slice (file : BitVec 1024) {lo n v k : Nat} (hk : k < 256) :
    slice (putBits file (4 * lo) (4 * n) v).toNat k =
      if lo ≤ k ∧ k < lo + n then slice v (k - lo) else slice file.toNat k := by
  split
  next h =>
    refine slice_eq_of_testBit fun i hi => ?_
    rw [putBits_testBit file (by omega), if_pos (by omega)]
    congr 1
    omega
  next h =>
    refine slice_eq_of_testBit fun i hi => ?_
    rw [putBits_testBit file (by omega), if_neg (by omega)]

/-- Where slice `j` of an operand lies (R17, R28). -/
def sliceAt (start wrap j : Nat) : Nat := if wrap = 0 then start + j else (start + j) % wrap

/-- What a slice holds after a write of `width` slices of `v` over `old`. -/
def written (start width wrap v old k : Nat) : Nat :=
  match (List.range width).find? fun j => sliceAt start wrap j == k with
  | some j => slice v j
  | none => old

/-- A write that reaches slice `k` as its slice `j`, or not at all. -/
theorem eq_written {start width wrap v old k r : Nat} (h1 : ∀ j < width, sliceAt start wrap j = k → r = slice v j)
    (h2 : (∀ j < width, sliceAt start wrap j ≠ k) → r = old) : r = written start width wrap v old k := by
  unfold written
  split
  next j hj => exact h1 j (List.mem_range.mp (List.mem_of_find?_eq_some hj)) (by simpa using List.find?_some hj)
  next hj => exact h2 fun j hlt => by simpa using List.find?_eq_none.mp hj j (List.mem_range.mpr hlt)

/-- Slices of a region that is at least as wide as the operand lie apart. -/
theorem wrapped_inj {start wrap i j : Nat} (hi : i < wrap) (hj : j < wrap) (h : (start + i) % wrap = (start + j) % wrap) :
    i = j := by
  have hmod : i ≡ j [MOD wrap] := Nat.ModEq.add_left_cancel' start h
  rwa [Nat.ModEq, Nat.mod_eq_of_lt hi, Nat.mod_eq_of_lt hj] at hmod

/-- The slices of a file after the first `n` slices of a value are written inside a region. -/
theorem writeWrapped_slice (file : BitVec 1024) {start wrap v n k : Nat} (hn : n ≤ wrap) (hk : k < 256) :
    let r := slice ((List.range n).foldl (fun fl j => putBits fl (4 * ((start + j) % wrap)) 4 (v >>> (4 * j))) file).toNat k
    (∀ j < n, (start + j) % wrap = k → r = slice v j) ∧
      ((∀ j < n, (start + j) % wrap ≠ k) → r = slice file.toNat k) := by
  induction n with
  | zero => simp
  | succ n ih =>
    obtain ⟨ih1, ih2⟩ := ih (by omega)
    rw [List.range_succ, List.foldl_concat]
    have hput := fun fl : BitVec 1024 => putBits_slice fl (lo := (start + n) % wrap) (n := 1) (v := v >>> (4 * n)) hk
    simp only [Nat.mul_one] at hput
    simp only [hput]
    constructor
    · intro j hj hat
      by_cases hjn : j = n
      · subst hjn
        rw [if_pos (by omega), slice_shiftRight]
        congr 1
        omega
      · have hne : (start + n) % wrap ≠ k := fun h => hjn (wrapped_inj (by omega) (by omega) (hat.trans h.symm))
        rw [if_neg (by omega)]
        exact ih1 j (by omega) hat
    · intro hno
      have hne := hno n (by omega)
      rw [if_neg (by omega)]
      exact ih2 fun j hj => hno j (by omega)

/-- The slices of a file after a write (R17, R23, R28). -/
theorem writeSlices_slice (file : BitVec 1024) {start width wrap v k : Nat} (hw : wrap = 0 ∨ width ≤ wrap) (hk : k < 256) :
    slice (writeSlices file start width wrap v).toNat k = written start width wrap v (slice file.toNat k) k := by
  unfold writeSlices
  split
  next h0 =>
    rw [putBits_slice file hk]
    refine eq_written (fun j hj hat => ?_) fun hno => ?_
    · rw [sliceAt, if_pos h0] at hat
      rw [if_pos (by omega)]
      congr 1
      omega
    · rw [if_neg]
      rintro ⟨h1, h2⟩
      exact hno (k - start) (by omega) (by rw [sliceAt, if_pos h0]; omega)
  next h0 =>
    have hat : ∀ j, sliceAt start wrap j = (start + j) % wrap := fun j => if_neg h0
    obtain ⟨h1, h2⟩ := writeWrapped_slice file (start := start) (v := v) (hw.resolve_left h0) hk
    exact eq_written (fun j hj h => h1 j hj ((hat j).symm.trans h)) fun hno => h2 fun j hj h => hno j hj ((hat j).trans h)

/-! ### Reading slices -/

/-- A number put together of slices. -/
theorem joined_slices (d : Nat → Nat) (hd : ∀ j, d j < 16) (w : Nat) :
    let r := (List.range w).foldl (fun acc j => acc + d j <<< (4 * j)) 0
    r < 16 ^ w ∧ ∀ j < w, slice r j = d j := by
  induction w with
  | zero => simp
  | succ w ih =>
    obtain ⟨hlt, hdig⟩ := ih
    rw [List.range_succ, List.foldl_concat, Nat.shiftLeft_eq, pow_mul, show (2 : Nat) ^ 4 = 16 from rfl]
    generalize (List.range w).foldl (fun acc j => acc + d j <<< (4 * j)) 0 = r at hlt hdig
    refine ⟨?_, fun j hj => ?_⟩
    · have := Nat.mul_le_mul_right (16 ^ w) (Nat.le_sub_one_of_lt (hd w))
      rw [pow_succ]
      omega
    · by_cases hjw : j = w
      · subst hjw
        rw [slice, Nat.add_mul_div_right _ _ (by positivity), Nat.div_eq_of_lt hlt, Nat.zero_add, Nat.mod_eq_of_lt (hd j)]
      · have hsplit : d w * 16 ^ w = d w * 16 ^ (w - j - 1) * 16 * 16 ^ j := by
          rw [mul_assoc, mul_assoc, ← pow_succ', ← pow_add]
          congr 2
          omega
        rw [slice, hsplit, Nat.add_mul_div_right _ _ (by positivity), Nat.add_mul_mod_self_right]
        exact hdig j (by omega)

/-- What a read of slices holds (R17, R28). -/
theorem readSlices_slice (file : BitVec 1024) (start width wrap : Nat) :
    readSlices file start width wrap < 16 ^ width ∧
      ∀ j < width, slice (readSlices file start width wrap) j = slice file.toNat (sliceAt start wrap j) := by
  unfold readSlices
  split
  next h0 =>
    refine ⟨?_, fun j hj => ?_⟩
    · exact (Nat.mod_lt _ (by positivity)).trans_eq (pow_mul 2 4 width)
    · rw [slice_mod hj, slice_shiftRight, sliceAt, if_pos h0]
  next h0 =>
    obtain ⟨h1, h2⟩ := joined_slices (fun j => (file.toNat >>> (4 * ((start + j) % wrap))) % 16)
      (fun j => Nat.mod_lt _ (by decide)) width
    refine ⟨h1, fun j hj => (h2 j hj).trans ?_⟩
    rw [sliceAt, if_neg h0, ← Nat.add_zero ((start + j) % wrap), ← slice_shiftRight, slice, pow_zero, Nat.div_one]
    rfl

/-- The slices that a lane's read holds, through the rotating base (R26, R28). -/
theorem readLane_slice (c : Ctx) (b : Bool) (i start w : Nat) :
    c.readLane b i start w < 16 ^ w ∧ ∀ j < w, slice (c.readLane b i start w) j =
      slice ((c.vec b)[i]?.getD 0).toNat
        (if rotSize (c.vrot b) ≠ 0 ∧ start < rotSize (c.vrot b) then (start + j + rotBase (c.vrot b)) % rotSize (c.vrot b)
         else start + j) := by
  obtain ⟨h1, h2⟩ := readSlices_slice ((c.vec b)[i]?.getD 0) (resolveRot (c.vrot b) start).1 w (resolveRot (c.vrot b) start).2
  refine ⟨h1, fun j hj => (h2 j hj).trans (congrArg _ ?_)⟩
  simp only [sliceAt, resolveRot]
  split
  next h => rw [if_neg h.1, Nat.mod_add_mod]; congr 1; omega
  next h => rfl

end Sys2Proof.MachineState

namespace Sys2Proof.MachineState
open Sys2Proof Sys2Proof.Machine Sys2Proof.Safety

/-! ### Results in flight -/

/-- A result in flight after `n` bundles. -/
def aged (n : Nat) (x : Flight) : Flight := { x with remaining := x.remaining - n, age := x.age + n }

/-- A context with other results in flight. -/
def withFlight (c : Ctx) (l : List Flight) : Ctx := { c with flight := l }

@[simp] theorem withFlight_flight (c : Ctx) (l : List Flight) : (withFlight c l).flight = l := rfl
@[simp] theorem withFlight_withFlight (c : Ctx) (l m : List Flight) : withFlight (withFlight c l) m = withFlight c m := rfl

/-- A context has the results in flight that it has. -/
theorem withFlight_of_eq {c : Ctx} {l : List Flight} (h : c.flight = l) : withFlight c l = c := h ▸ rfl

/-- One bundle on top of `n`. -/
theorem aged_comp_aged (n : Nat) : aged 1 ∘ aged n = aged (n + 1) := by
  funext x
  simp [aged, Nat.sub_sub, Nat.add_assoc]

/-- A result lands the same however old it is. -/
theorem landOne_aged (c : Ctx) (n : Nat) (x : Flight) : landOne c (aged n x) = landOne c x := rfl

/-- Landing neither reads nor writes the list of results in flight. -/
theorem landOne_withFlight (c : Ctx) (l : List Flight) (x : Flight) :
    landOne (withFlight c l) x = withFlight (landOne c x) l := by
  unfold landOne
  repeat' split
  all_goals rfl

/-- Landing leaves the list of results in flight. -/
theorem landOne_flight (c : Ctx) (x : Flight) : (landOne c x).flight = c.flight := by
  have h := landOne_withFlight c c.flight x
  rw [withFlight_of_eq rfl] at h
  rw [h, withFlight_flight]

/-- Landing several results neither reads nor writes the list of those in flight. -/
theorem foldl_landOne_withFlight (l xs : List Flight) (c : Ctx) :
    xs.foldl landOne (withFlight c l) = withFlight (xs.foldl landOne c) l := by
  induction xs generalizing c with
  | nil => rfl
  | cons x xs ih => rw [List.foldl_cons, landOne_withFlight, ih, List.foldl_cons]

/-- Landing several results leaves the list of those in flight. -/
theorem foldl_landOne_flight (xs : List Flight) (c : Ctx) : (xs.foldl landOne c).flight = c.flight := by
  induction xs generalizing c with
  | nil => rfl
  | cons x xs ih => rw [List.foldl_cons, ih, landOne_flight]

/-- One bundle: what is due lands, the rest is one bundle older (R22). -/
theorem tickFlight_eq (c : Ctx) : tickFlight c =
    withFlight ((c.flight.filter fun x => decide (x.remaining ≤ 1)).foldl landOne c)
      ((c.flight.filter fun x => !decide (x.remaining ≤ 1)).map (aged 1)) := by
  have hland : landDue c = withFlight ((c.flight.filter fun x => decide (x.remaining ≤ 1)).foldl landOne c)
      (c.flight.filter fun x => !decide (x.remaining ≤ 1)) := foldl_landOne_withFlight _ _ c
  rw [tickFlight, hland]
  rfl

/-- While no result is due, the results in flight age. -/
theorem ticks_wait (n : Nat) (c : Ctx) (h : ∀ x ∈ c.flight, n < x.remaining) :
    tickFlight^[n] c = withFlight c (c.flight.map (aged n)) := by
  induction n with
  | zero => exact (withFlight_of_eq (List.map_id c.flight).symm).symm
  | succ n ih =>
    have hdue : ∀ y ∈ c.flight.map (aged n), ¬ y.remaining ≤ 1 := by
      intro y hy
      obtain ⟨x, hx, rfl⟩ := List.mem_map.mp hy
      have := h x hx
      dsimp only [aged]
      omega
    rw [Function.iterate_succ_apply', ih fun x hx => Nat.lt_of_succ_lt (h x hx), tickFlight_eq, withFlight_flight,
      List.filter_eq_nil_iff.mpr fun y hy => by simpa using hdue y hy,
      List.filter_eq_self.mpr fun y hy => by simpa using hdue y hy, List.map_map, aged_comp_aged]
    rfl

/-- The bundle at which the first results in flight are due: they land in order, the rest ages. -/
theorem ticks_land (L : Nat) (c : Ctx) (hL : 0 < L) (h : ∀ x ∈ c.flight, L ≤ x.remaining) :
    tickFlight^[L] c =
      withFlight ((c.flight.filter fun x => decide (x.remaining = L)).foldl landOne c)
        ((c.flight.filter fun x => !decide (x.remaining = L)).map (aged L)) := by
  obtain ⟨n, rfl⟩ := Nat.exists_eq_succ_of_ne_zero hL.ne'
  have hdue : ∀ x ∈ c.flight, decide ((aged n x).remaining ≤ 1) = decide (x.remaining = n + 1) := by
    intro x hx
    have := h x hx
    rw [decide_eq_decide]
    dsimp only [aged]
    omega
  rw [Function.iterate_succ_apply', ticks_wait n c fun x hx => h x hx, tickFlight_eq]
  simp only [withFlight_flight, List.filter_map, List.foldl_map, List.map_map, landOne_aged, foldl_landOne_withFlight,
    aged_comp_aged, withFlight_withFlight]
  congr 1
  · exact congrArg (List.foldl landOne c) (List.filter_congr hdue)
  · exact congrArg (List.map (aged (n + 1))) (List.filter_congr fun x hx => congrArg not (hdue x hx))

/-! ### One result, and two -/

section
variable {c : Ctx} (hc : c.flight = [])
include hc

/-- Results that are due together land in their order. -/
theorem land_together {l : List Flight} {L : Nat} (hL : 0 < L) (h : ∀ x ∈ l, x.remaining = L) :
    tickFlight^[L] (withFlight c l) = l.foldl landOne c := by
  rw [ticks_land L _ hL fun x hx => (h x hx).ge, withFlight_flight,
    List.filter_eq_self.mpr fun x hx => by simpa using h x hx,
    List.filter_eq_nil_iff.mpr fun x hx => by simpa using h x hx, foldl_landOne_withFlight, List.map_nil]
  exact withFlight_of_eq ((foldl_landOne_flight l c).trans hc)

/-- The list of one result in flight. -/
theorem writeAt_one (x : Flight) : c.writeAt x = withFlight c [x] := by
  rw [Ctx.writeAt, hc]
  rfl

/-- The list of two results in flight. -/
theorem writeAt_two (x y : Flight) :
    (c.writeAt x).writeAt y = withFlight c (if x.before y then [x, y] else [y, x]) := by
  rw [writeAt_one hc, Ctx.writeAt, withFlight_flight]
  rfl

/-- A result issued with nothing else in flight waits for its bundle (R22). -/
theorem writeAt_waits {x : Flight} {n : Nat} (hn : n < x.remaining) :
    tickFlight^[n] (c.writeAt x) = withFlight c [aged n x] := by
  rw [writeAt_one hc, ticks_wait n _ (by simpa using hn)]
  rfl

/-- A result issued with nothing else in flight lands at its bundle (R22, R23). -/
theorem writeAt_lands {x : Flight} (hx : 0 < x.remaining) : tickFlight^[x.remaining] (c.writeAt x) = landOne c x := by
  rw [writeAt_one hc, land_together hc hx (by simp)]
  rfl

/-- Of two results, the one that is due first lands first, whichever stands first in the list (R24). -/
theorem land_in_turn {x y : Flight} {l : List Flight} (hl : l = [x, y] ∨ l = [y, x]) (hx : 0 < x.remaining)
    (hxy : x.remaining < y.remaining) : tickFlight^[y.remaining] (withFlight c l) = landOne (landOne c x) y := by
  have hfirst : tickFlight^[x.remaining] (withFlight c l) = withFlight (landOne c x) [aged x.remaining y] := by
    rw [ticks_land _ _ hx]
    · rcases hl with rfl | rfl <;> simp [hxy.ne', landOne_withFlight]
    · rcases hl with rfl | rfl <;> simp [hxy.le]
  have hrest : ∀ z ∈ [aged x.remaining y], z.remaining = y.remaining - x.remaining := by simp [aged]
  rw [show y.remaining = (y.remaining - x.remaining) + x.remaining by omega, Function.iterate_add_apply, hfirst,
    land_together ((landOne_flight c x).trans hc) (by omega) hrest]
  rfl

/-- Of two results, the one that is due first lands first, whichever was issued first (R24). -/
theorem writeAt_two_land_in_turn {x y : Flight} (hx : 0 < x.remaining) (hxy : x.remaining < y.remaining) :
    tickFlight^[y.remaining] ((c.writeAt x).writeAt y) = landOne (landOne c x) y ∧
      tickFlight^[y.remaining] ((c.writeAt y).writeAt x) = landOne (landOne c x) y := by
  constructor
  · rw [writeAt_two hc]
    exact land_in_turn hc (by split <;> simp) hx hxy
  · rw [writeAt_two hc]
    exact land_in_turn hc (by split <;> simp) hx hxy

/-- Two results that are due together land in the order of R24. -/
theorem writeAt_two_land_together {x y : Flight} (hx : 0 < x.remaining) (hxy : y.remaining = x.remaining)
    (h : y.age < x.age ∨ y.age = x.age ∧ (x.slot < y.slot ∨ x.slot = y.slot ∧ x.rep < y.rep)) :
    tickFlight^[x.remaining] ((c.writeAt x).writeAt y) = landOne (landOne c x) y ∧
      tickFlight^[x.remaining] ((c.writeAt y).writeAt x) = landOne (landOne c x) y := by
  have hfirst : x.before y = true := by
    simp only [Flight.before, Bool.or_eq_true, Bool.and_eq_true, decide_eq_true_eq, beq_iff_eq]
    omega
  have hlast : ¬ y.before x = true := by
    simp only [Flight.before, Bool.or_eq_true, Bool.and_eq_true, decide_eq_true_eq, beq_iff_eq]
    omega
  have hland : tickFlight^[x.remaining] (withFlight c [x, y]) = landOne (landOne c x) y := land_together hc hx (by simp [hxy])
  rw [writeAt_two hc, writeAt_two hc, if_pos hfirst, if_neg hlast]
  exact ⟨hland, hland⟩

end

/-! ### Landing in each file -/

section
variable {c : Ctx} {x : Flight}

/-- A result lands in the slices of the scalar file that it covers (R23). -/
theorem landOne_scal {b : Bool} (h : x.file = .scal b) (hw : x.wrap = 0 ∨ x.width ≤ x.wrap) :
    (∀ k < 256, slice ((landOne c x).scal b).toNat k =
      written x.start x.width x.wrap (x.lanes.headD 0).toNat (slice (c.scal b).toNat k) k) ∧
    (landOne c x).scal (!b) = c.scal (!b) := by
  have hland : (landOne c x).scal b = writeSlices (c.scal b) x.start x.width x.wrap (x.lanes.headD 0).toNat := by
    simp only [landOne, h]
    cases b <;> rfl
  refine ⟨fun k hk => ?_, ?_⟩
  · rw [hland, writeSlices_slice _ hw hk]
  · simp only [landOne, h]
    cases b <;> rfl

/-- A result lands in the slices that it covers of the lanes in its mask (R23). -/
theorem landOne_vec {b : Bool} (h : x.file = .vec b) (hw : x.wrap = 0 ∨ x.width ≤ x.wrap) :
    (landOne c x).vec (!b) = c.vec (!b) ∧
    ∀ i < 64, ∀ k < 256, slice (((landOne c x).vec b)[i]?.getD 0).toNat k =
      if x.mask.getLsbD i then
        written x.start x.width x.wrap (x.lanes[i]?.getD 0).toNat (slice ((c.vec b)[i]?.getD 0).toNat k) k
      else slice ((c.vec b)[i]?.getD 0).toNat k := by
  have hland : (landOne c x).vec b = (c.vec b).mapIdx fun i lane =>
      if x.mask.getLsbD i then writeSlices lane x.start x.width x.wrap (x.lanes[i]?.getD 0).toNat else lane := by
    simp only [landOne, h]
    cases b <;> rfl
  refine ⟨?_, fun i hi k hk => ?_⟩
  · simp only [landOne, h]
    cases b <;> rfl
  · rw [hland, Vector.getElem?_eq_getElem hi, Vector.getElem?_eq_getElem hi, Vector.getElem_mapIdx, Option.getD_some,
      Option.getD_some]
    split
    · rw [writeSlices_slice _ hw hk]
    · rfl

/-- A result lands in a scale register or KB. -/
theorem landOne_scale (h : x.file = .scale) : landOne c x =
    if x.start = 16 then { c with kb := (x.lanes.headD 0).setWidth 32 &&& 0x00FFFFFF }
    else { c with scales := c.scales.setIfInBounds x.start ((x.lanes.headD 0).setWidth 8) } := by
  simp only [landOne, h]

/-- A result lands in a special or matrix-parameter register (R27, R38). -/
theorem landOne_special (h : x.file = .special) : landOne c x =
    if x.start ≥ 0x80 then { c with mp := c.mp.setIfInBounds (x.start - 0x80) (x.lanes.headD 0) }
    else if x.start = 0x11 then { c with lead := clampLead (x.lanes.headD 0) }
    else if x.start = 0x20 then { c with trapVec := BitVec.ofNat 32 ((x.lanes.headD 0).toNat % 2 ^ 32 / 4 * 4) }
    else if x.start = 0x28 then { c with vrot0 := clampRot c.hdr.vG (x.lanes.headD 0) }
    else if x.start = 0x29 then { c with vrot1 := clampRot c.hdr.vG (x.lanes.headD 0) }
    else c := by
  simp only [landOne, h]

end

/-- A VROT write clamps its size to the window and takes step and base modulo it (R27). -/
theorem clampRot_eq (vG : Nat) (v : Word) : clampRot vG v =
    let S := min (v.extractLsb' 16 5).toNat vG * 16
    if S = 0 then 0
    else BitVec.ofNat 64 (S / 16 * 2 ^ 16 + (v.extractLsb' 8 8).toNat % S * 2 ^ 8 + (v.extractLsb' 0 8).toNat % S) := by
  simp only [clampRot, mkRot, rotStep, rotBase]
  generalize min (v.extractLsb' 16 5).toNat vG = g
  rw [Nat.mul_comm 16 g, Nat.mul_div_cancel _ (by decide)]
  by_cases hg : g = 0
  · simp [hg]
  · rw [if_neg hg, if_neg (by omega)]
    rfl

/-! ### The rotating bases at a bundle's end (R29) -/

/-- A base of a region advances by its step. -/
theorem advanceRot_eq (r : Word) : advanceRot r =
    let size := 16 * (r.extractLsb' 16 5).toNat
    let step := (r.extractLsb' 8 8).toNat
    if size = 0 then r
    else BitVec.ofNat 64 (size / 16 * 2 ^ 16 + step * 2 ^ 8 + ((r.extractLsb' 0 8).toNat + size - step) % size) := rfl

/-- Where a bundle writes no VROT, both bases advance and the results in flight stay. -/
theorem advanceRots_unwritten {c : Ctx}
    (h : ∀ x ∈ c.flight, x.file = .special → x.age = 0 → x.start ≠ 0x28 ∧ x.start ≠ 0x29) :
    (advanceRots c).vrot0 = advanceRot c.vrot0 ∧ (advanceRots c).vrot1 = advanceRot c.vrot1 ∧
      (advanceRots c).flight = c.flight := by
  have hno : ∀ n, n = 0x28 ∨ n = 0x29 → ∀ x ∈ c.flight, (x.file == .special && x.start == n && x.age == 0) = false := by
    intro n hn x hx
    by_contra hb
    simp only [Bool.not_eq_false, Bool.and_eq_true, beq_iff_eq] at hb
    obtain ⟨⟨hfile, hstart⟩, hage⟩ := hb
    obtain ⟨h0, h1⟩ := h x hx hfile hage
    omega
  have hany : ∀ n, n = 0x28 ∨ n = 0x29 →
      (c.flight.any fun x => x.file == .special && x.start == n && x.age == 0) = false := by
    intro n hn
    simpa using fun x hx => by simpa using hno n hn x hx
  refine ⟨?_, ?_, ?_⟩
  · simp only [advanceRots, hany 0x28 (.inl rfl), Bool.false_eq_true, if_false]
  · simp only [advanceRots, hany 0x29 (.inr rfl), Bool.false_eq_true, if_false]
  · refine (List.map_congr_left fun x hx => ?_).trans (List.map_id c.flight)
    simp only [hno 0x28 (.inl rfl) x hx, hno 0x29 (.inr rfl) x hx, Bool.or_false, Bool.false_eq_true, if_false, id]

/-- A VROT that the bundle itself writes advances in the written value. -/
theorem advanceRots_written {c : Ctx} {x : Flight} {v : Word} (hc : c.flight = [x]) (hf : x.file = .special)
    (ha : x.age = 0) (hl : x.lanes = [v]) (hs : x.start = 0x28 ∨ x.start = 0x29) :
    (advanceRots c).flight = [{ x with lanes := [advanceRot (clampRot c.hdr.vG v)] }] := by
  rcases hs with hs | hs <;> simp [advanceRots, hc, hf, ha, hl, hs]

/-- A context with the rotating bases and the results in flight of another. -/
def SameRots (c d : Ctx) : Prop := d.vrot0 = c.vrot0 ∧ d.vrot1 = c.vrot1 ∧ d.flight = c.flight

/-- A pending transfer that takes place leaves the bases and the results in flight. -/
theorem transferNow_rots {s : State} {c : Ctx} {h : Nat} (hc : c.handle = h) :
    ∃ d, (transferNow s c).ctx? h = some d ∧ SameRots c d := by
  refine ⟨{ c with pc := c.target, pend := false, target := 0, bpSkip := 0 }, ?_, rfl, rfl, rfl⟩
  rw [transferNow, traceRec_ctx?, ctx?_setCtx_of]
  exact hc

/-- What follows a completed bundle leaves the bases and the results in flight. -/
theorem afterComplete_rots {s : State} {h : Nat} {c : Ctx} (safe : Bool) (hc : s.ctx? h = some c) :
    SameRots c ((if c.status ≠ .ready then releaseCore (traceStop s c) c
      else if c.barWait.isSome ∨ !safe then s else safePoint s c).ctx h) := by
  obtain ⟨st, v, z, m, hd, -⟩ := afterComplete_ctx s h c safe hc
  rw [ctx_of_ctx? hd]
  exact ⟨rfl, rfl, rfl⟩

/-- What a bundle's end makes of a context, once the context is written. -/
theorem bundleEnd_rots (s : State) {h : Nat} {c : Ctx} (safe : Bool) (hc : c.handle = h) :
    let t := if c.pend ∧ c.shl = 0 then transferNow (s.setCtx c) c else s.setCtx c
    SameRots c ((if (t.ctx h).status ≠ .ready then releaseCore (traceStop t (t.ctx h)) (t.ctx h)
      else if (t.ctx h).barWait.isSome ∨ !safe then t else safePoint t (t.ctx h)).ctx h) := by
  intro t
  obtain ⟨d, hd, h0, h1, hf⟩ : ∃ d, t.ctx? h = some d ∧ SameRots c d := by
    unfold t
    split
    · exact transferNow_rots hc
    · exact ⟨c, ctx?_setCtx_of _ _ _ hc, rfl, rfl, rfl⟩
  obtain ⟨k0, k1, kf⟩ := afterComplete_rots safe hd
  rw [ctx_of_ctx? hd]
  exact ⟨k0.trans h0, k1.trans h1, kf.trans hf⟩

/-- A completed bundle leaves the bases and the results in flight, or advances them where it closes a loop. -/
theorem completeBundle_rots {s : State} {h len : Nat} {header : BitVec 32} {long count : Bool} {bg : Bool × Nat} {c : Ctx}
    (hc : s.ctx? h = some c) (hl : c.leave = none) :
    SameRots (if hdrLend header then advanceRots c else c) ((completeBundle s h header len long bg count).ctx h) := by
  have hleave : leaveCtx s h = s := by simp only [leaveCtx, ctx_of_ctx? hc, hl]
  have hh : (if hdrLend header then advanceRots c else c).handle = h := by
    have hch := handle_of_ctx? hc
    split <;> exact hch
  obtain rfl := ctx_of_ctx? hc
  rw [completeBundle, hleave]
  exact bundleEnd_rots s (hdrSafe header && !long && (hdrLend header || bg.2 == 0) && !bg.1) hh

/-- Settles O26: a result lands when its latency says, slice by slice where its file has slices; the bases advance with
a bundle that closes a loop. -/
theorem resultsLand : Obligations.ResultsLand := by
  refine ⟨?_, fun c b i start w _ _ _ => readLane_slice c b i start w, ?_⟩
  · rintro c x y L M hc hL rfl rfl hwidth hwrap after d v at' slice' new S rot
    have hd : d = landOne c x := writeAt_lands hc hL
    have hw : x.wrap = 0 ∨ x.width ≤ x.wrap := by omega
    have hrot : clampRot c.hdr.vG v = rot := clampRot_eq _ _
    refine ⟨fun n hn => writeAt_waits hc hn, ?_, fun b hb => ?_, fun b hb => ?_, fun hx => ?_, fun hx => ?_, fun hx hs => ?_,
      fun hx hs => ?_, fun hx hs => ?_, fun hx hs => ?_, fun hx hs => ?_, fun hx hs => ?_, fun hx hs => ?_,
      fun hlt => writeAt_two_land_in_turn hc hL hlt, fun heq hord => writeAt_two_land_together hc hL heq.symm hord⟩ <;>
      rw [hd]
    · exact (landOne_flight c x).trans hc
    · exact landOne_scal hb hw
    · exact landOne_vec hb hw
    · simp only [landOne, hx]; rfl
    · simp only [landOne, hx]; rfl
    · rw [landOne_scale hx, if_neg (by omega)]
    · rw [landOne_scale hx, if_pos hs]
    · rw [landOne_special hx, if_pos hs]
    · rw [landOne_special hx, hs]; rfl
    · rw [landOne_special hx, hs]; rfl
    · rw [landOne_special hx, hs, ← hrot]; rfl
    · rw [landOne_special hx, hs, ← hrot]; rfl
  · intro s h len depth header c long shadow count hc _ hl d size step next
    have hrots : SameRots _ d := completeBundle_rots hc hl
    refine ⟨fun hlend => ?_, fun hlend hno => ?_, fun x v hlend hx hf ha hv hs => ?_⟩
    · rwa [if_neg (by simp [hlend])] at hrots
    · obtain ⟨h0, h1, hfl⟩ := hrots
      obtain ⟨k0, k1, kfl⟩ := advanceRots_unwritten hno
      rw [if_pos hlend] at h0 h1 hfl
      exact ⟨h0.trans (k0.trans (advanceRot_eq _)), h1.trans (k1.trans (advanceRot_eq _)), hfl.trans kfl⟩
    · obtain ⟨-, -, hfl⟩ := hrots
      rw [if_pos hlend] at hfl
      rw [hfl, advanceRots_written hx hf ha hv hs, advanceRot_eq]
end Sys2Proof.MachineState

/-!
What `StepRunsWhatComesNext` asks of the free values of the model. A step runs what comes next, and time then goes on
without touching memory, contexts, registers or grids, as the statement says. Its clause that `advance` leaves the
commands stands against the schedule of a routine of the ROM, which goes on with its core's cycles (`romGoesOn`): how
many pass in a step is a free value (`Config.cycles`, log entry 2), an opaque constant, and the clause says that it is 0.
-/
namespace Sys2Proof.MachineState
open Sys2Proof Sys2Proof.Machine Sys2Proof.Safety

/-! ### What time that goes on leaves alone -/

/-- Two states agree but for their cores, commands and reduction blocks. -/
def SameButCounts (s t : State) : Prop := ∃ cs xs rs, t = { s with cores := cs, cmds := xs, reds := rs }

theorem SameButCounts.refl (s : State) : SameButCounts s s := ⟨_, _, _, rfl⟩

theorem SameButCounts.trans {s t u : State} (h : SameButCounts s t) (k : SameButCounts t u) : SameButCounts s u := by
  obtain ⟨_, _, _, rfl⟩ := h
  obtain ⟨_, _, _, rfl⟩ := k
  exact ⟨_, _, _, rfl⟩

/-- A routine's schedule is kept with its command. -/
theorem romGoesOn_sameButCounts (s : State) (x : Cmd) (n : Nat) : SameButCounts s (romGoesOn s x n) := by
  unfold romGoesOn
  split
  · split
    · exact ⟨_, _, _, rfl⟩
    · exact .refl s
  · exact .refl s

/-- A core's charges are kept with the core, its command and its cluster's reduction block. -/
theorem chargeCore_sameButCounts (s : State) (core n : Nat) : SameButCounts s (chargeCore s core n) := by
  unfold chargeCore
  dsimp only
  split
  · exact ⟨_, _, _, rfl⟩
  · split
    · exact (romGoesOn_sameButCounts s _ n).trans ⟨_, _, _, rfl⟩
    · exact (romGoesOn_sameButCounts s _ n).trans ⟨_, _, _, rfl⟩

/-- Cycles that pass on a core. -/
theorem passCycles_sameButCounts (s : State) (core n : Nat) : SameButCounts s (passCycles s core n) := by
  unfold passCycles
  split
  · exact .refl s
  · split
    · exact ⟨_, _, _, rfl⟩
    · exact chargeCore_sameButCounts s core n

/-- A window that ends is kept with its core. -/
theorem closeWindow_sameButCounts (s : State) (core : Nat) : SameButCounts s (closeWindow s core) := ⟨_, _, _, rfl⟩

/-- A step's cycles on a core. -/
theorem passStep_sameButCounts (s : State) (k core : Nat) : SameButCounts s (passStep s k core) := by
  have hwindow : ∀ t n, SameButCounts t (closeWindow (passCycles t core n) core) := fun t n =>
    (passCycles_sameButCounts t core n).trans (closeWindow_sameButCounts _ core)
  unfold passStep
  dsimp only
  split
  · exact passCycles_sameButCounts s core _
  · split
    · exact (hwindow s _).trans (passCycles_sameButCounts _ core _)
    · exact ((hwindow s _).trans (hwindow _ _)).trans (passCycles_sameButCounts _ core _)

/-- A step's cycles on several cores. -/
theorem passSteps_sameButCounts (k : Nat) (l : List Nat) (s : State) :
    SameButCounts s (l.foldl (fun t i => passStep t k i) s) := by
  induction l generalizing s with
  | nil => exact .refl s
  | cons i l ih => exact (passStep_sameButCounts s k i).trans (ih _)

/-- Time that goes on leaves memory, contexts, registers and grids. -/
theorem advance_frame (t : State) : (advance t).mem = t.mem ∧ (advance t).ctxs = t.ctxs ∧ (advance t).regs = t.regs ∧
    (advance t).grids = t.grids := by
  unfold advance
  dsimp only [tickDomains]
  obtain ⟨_, _, _, h⟩ := passSteps_sameButCounts ((t.nowPs + 1000 * Config.elapsed t.stepNo) / 10000000 - t.winNo)
    ((t.cores.map (·.1)) ++ (t.islands.filter fun x => x.2.stage == 2).map (·.1)).eraseDups t
  rw [h]
  exact ⟨rfl, rfl, rfl, rfl⟩

/-! ### The commands -/

/-- Where no cycles pass, a step's share of a core leaves the commands. -/
theorem passStep_cmds_of_no_cycles (h : ∀ stepNo core, Config.cycles stepNo core = 0) (s : State) (k core : Nat) :
    (passStep s k core).cmds = s.cmds := by
  have hpass : ∀ t, passCycles t core 0 = t := fun t => if_pos rfl
  simp only [passStep, cyclesInLast, cyclesToCut, h, Nat.min_zero, Nat.sub_zero, hpass]
  repeat' split
  all_goals rfl

/-- Where no cycles pass, time that goes on leaves the commands. -/
theorem advance_cmds_of_no_cycles (h : ∀ stepNo core, Config.cycles stepNo core = 0) (t : State) :
    (advance t).cmds = t.cmds := by
  have hfold : ∀ (k : Nat) (l : List Nat) (s : State), (l.foldl (fun t i => passStep t k i) s).cmds = s.cmds := by
    intro k l s
    induction l generalizing s with
    | nil => rfl
    | cons i l ih => exact (ih _).trans (passStep_cmds_of_no_cycles h s k i)
  exact hfold _ _ t

/-- A call of a routine of the ROM that runs on a core. -/
def romCall (core : Nat) : Cmd :=
  { cid := 1, instr := .mcall .c (Fields.ofWord 0), ctx := 1, gkey := 1, core := core, queue := .mq, token := none,
    args := [0], started := true }

/-- A machine at a step in which no window ends, with one core, on which that call runs. -/
def romCalling (stepNo core : Nat) : State :=
  { State.reset with stepNo := stepNo, winNo := 1000 * Config.elapsed stepNo / 10000000, cores := [(core, {})],
                     cmds := [romCall core] }

/-- The call's schedule goes on by the cycles that pass. -/
theorem romGoesOn_romCalling_cmds (stepNo core n : Nat) :
    (romGoesOn (romCalling stepNo core) (romCall core) n).cmds = [{ romCall core with count := n }] := by
  have hheld : coopHeld (romCalling stepNo core) (romCall core) = false := by
    simp [coopHeld, coopWaits, romCalling, romCall, State.core, tabGet?]
  have harg : (romCall core).arg 0 < 32 := by simp [romCall, Cmd.arg]
  have hgo : romGoesOn (romCalling stepNo core) (romCall core) n =
      (romCalling stepNo core).setCmd { romCall core with count := n } :=
    (if_pos ⟨harg, by rw [hheld]; rfl⟩).trans (by simp [romCall])
  rw [hgo]
  simp [State.setCmd, putBy, romCalling, romCall]

/-- The call goes on with its core's cycles. -/
theorem passCycles_romCalling_cmds {stepNo core n : Nat} (hn : n ≠ 0) :
    (passCycles (romCalling stepNo core) core n).cmds = [{ romCall core with count := n }] := by
  have hrun : runningMq (romCalling stepNo core) core = some (romCall core) := by
    simp [runningMq, romCalling, romCall]
  have hclock : (romCalling stepNo core).clockStopped core = false := rfl
  rw [passCycles, if_neg hn, if_neg (by simp [hclock]), chargeCore]
  simp only [hrun]
  split <;> exact romGoesOn_romCalling_cmds stepNo core n

/-- Time that goes on moves the call by the step's cycles. -/
theorem advance_romCalling_cmds {stepNo core : Nat} (hn : Config.cycles stepNo core ≠ 0) :
    (advance (romCalling stepNo core)).cmds = [{ romCall core with count := Config.cycles stepNo core }] := by
  rw [← passCycles_romCalling_cmds (stepNo := stepNo) hn]
  simp [advance, tickDomains, passStep, romCalling, State.reset, List.eraseDups_cons]

/-- Time that goes on leaves every command exactly where no cycles pass at all. -/
theorem advance_cmds_iff : (∀ t, (advance t).cmds = t.cmds) ↔ ∀ stepNo core, Config.cycles stepNo core = 0 := by
  refine ⟨fun h stepNo core => ?_, advance_cmds_of_no_cycles⟩
  by_contra hn
  have hcmds := (advance_romCalling_cmds hn).symm.trans (h (romCalling stepNo core))
  exact hn (by simpa [romCalling, romCall] using hcmds)

/-! ### A step -/

/-- A step runs the agenda's head. -/
theorem step_of_agenda {s : State} {i : Instr} {rest : List Instr} (h : s.agenda = i :: rest) :
    step s = elapse (exec i { s with agenda := rest }) := by
  simp only [step, nextInstr, popAgenda, h, List.tail_cons]

/-- Without an agenda a step is an issue of the current core. -/
theorem step_of_no_agenda {s : State} (h : s.agenda = []) : step s = .next (advance (issueOn s s.cur).state) := by
  have hpop : popAgenda s = s := by
    rw [popAgenda, h, List.tail_nil, ← h]
  have hnext : nextInstr s = .bundleIssue s.cur := by simp only [nextInstr, h]
  rw [step, hnext, hpop]
  rfl

/-- What the statement comes to: all its other clauses hold, and that on the commands says that no cycles ever pass. The
model leaves the number of cycles free, so it neither proves nor refutes the statement. -/
theorem stepRunsWhatComesNext_iff :
    Obligations.StepRunsWhatComesNext ↔ ∀ stepNo core, Config.cycles stepNo core = 0 := by
  rw [← advance_cmds_iff]
  constructor
  · intro h t
    obtain ⟨-, -, -, -, -, -, -, hcmds, -⟩ := h t t (.mcall .c (Fields.ofWord 0)) [] (.notEnabled "")
    exact hcmds
  · intro hcmds s t i rest r
    obtain ⟨hmem, hctxs, hregs, hgrids⟩ := advance_frame t
    refine ⟨fun ha he => ?_, fun ha he => ?_, step_of_no_agenda, rfl, rfl, hmem, hctxs, hcmds t, hregs, hgrids⟩
    · rw [step_of_agenda ha, he]; rfl
    · rw [step_of_agenda ha, he]; rfl
end Sys2Proof.MachineState

/-!
Bytes in memory and the numbers they hold, little-endian (spec/02 R47).
-/
namespace Sys2Proof.NumberFormats
open Sys2Proof Sys2Proof.Machine Sys2Proof.Safety

/-- R47: the `n` low bytes of a number, read little-endian, are the number modulo 2^(8n). -/
theorem ofBytesLE_toBytesLE (n v : Nat) : ofBytesLE (toBytesLE n v) = v % 2 ^ (8 * n) := by
  induction n generalizing v with
  | zero => rw [Nat.mul_zero, pow_zero, Nat.mod_one]; rfl
  | succ n ih =>
    calc ofBytesLE (toBytesLE (n + 1) v)
        = v % 256 + 256 * ofBytesLE (toBytesLE n (v / 256)) := rfl
      _ = v % 256 + 256 * (v / 256 % 2 ^ (8 * n)) := by rw [ih]
      _ = v % 2 ^ (8 * (n + 1)) := by rw [← Nat.mod_mul, Nat.mul_succ, Nat.pow_add, Nat.mul_comm]

/-- A number stored in `n` bytes reads back modulo 2^(8n). -/
theorem load_store {s : State} (h : memoryOk s) (k n v : Nat) : (s.store k n v).load k n = v % 2 ^ (8 * n) := by
  have hbytes : memGetList (s.store k n v).mem k n = toBytesLE n v := by
    simpa only [State.store, length_toBytesLE] using memGetList_memSetList (k := k) (bs := toBytesLE n v) h
  rw [State.load, hbytes, ofBytesLE_toBytesLE]

/-- Settles O54: the laws of memory, where a number stored is the little-endian number of its bytes read back. -/
theorem memoryCells : Obligations.MemoryCells := fun _ k n v _ h =>
  ⟨load_store h k n v, State.store_wf h, memGetList_memSetList h, State.storeBytes_wf h,
    fun _ ha => memGet_memSetList_out h ha⟩
end Sys2Proof.NumberFormats

/-!
Slot words, micro-op words and bundles: decoding and encoding agree in both directions (spec/03 R64 to R68, R91; spec/12
R276).
-/
namespace Sys2Proof.BundleEncoding
open Sys2Proof Sys2Proof.Machine Sys2Proof.Safety

/-! ### A word is the concatenation of its fields (R67) -/

/-- Two neighbouring fields are one field of both lengths. -/
theorem extract_append {n : Nat} (x : BitVec n) {hi lo m k : Nat} (h : hi = lo + k) :
    x.extractLsb' hi m ++ x.extractLsb' lo k = x.extractLsb' lo (m + k) := by
  ext i hi'
  simp only [BitVec.getElem_append, BitVec.getElem_extractLsb']
  split
  · rfl
  · congr 1
    omega

/-- A field of one bit is that bit. -/
theorem ofBool_getLsbD {n : Nat} (x : BitVec n) (i : Nat) : BitVec.ofBool (x.getLsbD i) = x.extractLsb' i 1 := by
  ext j hj
  obtain rfl : j = 0 := by omega
  simp

/-- The kind that two bits name has these two bits (R69). -/
theorem kind_toBits_ofBits (b : BitVec 2) : (Kind.ofBits b).toBits = b := by
  revert b
  decide

/-- The operand field that twelve bits hold has these twelve bits (R68). -/
theorem operand_toBits_ofBits (b : BitVec 12) : (Operand.ofBits b).toBits = b :=
  (extract_append b (by decide)).trans (Laws.extract_all b)

/-- The fields of a word, under its own opcode, make up the word (R67). -/
theorem toWord_ofWord (w : Word) : (Fields.ofWord w).toWord (w.extractLsb' 58 6) = w := by
  simp only [Fields.toWord, Fields.ofWord, operand_toBits_ofBits, kind_toBits_ofBits, ofBool_getLsbD]
  repeat rw [extract_append w (by decide)]
  exact Laws.extract_all w

/-! ### The opcode map both ways (R66, R91) -/

theorem decodeC_parts {code : Nat} {p : Pos} {f : Fields} {i : Instr} (h : decodeC code p f = some i) :
    i.parts = some (.c, code, p, f) := by
  unfold decodeC at h
  split at h
  case h_13 => split at h <;> cases h <;> rfl
  all_goals cases h <;> rfl

theorem decodeA_parts {code : Nat} {p : Pos} {f : Fields} {i : Instr} (h : decodeA code p f = some i) :
    i.parts = some (.a, code, p, f) := by
  unfold decodeA at h
  split at h <;> cases h <;> rfl

theorem decodeM_parts {code : Nat} {p : Pos} {f : Fields} {i : Instr} (h : decodeM code p f = some i) :
    i.parts = some (.m, code, p, f) := by
  unfold decodeM at h
  split at h <;> cases h <;> rfl

theorem decodeV_parts {code : Nat} {p : Pos} {f : Fields} {i : Instr} (h : decodeV code p f = some i) :
    i.parts = some (.v, code, p, f) := by
  unfold decodeV at h
  split at h <;> cases h <;> rfl

theorem decodeE_parts {code : Nat} {p : Pos} {f : Fields} {i : Instr} (h : decodeE code p f = some i) :
    i.parts = some (.e, code, p, f) := by
  unfold decodeE at h
  split at h <;> cases h <;> rfl

theorem decodeK_parts {code : Nat} {p : Pos} {f : Fields} {i : Instr} (h : decodeK code p f = some i) :
    i.parts = some (.k, code, p, f) := by
  unfold decodeK at h
  split at h <;> cases h <;> rfl

/-- What decodes at a position is an operation of the position's class, under its code and with its fields. -/
theorem decodeAt_parts {p : Pos} {code : Nat} {f : Fields} {i : Instr} (h : decodeAt p code f = some i) :
    i.parts = some (p.cls, code, p, f) := by
  unfold decodeAt at h
  split at h <;> rename_i hc <;> rw [hc]
  · exact decodeC_parts h
  · exact decodeA_parts h
  · exact decodeM_parts h
  · exact decodeV_parts h
  · exact decodeE_parts h
  · exact decodeK_parts h

/-- A slot word decodes as its code and its fields do at its position. -/
theorem decodeSlot_eq (p : Pos) (w : Word) : decodeSlot p w = decodeAt p (w.extractLsb' 58 6).toNat (Fields.ofWord w) := rfl

/-- An operation in a slot of its class, spelled as its code wants it, is what its code and fields decode to. -/
theorem decodeAt_of_parts {i : Instr} {cls : Cls} {code : Nat} {p : Pos} {f : Fields} (hp : i.parts = some (cls, code, p, f))
    (hc : p.cls = cls) (hs : i.spelled = true) : decodeAt p code f = some i := by
  unfold decodeAt
  cases i
  case retire p f => cases hp; rw [hc]; simpa [decodeC, Instr.spelled] using hs
  case retireT p f => cases hp; rw [hc]; simpa [decodeC, Instr.spelled] using hs
  all_goals cases hp <;> rw [hc] <;> rfl

/-- An opcode fits its six bits. -/
theorem code_lt {i : Instr} {cls : Cls} {code : Nat} {p : Pos} {f : Fields} (hp : i.parts = some (cls, code, p, f)) :
    code < 64 := by
  cases i <;> cases hp <;> decide

/-- The word of a well-placed operation decodes to the operation. -/
theorem decodeSlot_encoded {i : Instr} {cls : Cls} {code : Nat} {p : Pos} {f : Fields}
    (hp : i.parts = some (cls, code, p, f)) (hc : p.cls = cls) (hs : i.spelled = true) :
    decodeSlot p (f.toWord (BitVec.ofNat 6 code)) = some i := by
  rw [decodeSlot_eq, Laws.toWord_code, Laws.toWord_fields, BitVec.toNat_ofNat, Nat.mod_eq_of_lt (code_lt hp)]
  exact decodeAt_of_parts hp hc hs

/-- A word that decodes is the one that its operation encodes to. -/
theorem encodeSlot_of_decodeSlot {p : Pos} {w : Word} {i : Instr} (h : decodeSlot p w = some i) : encodeSlot i = some w := by
  rw [encodeSlot, decodeAt_parts h]
  simp only [BitVec.ofNat_toNat, BitVec.setWidth_eq, toWord_ofWord]

/-! ### Micro-ops (R276) -/

/-- The word of a micro-op decodes to its step. -/
theorem uopOf_encoded {i : Instr} {core op : Nat} {u : MicroOp} (hu : i.uopParts = some (core, op, u)) :
    uopOf core (u.toWord op) = some i := by
  unfold uopOf
  rw [Laws.uop_code, Laws.uop_fields]
  cases i <;> cases hu <;> rfl

/-! ### Bundles (R64, R65) -/

/-- A number of as many bits as its bytes have reads back. -/
theorem ofNat_ofBytesLE_toBytesLE (n : Nat) (x : BitVec (8 * n)) :
    BitVec.ofNat (8 * n) (ofBytesLE (toBytesLE n x.toNat)) = x := by
  rw [NumberFormats.ofBytesLE_toBytesLE, Nat.mod_eq_of_lt x.isLt, BitVec.ofNat_toNat, BitVec.setWidth_eq]

/-- The slot words of a bundle read back, in their order. -/
theorem takeWords_encoded (ws : List (Pos × Word)) (rest : List Byte) :
    takeWords (ws.map (·.1)) ((ws.flatMap fun pw => toBytesLE 8 pw.2.toNat) ++ rest) = some (ws, rest) := by
  induction ws with
  | nil => rfl
  | cons pw ws ih =>
    have hlen : (toBytesLE 8 pw.2.toNat).length = 8 := length_toBytesLE 8 _
    rw [List.map_cons, List.flatMap_cons, List.append_assoc, takeWords, if_neg (by simp [hlen]), List.drop_left' hlen, ih,
      List.take_left' hlen]
    simp only
    rw [ofNat_ofBytesLE_toBytesLE 8 pw.2]

/-- A bundle's bytes decode to the bundle, and leave what follows them. -/
theorem decodeBundle_encodeBundle {b : Bundle} (rest : List Byte)
    (hw : b.words.map (·.1) = Pos.all.filter (hdrPres b.header)) (hr : b.rpt.isSome = hdrRpt b.header) :
    decodeBundle (encodeBundle b ++ rest) = .ok (b, rest) := by
  obtain ⟨h, rpt, ws⟩ := b
  have hlen : ∀ x : BitVec 32, (toBytesLE 4 x.toNat).length = 4 := fun x => length_toBytesLE 4 _
  have hwords := takeWords_encoded ws rest
  rw [show ws.map (·.1) = Pos.all.filter (hdrPres h) from hw] at hwords
  cases rpt with
  | none =>
    have hr' : hdrRpt h = false := hr.symm
    simp only [encodeBundle, List.append_nil, List.append_assoc, decodeBundle, List.take_left' (hlen h),
      List.drop_left' (hlen h), ofNat_ofBytesLE_toBytesLE 4 h, hr']
    rw [if_neg (by simp [hlen])]
    simp [hwords]
  | some r =>
    have hr' : hdrRpt h = true := hr.symm
    simp only [encodeBundle, List.append_assoc, decodeBundle, List.take_left' (hlen _),
      List.drop_left' (hlen _), ofNat_ofBytesLE_toBytesLE 4 h, ofNat_ofBytesLE_toBytesLE 4 r, hr']
    rw [if_neg (by simp [hlen]), if_neg (by simp [hlen])]
    simp [hwords]

/-- The header of an operation alone in its bundle, which marks its slot present and has no repeat word. -/
def soleHeader (p : Pos) : BitVec 32 :=
  mkHeader (BitVec.ofNat 4 p.index) (BitVec.ofNat 4 p.index) false false false (BitVec.ofNat 9 (2 ^ p.index))

/-- Its slot is the only one present. -/
theorem soleHeader_pres (p : Pos) : Pos.all.filter (hdrPres (soleHeader p)) = [p] := by cases p <;> decide

/-- It has no repeat word. -/
theorem soleHeader_rpt (p : Pos) : hdrRpt (soleHeader p) = false := by cases p <;> decide

/-- A slot word alone in its bundle is all that the bundle's bytes hold. -/
theorem decodeBundle_sole (p : Pos) (w : Word) (rest : List Byte) :
    decodeBundle (toBytesLE 4 (soleHeader p).toNat ++ toBytesLE 8 w.toNat ++ rest) =
      .ok (⟨soleHeader p, none, [(p, w)]⟩, rest) := by
  have h := decodeBundle_encodeBundle (b := ⟨soleHeader p, none, [(p, w)]⟩) rest (soleHeader_pres p).symm
    (soleHeader_rpt p).symm
  simpa [encodeBundle] using h

/-- Settles O59: the opcode map read both ways, a word as the concatenation of its fields, and a bundle's bytes read word
by word. -/
theorem decodeEncode : Obligations.DecodeEncode := by
  refine ⟨fun i cls code p f rest hwf hp => ?_, fun i core op u _ hu => ?_, fun p w i => encodeSlot_of_decodeSlot,
    fun b rest => decodeBundle_encodeBundle rest⟩
  · simp only [Instr.wf, Instr.placed, hp, Bool.and_eq_true, beq_iff_eq] at hwf
    obtain ⟨⟨⟨hc, -⟩, hs⟩, -⟩ := hwf
    have he : encodeSlot i = some (f.toWord (BitVec.ofNat 6 code)) := by rw [encodeSlot, hp]
    exact ⟨soleHeader p, _, by rw [encode, hp, he]; rfl, decodeSlot_encoded hp hc hs, decodeBundle_sole p _ rest⟩
  · exact ⟨u.toWord op, by rw [encodeUop, hu], uopOf_encoded hu⟩

/-! ### The spec's worked words (R67, R70, R91) -/

/-- Settles O60: each word's fields, read off its bits; opcode 0 is assigned in no class. -/
theorem workedWords : Obligations.WorkedWords := by
  refine ⟨⟨_, rfl, ?_⟩, ⟨_, rfl, ?_⟩, ⟨_, rfl, ?_⟩, ⟨_, rfl, ?_⟩, ⟨_, rfl, ?_⟩, ⟨_, rfl, ?_⟩, ⟨_, rfl, ?_⟩, ⟨_, rfl, ?_⟩,
    fun p => ?_⟩
  case refine_9 => cases p <;> rfl
  all_goals decide
end Sys2Proof.BundleEncoding

/-!
The loop stack of a state in which two contexts bear one handle (spec/05 R111).
-/
namespace Sys2Proof.BundleEncoding
open Sys2Proof Sys2Proof.Machine Sys2Proof.Safety

/-- A sequencer with one bank, at a bundle. -/
def sequencerAt (pc : PC) : Ctx := { noCtx with handle := 1, hdr := { banks := 1 }, bankList := [0], pc := pc }

/-- The first scratchpad byte of that sequencer, as a key. -/
def firstSpad : Nat := spmBase + 2 ^ 20

/-- A state with two contexts under the one handle that core 0 issues, at bundles 0 and 4; its scratchpad holds the
descriptor of a nest of one level with a count of 2 and a start at its own bundle. -/
def twins : State :=
  (({ State.reset with ctxs := [sequencerAt 0, sequencerAt 4], cores := [(0, { cur := some 1 })] }.store firstSpad 8 1).store
    (firstSpad + 8) 8 2)

/-- A loopd of the descriptor at the address in c2. -/
def nestFields : Fields := Fields.ofWord 0x1c00000017800200

/-- Where the loops of a state's contexts start. -/
def loopStarts (s : State) : List (List PC) := s.ctxs.map fun c => c.loops.map (·.start)

/-- A read of scratchpad bytes that exist and of which none is poisoned. -/
theorem spmRead_ok {s : State} {c : Ctx} {a n : Nat} {ks : List Nat} {bs : List Byte} (hk : spmRange s c a n = some ks)
    (hb : readKeys s (if ownForm a then seenByte s c else memGet s.mem) ks = .ok bs) : spmRead s c a n = .ok bs := by
  simp only [spmRead, hk, hb]

/-- The keys of eight scratchpad bytes of that sequencer. -/
def spadWord (a : Nat) : List Nat := (List.range 8).map (firstSpad + a + ·)

/-- The nest that loopd pushes in the model starts, for each context of the issuing handle, relative to that context's own
bundle. -/
theorem exec_loopd_twins : ∃ t, exec (.loopd .c nestFields) twins = .next t ∧ loopStarts t = [[0], [4]] :=
  ⟨_, rfl, by decide⟩

/-- Refutes O15: the statement's nest starts relative to the bundle of the context that issues, for every context of that
context's handle; the model's, relative to each context's own bundle. The two differ in a state that holds two contexts
of one handle, which the statement does not exclude. -/
theorem not_transfersAndLoops : ¬ Obligations.TransfersAndLoops := by
  rintro ⟨-, hloops⟩
  obtain ⟨-, -, -, hnest, -⟩ := hloops .c nestFields twins
  have hpushed := hnest 1 [2] [1, 0, 0, 0, 0, 0, 0, 0] [2, 0, 0, 0, 0, 0, 0, 0] (by decide)
    (spmRead_ok (ks := spadWord 0) (by decide) (by decide)) (by decide) (by decide) (by decide) (by decide)
    (spmRead_ok (ks := spadWord 8) (by decide) (by decide)) (by decide)
  obtain ⟨t, ht, hstarts⟩ := exec_loopd_twins
  rw [ht] at hpushed
  injection hpushed with hstate
  rw [hstate] at hstarts
  exact absurd hstarts (by decide)
end Sys2Proof.BundleEncoding

/-!
What ends a slot operation before its meaning: a failing word (spec/03 R89, R90) and a guard that disables it (R74, R84).
-/
namespace Sys2Proof.BundleEncoding
open Sys2Proof Sys2Proof.Machine Sys2Proof.Safety

section Slots

variable {i : Instr} {cls : Cls} {code : Nat} {p : Pos} {f : Fields} {info : OpInfo} {s : State}

/-! ### A word that fails a check -/

/-- A failing word fails a row, or passes the rows and fails its operation's own rule, which is row 0 (R89). -/
theorem wordFail_some {row : Nat} (h : wordFail i info f = some row) :
    wordRow i info f = some row ∨ wordRow i info f = none ∧ ownRuleOk i info f = false ∧ row = 0 := by
  unfold wordFail at h
  split at h
  case h_1 r hrow => exact .inl (hrow.trans h)
  case h_2 hrow =>
    split at h
    · cases h
    · rename_i hown
      cases h
      exact .inr ⟨hrow, Bool.eq_false_iff.mpr hown, rfl⟩

/-- A word that fails nothing passes the rows and its operation's own rule. -/
theorem wordFail_none (h : wordFail i info f = none) : wordRow i info f = none ∧ ownRuleOk i info f = true := by
  unfold wordFail at h
  split at h
  case h_1 => cases h
  case h_2 hrow =>
    split at h
    · rename_i hown
      exact ⟨hrow, hown⟩
    · cases h

/-! ### A disabled operation -/

/-- An operation that passes its checks is a slot operation with a row. -/
theorem row_of_passes (h : passes i = true) :
    ∃ cls code p f info, i.parts = some (cls, code, p, f) ∧ opInfo i = some info := by
  unfold passes at h
  split at h
  case h_1 cls code p f info hp hi => exact ⟨cls, code, p, f, info, hp, hi⟩
  case h_2 => cases h

/-- A transfer operation's guard enables it or not as a whole. -/
theorem guardOn_transfer (hp : i.parts = some (cls, code, p, f)) (ht : isTransfer i = true) :
    guardOn i s = enabled s.curCtx f := by
  cases i <;> cases ht <;> cases hp <;> rfl

/-- A disabled operation's meaning is no effect, but for the shadow of a transfer operation (R74, R84). -/
theorem semOf_off (hp : i.parts = some (cls, code, p, f)) (hi : opInfo i = some info) (hg : guardOn i s = false) :
    semOf i s = .ok (if isTransfer i then noTransfer s else s) := by
  rcases Gates.cases_gate i cls code p f s hp with ⟨ht, run, h⟩ | ⟨ht, h⟩
  · have hen : enabled s.curCtx f = false := by rw [← guardOn_transfer hp ht, hg]
    rw [h, transferOp, hen, ht]
    rfl
  · rw [ht, if_neg Bool.false_ne_true]
    rcases h with ⟨run, h⟩ | rfl
    · rw [h, slotOp_off hp hi hg]
    · have hen : enabled s.curCtx f = false := hg
      rw [semOf_tkwait, semTkwait, if_neg (by simp [hen]), slotOp_off hp hi hg]

end Slots

/-- Settles O21: the ways in which a word's execution ends before its meaning. -/
theorem failingWords : Obligations.FailingWords := by
  intro i s cls code p f info hp hi
  rw [exec_slot s hp]
  refine ⟨fun row h => ?_, fun w h hw => ?_⟩
  · rcases wordFail_some h with hrow | ⟨hrow, hown, rfl⟩
    · simp only [runSlot, hi, hrow]
    · simp [runSlot, hi, hrow, hown]
  · obtain ⟨hrow, hown⟩ := wordFail_none h
    simp [runSlot, hi, hrow, hown, hw]

/-- Settles O20: a word that passes its checks runs its meaning, which the gate of its guard makes no effect. -/
theorem disabledOperations : Obligations.DisabledOperations := by
  intro i s hpass hwin hg
  obtain ⟨cls, code, p, f, info, hp, hi⟩ := row_of_passes hpass
  rw [exec_slot s hp, runSlot_passes hp hpass hwin, semOf_off hp hi hg]
  rfl
end Sys2Proof.BundleEncoding

/-!
Where a context goes on after its bundle (spec/03 R82, R84, R85; spec/05 R110, R116, R129).
-/
namespace Sys2Proof.BundleEncoding
open Sys2Proof Sys2Proof.Machine Sys2Proof.Safety

section Ends

variable {s : State} {h len depth : Nat} {header : BitVec 32} {long shadow count : Bool} {c : Ctx}

/-- A context of which slot C has left nothing to its bundle's end. -/
theorem leaveCtx_none (hc : s.ctx? h = some c) (hl : c.leave = none) : leaveCtx s h = s := by
  simp only [leaveCtx, ctx_of_ctx? hc, hl]

/-- A sequencer that its bundle retires discards its results in flight (R116). -/
theorem leaveCtx_retire (hc : s.ctx? h = some c) (hl : c.leave = some .retire) :
    (leaveCtx s h).ctx? h = some { c with status := .retired, flight := [], barWait := none, leave := none } := by
  simp only [leaveCtx, ctx_of_ctx? hc, hl]
  rw [ctx?_congr (noteComplete_ctxs _ _)]
  exact ctx?_setCtx_of _ _ h (show c.handle = h from handle_of_ctx? hc)

/-- One that yields stops (R129). -/
theorem leaveCtx_yield (hc : s.ctx? h = some c) (hl : c.leave = some .yield) :
    (leaveCtx s h).ctx? h = some { c with status := .yielding, leave := none } := by
  simp only [leaveCtx, ctx_of_ctx? hc, hl]
  exact ctx?_setCtx_of _ _ h (show c.handle = h from handle_of_ctx? hc)

/-- A bundle without LEND goes on at the next in memory order, and counts in its shadow (R82). -/
theorem completeBundle_next (hc : s.ctx? h = some c) (hn : c.nextPc = none) (hl : c.leave = none)
    (he : hdrLend header = false) (hp : c.pend = false) :
    let d := (completeBundle s h header len long (shadow, depth) count).ctx h
    d.pc = c.pc + BitVec.ofNat 32 len ∧ d.loops = c.loops ∧ d.shl = if shadow && count then c.shl - 1 else c.shl := by
  obtain ⟨d, hd, hloops, hshl, -, -, -, -, hpc⟩ :=
    completeBundle_ctx s s h len header long (shadow, depth) count c (leaveCtx_none hc hl) hc hn
  rw [if_neg (by simp [hp])] at hpc
  simp only [he, Bool.false_eq_true, if_false, List.take_append_drop] at hpc hloops
  rw [hd]
  exact ⟨hpc.1, hloops, hshl⟩

/-- The last bundle of a pending transfer's shadow goes on at the target (R82, R84). -/
theorem completeBundle_transfer (hc : s.ctx? h = some c) (hn : c.nextPc = none) (hl : c.leave = none)
    (hp : c.pend = true) (h1 : c.shl = 1) :
    let d := (completeBundle s h header len long (true, depth) true).ctx h
    d.pc = c.target ∧ d.pend = false ∧ d.shl = 0 := by
  obtain ⟨d, hd, -, hshl, -, -, -, -, hpc⟩ :=
    completeBundle_ctx s s h len header long (true, depth) true c (leaveCtx_none hc hl) hc hn
  simp only [Bool.and_self, if_true, h1, Nat.sub_self] at hshl hpc
  rw [if_pos ⟨hp, trivial⟩] at hpc
  rw [hd]
  exact ⟨hpc.1, hpc.2, hshl⟩

/-- A bundle with LEND closes the innermost entry below those that it has pushed itself (R85, R110). -/
theorem completeBundle_closes {own : List LoopEntry} {e : LoopEntry} {es : List LoopEntry} (hc : s.ctx? h = some c)
    (hn : c.nextPc = none) (hl : c.leave = none) (he : hdrLend header = true) (hloops : c.loops = own ++ e :: es)
    (hp : c.pend = false) :
    let d := (completeBundle s h header len long (false, es.length + 1) false).ctx h
    let cl := closeLoop (e :: es) (c.pc + BitVec.ofNat 32 len)
    d.pc = cl.1 ∧ d.loops = own ++ cl.2 := by
  obtain ⟨d, hd, hl', -, -, -, -, -, hpc⟩ :=
    completeBundle_ctx s s h len header long (false, es.length + 1) false c (leaveCtx_none hc hl) hc hn
  have hown : (own ++ e :: es).length - (es.length + 1) = own.length := by simp
  rw [if_neg (by simp [hp])] at hpc
  simp only [he, if_true, hloops, hown, List.drop_left, List.take_left] at hl' hpc
  rw [hd]
  exact ⟨hpc.1, hl'⟩

/-- A loop whose count is not reached goes back to its start with its index advanced (R85). -/
theorem closeLoop_again {e : LoopEntry} {es : List LoopEntry} {next : PC} (h : e.index.toNat + 1 < e.count.toNat) :
    closeLoop (e :: es) next = (e.start, { e with index := e.index + 1 } :: es) := if_pos h

/-- One whose count is reached is left (R85). -/
theorem closeLoop_leaves {e : LoopEntry} {es : List LoopEntry} {next : PC} (h : e.count.toNat ≤ e.index.toNat + 1) :
    closeLoop (e :: es) next = (next, es) := if_neg (Nat.not_lt.mpr h)

/-- A context that slot C has stopped at its bundle's end stays so, and keeps no result in flight where it has none. -/
theorem completeBundle_stopped (hc : (leaveCtx s h).ctx? h = some c) (hn : c.nextPc = none) (hs : c.status ≠ .ready) :
    let d := (completeBundle s h header len long (shadow, depth) count).ctx h
    d.status = c.status ∧ d.leave = c.leave ∧ (c.flight = [] → d.flight = []) := by
  obtain ⟨d, hd, -, -, hleave, -, hflight, hstatus, -⟩ :=
    completeBundle_ctx _ s h len header long (shadow, depth) count c rfl hc hn
  rw [hd]
  exact ⟨hstatus hs, hleave, hflight⟩

end Ends

/-- Settles O27: what completing a bundle does to its context, by what slot C has left, LEND and the pending transfer. -/
theorem bundleEnds : Obligations.BundleEnds := by
  intro s h header len c own e es hc _ hn next after
  refine ⟨fun hl he hp long shadow depth count => completeBundle_next hc hn hl he hp,
    fun hl _ hp h1 long depth => completeBundle_transfer hc hn hl hp h1, fun hl he hloops hp long => ?_,
    fun long shadow depth count => ⟨fun hl => ?_, fun hl => ?_⟩⟩
  · obtain ⟨hpc, hstack⟩ := completeBundle_closes (len := len) (long := long) hc hn hl he hloops hp
    refine ⟨fun hlt => ?_, fun hle => ?_⟩
    · rw [closeLoop_again hlt] at hpc hstack
      exact ⟨hpc, hstack⟩
    · rw [closeLoop_leaves hle] at hpc hstack
      exact ⟨hpc, hstack⟩
  · obtain ⟨hstatus, hleave, hflight⟩ := completeBundle_stopped (header := header) (len := len) (long := long)
      (shadow := shadow) (depth := depth) (count := count) (leaveCtx_retire hc hl) hn (by simp)
    exact ⟨hstatus, hflight rfl, hleave⟩
  · obtain ⟨hstatus, hleave, -⟩ := completeBundle_stopped (header := header) (len := len) (long := long)
      (shadow := shadow) (depth := depth) (count := count) (leaveCtx_yield hc hl) hn (by simp)
    exact ⟨hstatus, hleave⟩
end Sys2Proof.BundleEncoding

/-!
A step that runs the operation of a bundle's only slot word (spec/03 R64, R67, R77, R79).
-/
namespace Sys2Proof.BundleEncoding
open Sys2Proof Sys2Proof.Machine Sys2Proof.Safety Sys2Proof.MachineState

/-- The row of an operation has the operation's opcode (R91). -/
theorem opInfo_code {i : Instr} {cls : Cls} {code : Nat} {p : Pos} {f : Fields} {info : OpInfo}
    (hp : i.parts = some (cls, code, p, f)) (hi : opInfo i = some info) : info.code = code := by
  cases i <;> cases hp <;> cases hi <;> rfl

/-- The slot that a word makes. -/
theorem slotIn_some {p : Pos} {word : Word} {x : SlotIn} (h : slotIn (p, word) = some x) :
    decodeSlot p word = some x.i ∧ opInfo x.i = some x.info ∧ x.p = p ∧ x.f = Fields.ofWord word := by
  simp only [slotIn] at h
  split at h
  case h_1 => cases h
  case h_2 i hd =>
    obtain ⟨info, hi, rfl⟩ := Option.map_eq_some_iff.mp h
    exact ⟨hd, hi, rfl, rfl⟩

/-- An operand's start, written back, is the operand. -/
theorem operand_ofInt_start (o : Operand) : (⟨BitVec.ofInt 8 (o.start.toNat : Int), o.wm1⟩ : Operand) = o := by
  simp

/-- Every use of slices names an operand field of the word (R79). -/
theorem sliceUses_op {i : Instr} {info : OpInfo} {p : Pos} {f : Fields} {u : SliceUse} (h : u ∈ sliceUses i info p f) :
    u.field = 0 ∧ u.op = f.dst ∨ u.field = 1 ∧ u.op = f.src1 ∨ u.field = 2 ∧ u.op = f.src2 := by
  simp only [sliceUses, List.mem_append] at h
  rcases h with (h | h) | h
  · refine .inl ?_
    split at h
    case h_5 => cases h
    all_goals obtain rfl := List.mem_singleton.mp h; exact ⟨rfl, rfl⟩
  · refine .inr (.inl ?_)
    split at h
    · obtain rfl := List.mem_singleton.mp h
      exact ⟨rfl, rfl⟩
    · cases h
  · refine .inr (.inr ?_)
    split at h
    · obtain rfl := List.mem_singleton.mp h
      exact ⟨rfl, rfl⟩
    · cases h

/-- Without a repeat word no operand is stepped (R79). -/
theorem stepFields_none (i : Instr) (info : OpInfo) (p : Pos) (rep : Nat) (f : Fields) :
    stepFields none i info p rep f = f := by
  refine List.foldlRecOn (motive := (· = f)) _ _ rfl fun g hg u hu => ?_
  subst hg
  rcases sliceUses_op hu with ⟨hf, ho⟩ | ⟨hf, ho⟩ | ⟨hf, ho⟩ <;> simp only [hf, ho, stepStart, operand_ofInt_start]

/-- Without a repeat word a slot runs the operation that its word decodes to. -/
theorem stepInstr_none {p : Pos} {word : Word} {x : SlotIn} (rep : Nat) (h : slotIn (p, word) = some x) :
    stepInstr none rep x = x.i := by
  obtain ⟨hd, hi, hp, hf⟩ := slotIn_some h
  rw [stepInstr, stepFields_none, opInfo_code (decodeAt_parts hd) hi, hp, hf, ← decodeSlot_eq, hd]
  rfl

/-- A fresh bundle of one word that passes its checks and takes effect issues with what its operation does by itself. -/
theorem issueOn_single {s t w v : State} {core : Nat} {c : Ctx} {b : Bundle} {pw : Pos × Word} {x : SlotIn} {i : Instr}
    (ht : bundleStart (issuing s core c) c b = t) (hstep : stepInstr b.rpt c.rep x = i) (hf : freshBundle s core c b)
    (hb : b.words = [pw]) (hx : slotIn pw = some x)
    (hrow : reported (headerRows b ++ slotRows b ++ bundleRows b [x] (decide (c.shl ≠ 0)) c.loops.isEmpty) = none)
    (hsl : sliceFail (t.ctx c.handle) b.rpt x.i x.info x.p x.f = none) (hfate : slotFate t i = .ok v)
    (hroom : (t.ctx c.handle).flight.length +
      newResults (t.ctx c.handle) (t.isSpec (t.ctx c.handle)) (x, i, slotFate t i) ≤ 32)
    (hstop : firstStop t (t.ctx c.handle) [(x, i, slotFate t i)] = none) (hw : semOf i (atIssue t c.handle) = .ok w) :
    (issueOn s core).state = completeRep
      (markIssue (issuing s core c)
        (w.modCtx c.handle fun d => { d with tokPend := d.tokPend ||| (t.ctx c.handle).tokPend }) c [i])
      c.handle b [x] true := by
  obtain ⟨hall, hxs⟩ := slotFates_single (t := t) (c := c) hb hx
  have hpass : PassesChecks t c b := passesChecks_single hb hx hrow hsl (by rw [hstep]; exact hroom)
  rw [hstep] at hxs
  subst ht
  have hissued := issueOn_commits hf hpass (by simp [hxs, hfate]) (by rw [hxs]; exact hstop)
    (by rw [hxs]; exact commitAll_single hw)
  rw [hxs, hall] at hissued
  rw [hissued]
  rfl

/-- Settles O30: the decoded operation, stepped, commits as it does by itself, and a step without an agenda is the issue. -/
theorem stepRunsTheDecodedOperation : Obligations.StepRunsTheDecodedOperation := by
  intro s c b p word x w s0 t0 t i ct t1 hagenda hf hb hx hrow hsl hpass hwin hw ⟨v, hv⟩ hroom hstop
  refine ⟨(slotIn_some hx).1, fun hr => ?_, exec_of_semOf_ok hpass hwin hw, ?_⟩
  · have hi : i = stepInstr none c.rep x := by simp only [i, hr]
    rw [hi, stepInstr_none _ hx]
  · have hissue := issueOn_single (t := t) (i := i) rfl rfl hf hb hx hrow hsl hv hroom hstop hw
    rw [step_of_no_agenda hagenda, hissue]
end Sys2Proof.BundleEncoding

/-!
What an operation that issues comes to, by the shape of its meaning (spec/03 R74, R84, R89; spec/05 R107, R108; spec/06 R142).
-/
namespace Sys2Proof.ControlTasks
open Sys2Proof Sys2Proof.Machine Sys2Proof.Safety Sys2Proof.MachineState Sys2Proof.BundleEncoding

section Shapes

variable {i : Instr} {cls : Cls} {code : Nat} {p : Pos} {f : Fields} {s : State} {info : OpInfo}

/-- A transfer operation that issues runs behind the gate of every slot operation. -/
theorem exec_transferOp {run : OpInfo → State → SlotRes} {r : SlotRes} (h : issues i s = true)
    (hp : i.parts = some (cls, code, p, f)) (hi : opInfo i = some info) (ht : isTransfer i = true)
    (hs : semOf i s = transferOp i f s run) (hr : run info s = r) : exec i s = .next (settleSlot s p r) := by
  have hg : guardOn i s = true := by
    simp only [issues, Bool.and_eq_true] at h
    exact h.1.2
  refine exec_slotOp h hp hi (hs.trans ?_) hr
  rw [transferOp, enabled_of_transfer hp ht hg]
  rfl

/-- An operation with a common result of both sources puts it in flight. -/
theorem exec_alu64 {g : Word → Word → Word} (hp : i.parts = some (cls, code, p, f)) (hi : opInfo i = some info)
    (hs : semOf i s = alu64 i p f s g) (h : issues i s = true) :
    exec i s = .next (putCommon s p f.dst.reg info.lat (g (cSrc1 s f) (cSrc2 s f))) :=
  exec_slotOp h hp hi hs rfl

/-- An operation that writes a whole predicate puts it in flight. -/
theorem exec_setPred {g : State → Mask} (hp : i.parts = some (cls, code, p, f)) (hi : opInfo i = some info)
    (hs : semOf i s = setPred i p f s g) (h : issues i s = true) :
    exec i s = .next (putPred s p f.dst.start.toNat info.lat (g s) (BitVec.allOnes 64)) :=
  exec_slotOp h hp hi hs rfl

/-- An operation that breaks its own static rule raises an illegal-bundle trap, at row 0 or at a row that its word fails before. -/
theorem exec_breaks_ownRule (s : State) (hp : i.parts = some (cls, code, p, f)) (hi : opInfo i = some info)
    (hown : ownRuleOk i info f = false) : ∃ row, exec i s = .next
      (stopTrap s s.curCtx.handle causeIllegal 15 0 false (illegalInfo row p.index)) := by
  have hfail : ∃ row, wordFail i info f = some row := by
    cases hrow : wordRow i info f with
    | some row => exact ⟨row, by simp only [wordFail, hrow]⟩
    | none => exact ⟨0, by simp [wordFail, hrow, hown]⟩
  obtain ⟨row, hrow⟩ := hfail
  exact ⟨row, (failingWords i s cls code p f info hp hi).1 row hrow⟩

end Shapes

/-! ### The conditions of compares (R108, R140) -/

/-- A source extended to `W` bits is a `W`-bit word. -/
theorem srcExt_lt (s : State) (p : Pos) (k : Kind) (o : Operand) (x : Bool) (W : Nat) : srcExt s p k o x W < 2 ^ W := by
  have hpos : (0 : Int) < 2 ^ W := by positivity
  rw [srcExt, extTo]
  split
  · rw [narrow, BitVec.toNat_ofNat]
    refine (Nat.mod_le _ _).trans_lt ?_
    have := Int.emod_lt_of_pos (signed (srcWidth k o W) (srcScal s p k o W)) hpos
    zify
    rwa [Int.toNat_of_nonneg (Int.emod_nonneg _ hpos.ne')]
  · exact Nat.mod_lt _ (by positivity)

/-- The integer conditions of two `W`-bit words compare the words themselves. -/
theorem intCond_of_lt (code : Nat) {W a b : Nat} (ha : a < 2 ^ W) (hb : b < 2 ^ W) :
    intCond code W a b = match code with
      | 0 => decide (a = b)
      | 1 => decide (a ≠ b)
      | 2 => decide (signed W a < signed W b)
      | 3 => decide (signed W b ≤ signed W a)
      | 4 => decide (a < b)
      | 5 => decide (b ≤ a)
      | _ => false := by
  unfold intCond
  rw [Nat.mod_eq_of_lt ha, Nat.mod_eq_of_lt hb]
  match code with
  | 0 => exact beq_eq_decide a b
  | 1 => exact (congrArg not (beq_eq_decide a b)).trans (decide_not (p := a = b)).symm
  | 2 | 3 | 4 | 5 | _ + 6 => rfl

/-- The conditions of ccmp compare the words themselves (R108). -/
theorem cCond_eq (code : Nat) (a b : Word) :
    cCond code a b = match code with
      | 0 => decide (a = b)
      | 1 => decide (a ≠ b)
      | 2 => decide (a.toInt < b.toInt)
      | 3 => decide (b.toInt ≤ a.toInt)
      | 4 => decide (a < b)
      | _ => decide (b ≤ a) := by
  unfold cCond
  match code with
  | 0 => exact beq_eq_decide a b
  | 1 => exact (congrArg not (beq_eq_decide a b)).trans (decide_not (p := a = b)).symm
  | 2 | 3 | 4 | _ + 5 => rfl

/-- Settles O5: each operation puts one whole predicate in flight; a condition code from 6 on breaks the compare's own rule. -/
theorem predicateResults : Obligations.PredicateResults := by
  intro p f s n code all W a b fa fb ca cb q1 q2 inv
  refine ⟨fun h => ?_, exec_setPred rfl rfl (semOf_fcmp p f s), fun h => ?_, exec_setPred rfl rfl (semOf_pand p f s),
    exec_setPred rfl rfl (semOf_por p f s), exec_setPred rfl rfl (semOf_pxor p f s), exec_setPred rfl rfl (semOf_pset p f s),
    fun hcode i hi => ?_⟩
  · have hcond := intCond_of_lt code (srcExt_lt s p f.k1 f.src1 (decide (code < 4)) W)
      (srcExt_lt s p f.k2 f.src2 (decide (code < 4)) W)
    exact (exec_setPred rfl rfl (semOf_cmp p f s) h).trans
      (congrArg (fun q => Host.Outcome.next (putPred s p n 1 (boolMask q) all)) hcond)
  · exact (exec_slotOp h rfl rfl (semOf_ccmp p f s) rfl).trans
      (congrArg (fun q => Host.Outcome.next (putPred s p n 1 (boolMask q) all)) (cCond_eq code ca cb))
  · have hbad : decide (code < 6) = false := decide_eq_false (Nat.not_lt.mpr hcode)
    simp only [List.mem_cons, List.not_mem_nil, or_false] at hi
    rcases hi with rfl | rfl | rfl
    · exact exec_breaks_ownRule s rfl rfl hbad
    · exact exec_breaks_ownRule s rfl rfl hbad
    · exact exec_breaks_ownRule s rfl rfl hbad

/-! ### Common-file arithmetic (R107) -/

/-- The low six bits of a shift count. -/
theorem extractLsb'_six_toNat (b : Word) : (b.extractLsb' 0 6).toNat = b.toNat % 64 := by
  rw [BitVec.extractLsb'_toNat, Nat.shiftRight_zero]

/-- Settles O13: each operation puts one common result, or one predicate, in flight; cpget of a predicate from 48 on breaks
its own rule. -/
theorem commonArithmetic : Obligations.CommonArithmetic := by
  intro p f s a b n out
  have hn : n = b.toNat % 64 := extractLsb'_six_toNat b
  rw [hn]
  refine ⟨exec_get64 rfl rfl (semOf_cli p f s), exec_get64 rfl rfl (semOf_clui p f s), exec_alu64 rfl rfl (semOf_cadd p f s),
    exec_alu64 rfl rfl (semOf_csub p f s), exec_alu64 rfl rfl (semOf_cmul p f s), exec_alu64 rfl rfl (semOf_cand p f s),
    exec_alu64 rfl rfl (semOf_cor p f s), exec_alu64 rfl rfl (semOf_cxor p f s), exec_alu64 rfl rfl (semOf_csll p f s),
    exec_alu64 rfl rfl (semOf_csrl p f s), exec_alu64 rfl rfl (semOf_csra p f s), exec_get64 rfl rfl (semOf_cmov p f s),
    exec_get64 rfl rfl (semOf_cpget p f s), fun h => exec_slotOp h rfl rfl (semOf_cpset p f s) rfl, fun hpred => ?_, rfl⟩
  exact exec_breaks_ownRule s rfl rfl (decide_eq_false (Nat.not_lt.mpr hpred))
end Sys2Proof.ControlTasks

/-!
Tasks (spec/05 R113 to R118; spec/17 R360, R362).
-/
namespace Sys2Proof.ControlTasks
open Sys2Proof Sys2Proof.Machine Sys2Proof.Safety Sys2Proof.MachineState Sys2Proof.BundleEncoding

/-! ### Barrier slots that an operation names (R122) -/

section Slots

variable {s : State} {b : Word} {k : Barrier → SlotRes}

/-- A declared slot. -/
theorem withBar_some {x : Barrier} (h : s.bar? s.curCtx.gkey s.curCtx.gang b.toNat = some x) : withBar s b k = k x := by
  simp only [withBar, h]

/-- A slot that is not declared, or that its operation does not take, makes an illegal bundle. -/
theorem withBar_illegal (h : ∀ x, s.bar? s.curCtx.gkey s.curCtx.gang b.toNat = some x → k x = .illegal) :
    withBar s b k = .illegal := by
  cases hx : s.bar? s.curCtx.gkey s.curCtx.gang b.toNat with
  | none => simp only [withBar, hx]
  | some x => rw [withBar_some hx, h x hx]

end Slots

/-! ### Forks (R113, R114) -/

section Forks

variable {i : Instr} {cls : Cls} {code : Nat} {p : Pos} {f : Fields} {s : State} {info : OpInfo} {range : Bool}
variable {bs : List Byte}

/-- The descriptor word at 8-byte place `j`. -/
def descWord (bs : List Byte) (j : Nat) : Word := BitVec.ofNat 64 (ofBytesLE ((bs.drop (8 * j)).take 8))

/-- The task descriptor that 32 bytes hold (R113). -/
def taskDesc (bs : List Byte) : TaskDesc := ⟨descWord bs 0, descWord bs 1, descWord bs 2, descWord bs 3⟩

/-- The barrier slot that a descriptor's first word names (R113). -/
def descBar (s : State) (bs : List Byte) : Option Barrier :=
  s.bar? s.curCtx.gkey s.curCtx.gang ((descWord bs 0).extractLsb' 44 9).toNat

/-- What a fork comes to once its descriptor is read (R114). -/
def forkFate (s : State) (p : Pos) (f : Fields) (lat : Nat) (range : Bool) (bs : List Byte) : SlotRes :=
  match descBar s bs with
  | some b =>
    if b.joinMode then
      .ok (match forkTask s s.curCtx range (taskDesc bs) with
        | some t => putPred t p f.dst.start.toNat lat (BitVec.allOnes 64) (BitVec.allOnes 64)
        | none => putPred s p f.dst.start.toNat lat 0 (BitVec.allOnes 64))
    else .illegal
  | none => .illegal

/-- A fork that issues reads its descriptor. -/
theorem exec_forkOp (hp : i.parts = some (cls, code, p, f)) (hi : opInfo i = some info)
    (hs : semOf i s = forkOp i p f s range) (h : issues i s = true)
    (hbs : spmRead s s.curCtx (cSpm (cSrc1 s f) 32) 32 = .ok bs) :
    exec i s = .next (settleSlot s p (forkFate s p f info.lat range bs)) := by
  refine exec_slotOp h hp hi hs ((withWords_ok (n := 4) hbs).trans ?_)
  unfold forkFate
  change (match descBar s bs with | some b => _ | none => _) = _
  cases descBar s bs with
  | none => rfl
  | some b =>
    change (if !b.joinMode then _ else match forkTask s s.curCtx range (taskDesc bs) with | some t => _ | none => _) =
      if b.joinMode then _ else _
    cases b.joinMode with
    | false => rfl
    | true => cases forkTask s s.curCtx range (taskDesc bs) <;> rfl

/-- A fork whose descriptor names a slot in join mode pushes its task and writes whether it was taken. -/
theorem forkFate_pushes {lat : Nat} {b : Barrier} (hb : descBar s bs = some b) (hj : b.joinMode = true) :
    forkFate s p f lat range bs = .ok (match forkTask s s.curCtx range (taskDesc bs) with
      | some t => putPred t p f.dst.start.toNat lat (BitVec.allOnes 64) (BitVec.allOnes 64)
      | none => putPred s p f.dst.start.toNat lat 0 (BitVec.allOnes 64)) := by
  simp only [forkFate, hb, hj, if_true]

/-- A fork whose descriptor names no slot in join mode breaks its rule. -/
theorem forkFate_illegal {lat : Nat} (hb : ∀ b, descBar s bs = some b → b.joinMode = false) :
    forkFate s p f lat range bs = .illegal := by
  unfold forkFate
  split
  case h_1 b h => rw [hb b h]; rfl
  case h_2 => rfl

end Forks

/-! ### Joins, takes and retirements (R115 to R117) -/

section

variable {p : Pos} {f : Fields} {s : State}

/-- A join on a slot in join mode outside an ordered task changes nothing, whether it waits or goes on. -/
theorem exec_join {b : Barrier} (h : issues (.join p f) s = true)
    (hb : s.bar? s.curCtx.gkey s.curCtx.gang (cSrc1 s f).toNat = some b) (hj : b.joinMode = true)
    (ho : s.curCtx.inOrdered = false) : exec (.join p f) s = .next s := by
  refine (exec_slotOp h rfl rfl (semOf_join p f s) (withBar_some hb)).trans ?_
  rw [if_neg (by simp [hj, ho])]
  split <;> rfl

/-- A join in an ordered task, or on no slot in join mode, breaks its rule. -/
theorem exec_join_illegal (h : issues (.join p f) s = true)
    (hb : s.curCtx.inOrdered = true ∨
      ∀ b, s.bar? s.curCtx.gkey s.curCtx.gang (cSrc1 s f).toNat = some b → b.joinMode = false) :
    exec (.join p f) s = .next (settleSlot s p .illegal) := by
  refine exec_slotOp h rfl rfl (semOf_join p f s) (withBar_illegal fun x hx => if_pos ?_)
  rcases hb with ho | hb
  · exact .inr ho
  · exact .inl (by simp [hb x hx])

/-- A take at a depth below 6 delivers a task, or zero with the shadow of a transfer alone. -/
theorem exec_take (h : issues (.take p f) s = true) (hd : s.curCtx.loops.length < 6) :
    exec (.take p f) s = .next (match takeTask s s.curCtx f.dst.reg with
      | some (e, t) => putCommon t p f.dst.reg 1 (takeValue e)
      | none => noTransfer (putCommon s p f.dst.reg 1 0)) := by
  refine (exec_transferOp h rfl rfl rfl (semOf_take p f s) (if_neg (Nat.not_le.mpr hd))).trans ?_
  cases takeTask s s.curCtx f.dst.reg <;> rfl

/-- A retire.t of a sequencer that runs no task goes on at its label. -/
theorem exec_retireT_nil (h : issues (.retireT p f) s = true) (ht : s.curCtx.tasks = []) :
    exec (.retireT p f) s = .next (setNext s (labelOf s f) true) := by
  refine (exec_slotOp h rfl rfl (semOf_retireT p f s) rfl).trans ?_
  simp only [ht]
  rfl

/-- A retire.t completes the innermost task, pops its loops, and goes on at its label. -/
theorem exec_retireT_cons {x : RunTask} {rest : List RunTask} (h : issues (.retireT p f) s = true)
    (ht : s.curCtx.tasks = x :: rest) :
    exec (.retireT p f) s = .next (setNext ((completeTask s s.curCtx x).modCur fun d =>
      { d with tasks := rest, loops := d.loops.drop (d.loops.length - x.depth) }) (labelOf s f) true) := by
  refine (exec_slotOp h rfl rfl (semOf_retireT p f s) rfl).trans ?_
  simp only [ht]
  rfl

end

/-- Settles O16: a fork is its descriptor's fate, the others are their meanings behind the gate. -/
theorem tasks : Obligations.Tasks := by
  intro p f s c at32 slot forks illegal
  refine ⟨?_, ?_, ?_, ?_, ?_, ?_, ?_, ?_, ?_, ?_⟩
  · rintro bs d b h hbs rfl hb hj
    refine (exec_forkOp rfl rfl (semOf_fork p f s) h hbs).trans ?_
    rw [forkFate_pushes hb hj]
    rfl
  · rintro bs d b h hbs rfl hb hj
    refine (exec_forkOp rfl rfl (semOf_forkr p f s) h hbs).trans ?_
    rw [forkFate_pushes hb hj]
    rfl
  · rintro i bs (rfl | rfl) h hbs hb
    · exact (exec_forkOp rfl rfl (semOf_fork p f s) h hbs).trans (by rw [forkFate_illegal hb]; rfl)
    · exact (exec_forkOp rfl rfl (semOf_forkr p f s) h hbs).trans (by rw [forkFate_illegal hb]; rfl)
  · exact exec_take
  · exact fun h hd => exec_transferOp h rfl rfl rfl (semOf_take p f s) (if_pos hd)
  · exact fun b h hb hj ho => exec_join h hb hj ho
  · exact exec_join_illegal
  · exact fun h => exec_slotOp h rfl rfl (semOf_retire p f s) rfl
  · exact exec_retireT_nil
  · exact fun x rest => exec_retireT_cons
end Sys2Proof.ControlTasks

/-!
Futures, barriers, phases, waits and stops (spec/05 R119 to R125, R129; spec/11 R236, R240).
-/
namespace Sys2Proof.ControlTasks
open Sys2Proof Sys2Proof.Machine Sys2Proof.Safety Sys2Proof.MachineState Sys2Proof.BundleEncoding

section

variable {p : Pos} {f : Fields} {s : State}

/-! ### Futures (R119, R120) -/

/-- The address of the future that an operation names. -/
abbrev futureAt (s : State) (f : Fields) : Nat := cSpm (cSrc1 s f) 8

/-- An fget of an empty word takes the user-level trap. -/
theorem exec_fget_empty {ks : List Nat} (h : issues (.fget p f) s = true)
    (hk : spmRange s s.curCtx (futureAt s f) 8 = some ks) (ht : tagFull s (tagKey s s.curCtx (futureAt s f)) = false) :
    exec (.fget p f) s = .next (userTrap s s.curCtx.handle (futureAt s f)) := by
  refine (exec_slotOp h rfl rfl (semOf_fget p f s) rfl).trans ?_
  simp only [hk, ht]
  rfl

/-- An fget of a full word reads it. -/
theorem exec_fget_full {ks : List Nat} {bs : List Byte} (h : issues (.fget p f) s = true)
    (hk : spmRange s s.curCtx (futureAt s f) 8 = some ks) (ht : tagFull s (tagKey s s.curCtx (futureAt s f)) = true)
    (hbs : spmRead s s.curCtx (futureAt s f) 8 = .ok bs) :
    exec (.fget p f) s = .next (putCommon s p f.dst.reg 1 (BitVec.ofNat 64 (ofBytesLE bs))) := by
  refine (exec_slotOp h rfl rfl (semOf_fget p f s) rfl).trans ?_
  simp only [hk, ht, withElem, hbs]
  rfl

/-- What an fput to bytes that exist does. -/
theorem exec_fput {ks : List Nat} (h : issues (.fput p f) s = true)
    (hk : spmRange s s.curCtx (futureAt s f) 8 = some ks) :
    exec (.fput p f) s = .next (if tagFull s (tagKey s s.curCtx (futureAt s f)) then s
      else setTag (spmWrite s s.curCtx (ks.zip (toBytesLE 8 (cSrc2 s f).toNat))) (tagKey s s.curCtx (futureAt s f)) true) := by
  refine (exec_slotOp h rfl rfl (semOf_fput p f s) rfl).trans ?_
  simp only [hk]
  split <;> rfl

/-! ### Barriers (R122) -/

/-- An arrival completes its episode where it brings the count to the target. -/
theorem arrive_episode_ne_iff (x : Barrier) (waits : Bool) : (x.arrive waits).episode ≠ x.episode ↔ x.count + 1 ≥ x.target := by
  unfold Barrier.arrive
  split
  next h => simp [h]
  next h => simp [h]

/-- A binit of a quiet slot sets it. -/
theorem exec_binit {x : Barrier} (h : issues (.binit p f) s = true)
    (hx : s.bar? s.curCtx.gkey s.curCtx.gang (cSrc1 s f).toNat = some x) (hc : x.count = 0) (hw : x.waiters = 0) :
    exec (.binit p f) s = .next (setBar s (cSrc1 s f)
      { x with joinMode := decide (min (cSrc2 s f).toNat 65535 = 0), target := min (cSrc2 s f).toNat 65535 }) :=
  exec_slotOp h rfl rfl (semOf_binit p f s) ((withBar_some hx).trans (if_neg (by simp [hc, hw])))

/-- A barrive on a slot in barrier mode is an arrival. -/
theorem exec_barrive {x : Barrier} (h : issues (.barrive p f) s = true)
    (hx : s.bar? s.curCtx.gkey s.curCtx.gang (cSrc1 s f).toNat = some x) (hj : x.joinMode = false) :
    exec (.barrive p f) s = .next (orderStores (setBar s (cSrc1 s f) (x.arrive false)) s.curCtx.handle) :=
  exec_slotOp h rfl rfl (semOf_barrive p f s) ((withBar_some hx).trans (if_neg (by simp [hj])))

/-- A bwait on a slot in barrier mode is an arrival, and a wait where the arrival does not complete the episode. -/
theorem exec_bwait {x : Barrier} (h : issues (.bwait p f) s = true)
    (hx : s.bar? s.curCtx.gkey s.curCtx.gang (cSrc1 s f).toNat = some x) (hj : x.joinMode = false) :
    exec (.bwait p f) s = .next (if x.count + 1 ≥ x.target then
        orderStores (setBar s (cSrc1 s f) (x.arrive true)) s.curCtx.handle
      else (orderStores (setBar s (cSrc1 s f) (x.arrive true)) s.curCtx.handle).modCur fun d =>
        { d with barWait := some ⟨(cSrc1 s f).toNat, x.episode⟩, barPc := d.pc }) := by
  refine (exec_slotOp h rfl rfl (semOf_bwait p f s) ((withBar_some hx).trans (if_neg (by simp [hj])))).trans ?_
  simp only [arrive_episode_ne_iff]
  split <;> rfl

/-! ### Phases and token waits (R124, R125) -/

/-- A phase whose waits have ended releases, acquires, and counts the phase. -/
theorem exec_phase (h : issues (.phase p f) s = true) (hl : leadWaits s s.curCtx = false) (ho : s.offBusy s.curCtx = false) :
    let sc := scopeOf (f.mod.extractLsb' 0 2).toNat
    let t := orderStores (phaseAcquire (phaseRelease s s.curCtx sc) s.curCtx sc) s.curCtx.handle
    exec (.phase p f) s = .next ((putPred t p f.dst.start.toNat 1 (boolMask t.curCtx.lost) (BitVec.allOnes 64)).modCur
      fun d => { d with phase := d.phase + 1, lost := false }) := by
  refine (exec_slotOp h rfl rfl (semOf_phase p f s) rfl).trans ?_
  simp only [hl, ho]
  rfl

/-- A phase that waits changes nothing. -/
theorem exec_phase_waits (h : issues (.phase p f) s = true) (hw : leadWaits s s.curCtx = true ∨ s.offBusy s.curCtx = true) :
    exec (.phase p f) s = .next s := by
  refine (exec_slotOp h rfl rfl (semOf_phase p f s) rfl).trans ?_
  by_cases hl : leadWaits s s.curCtx = true
  · simp only [hl]
    rfl
  · simp only [hl, hw.resolve_left hl]
    rfl

/-- A tkwait changes nothing, whether it waits or goes on. -/
theorem exec_tkwait (h : issues (.tkwait p f) s = true) : exec (.tkwait p f) s = .next s := by
  rw [exec_issues rfl h, semOf_tkwait, semTkwait, slotOp_issues rfl rfl h]
  split <;> rfl

end

/-- Settles O17: each operation is its case behind the gate. -/
theorem synchronisation : Obligations.Synchronisation := by
  intro p f s c a v b put arrived illegal
  refine ⟨?_, ?_, ?_, ?_, ?_, ?_, ?_, ?_, ?_, ?_, ?_, ?_, ?_⟩
  · exact fun ks h hk ht => exec_fget_empty h hk ht
  · exact fun ks bs h hk ht hbs => exec_fget_full h hk ht hbs
  · exact fun ks h hk ht => (exec_fput h hk).trans (congrArg _ (if_pos ht))
  · exact fun ks h hk ht => (exec_fput h hk).trans (congrArg _ (if_neg (Bool.eq_false_iff.mp ht)))
  · intro x h hx hc hw
    have hn : decide (min v.toNat 65535 = 0) = decide (v.toNat = 0) := decide_eq_decide.mpr (by omega)
    rw [← hn]
    exact exec_binit h hx hc hw
  · exact fun h hx => exec_slotOp h rfl rfl (semOf_binit p f s) (withBar_illegal fun x e => if_pos (hx x e))
  · rintro i (rfl | rfl) h hx
    · exact exec_slotOp h rfl rfl (semOf_barrive p f s) (withBar_illegal fun x e => if_pos (hx x e))
    · exact exec_slotOp h rfl rfl (semOf_bwait p f s) (withBar_illegal fun x e => if_pos (hx x e))
  · exact fun x h hx hj => exec_barrive h hx hj
  · exact fun x h hx hj => exec_bwait h hx hj
  · exact exec_phase
  · exact exec_phase_waits
  · exact exec_tkwait
  · exact fun h => exec_slotOp h rfl rfl (semOf_yield p f s) rfl

/-! ### Stops and the return from a user-level trap (R121, R129, R236, R240) -/

/-- Settles O18: a stop settles as a trap or a debug stop of its cause; uret is its case behind the gate. -/
theorem stopsAndReturn : Obligations.StopsAndReturn := by
  intro p f s c imm done
  refine ⟨fun h => exec_slotOp h rfl rfl (semOf_ecall p f s) rfl, fun h => exec_slotOp h rfl rfl (semOf_trap p f s) rfl,
    fun h hd => exec_slotOp h rfl rfl (semOf_dbrk p f s) (if_pos hd),
    fun h hd => exec_slotOp (r := .ok s) h rfl rfl (semOf_dbrk p f s) (if_neg (Bool.eq_false_iff.mp hd)),
    fun h hu => exec_transferOp h rfl rfl rfl (semOf_uret p f s) (if_neg ?_),
    fun h hu => exec_transferOp h rfl rfl rfl (semOf_uret p f s) (if_pos ?_)⟩
  · rw [show s.curCtx.trapInfo.getLsbD 63 = true from hu]
    exact Bool.false_ne_true
  · rw [show s.curCtx.trapInfo.getLsbD 63 = false from hu]
    rfl
end Sys2Proof.ControlTasks

/-!
The events of tasks (spec/17 R365 to R370).
-/
namespace Sys2Proof.ControlTasks
open Sys2Proof Sys2Proof.Machine Sys2Proof.Safety

/-! ### The last of some tasks (R366) -/

/-- One stalled task comes before another by (ts, seq). -/
def stallsBefore (y z : Nat × Nat × DequeEntry) : Bool :=
  taskBefore (y.2.2.ts.toNat, y.2.2.seq) (z.2.2.ts.toNat, z.2.2.seq)

/-- Of a task and the one found so far, the later. -/
theorem laterTask_some (z y : Nat × Nat × DequeEntry) : laterTask (some z) y = some (if stallsBefore z y then y else z) := rfl

/-- A task that no later task of the list comes after stays the last. -/
theorem foldl_laterTask_stays {z : Nat × Nat × DequeEntry} {l : List (Nat × Nat × DequeEntry)}
    (h : ∀ y ∈ l, y ≠ z → stallsBefore z y = false) : l.foldl laterTask (some z) = some z := by
  induction l with
  | nil => rfl
  | cons y l ih =>
    have hstep : laterTask (some z) y = some z := by
      rw [laterTask_some]
      by_cases hy : y = z
      · rw [hy, ite_self]
      · rw [h y List.mem_cons_self hy, if_neg Bool.false_ne_true]
    rw [List.foldl_cons, hstep]
    exact ih fun x hx => h x (List.mem_cons_of_mem y hx)

/-- A task that every other task of the list comes before is found, whichever was found before it. -/
theorem foldl_laterTask_finds {z : Nat × Nat × DequeEntry} {l : List (Nat × Nat × DequeEntry)} (hz : z ∈ l)
    (h : ∀ y ∈ l, y ≠ z → stallsBefore y z = true ∧ stallsBefore z y = false)
    (a : Option (Nat × Nat × DequeEntry)) (ha : ∀ y ∈ a, y ≠ z → stallsBefore y z = true) :
    l.foldl laterTask a = some z := by
  induction l generalizing a with
  | nil => cases hz
  | cons y l ih =>
    have hl : ∀ x ∈ l, x ≠ z → stallsBefore x z = true ∧ stallsBefore z x = false :=
      fun x hx => h x (List.mem_cons_of_mem y hx)
    rw [List.foldl_cons]
    by_cases hy : y = z
    · subst hy
      have hstep : laterTask a y = some y := by
        cases a with
        | none => rfl
        | some x =>
          rw [laterTask_some]
          by_cases hx : x = y
          · rw [hx, ite_self]
          · rw [ha x rfl hx, if_pos rfl]
      rw [hstep]
      exact foldl_laterTask_stays fun x hx hne => (hl x hx hne).2
    · refine ih ((List.mem_cons.mp hz).resolve_left (Ne.symm hy)) hl _ fun x hx hne => ?_
      cases a with
      | none =>
        obtain rfl := Option.some.inj hx
        exact (h y List.mem_cons_self hne).1
      | some w =>
        rw [laterTask_some] at hx
        obtain rfl := Option.some.inj hx
        by_cases hw : stallsBefore w y = true
        · rw [if_pos hw]
          exact (h y List.mem_cons_self hy).1
        · rw [if_neg hw] at hne ⊢
          exact ha w rfl hne

/-- The last of some tasks is the one that every other comes before. -/
theorem lastTask_eq {z : Nat × Nat × DequeEntry} {l : List (Nat × Nat × DequeEntry)} (hz : z ∈ l)
    (h : ∀ y ∈ l, y ≠ z → stallsBefore y z = true ∧ stallsBefore z y = false) : lastTask l = some z :=
  foldl_laterTask_finds hz h none nofun

section

variable {s : State}

/-! ### Redirection, commit and stall abort (R366, R367, R369, R370) -/

/-- The sequencer of an aborted or discarded task is redirected at a boundary. -/
theorem exec_abortRedirect {h : Nat} {c : Ctx} (hc : s.ctx? h = some c) (hr : c.redirecting = true) (hs : c.status = .ready)
    (hb : atBoundary c = true) : exec (.abortRedirect h) s = .next (redirectCtx s c) := by
  change execAbortRedirect h s = _
  simp only [execAbortRedirect, hc]
  exact if_pos ⟨hr, hb, hs⟩

/-- A boundary for a redirection: one outside a shadow, or a bundle that stalls for its task. -/
theorem atBoundary_iff (c : Ctx) : atBoundary c = true ↔
    (c.shl = 0 ∧ c.rep = 0 ∧ c.pend = false ∧ c.done = 0 ∧ c.partBundle = false) ∨ c.stallTask = true := by
  simp only [atBoundary, Bool.or_eq_true, Bool.and_eq_true, beq_iff_eq, Bool.not_eq_true']
  tauto

/-- The frontier task commits once it has finished and its far commands have completed. -/
theorem exec_taskCommit {part dom core ix : Nat} {x : SpecSlot} {e : DequeEntry}
    (hf : s.frontierSlot part dom = some (core, ix, x)) (he : x.task = some e) (hx : x.state = .finished)
    (hd : x.deferred = none) (hq : s.slotQuiet core ix = true) :
    exec (.taskCommit part dom) s = .next (commitSlot s part dom core ix x e) := by
  change execTaskCommit part dom s = _
  simp only [execTaskCommit, hf, he]
  exact if_pos ⟨hx, hd, hq⟩

/-- After 2000 ns a dead domain's last stalled task is aborted. -/
theorem exec_lehrStallAbort {part dom core ix t0 : Nat} {d : Domain} {e : DequeEntry} (hd : s.dom? part dom = some d)
    (ht : d.deadFrom = some t0) (hdead : domainDead s d = true) (hnow : t0 + 2000 ≤ s.now)
    (hlast : lastTask (stalledTasks s part dom) = some (core, ix, e)) :
    exec (.lehrStallAbort part dom) s = .next
      (settleAll ((abortSlot s core ix false false).modDom part dom fun d => { d with deadFrom := some s.now })) := by
  change execLehrStallAbort part dom s = _
  simp only [execLehrStallAbort, hd, ht, hlast]
  exact if_neg (by simp [hdead, hnow])

/-! ### The ends of sequencers and grids (R116, R253, R350) -/

/-- A sequencer of a grid that a fatal error is ending ends. -/
theorem exec_ctxKilled {h k : Nat} {c : Ctx} (hc : s.ctx? h = some c) (hk : c.killCause = some k) (he : c.endsNow = true)
    (hs : c.status ≠ .ended) (hr : c.status ≠ .retired) : exec (.ctxKilled h) s = .next (killContext s h k) := by
  change execCtxKilled h s = _
  simp only [execCtxKilled, hc, hk]
  exact if_pos ⟨he, hs, hr⟩

/-- A retired sequencer without pending tokens ends. -/
theorem exec_sequencerEnd {h : Nat} {c : Ctx} (hc : s.ctx? h = some c) (hs : c.status = .retired) (ht : c.tokPend = 0) :
    let s1 := s.setCtx { c with status := .ended }
    exec (.sequencerEnd h) s = .next (noteComplete
      (settleGang (if s.gridKilled c.gkey then s1 else freeBanks s1 h) c.gkey c.gang) c.gkey) := by
  change execSequencerEnd h s = _
  simp only [execSequencerEnd, hc]
  exact if_pos ⟨hs, ht⟩

/-- A grid that has ended: what it held is freed. -/
def endedGrid (s : State) (g : Grid) : State := (freeGrid s g).setGrid { g with status := .ended, complete := true }

/-- What the end of a grid comes to (R253, R381, R396). -/
def gridEnded (s : State) (g : Grid) : State :=
  if g.isJob then
    if g.cause.isSome && !g.missed then
      missJob ((endedGrid s g).setGrid { g with status := .ended, complete := true, missed := true }) g
    else endedGrid s g
  else match g.cause with
    | some w => writeStatus (endedGrid s g) g 3 w
    | none => writeStatus (endedGrid s g) g 1 0

/-- A grid ends once its sequencers have ended and no command of it is left, after the events of its instant before it. -/
theorem exec_gridEnd {n : Nat} {g : Grid} (hg : s.grid? n = some g) (hs : g.status = .ready)
    (hc : ∀ c ∈ s.ctxs, c.gkey = n → c.status = .ended) (hover : g.cause.isSome = true ∨ g.desc.gangs ≤ g.nextGang)
    (hx : ∀ x ∈ s.cmds, x.gkey ≠ n) (hfirst : g.openJob = true → g.cause = none → otherFirst s g s.nowPs = false) :
    exec (.gridEnd n) s = .next (gridEnded (noteComplete s n) g) := by
  have hctxs : (s.ctxs.all fun c => c.gkey != n || c.status == .ended) = true := by
    simp only [List.all_eq_true, Bool.or_eq_true, bne_iff_ne, beq_iff_eq]
    exact fun c hm => or_iff_not_imp_left.mpr fun hk => hc c hm (not_not.mp hk)
  have hcmds : (s.cmds.any fun x => x.gkey == n) = false := by
    simpa only [List.any_eq_false, beq_iff_eq] using hx
  have hdone : (g.cause.isSome || decide (g.nextGang ≥ g.desc.gangs)) = true := by simpa using hover
  have hearly : (g.openJob && g.cause.isNone && otherFirst s g s.nowPs) = false := by
    cases ho : g.openJob with
    | false => rfl
    | true =>
      cases hcause : g.cause with
      | some w => rfl
      | none => simpa using hfirst ho hcause
  change execGridEnd n s = _
  simp only [execGridEnd, hg, hctxs, hcmds, hdone, hearly, hs]
  refine (if_neg (by simp)).trans ?_
  unfold gridEnded
  cases g.isJob with
  | true => rfl
  | false => rfl

/-- The end of a job whose miss is counted, or that no fatal error ended. -/
theorem gridEnded_job {g : Grid} (hj : g.isJob = true) (hm : g.cause = none ∨ g.missed = true) :
    gridEnded s g = endedGrid s g := by
  rw [gridEnded, if_pos hj, if_neg]
  rcases hm with hm | hm
  · simp [hm]
  · simp [hm]

/-- The end of a job by a fatal error is its miss. -/
theorem gridEnded_missed {g : Grid} {w : Nat} (hj : g.isJob = true) (hm : g.missed = false) (hw : g.cause = some w) :
    gridEnded s g =
      missJob ((endedGrid s g).setGrid { g with status := .ended, complete := true, missed := true }) g := by
  rw [gridEnded, if_pos hj, if_pos]
  simp [hm, hw]

/-- The end of a launch writes its status. -/
theorem gridEnded_launch {g : Grid} (hj : g.isJob = false) :
    gridEnded s g = match g.cause with
      | some w => writeStatus (endedGrid s g) g 3 w
      | none => writeStatus (endedGrid s g) g 1 0 := by
  rw [gridEnded, hj]
  rfl

/-! ### Missed jobs and hold chunks (R397, R398) -/

/-- The miss of an open job at its deadline. -/
theorem missDue_of {g : Grid} (ho : g.openJob = true) (hs : g.status = .ready) (hm : g.missed = false) (hc : g.cause = none)
    (hd : g.deadline ≤ s.now)
    (hl : g.kind = .action → g.nextGang = 0 → (s.session g.part g.session).level ≠ 3) : missDue s g = true := by
  have hl3 : (g.kind == .action && g.nextGang == 0 && (s.session g.part g.session).level == 3) = false := by
    simpa [and_imp] using hl
  simp only [missDue, hl3, ho, hs, hm, hc]
  simpa using hd

/-- The state in which a job's miss has been counted. -/
def missedJob (s : State) (g : Grid) : State := missJob (s.setGrid { g with missed := true }) g

/-- A context of a grid that an end command reaches. -/
def firstLive (s : State) (n : Nat) : Option Ctx := s.ctxs.find? fun c => c.gkey == n && c.status != .ended && !c.dead

/-- A job whose deadline has come is counted as a miss and ended. -/
theorem exec_deadlineMiss {n : Nat} {g : Grid} (hg : s.grid? n = some g) (hm : missDue s g = true)
    (hf : otherFirst s g g.missAt = false) :
    exec (.deadlineMiss n) s = .next (noteDone (match firstLive (missedJob s g) n with
      | some c => endCmd (missedJob s g) c
      | none => match (missedJob s g).grid? n with
        | some g' => (missedJob s g).setGrid { g' with cause := some causeCtxKilled }
        | none => missedJob s g) g.part) := by
  change execDeadlineMiss n s = _
  simp only [execDeadlineMiss, hg, hm, hf]
  rfl

/-- A session's hold chunk that is due. -/
def dueHold (s : State) (part session : Nat) : Option HoldDue :=
  s.holds.find? fun h => h.part == part && h.session == session && decide (h.instant ≤ s.now)

/-- A hold chunk that is due enters the chunks to emit. -/
theorem exec_holdChunkEmit_due {part session : Nat} {due : HoldDue} (hh : dueHold s part session = some due) :
    exec (.holdChunkEmit part session) s = .next { s with
      holds := s.holds.filter (· ≠ due), chunks := s.chunks ++ [holdChunk s due] } := by
  unfold dueHold at hh
  change execHoldChunkEmit part session s = _
  simp only [execHoldChunkEmit, hh]

/-- A job that its session at L3 holds counts as done at its emission instant. -/
theorem exec_holdChunkEmit_held {part session : Nat} {g : Grid} (hh : dueHold s part session = none)
    (hg : heldJob s part session = some g) :
    exec (.holdChunkEmit part session) s = .next (evalLevel (holdDone s g g.late) part session) := by
  unfold dueHold at hh
  change execHoldChunkEmit part session s = _
  simp only [execHoldChunkEmit, hh, hg]

end

/-- Settles O38: each event's guard holds under its clause, and the event does what the clause says. -/
theorem taskEvents : Obligations.TaskEvents := by
  refine ⟨fun s h part dom core ix t0 c r rest x e d => ⟨?_, ?_, ?_⟩, fun s h k n c g => ⟨?_, ?_, ?_⟩,
    fun s n part session g c due => ?_⟩
  · intro hc hr ht hs hb
    refine (exec_abortRedirect hc hr hs ((atBoundary_iff c).mpr hb)).trans ?_
    simp only [redirectCtx, ht]
  · exact fun hf he hx hd hq => exec_taskCommit hf he hx hd hq
  · exact fun hd ht hdead hnow hmem hlast => exec_lehrStallAbort hd ht hdead hnow (lastTask_eq hmem hlast)
  · intro hc hk hb hs hr
    have he : c.endsNow = true := by
      simp only [Ctx.endsNow, Bool.or_eq_true, bne_iff_ne]
      tauto
    exact exec_ctxKilled hc hk he hs hr
  · exact exec_sequencerEnd
  · intro hg hs hc hover hx hfirst u s1
    have hend := exec_gridEnd hg hs hc hover hx hfirst
    refine ⟨fun hj hw => ?_, fun w hj hw => ?_, fun hj hw => ?_, fun hj hm => ?_, fun w hj hm hw => ?_⟩
    · rw [hend, gridEnded_launch hj, hw]
      rfl
    · rw [hend, gridEnded_launch hj, hw]
      rfl
    · rw [hend, gridEnded_job hj (.inl hw)]
      rfl
    · rw [hend, gridEnded_job hj (.inr hm)]
      rfl
    · rw [hend, gridEnded_missed hj hm hw]
      rfl
  · intro s1 open'
    have hmiss : open' → exec (.deadlineMiss n) s = _ := fun ⟨hg, ho, hs, hm, hc, hd, hf, hl⟩ =>
      exec_deadlineMiss hg (missDue_of ho hs hm hc hd hl) hf
    refine ⟨fun ho hlive => ?_, fun ho hlive => ?_, exec_holdChunkEmit_due, fun g' => exec_holdChunkEmit_held⟩
    · rw [hmiss ho, show firstLive (missedJob s g) n = some c from hlive]
      rfl
    · rw [hmiss ho, show firstLive (missedJob s g) n = none from hlive]
      rfl
end Sys2Proof.ControlTasks

/-!
The words that the integer operations of slots A0 and A1 compute (spec/06 R132, R135, R136): readings of a `W`-bit word,
and results taken modulo 2^W.
-/
namespace Sys2Proof.ScalarScale
open Sys2Proof Sys2Proof.Machine Sys2Proof.Safety

/-! ### Readings of a word -/

/-- The signed reading of a word is that of the library's bit vectors. -/
theorem signed_eq_toInt (W a : Nat) : signed W a = (BitVec.ofNat W a).toInt := by
  rw [BitVec.toInt_eq_msb_cond, BitVec.msb_eq_getLsbD_last, BitVec.getLsbD, BitVec.toNat_ofNat, signed]
  cases W with
  | zero => simp [Nat.mod_one]
  | succ n => simp

/-- The signed reading is congruent to the word. -/
theorem signed_modEq (W a : Nat) : signed W a ≡ a [ZMOD 2 ^ W] := by
  rw [signed_eq_toInt, BitVec.toInt_ofNat']
  exact_mod_cast Int.bmod_emod (x := a) (m := 2 ^ W)

/-- The least signed reading is -2^(W - 1). -/
theorem neg_two_pow_le_signed (W a : Nat) : -2 ^ (W - 1) ≤ signed W a := by
  rw [signed_eq_toInt]
  exact BitVec.le_toInt _

/-- A signed reading is below 2^(W - 1). -/
theorem signed_lt_two_pow (W a : Nat) : signed W a < 2 ^ (W - 1) := by
  rw [signed_eq_toInt]
  exact BitVec.toInt_lt

/-- The unsigned reading of a word is the word. -/
theorem readI_true {W a : Nat} (ha : a < 2 ^ W) : readI true W a = a := by
  rw [readI, if_pos rfl, Nat.mod_eq_of_lt ha]

/-- The signed reading of a word. -/
theorem readI_false (W a : Nat) : readI false W a = signed W a := rfl

/-- Either reading is congruent to the word. -/
theorem readI_modEq (u : Bool) (W a : Nat) : readI u W a ≡ a [ZMOD 2 ^ W] := by
  cases u with
  | true =>
    rw [readI, if_pos rfl]
    exact_mod_cast Int.mod_modEq (a : Int) (2 ^ W)
  | false => exact signed_modEq W a

/-- The order of two words, read as unsigned or as signed. -/
theorem decide_readI_lt {W a b : Nat} (ha : a < 2 ^ W) (hb : b < 2 ^ W) (u : Bool) :
    decide (readI u W a < readI u W b) = if u then decide (a < b) else decide (signed W a < signed W b) := by
  cases u with
  | true => simp [readI_true ha, readI_true hb]
  | false => rfl

/-! ### Results modulo 2^W -/

/-- A number taken modulo 2^W. -/
theorem wrapI_natCast (W n : Nat) : wrapI W n = n % 2 ^ W := by
  rw [wrapI]
  exact_mod_cast Int.toNat_natCast (n % 2 ^ W)

/-- A result that a word holds. -/
theorem wrapI_of_lt {W n : Nat} (h : n < 2 ^ W) : wrapI W n = n := (wrapI_natCast W n).trans (Nat.mod_eq_of_lt h)

/-- Results that agree modulo 2^W wrap to one word. -/
theorem wrapI_congr {W : Nat} {x y : Int} (h : x ≡ y [ZMOD 2 ^ W]) : wrapI W x = wrapI W y := congrArg Int.toNat h

/-- -1 wraps to all ones. -/
theorem wrapI_neg_one (W : Nat) : wrapI W (-1) = 2 ^ W - 1 := by
  have h : (-1 : Int) ≡ ((2 ^ W - 1 : Nat) : Int) [ZMOD 2 ^ W] := by
    rw [Nat.cast_sub Nat.one_le_two_pow]
    exact Int.modEq_iff_dvd.mpr ⟨1, by push_cast; ring⟩
  exact (wrapI_congr h).trans (wrapI_of_lt (Nat.sub_lt (by positivity) one_pos))

/-- A result clamped to the unsigned words. -/
theorem wrapI_clampInt_unsigned (W : Nat) (x : Int) : wrapI W (clampInt x (intRange W true)) = min x.toNat (2 ^ W - 1) := by
  have hpos : 1 ≤ 2 ^ W := Nat.one_le_two_pow
  have htop : (0 : Int) ≤ 2 ^ W - 1 := Int.sub_nonneg_of_le (one_le_pow₀ one_le_two)
  have hclamp : clampInt x (intRange W true) = (min x.toNat (2 ^ W - 1) : Nat) := by
    rw [Nat.cast_min, Int.toNat_eq_max, Nat.cast_sub hpos]
    change max 0 (min (2 ^ W - 1) x) = _
    rw [max_min_distrib_left, max_eq_right htop, min_comm, max_comm]
    push_cast
    rfl
  rw [hclamp, wrapI_of_lt (by omega)]

/-! ### Sums and differences (R135) -/

/-- add: a sum that wraps, clamps as unsigned or clamps as signed. -/
theorem addSat_add {W a b : Nat} (ha : a < 2 ^ W) (hb : b < 2 ^ W) (sat : Nat) :
    addSat sat W false a b =
      if sat = 0 then (a + b) % 2 ^ W
      else if sat = 2 then min (a + b) (2 ^ W - 1)
      else (max (-2 ^ (W - 1)) (min (2 ^ (W - 1) - 1) (signed W a + signed W b)) % 2 ^ W : Int).toNat := by
  split_ifs with h0 h2
  · subst h0
    exact (wrapI_congr (.add (readI_modEq _ W a) (readI_modEq _ W b))).trans (wrapI_natCast W (a + b))
  · subst h2
    refine (wrapI_clampInt_unsigned W (readI true W a + readI true W b)).trans ?_
    rw [readI_true ha, readI_true hb]
    rfl
  · simp [addSat, h0, h2, readI_false, clampInt, intRange, wrapI]

/-- sub: a difference that wraps, clamps as unsigned or clamps as signed. -/
theorem addSat_sub {W a b : Nat} (ha : a < 2 ^ W) (hb : b < 2 ^ W) (sat : Nat) :
    addSat sat W true a b =
      if sat = 0 then (a + (2 ^ W - b)) % 2 ^ W
      else if sat = 2 then a - b
      else (max (-2 ^ (W - 1)) (min (2 ^ (W - 1) - 1) (signed W a - signed W b)) % 2 ^ W : Int).toNat := by
  split_ifs with h0 h2
  · subst h0
    have h : (a : Int) - b ≡ (a + (2 ^ W - b) : Nat) [ZMOD 2 ^ W] := by
      rw [Nat.cast_add, Nat.cast_sub hb.le]
      exact Int.modEq_iff_dvd.mpr ⟨1, by push_cast; ring⟩
    exact (wrapI_congr (.trans (.sub (readI_modEq _ W a) (readI_modEq _ W b)) h)).trans (wrapI_natCast W _)
  · subst h2
    refine (wrapI_clampInt_unsigned W (readI true W a - readI true W b)).trans ?_
    rw [readI_true ha, readI_true hb, Int.toNat_sub]
    omega
  · simp [addSat, h0, h2, readI_false, clampInt, intRange, wrapI]

/-! ### Products, shifts and orders (R135) -/

/-- mulh: the high half of the product of the words, or of their signed readings. -/
theorem mulHigh_eq {W a b : Nat} (ha : a < 2 ^ W) (hb : b < 2 ^ W) (u : Bool) :
    mulHigh u W a b = if u then a * b / 2 ^ W else (signed W a * signed W b / 2 ^ W % 2 ^ W).toNat := by
  cases u with
  | true =>
    have hlt : a * b / 2 ^ W < 2 ^ W := Nat.div_lt_of_lt_mul (Nat.mul_lt_mul'' ha hb)
    rw [mulHigh, readI_true ha, readI_true hb, if_pos rfl]
    exact_mod_cast wrapI_of_lt hlt
  | false => rfl

/-- A signed word shifted right by its whole width is its sign. -/
theorem signed_ediv_two_pow (W a : Nat) : signed W a / 2 ^ W = if signed W a < 0 then -1 else 0 := by
  have hpos : (0 : Int) < 2 ^ W := by positivity
  have hle : (2 : Int) ^ (W - 1) ≤ 2 ^ W := pow_le_pow_right₀ one_le_two (Nat.sub_le W 1)
  have hlo := neg_two_pow_le_signed W a
  have hhi := signed_lt_two_pow W a
  split_ifs with hneg
  · exact (Int.ediv_eq_iff_of_pos hpos).mpr ⟨by omega, by omega⟩
  · exact Int.ediv_eq_zero_of_lt (Int.not_lt.mp hneg) (hhi.trans_le hle)

/-- sra: an arithmetic shift, all sign bits from a count of `W` on. -/
theorem sraI_eq (W a n : Nat) :
    sraI W a n = if n ≥ W then (if signed W a < 0 then 2 ^ W - 1 else 0) else (signed W a / 2 ^ n % 2 ^ W).toNat := by
  split_ifs with hn hneg
  · rw [sraI, min_eq_right hn, signed_ediv_two_pow, if_pos hneg, wrapI_neg_one]
  · rw [sraI, min_eq_right hn, signed_ediv_two_pow, if_neg hneg]
    exact wrapI_of_lt (by positivity)
  · rw [sraI, min_eq_left (Nat.le_of_not_le hn), wrapI]

/-- min and max: one of the words, by their order. -/
theorem minmaxI_eq {W a b : Nat} (ha : a < 2 ^ W) (hb : b < 2 ^ W) (wantMax u : Bool) :
    minmaxI wantMax u W a b =
      let less := if u then decide (a < b) else decide (signed W a < signed W b)
      if wantMax then (if less then b else a) else (if less then a else b) := by
  simp only [minmaxI, decide_readI_lt ha hb]

/-- abs: no absolute value of a word of some bits passes its unsigned range. -/
theorem absI_eq {W : Nat} (hW : 0 < W) (a : Nat) : absI W a = (signed W a).natAbs := by
  have hlo := neg_two_pow_le_signed W a
  have hhi := signed_lt_two_pow W a
  have hpow : (2 : Int) ^ (W - 1) < 2 ^ W := pow_lt_pow_right₀ one_lt_two (Nat.sub_lt hW one_pos)
  refine wrapI_of_lt ?_
  zify
  exact (abs_le.mpr ⟨hlo, hhi.le⟩).trans_lt hpow

/-! ### Quotients and remainders (R136) -/

/-- div: all ones for a zero divisor, else the truncating quotient. -/
theorem divI_eq {W a b : Nat} (ha : a < 2 ^ W) (hb : b < 2 ^ W) (u : Bool) :
    divI u W a b = if b = 0 then 2 ^ W - 1 else if u then a / b else ((signed W a).tdiv (signed W b) % 2 ^ W).toNat := by
  rw [divI, Nat.mod_eq_of_lt hb]
  cases u with
  | true =>
    rw [readI_true ha, readI_true hb, ← Int.ofNat_tdiv, wrapI_of_lt ((Nat.div_le_self a b).trans_lt ha)]
    rfl
  | false => rfl

/-- rem: the dividend for a zero divisor, else the remainder of the truncating quotient. -/
theorem remI_eq {W a b : Nat} (ha : a < 2 ^ W) (hb : b < 2 ^ W) (u : Bool) :
    remI u W a b = if b = 0 then a else if u then a % b else ((signed W a).tmod (signed W b) % 2 ^ W).toNat := by
  rw [remI, Nat.mod_eq_of_lt hb, Nat.mod_eq_of_lt ha]
  cases u with
  | true =>
    rw [readI_true ha, readI_true hb, ← Int.ofNat_tmod, wrapI_of_lt ((Nat.mod_le a b).trans_lt ha)]
    rfl
  | false => rfl
end Sys2Proof.ScalarScale

/-!
The scalar operations of slots A0 and A1 (spec/06 R135 to R139, R141, R143 to R146, R148).
-/
namespace Sys2Proof.ScalarScale
open Sys2Proof Sys2Proof.Machine Sys2Proof.Safety Sys2Proof.ControlTasks

/-! ### The shapes of the operations -/

section Shapes

variable {i : Instr} {cls : Cls} {code : Nat} {p : Pos} {f : Fields} {s : State} {info : OpInfo} {v : Nat}

/-- An operation on both extended sources puts its result in flight. -/
theorem exec_alu2 {x : Bool} {g : Nat → Nat → Nat → Nat} (hp : i.parts = some (cls, code, p, f))
    (hi : opInfo i = some info) (hs : semOf i s = alu2 i p f s x g)
    (hv : g f.dst.bits (srcExt s p f.k1 f.src1 x f.dst.bits) (srcExt s p f.k2 f.src2 x f.dst.bits) = v)
    (h : issues i s = true) : exec i s = .next (putScal s p f.dst info.lat v) :=
  hv ▸ exec_slotOp h hp hi hs rfl

/-- An operation on source 1 as it stands puts its result in flight. -/
theorem exec_alu1 {g : Nat → Nat → Nat → Nat} (hp : i.parts = some (cls, code, p, f)) (hi : opInfo i = some info)
    (hs : semOf i s = alu1 i p f s g)
    (hv : g f.dst.bits (srcWidth f.k1 f.src1 f.dst.bits) (srcScal s p f.k1 f.src1 f.dst.bits) = v)
    (h : issues i s = true) : exec i s = .next (putScal s p f.dst info.lat v) :=
  hv ▸ exec_slotOp h hp hi hs rfl

/-- A float operation on both decoded sources puts its result in flight. -/
theorem exec_fpu2 {g : Fmt → RMode → FVal → FVal → Nat} (hp : i.parts = some (cls, code, p, f))
    (hi : opInfo i = some info) (hs : semOf i s = fpu2 i p f s g) (h : issues i s = true) :
    exec i s = .next (putScal s p f.dst info.lat (g (fmtOf f) (rmOf f) (srcVal s p f.k1 f.src1 (fmtOf f))
      (srcVal s p f.k2 f.src2 (fmtOf f)))) :=
  exec_slotOp h hp hi hs rfl

end Shapes

/-- An operand holds some bits (R68). -/
theorem bits_pos (o : Operand) : 0 < o.bits := Nat.mul_pos four_pos (Nat.succ_pos _)

/-- Settles O1: each operation is its shape, and its function of two words is the row of R135. -/
theorem scalarIntegerOperations : Obligations.ScalarIntegerOperations := by
  constructor
  · intro p f s W x a b sat top
    have ha : a < 2 ^ W := srcExt_lt s p f.k1 f.src1 x W
    have hb : b < 2 ^ W := srcExt_lt s p f.k2 f.src2 x W
    exact ⟨exec_alu2 rfl rfl (semOf_add p f s) (addSat_add ha hb sat),
      exec_alu2 rfl rfl (semOf_sub p f s) (addSat_sub ha hb sat),
      exec_alu2 rfl rfl (semOf_lea p f s) rfl, exec_alu2 rfl rfl (semOf_mul p f s) rfl,
      exec_alu2 rfl rfl (semOf_mulh p f s) (mulHigh_eq ha hb _)⟩
  · intro p f s W x u a b less
    have ha : a < 2 ^ W := srcExt_lt s p f.k1 f.src1 x W
    have hb : b < 2 ^ W := srcExt_lt s p f.k2 f.src2 x W
    exact ⟨exec_alu2 rfl rfl (semOf_and p f s) rfl, exec_alu2 rfl rfl (semOf_or p f s) rfl,
      exec_alu2 rfl rfl (semOf_xor p f s) rfl, exec_alu2 rfl rfl (semOf_sll p f s) rfl,
      exec_alu2 rfl rfl (semOf_srl p f s) rfl, exec_alu2 rfl rfl (semOf_sra p f s) (sraI_eq W a b),
      exec_alu2 rfl rfl (semOf_min p f s) (minmaxI_eq ha hb false u),
      exec_alu2 rfl rfl (semOf_max p f s) (minmaxI_eq ha hb true u),
      exec_alu1 rfl rfl (semOf_abs p f s) (absI_eq (bits_pos f.dst) a)⟩

/-- Settles O2: the truncating quotient and remainder, with their values for a zero divisor. -/
theorem scalarDivision : Obligations.ScalarDivision := by
  intro p f s W x a b
  have ha : a < 2 ^ W := srcExt_lt s p f.k1 f.src1 x W
  have hb : b < 2 ^ W := srcExt_lt s p f.k2 f.src2 x W
  exact ⟨exec_alu2 rfl rfl (semOf_div p f s) (divI_eq ha hb _), exec_alu2 rfl rfl (semOf_rem p f s) (remI_eq ha hb _)⟩

/-! ### Fields and moves (R137 to R139, R141, R143, R144) -/

/-- xtr: the word, read by its x bit, shifted down to the position. -/
theorem xtrI_eq (x : Bool) (w W a pos : Nat) : xtrI x w W a pos =
    ((if x then signed w a else ((a % 2 ^ w : Nat) : Int)) / 2 ^ min pos 64 % 2 ^ W).toNat := by
  cases x <;> rfl

/-- xfer: the other bench's scalar value, or its vector lanes under the guard. -/
theorem exec_xfer {p : Pos} {f : Fields} {s : State} (h : issues (.xfer p f) s = true) :
    exec (.xfer p f) s = .next
      (if f.mod.getLsbD 0 then
         putVec s p f.dst 2 (guardMask s.curCtx f) fun i => s.curCtx.readLane (!p.bench) i f.src1.start.toNat f.src1.slices
       else putScal s p f.dst 2 (s.curCtx.readScal (!p.bench) f.src1.start.toNat f.src1.slices)) := by
  refine (exec_slotOp h rfl rfl (semOf_xfer p f s) rfl).trans ?_
  simp only
  split_ifs <;> rfl

/-- Settles O3: each operation is its shape, with the function of its rule. -/
theorem scalarFieldsAndMoves : Obligations.ScalarFieldsAndMoves := by
  refine ⟨fun p f s => ?_, fun p f s => exec_xfer⟩
  exact ⟨exec_alu1 rfl rfl (semOf_clz p f s) rfl, exec_alu1 rfl rfl (semOf_popc p f s) rfl,
    exec_alu1 rfl rfl (semOf_ext p f s) rfl, exec_alu1 rfl rfl (semOf_xtr p f s) (xtrI_eq _ _ _ _ _),
    exec_alu1 rfl rfl (semOf_ins p f s) rfl, fun h => exec_slotOp h rfl rfl (semOf_li p f s) rfl,
    exec_alu2 rfl rfl (semOf_sel p f s) rfl, fun h => exec_slotOp h rfl rfl (semOf_pget p f s) rfl⟩

/-! ### Floats (R145, R146, R148) -/

/-- What an integer that icvt converts is read as: an immediate, or a source of its own width, unsigned or signed. -/
def icvtInt (p : Pos) (f : Fields) (s : State) : Int :=
  match f.k1 with
  | .imm => f.src1.imm
  | _ => readI (f.mod.getLsbD 3) f.src1.bits (srcScal s p f.k1 f.src1 64)

/-- icvt: to an integer with saturation, or from one. -/
theorem exec_icvt {p : Pos} {f : Fields} {s : State} (h : issues (.icvt p f) s = true) :
    exec (.icvt p f) s = .next (putScal s p f.dst 3 (if f.mod.getLsbD 2
      then wrapI f.dst.bits (toIntSat f.dst.bits (f.mod.getLsbD 3) (rmOf f) (srcVal s p f.k1 f.src1 (fmtOf f)))
      else (fmtOf f).encode (rmOf f) (.ofInt (icvtInt p f s)))) := by
  refine (exec_slotOp h rfl rfl (semOf_icvt p f s) rfl).trans ?_
  unfold icvtInt
  cases f.k1 <;> rfl

/-- Settles O4: each operation rounds its exact result once; icvt is its case for the direction and the kind of its source. -/
theorem scalarFloat : Obligations.ScalarFloat := by
  intro p f s fm rm a b d sf
  refine ⟨exec_fpu2 rfl rfl (semOf_fadd p f s), exec_fpu2 rfl rfl (semOf_fsub p f s), exec_fpu2 rfl rfl (semOf_fmul p f s),
    exec_fpu2 rfl rfl (semOf_fma p f s), exec_fpu2 rfl rfl (semOf_fdiv p f s), exec_fpu2 rfl rfl (semOf_fmin p f s),
    exec_fpu2 rfl rfl (semOf_fmax p f s), fun h => exec_slotOp h rfl rfl (semOf_fcvt p f s) rfl, fun h hd => ?_,
    fun h hd hk => ?_, fun h hd hk => ?_⟩
  · rw [exec_icvt h, if_pos hd]
    rfl
  · have hint : icvtInt p f s = readI (f.mod.getLsbD 3) f.src1.bits (srcScal s p f.k1 f.src1 64) := by
      unfold icvtInt
      split
      next hi => exact absurd hi hk
      next => rfl
    rw [exec_icvt h, if_neg (Bool.eq_false_iff.mp hd), hint]
    rfl
  · rw [exec_icvt h, if_neg (Bool.eq_false_iff.mp hd), show icvtInt p f s = f.src1.imm by simp only [icvtInt, hk]]
    rfl
end Sys2Proof.ScalarScale

/-!
Spills and fills, tags, and the scale file (spec/06 R150, R153, R155; spec/07 R165, R166).
-/
namespace Sys2Proof.ScalarScale
open Sys2Proof Sys2Proof.Machine Sys2Proof.Safety

/-- The lanes that an operation's guard enables, lowest first (R74). -/
abbrev onLanes (s : State) (f : Fields) : List Nat := (List.range 64).filter fun i => (guardMask s.curCtx f).getLsbD i

/-! ### The reads of enabled lanes -/

section Lanes

variable {mask : Mask} {read : Nat → MemRes} {addr : Nat → Nat}

/-- What each lane's read comes to; a lane that is not enabled reads nothing. -/
abbrev laneReads (mask : Mask) (read : Nat → MemRes) : List MemRes :=
  (List.range 64).map fun i => if mask.getLsbD i then read i else .ok []

/-- The read of one lane. -/
theorem laneReads_get {i : Nat} (hi : i < 64) :
    ((laneReads mask read)[i]?).getD .range = if mask.getLsbD i then read i else .ok [] := by
  simp [laneReads, hi]

/-- No fate where every enabled lane reads its bytes. -/
theorem lanesFate_laneReads_none {bs : Nat → List Byte}
    (h : ∀ i, i < 64 → mask.getLsbD i = true → read i = .ok (bs i)) : lanesFate (laneReads mask read) addr = none := by
  refine lanesFate_none _ _ fun i hi => ?_
  rw [laneReads_get hi]
  split_ifs with hm
  · rw [h i hi hm]; rfl
  · rfl

/-- The bytes of a lane, as a number. -/
theorem laneReads_num {bs : Nat → List Byte} (h : ∀ i, i < 64 → mask.getLsbD i = true → read i = .ok (bs i)) {i : Nat}
    (hi : i < 64) : ((laneReads mask read)[i]?.getD .range).num = if mask.getLsbD i then ofBytesLE (bs i) else 0 := by
  rw [laneReads_get hi]
  split_ifs with hm
  · rw [h i hi hm]; rfl
  · rfl

end Lanes

/-! ### Spills and fills (R166) -/

section

variable {p : Pos} {f : Fields} {s : State}

/-- A spill to nibbles that exist writes them. -/
theorem exec_spill {ks : List Nat} (h : issues (.spill p f) s = true)
    (hk : nibKeys s (nibAddr s p f) f.dst.slices = some ks) :
    exec (.spill p f) s = .next (spmWrite s s.curCtx
      (nibCells s.mem ks (nibAddr s p f) f.dst.slices (s.curCtx.readScal p.bench f.dst.start.toNat f.dst.slices))
      (nibBits ks (nibAddr s p f) f.dst.slices)) := by
  refine (exec_slotOp h rfl rfl (semOf_spill p f s) rfl).trans ?_
  simp only [hk]
  rfl

/-- A fill of readable nibbles puts them in flight. -/
theorem exec_fill {bs : List Byte} (h : issues (.fill p f) s = true)
    (hbs : readNibs s (nibAddr s p f) f.dst.slices = .ok bs) :
    exec (.fill p f) s = .next (putScal s p f.dst 4 (ofBytesLE bs)) := by
  refine (exec_slotOp h rfl rfl (semOf_fill p f s) rfl).trans ?_
  simp only [hbs]
  rfl

/-- One lane of a vspill: the cells that it changes over the memory so far, and that memory. -/
def vspillLane (s : State) (p : Pos) (f : Fields) (k : Nat → List Nat) (mc : List Host.Cell × List Host.Cell) (i : Nat) :
    List Host.Cell × List Host.Cell :=
  let new := nibCells mc.1 (k i) (nibAddr s p f + i * f.dst.slices) f.dst.slices (dataLane s p f i)
  (new.foldl (fun m x => memSet m x.1 x.2) mc.1, mc.2 ++ new)

/-- A vspill to nibbles that exist writes those of the enabled lanes, lane after lane. -/
theorem exec_vspill {k : Nat → List Nat} (h : issues (.vspill p f) s = true)
    (hk : ∀ i ∈ onLanes s f, nibKeys s (nibAddr s p f + i * f.dst.slices) f.dst.slices = some (k i)) :
    exec (.vspill p f) s = .next (spmWrite s s.curCtx ((onLanes s f).foldl (vspillLane s p f k) (s.mem, [])).2
      ((onLanes s f).flatMap fun i => nibBits (k i) (nibAddr s p f + i * f.dst.slices) f.dst.slices)) := by
  have hfind : (onLanes s f).find? (fun i => (nibKeys s (nibAddr s p f + i * f.dst.slices) f.dst.slices).isNone) = none :=
    List.find?_eq_none.mpr fun i hi => by simp [hk i hi]
  refine (exec_slotOp h rfl rfl (semOf_vspill p f s) rfl).trans ?_
  simp only [hfind]
  have hkeys : ∀ i ∈ onLanes s f, (nibKeys s (nibAddr s p f + i * f.dst.slices) f.dst.slices).getD [] = k i :=
    fun i hi => by rw [hk i hi]; rfl
  refine congrArg₂ (fun x y => Host.Outcome.next (spmWrite s s.curCtx (Prod.snd x) y))
    (List.foldl_ext _ _ _ fun mc i hi => ?_) (List.flatMap_congr fun i hi => ?_)
  · simp only [hkeys i hi, vspillLane]
  · rw [hkeys i hi]

/-- A vfill of readable nibbles puts them in flight in the enabled lanes. -/
theorem exec_vfill {bs : Nat → List Byte} (h : issues (.vfill p f) s = true)
    (hbs : ∀ i, i < 64 → (guardMask s.curCtx f).getLsbD i = true →
      readNibs s (nibAddr s p f + i * f.dst.slices) f.dst.slices = .ok (bs i)) :
    exec (.vfill p f) s = .next (putVec s p f.dst 4 (guardMask s.curCtx f) fun i =>
      if (guardMask s.curCtx f).getLsbD i then ofBytesLE (bs i) else 0) := by
  refine (exec_slotOp h rfl rfl (semOf_vfill p f s) rfl).trans ?_
  simp only [show lanesFate _ (fun i => (nibAddr s p f + i * f.dst.slices) / 2) = none from lanesFate_laneReads_none hbs]
  exact congrArg Host.Outcome.next (putVec_congr fun i hi => laneReads_num hbs hi)

/-! ### Tags (R165) -/

/-- A word that is emptied is empty. -/
theorem tagFull_emptied (s : State) (k : Nat) : tagFull (setTag s k false) k = false := by simp [tagFull_setTag_false]

/-- The tags of other words stay. -/
theorem tagFull_emptied_ne (s : State) {j k : Nat} (h : j / 8 ≠ k / 8) : tagFull (setTag s k false) j = tagFull s j := by
  simp [tagFull_setTag_false, h]

/-- The word whose tag an operation names. -/
abbrev tagWord (s : State) (p : Pos) (f : Fields) : Nat := alignDown (srcScal s p f.k1 f.src1 32) 8

/-- A tag of a word that exists empties it. -/
theorem exec_tag {ks : List Nat} (h : issues (.tag p f) s = true) (hk : spmRange s s.curCtx (tagWord s p f) 8 = some ks) :
    exec (.tag p f) s = .next (setTag s (tagKey s s.curCtx (tagWord s p f)) false) := by
  refine (exec_slotOp h rfl rfl (semOf_tag p f s) rfl).trans ?_
  simp only [hk]
  rfl

/-- A tagrd of a word that exists puts its tag in flight. -/
theorem exec_tagrd {ks : List Nat} (h : issues (.tagrd p f) s = true)
    (hk : spmRange s s.curCtx (tagWord s p f) 8 = some ks) : exec (.tagrd p f) s =
      .next (putScal s p f.dst 4 (if tagFull s (tagKey s s.curCtx (tagWord s p f)) then 1 else 0)) := by
  refine (exec_slotOp h rfl rfl (semOf_tagrd p f s) rfl).trans ?_
  simp only [hk]
  rfl

/-! ### The scale file (R153) -/

/-- A kld of readable bytes puts one scale register for each in flight. -/
theorem exec_kld {bs : List Byte} (h : issues (.kld p f) s = true)
    (hbs : spmRead s s.curCtx ((src64 s f.k1 f.src1 + src64 s f.k2 f.src2).toNat % 2 ^ 32)
      ((f.mod.extractLsb' 0 2).toNat + 1) = .ok bs) :
    exec (.kld p f) s = .next ((List.range ((f.mod.extractLsb' 0 2).toNat + 1)).foldl
      (fun t j => putScale t p (f.dst.start.toNat + j) 3 ((bs[j]?.getD 0).toInt)) s) := by
  refine (exec_slotOp h rfl rfl (semOf_kld p f s) rfl).trans ?_
  simp only [hbs]
  rfl

/-- A kclr puts sixteen zero scale registers in flight. -/
theorem exec_kclr (h : issues (.kclr p f) s = true) :
    exec (.kclr p f) s = .next ((List.range 16).foldl (fun t j => putScale t p j 1 0) s) :=
  (exec_slotOp h rfl rfl (semOf_kclr p f s) rfl).trans rfl

/-- The three format codes that a kfmt takes from its source. -/
def kfmtCodes (s : State) (f : Fields) : Nat := (src64 s f.k1 f.src1).toNat % 4096

/-- One of the codes names no format. -/
def badKfmt (b : Nat) : Prop := b % 16 > 9 ∨ b / 16 % 16 > 9 ∨ b / 256 > 9

/-- A kfmt of format codes puts them in flight to KB. -/
theorem exec_kfmt (h : issues (.kfmt p f) s = true) (hb : ¬ badKfmt (kfmtCodes s f)) :
    exec (.kfmt p f) s = .next (putKb s p 1 (BitVec.ofNat 64 (kfmtCodes s f * 4096)) 0xFFF000) :=
  exec_slotOp h rfl rfl (semOf_kfmt p f s) (if_neg hb)

/-- A kfmt of another code is an illegal bundle. -/
theorem exec_kfmt_illegal (h : issues (.kfmt p f) s = true) (hb : badKfmt (kfmtCodes s f)) :
    exec (.kfmt p f) s = .next (settleSlot s p .illegal) :=
  exec_slotOp h rfl rfl (semOf_kfmt p f s) (if_pos hb)

end

/-- Settles O12: each operation is what its meaning does once its bytes exist, or its case for the format codes. -/
theorem spillsTagsAndScaleFile : Obligations.SpillsTagsAndScaleFile := by
  constructor
  · intro p f s c n w on lanes data word
    refine ⟨fun k => exec_spill, fun bs => exec_fill, fun k => exec_vspill, fun bs => exec_vfill, fun k h hk => ?_,
      fun k => exec_tagrd⟩
    refine ⟨_, exec_tag h hk, ?_, fun j hj => ?_, rfl⟩
    · exact tagFull_emptied s _
    · exact tagFull_emptied_ne s hj
  · intro p f s n k v b clamp
    refine ⟨fun bs => exec_kld, fun h => exec_slotOp h rfl rfl (semOf_kmov p f s) rfl,
      fun h => exec_slotOp h rfl rfl (semOf_kadd p f s) rfl, fun h => exec_slotOp h rfl rfl (semOf_ksub p f s) rfl,
      fun h => exec_slotOp h rfl rfl (semOf_kli p f s) rfl, fun h => exec_slotOp h rfl rfl (semOf_kbind p f s) rfl,
      fun h ha hb hc => exec_kfmt h ?_, exec_kfmt_illegal, exec_kclr⟩
    change ¬ badKfmt b
    unfold badKfmt
    omega
end Sys2Proof.ScalarScale

/-!
Scratchpad accesses outside the sequencer's banks (spec/07 R176, R177).
-/
namespace Sys2Proof.ScalarScale
open Sys2Proof Sys2Proof.Machine Sys2Proof.Safety Sys2Proof.MachineState Sys2Proof.ControlTasks

/-! ### The fatal context error SPM_RANGE -/

/-- What an access outside the banks leaves: the fault deferred in a speculative task, or the context's end. -/
def spmRangeFault (s : State) (p : Pos) (at' : Nat) : State :=
  if s.isSpec s.curCtx then deferFault s s.curCtx causeSpmRange
  else fatalNow s s.curCtx.handle causeSpmRange p.index 0 (BitVec.ofNat 64 at')

/-- The outcome of an access outside the banks. -/
abbrev outOfRange (at' : Nat) : SlotRes := .fatal causeSpmRange (BitVec.ofNat 64 at')

/-- An access outside the banks settles as the fault. -/
theorem settleSlot_outOfRange (s : State) (p : Pos) (at' : Nat) : settleSlot s p (outOfRange at') = spmRangeFault s p at' := by
  unfold spmRangeFault
  simp only [settleSlot, show deferrable causeSpmRange = true from rfl, Bool.true_and]
  rfl

/-- A fault outside a speculative task is not deferred: it is noted where it read poison, and ends the context. -/
theorem settleSlot_fatal {s : State} {p : Pos} {cause : Nat} {info : Word} (hs : s.isSpec s.curCtx = false) :
    settleSlot s p (.fatal cause info) =
      fatalNow (poisonNote s s.curCtx cause info) s.curCtx.handle cause p.index 0 info := by
  simp only [settleSlot, hs, Bool.and_false, Bool.false_eq_true, if_false]
  rfl

/-- An operation whose meaning comes to an access outside the banks is the fault. -/
theorem exec_outOfRange {i : Instr} {cls : Cls} {code : Nat} {p : Pos} {f : Fields} {s : State} {info : OpInfo}
    {run : OpInfo → State → SlotRes} {at' : Nat} (h : issues i s = true) (hp : i.parts = some (cls, code, p, f))
    (hi : opInfo i = some info) (hs : semOf i s = slotOp i f s run) (hr : run info s = outOfRange at') :
    exec i s = .next (spmRangeFault s p at') := by
  rw [exec_slotOp h hp hi hs hr, settleSlot_outOfRange]

/-! ### Accesses of one run of bytes -/

section Runs

variable {s : State} {a n : Nat}

/-- A read of bytes that do not exist. -/
theorem spmRead_range {c : Ctx} (h : spmRange s c a n = none) : spmRead s c a n = .range := by
  simp only [spmRead, h]

/-- An element that does not exist is not loaded. -/
theorem withElem_range {k : Nat → SlotRes} (h : spmRange s s.curCtx a n = none) : withElem s a n k = outOfRange a := by
  simp only [withElem, spmRead_range h, MemRes.fate]

/-- A poisoned element is a fatal context error that names its first poisoned byte. -/
theorem withElem_poison {k : Nat → SlotRes} {b : Nat} (h : spmRead s s.curCtx a n = .poison b) :
    withElem s a n k = .fatal causePoisonRead (BitVec.ofNat 64 b) := by
  simp only [withElem, h, MemRes.fate]

/-- A descriptor that does not exist is not read. -/
theorem withWords_range {k : List Word → SlotRes} (h : spmRange s s.curCtx a (8 * n) = none) :
    withWords s a n k = outOfRange a := by
  simp only [withWords, spmRead_range h, MemRes.fate]

/-- Bytes that do not exist are not stored. -/
theorem spmStore_range {bs : List Byte} (hn : bs.length = n) (h : spmRange s s.curCtx a n = none) :
    spmStore s a bs = outOfRange a := by
  subst hn
  simp only [spmStore, h]

/-- Nibbles of which a byte does not exist are not read. -/
theorem readNibs_range {w : Nat} (h : nibKeys s n w = none) : readNibs s n w = .range := by
  unfold nibKeys at h
  unfold readNibs
  split_ifs at h with ho
  · simp [ho, spmRead_range h]
  · simp [ho]

end Runs

/-! ### Accesses of lanes -/

section Lanes

variable {s : State} {p : Pos} {f : Fields} {l : Nat}

/-- The first entry that fails decides. -/
theorem findSome?_unless {α β : Type} (q : α → Bool) (g : α → β) (xs : List α) :
    (xs.findSome? fun x => if q x then none else some (g x)) = (xs.find? fun x => !q x).map g := by
  rw [List.find?_eq_findSome?_guard, List.map_findSome?]
  congr 1
  funext x
  cases hq : q x <;> simp [Option.guard, hq]

/-- The fate of the lowest enabled lane whose read fails. -/
theorem lanesFate_laneReads {read : Nat → MemRes} {addr : Nat → Nat}
    (hl : (onLanes s f).find? (fun i => !(read i).isOk) = some l) :
    lanesFate (laneReads (guardMask s.curCtx f) read) addr = some ((read l).fate (addr l % 2 ^ 32)) := by
  obtain ⟨hl64, hon⟩ : l < 64 ∧ (guardMask s.curCtx f).getLsbD l = true := by
    simpa [onLanes] using List.mem_of_find?_eq_some hl
  have hfind : (List.range 64).find?
      (fun i => !((laneReads (guardMask s.curCtx f) read)[i]?.getD MemRes.range).isOk) = some l := by
    rw [← hl, List.find?_filter]
    refine List.find?_congr fun i hi => ?_
    rw [laneReads_get (List.mem_range.mp hi)]
    split_ifs with hm <;> simp [hm, MemRes.isOk]
  refine (findSome?_unless (fun i => ((laneReads (guardMask s.curCtx f) read)[i]?.getD MemRes.range).isOk) _ _).trans ?_
  rw [hfind, Option.map_some, laneReads_get hl64, if_pos hon]

/-- A vector load ends at the lowest enabled lane that fails, where that lane's bytes do not exist. -/
theorem vecLoad_range {lat : Nat} {addr n : Nat → Nat} {val : Nat → Nat → Nat}
    (hl : (onLanes s f).find? (fun i => !(spmRead s s.curCtx (addr i % 2 ^ 32) (n i)).isOk) = some l)
    (hr : spmRange s s.curCtx (addr l % 2 ^ 32) (n l) = none) :
    vecLoad s p f lat addr n val = outOfRange (addr l % 2 ^ 32) := by
  have hfate : lanesFate (readLanes s (guardMask s.curCtx f) addr n) addr = some (outOfRange (addr l % 2 ^ 32)) :=
    (lanesFate_laneReads hl).trans (by rw [spmRead_range hr]; rfl)
  simp only [vecLoad, hfate]

/-- A vector store ends at the lowest enabled lane whose bytes do not exist. -/
theorem vecStore_range {addr : Nat → Nat} {bytes : Nat → List Byte} {n : Nat} (hn : ∀ i, (bytes i).length = n)
    (hl : (onLanes s f).find? (fun i => (spmRange s s.curCtx (addr i) n).isNone) = some l) :
    vecStore s f addr bytes = outOfRange (addr l % 2 ^ 32) := by
  simp only [vecStore, hn, hl]

/-- An address that is not of own form (R154). -/
theorem not_ownForm (a : Nat) : (!ownForm a) = decide (2 ^ 20 ≤ a) := by
  rw [ownForm, ← decide_not]
  simp only [Nat.not_lt]

/-- The test by which vldx and vstx look for an address that is not of own form. -/
theorem find?_notOwn : (List.range 64).find? (fun i => (guardMask s.curCtx f).getLsbD i && !ownForm (indexAddr s p f i)) =
    (onLanes s f).find? fun i => decide (2 ^ 20 ≤ indexAddr s p f i) := by
  rw [List.find?_filter]
  congr 1
  funext i
  simp [not_ownForm]

/-- An enabled lane whose address is not of own form is named. -/
theorem notOwn_some (hl : (onLanes s f).find? (fun i => decide (2 ^ 20 ≤ indexAddr s p f i)) = some l) :
    notOwn s p f = some (indexAddr s p f l) := by
  rw [notOwn, find?_notOwn, hl, Option.map_some]

/-- No lane is named where all enabled ones have addresses of own form. -/
theorem notOwn_none (h : ∀ i ∈ onLanes s f, indexAddr s p f i < 2 ^ 20) : notOwn s p f = none := by
  rw [notOwn, find?_notOwn, Option.map_eq_none_iff, List.find?_eq_none]
  exact fun i hi => by simpa using h i hi

end Lanes

/-! ### The operations -/

section Operations

variable {p : Pos} {f : Fields} {s : State} {l : Nat}

/-- The nest size that a loop descriptor's first word holds (R111). -/
theorem nestSize (bs : List Byte) : ((BitVec.ofNat 64 (ofBytesLE bs)).extractLsb' 0 3).toNat = ofBytesLE bs % 8 := by
  rw [BitVec.extractLsb'_toNat, BitVec.toNat_ofNat, Nat.shiftRight_zero]
  omega

/-- A loopd whose entries do not exist, its first word being good. -/
theorem exec_loopd_entries {bs : List Byte} (h : issues (.loopd p f) s = true)
    (hbs : spmRead s s.curCtx (cSpm (cSrc1 s f) 8) 8 = .ok bs) (h1 : 1 ≤ ofBytesLE (bs.take 8) % 8)
    (h6 : ofBytesLE (bs.take 8) % 8 ≤ 6) (hd : s.curCtx.loops.length + ofBytesLE (bs.take 8) % 8 ≤ 6)
    (hr : spmRange s s.curCtx (cSpm (cSrc1 s f) 8 + 8) (8 * (ofBytesLE (bs.take 8) % 8)) = none) :
    exec (.loopd p f) s = .next (spmRangeFault s p (cSpm (cSrc1 s f) 8 + 8)) := by
  rw [← nestSize] at h1 h6 hd hr
  refine exec_outOfRange h rfl rfl (semOf_loopd p f s)
    ((withWords_ok (n := 1) hbs).trans ((if_neg ?_).trans (withWords_range hr)))
  rintro (h0 | h7 | hover)
  · exact Nat.ne_of_gt h1 h0
  · exact absurd (h7 ▸ h6) (by decide)
  · exact absurd hover (Nat.not_lt.mpr hd)

/-- A kld of bytes that do not exist. -/
theorem exec_kld_range (h : issues (.kld p f) s = true)
    (hr : spmRange s s.curCtx ((src64 s f.k1 f.src1 + src64 s f.k2 f.src2).toNat % 2 ^ 32)
      ((f.mod.extractLsb' 0 2).toNat + 1) = none) :
    exec (.kld p f) s = .next (spmRangeFault s p ((src64 s f.k1 f.src1 + src64 s f.k2 f.src2).toNat % 2 ^ 32)) :=
  exec_outOfRange h rfl rfl (semOf_kld p f s) (by simp only [spmRead_range hr]; rfl)

/-- A tag of a word that does not exist. -/
theorem exec_tag_range (h : issues (.tag p f) s = true) (hr : spmRange s s.curCtx (tagWord s p f) 8 = none) :
    exec (.tag p f) s = .next (spmRangeFault s p (tagWord s p f)) :=
  exec_outOfRange h rfl rfl (semOf_tag p f s) (by simp only [hr])

/-- A tagrd of a word that does not exist. -/
theorem exec_tagrd_range (h : issues (.tagrd p f) s = true) (hr : spmRange s s.curCtx (tagWord s p f) 8 = none) :
    exec (.tagrd p f) s = .next (spmRangeFault s p (tagWord s p f)) :=
  exec_outOfRange h rfl rfl (semOf_tagrd p f s) (by simp only [hr])

/-- An fget of a word that does not exist. -/
theorem exec_fget_range (h : issues (.fget p f) s = true) (hr : spmRange s s.curCtx (futureAt s f) 8 = none) :
    exec (.fget p f) s = .next (spmRangeFault s p (futureAt s f)) :=
  exec_outOfRange h rfl rfl (semOf_fget p f s) (by simp only [hr])

/-- An fput to a word that does not exist. -/
theorem exec_fput_range (h : issues (.fput p f) s = true) (hr : spmRange s s.curCtx (futureAt s f) 8 = none) :
    exec (.fput p f) s = .next (spmRangeFault s p (futureAt s f)) :=
  exec_outOfRange h rfl rfl (semOf_fput p f s) (by simp only [hr])

/-- A fork of a descriptor that does not exist. -/
theorem exec_forkOp_range {i : Instr} {cls : Cls} {code : Nat} {info : OpInfo} {range : Bool}
    (hp : i.parts = some (cls, code, p, f)) (hi : opInfo i = some info) (hs : semOf i s = forkOp i p f s range)
    (h : issues i s = true) (hr : spmRange s s.curCtx (cSpm (cSrc1 s f) 32) 32 = none) :
    exec i s = .next (spmRangeFault s p (cSpm (cSrc1 s f) 32)) :=
  exec_outOfRange h hp hi hs (withWords_range (n := 4) hr)

/-- A vst of whole bytes with a lane whose bytes do not exist. -/
theorem exec_vst_range (h : issues (.vst p f) s = true) (hb : (fmtOf f).isByte = true)
    (hl : (onLanes s f).find? (fun i => (spmRange s s.curCtx
      (alignDown (spmSum s p f) (fmtOf f).bytes + i * (fmtOf f).bytes) (fmtOf f).bytes).isNone) = some l) :
    exec (.vst p f) s = .next (spmRangeFault s p
      ((alignDown (spmSum s p f) (fmtOf f).bytes + l * (fmtOf f).bytes) % 2 ^ 32)) :=
  exec_outOfRange h rfl rfl (semOf_vst p f s) ((if_pos hb).trans (vecStore_range (fun _ => length_toBytesLE _ _) hl))

/-- A vst of packed elements with a lane of which a byte does not exist. -/
theorem exec_vst_packed_range (h : issues (.vst p f) s = true) (hb : (fmtOf f).isByte = false)
    (hl : (onLanes s f).find? (fun i => (spmRange s s.curCtx
      (spmSum s p f + ((fmtOf f).span i).1) ((fmtOf f).span i).2.1).isNone) = some l) :
    exec (.vst p f) s = .next (spmRangeFault s p ((spmSum s p f + ((fmtOf f).span l).1) % 2 ^ 32)) :=
  exec_outOfRange h rfl rfl (semOf_vst p f s) ((if_neg (Bool.eq_false_iff.mp hb)).trans (by simp only [hl]))

/-- A vldx of addresses of own form with a lane whose bytes do not exist. -/
theorem exec_vldx_range (h : issues (.vldx p f) s = true) (ho : ∀ i ∈ onLanes s f, indexAddr s p f i < 2 ^ 20)
    (hl : (onLanes s f).find? (fun i => !(spmRead s s.curCtx (indexAddr s p f i % 2 ^ 32) (fmtOf f).bytes).isOk) = some l)
    (hr : spmRange s s.curCtx (indexAddr s p f l % 2 ^ 32) (fmtOf f).bytes = none) :
    exec (.vldx p f) s = .next (spmRangeFault s p (indexAddr s p f l % 2 ^ 32)) :=
  exec_outOfRange h rfl rfl (semOf_vldx p f s) (by simp only [notOwn_none ho]; exact vecLoad_range hl hr)

/-- A vstx to addresses of own form with a lane whose bytes do not exist. -/
theorem exec_vstx_range (h : issues (.vstx p f) s = true) (ho : ∀ i ∈ onLanes s f, indexAddr s p f i < 2 ^ 20)
    (hl : (onLanes s f).find? (fun i => (spmRange s s.curCtx (indexAddr s p f i) (fmtOf f).bytes).isNone) = some l) :
    exec (.vstx p f) s = .next (spmRangeFault s p (indexAddr s p f l % 2 ^ 32)) :=
  exec_outOfRange h rfl rfl (semOf_vstx p f s)
    (by simp only [notOwn_none ho]; exact vecStore_range (fun _ => length_toBytesLE _ _) hl)

/-- A spill to nibbles that do not exist. -/
theorem exec_spill_range (h : issues (.spill p f) s = true) (hk : nibKeys s (nibAddr s p f) f.dst.slices = none) :
    exec (.spill p f) s = .next (spmRangeFault s p (nibAddr s p f / 2 % 2 ^ 32)) :=
  exec_outOfRange h rfl rfl (semOf_spill p f s) (by simp only [hk]; rfl)

/-- A fill of nibbles that do not exist. -/
theorem exec_fill_range (h : issues (.fill p f) s = true) (hk : nibKeys s (nibAddr s p f) f.dst.slices = none) :
    exec (.fill p f) s = .next (spmRangeFault s p (nibAddr s p f / 2 % 2 ^ 32)) :=
  exec_outOfRange h rfl rfl (semOf_fill p f s) (by simp only [readNibs_range hk]; rfl)

/-- A vspill with a lane whose nibbles do not exist. -/
theorem exec_vspill_range (h : issues (.vspill p f) s = true)
    (hl : (onLanes s f).find? (fun i => (nibKeys s (nibAddr s p f + i * f.dst.slices) f.dst.slices).isNone) = some l) :
    exec (.vspill p f) s = .next (spmRangeFault s p ((nibAddr s p f + l * f.dst.slices) / 2 % 2 ^ 32)) :=
  exec_outOfRange h rfl rfl (semOf_vspill p f s) (by simp only [hl]; rfl)

/-- A vfill whose lowest lane that fails has nibbles that do not exist. -/
theorem exec_vfill_range (h : issues (.vfill p f) s = true)
    (hl : (onLanes s f).find? (fun i => !(readNibs s (nibAddr s p f + i * f.dst.slices) f.dst.slices).isOk) = some l)
    (hk : nibKeys s (nibAddr s p f + l * f.dst.slices) f.dst.slices = none) :
    exec (.vfill p f) s = .next (spmRangeFault s p ((nibAddr s p f + l * f.dst.slices) / 2 % 2 ^ 32)) := by
  have hfate : lanesFate _ (fun i => (nibAddr s p f + i * f.dst.slices) / 2) = _ := lanesFate_laneReads hl
  refine exec_outOfRange h rfl rfl (semOf_vfill p f s) ?_
  simp only [hfate, readNibs_range hk]
  rfl

end Operations

/-- Settles O25: each operation's meaning comes to the outcome of an access outside the banks, or of a poisoned byte. -/
theorem scratchpadRange : Obligations.ScratchpadRange := by
  intro p f s c fm n a w on lanes base nib nw code scale fatal bad load store own inOwn
  refine ⟨fun h hr => exec_outOfRange h rfl rfl (semOf_ld p f s) (withElem_range hr),
    fun h hr => exec_outOfRange h rfl rfl (semOf_vldb p f s) (withElem_range hr),
    fun h hr => exec_outOfRange h rfl rfl (semOf_st p f s) (spmStore_range (length_toBytesLE _ _) hr),
    exec_tag_range, exec_tagrd_range, exec_kld_range, exec_fget_range, exec_fput_range,
    fun h hr => exec_outOfRange h rfl rfl (semOf_loopd p f s) (withWords_range (n := 1) hr),
    fun bs h hbs => exec_loopd_entries h hbs,
    exec_forkOp_range rfl rfl (semOf_fork p f s), exec_forkOp_range rfl rfl (semOf_forkr p f s),
    fun l h hl hr => exec_outOfRange h rfl rfl (semOf_vld p f s) (vecLoad_range hl hr),
    fun l h hl hr => exec_outOfRange h rfl rfl (semOf_vlds p f s) (vecLoad_range hl hr),
    fun l h hl hr => exec_outOfRange h rfl rfl (semOf_gath p f s) (vecLoad_range hl hr),
    fun l h hl => exec_outOfRange h rfl rfl (semOf_vldx p f s) (by simp only [notOwn_some hl]),
    fun l h hl => exec_outOfRange h rfl rfl (semOf_vstx p f s) (by simp only [notOwn_some hl]),
    fun ho l h hl hr => exec_vldx_range h ho hl hr, fun hb l h hl => ?_, fun hb l h hl => ?_,
    fun l h hl => exec_outOfRange h rfl rfl (semOf_vsts p f s) (vecStore_range (fun _ => length_toBytesLE _ _) hl),
    fun l h hl => exec_outOfRange h rfl rfl (semOf_scat p f s) (vecStore_range (fun _ => length_toBytesLE _ _) hl),
    fun ho l h hl => exec_vstx_range h ho hl, exec_spill_range, exec_fill_range, fun l => exec_vspill_range,
    fun l => exec_vfill_range, fun b h hb hs => ?_⟩
  · have hbase : base = alignDown (spmSum s p f) fm.bytes := if_pos hb
    simp only [hbase] at hl ⊢
    exact exec_vst_range h hb hl
  · have hbase : base = spmSum s p f := if_neg (Bool.eq_false_iff.mp hb)
    simp only [hbase] at hl ⊢
    exact exec_vst_packed_range h hb hl
  · rw [exec_slotOp h rfl rfl (semOf_ld p f s) (withElem_poison hb), settleSlot_fatal hs]
end Sys2Proof.ScalarScale

/-!
Scratchpad loads and stores whose bytes exist (spec/07 R157, R159 to R162).
-/
namespace Sys2Proof.MemoryOps
open Sys2Proof Sys2Proof.Machine Sys2Proof.Safety Sys2Proof.ScalarScale

section

variable {p : Pos} {f : Fields} {s : State}

/-- A readable element is used. -/
theorem withElem_ok {a n : Nat} {bs : List Byte} {k : Nat → SlotRes} (h : spmRead s s.curCtx a n = .ok bs) :
    withElem s a n k = k (ofBytesLE bs) := by
  simp only [withElem, h]

/-- Bytes that exist are stored. -/
theorem spmStore_ok {a n : Nat} {bs : List Byte} {ks : List Nat} (hn : bs.length = n)
    (h : spmRange s s.curCtx a n = some ks) : spmStore s a bs = .ok (spmWrite s s.curCtx (ks.zip bs)) := by
  subst hn
  simp only [spmStore, h]

/-- The cells that a vector store of whole elements writes at the keys of its enabled lanes, lane 0 first. -/
def laneCells (s : State) (p : Pos) (f : Fields) (k : Nat → List Nat) : List Host.Cell :=
  (onLanes s f).flatMap fun i => (k i).zip (toBytesLE (fmtOf f).bytes (dataLane s p f i))

/-- A vector store of whole elements that exist in every enabled lane writes their cells. -/
theorem vecStore_elements {addr : Nat → Nat} {k : Nat → List Nat}
    (h : ∀ i ∈ onLanes s f, spmRange s s.curCtx (addr i) (fmtOf f).bytes = some (k i)) :
    vecStore s f addr (fun i => toBytesLE (fmtOf f).bytes (dataLane s p f i)) =
      .ok (spmWrite s s.curCtx (laneCells s p f k)) :=
  vecStore_ok s f addr _ k fun i hi => by rw [length_toBytesLE]; exact h i hi

/-- A vldx of addresses of own form whose bytes are readable. -/
theorem exec_vldx {bs : Nat → List Byte} (h : issues (.vldx p f) s = true)
    (hbs : ∀ i, i < 64 → (guardMask s.curCtx f).getLsbD i = true → indexAddr s p f i < 2 ^ 20 ∧
      spmRead s s.curCtx (indexAddr s p f i % 2 ^ 32) (fmtOf f).bytes = .ok (bs i)) :
    exec (.vldx p f) s = .next (putVec s p f.dst 4 (guardMask s.curCtx f) fun i =>
      loadVal (fmtOf f) (xBit f) f.dst.bits (if (guardMask s.curCtx f).getLsbD i then ofBytesLE (bs i) else 0)) := by
  have hown : notOwn s p f = none := notOwn_none fun i hi => by
    obtain ⟨hi64, hon⟩ : i < 64 ∧ (guardMask s.curCtx f).getLsbD i = true := by simpa [onLanes] using hi
    exact (hbs i hi64 hon).1
  refine (exec_slotOp h rfl rfl (semOf_vldx p f s) rfl).trans ?_
  simp only [hown, vecLoad_ok s p f _ _ _ _ bs fun i hi hon => (hbs i hi hon).2]
  rfl

/-- A st to bytes that exist writes its element. -/
theorem exec_st {k : List Nat} (h : issues (.st p f) s = true)
    (hk : spmRange s s.curCtx (alignDown (spmSum s p f) (fmtOf f).bytes) (fmtOf f).bytes = some k) :
    exec (.st p f) s = .next (spmWrite s s.curCtx
      (k.zip (toBytesLE (fmtOf f).bytes (s.curCtx.readScal p.bench f.dst.start.toNat f.dst.slices)))) :=
  exec_slotOp h rfl rfl (semOf_st p f s) (spmStore_ok (length_toBytesLE _ _) hk)

/-- A vst of whole bytes that exist. -/
theorem exec_vst {k : Nat → List Nat} (h : issues (.vst p f) s = true) (hb : (fmtOf f).isByte = true)
    (hk : ∀ i ∈ onLanes s f, spmRange s s.curCtx
      (alignDown (spmSum s p f) (fmtOf f).bytes + i * (fmtOf f).bytes) (fmtOf f).bytes = some (k i)) :
    exec (.vst p f) s = .next (spmWrite s s.curCtx (laneCells s p f k)) :=
  exec_slotOp h rfl rfl (semOf_vst p f s) ((if_pos hb).trans (vecStore_elements hk))

/-- A vst of packed elements whose bytes exist: the bits of the enabled lanes. -/
theorem exec_vst_packed (h : issues (.vst p f) s = true) (hb : (fmtOf f).isByte = false)
    (hk : ∀ i ∈ onLanes s f,
      (spmRange s s.curCtx (spmSum s p f + ((fmtOf f).span i).1) ((fmtOf f).span i).2.1).isSome = true) :
    exec (.vst p f) s = .next (spmWrite s s.curCtx
      (packedCells s (runKey s s.curCtx (spmSum s p f)) (fmtOf f) (guardMask s.curCtx f) (dataLane s p f))
      (packedBits (runKey s s.curCtx (spmSum s p f)) (fmtOf f) (guardMask s.curCtx f))) := by
  have hfind : (onLanes s f).find? (fun i => (spmRange s s.curCtx
      (spmSum s p f + ((fmtOf f).span i).1) ((fmtOf f).span i).2.1).isNone) = none :=
    List.find?_eq_none.mpr fun i hi => by simpa [Option.isSome_iff_ne_none] using hk i hi
  refine (exec_slotOp h rfl rfl (semOf_vst p f s) (if_neg (Bool.eq_false_iff.mp hb))).trans ?_
  simp only [hfind]
  rfl

/-- A vsts to bytes that exist. -/
theorem exec_vsts {k : Nat → List Nat} (h : issues (.vsts p f) s = true)
    (hk : ∀ i ∈ onLanes s f, spmRange s s.curCtx (strideAddr s p f i) (fmtOf f).bytes = some (k i)) :
    exec (.vsts p f) s = .next (spmWrite s s.curCtx (laneCells s p f k)) :=
  exec_slotOp h rfl rfl (semOf_vsts p f s) (vecStore_elements hk)

/-- A vstx to bytes that exist, at addresses of own form. -/
theorem exec_vstx {k : Nat → List Nat} (h : issues (.vstx p f) s = true)
    (hk : ∀ i ∈ onLanes s f, indexAddr s p f i < 2 ^ 20 ∧
      spmRange s s.curCtx (indexAddr s p f i) (fmtOf f).bytes = some (k i)) :
    exec (.vstx p f) s = .next (spmWrite s s.curCtx (laneCells s p f k)) := by
  have hown : notOwn s p f = none := notOwn_none fun i hi => (hk i hi).1
  exact exec_slotOp h rfl rfl (semOf_vstx p f s) (by
    simp only [hown]
    exact vecStore_elements fun i hi => (hk i hi).2)

/-- A scat to bytes that exist. -/
theorem exec_scat {k : Nat → List Nat} (h : issues (.scat p f) s = true)
    (hk : ∀ i ∈ onLanes s f, spmRange s s.curCtx (gatherAddr s p f i) (fmtOf f).bytes = some (k i)) :
    exec (.scat p f) s = .next (spmWrite s s.curCtx (laneCells s p f k)) :=
  exec_slotOp h rfl rfl (semOf_scat p f s) (vecStore_elements hk)

end

/-- Settles O10: each load is one read of its bytes, or one for each enabled lane, whose values go in flight. -/
theorem scratchpadLoads : Obligations.ScratchpadLoads := by
  intro p f s c fm W x on sum down base vec whole
  exact ⟨fun bs h hbs => exec_slotOp h rfl rfl (semOf_ld p f s) (withElem_ok hbs),
    fun bs h hbs => exec_slotOp h rfl rfl (semOf_vldb p f s) (withElem_ok hbs),
    fun bs h hbs => exec_slotOp h rfl rfl (semOf_vld p f s) (vecLoad_ok s p f _ _ _ _ bs hbs),
    fun bs h hbs => exec_slotOp h rfl rfl (semOf_vlds p f s) (vecLoad_ok s p f _ _ _ _ bs hbs),
    fun bs h hbs => exec_vldx h hbs,
    fun bs h hbs => exec_slotOp h rfl rfl (semOf_gath p f s) (vecLoad_ok s p f _ _ _ _ bs hbs)⟩

/-- Settles O11: each store is one write of the cells that its data make. -/
theorem scratchpadStores : Obligations.ScratchpadStores := by
  intro p f s c fm on lanes sum down data cells
  exact ⟨fun k => exec_st, fun k => exec_vst, exec_vst_packed, fun k => exec_vsts, fun k => exec_vstx,
    fun k => exec_scat⟩
end Sys2Proof.MemoryOps

/-!
What the scratchpad stores and the spills leave unchanged (spec/07 R159 to R162, R164, R166).
-/
namespace Sys2Proof.MemoryOps
open Sys2Proof Sys2Proof.Machine Sys2Proof.Safety Sys2Proof.ScalarScale

/-! ### Where a write of cells reaches -/

/-- The key of a byte's copy in a save image, where it has one (R461). -/
def mirrorKey (s : State) (k : Nat) : Option Nat :=
  if k < spmBase then none
  else
    let c := s.ctx ((k - spmBase) / 2 ^ 20)
    match c.imgAt with
    | some a => if c.mirror && c.saves (k % 2 ^ 20) then some (imgKey c a (k % 2 ^ 20)) else none
    | none => none

/-- The copies in save images stand at the mirror keys of the written bytes. -/
theorem mirrorCells_keys (s : State) (cells : List Host.Cell) :
    (mirrorCells s cells).map (·.1) = (cells.map (·.1)).filterMap (mirrorKey s) := by
  rw [mirrorCells, List.map_filterMap, List.filterMap_map]
  refine List.filterMap_congr fun b _ => ?_
  simp only [mirrorKey, Function.comp]
  split
  next => rfl
  next =>
    cases (s.ctx ((b.1 - spmBase) / 2 ^ 20)).imgAt with
    | none => rfl
    | some img => exact apply_ite (Option.map _) _ _ _

/-- The copy of one byte. -/
theorem mem_mirrorCells_singleton {s : State} {j a : Nat} {v : Byte} :
    a ∈ (mirrorCells s [(j, v)]).map (·.1) ↔ mirrorKey s j = some a := by
  simp [mirrorCells_keys]

/-- With nothing poisoned, a write of cells leaves every byte that is neither written nor the copy of a written one. -/
theorem memGet_writeCells_out {s : State} {w a : Nat} {cells bits : List Host.Cell} (hm : memoryOk s) (hp : s.poison = [])
    (hout : ∀ c ∈ cells, c.1 ≠ a ∧ mirrorKey s c.1 ≠ some a) :
    memGet (writeCells s w cells bits).mem a = memGet s.mem a := by
  have hcells : ∀ c ∈ cells, c.1 ≠ a := fun c hc => (hout c hc).1
  have hmirror : ∀ c ∈ mirrorCells s cells, c.1 ≠ a := by
    rintro c hc rfl
    have hkey : c.1 ∈ (cells.map (·.1)).filterMap (mirrorKey s) := mirrorCells_keys s cells ▸ List.mem_map_of_mem hc
    obtain ⟨j, hj, hja⟩ := List.mem_filterMap.mp hkey
    obtain ⟨d, hd, rfl⟩ := List.mem_map.mp hj
    exact (hout d hd).2 hja
  simp only [writeCells, hp, if_true]
  refine memGet_foldl_out hm fun c hc => ?_
  split at hc
  · exact (List.mem_append.mp hc).elim (hcells c) (hmirror c)
  · exact hcells c hc

/-- With nothing poisoned, a sequencer's store changes memory and the notes of older values alone. -/
theorem spmWrite_eq {s : State} {c : Ctx} {cells bits : List Host.Cell} (hp : s.poison = []) :
    spmWrite s c cells bits =
      { s with mem := (spmWrite s c cells bits).mem, loose := (spmWrite s c cells bits).loose } := by
  simp only [spmWrite, dropOlder, writeCells, hp, if_true]
  split <;> split <;> rfl

/-- An operation writes at these keys alone: nothing but memory and the notes of older values changes (R164), and of memory no
byte that stands neither at one of them nor as the copy of one. -/
def WritesOnlyAt (i : Instr) (s : State) (at' : Nat → Prop) : Prop :=
  ∃ t, exec i s = .next t ∧ t = { s with mem := t.mem, loose := t.loose } ∧
    ∀ a, ¬at' a → (∀ j, at' j → a ∉ (mirrorCells s [(j, 0)]).map (·.1)) → memGet t.mem a = memGet s.mem a

/-- An operation that is one store writes at the keys of its cells alone. -/
theorem writesOnlyAt_of_spmWrite {i : Instr} {s : State} {cells bits : List Host.Cell} {at' : Nat → Prop} (hm : memoryOk s)
    (hp : s.poison = []) (he : exec i s = .next (spmWrite s s.curCtx cells bits)) (hk : ∀ c ∈ cells, at' c.1) :
    WritesOnlyAt i s at' := by
  refine ⟨_, he, spmWrite_eq hp, fun a ha hmirror => ?_⟩
  rw [spmWrite_mem]
  refine memGet_writeCells_out hm hp fun c hc => ⟨fun h => ha (h ▸ hk c hc), fun h => ?_⟩
  exact hmirror c.1 (hk c hc) (mem_mirrorCells_singleton.mpr h)

/-! ### The keys of the cells that are written -/

section

variable {p : Pos} {f : Fields} {s : State}

/-- Bytes put at keys are written at those keys. -/
theorem key_mem_of_mem_zip {ks : List Nat} {bs : List Byte} {c : Host.Cell} (h : c ∈ ks.zip bs) : c.1 ∈ ks :=
  (List.of_mem_zip (a := c.1) (b := c.2) h).1

/-- A vector store of whole elements writes at its lanes' keys. -/
theorem key_of_mem_laneCells {k : Nat → List Nat} {c : Host.Cell} (h : c ∈ laneCells s p f k) :
    ∃ i ∈ onLanes s f, c.1 ∈ k i := by
  obtain ⟨i, hi, hc⟩ := List.mem_flatMap.mp h
  exact ⟨i, hi, key_mem_of_mem_zip hc⟩

/-- The lanes of a vspill write at their own keys, over whatever memory the lanes before them have left. -/
theorem key_of_mem_vspill {k : Nat → List Nat} {c : Host.Cell} (lanes : List Nat) (mc : List Host.Cell × List Host.Cell)
    (h : c ∈ (lanes.foldl (vspillLane s p f k) mc).2) : c ∈ mc.2 ∨ ∃ i ∈ lanes, c.1 ∈ k i := by
  induction lanes generalizing mc with
  | nil => exact .inl h
  | cons l lanes ih =>
    rcases ih _ h with hc | ⟨i, hi, hc⟩
    · rcases List.mem_append.mp hc with hc | hc
      · exact .inl hc
      · exact .inr ⟨l, List.mem_cons_self, key_mem_of_mem_zip hc⟩
    · exact .inr ⟨i, List.mem_cons_of_mem _ hi, hc⟩

/-- A bit that is set in a union of numbers is set in one of them. -/
theorem exists_testBit_of_foldl_or {g : Nat → Nat} {b : Nat} (xs : List Nat) (z : Nat)
    (h : (xs.foldl (fun a i => a ||| g i) z).testBit b = true) :
    z.testBit b = true ∨ ∃ i ∈ xs, (g i).testBit b = true := by
  induction xs generalizing z with
  | nil => exact .inl h
  | cons x xs ih =>
    rcases ih _ h with hz | ⟨i, hi, hb⟩
    · rw [Nat.testBit_or, Bool.or_eq_true] at hz
      exact hz.imp_right fun hx => ⟨x, List.mem_cons_self, hx⟩
    · exact .inr ⟨i, List.mem_cons_of_mem _ hi, hb⟩

/-- A bit of an element of a packed run stands in a byte of the element's span (R47). -/
theorem span_contains {fm : Fmt} {i b : Nat} (hlo : fm.memBits * i ≤ b) (hhi : b < fm.memBits * i + fm.memBits) :
    ∃ m < (fm.span i).2.1, (fm.span i).1 + m = b / 8 := by
  refine ⟨b / 8 - fm.memBits * i / 8, ?_, ?_⟩
  · change b / 8 - fm.memBits * i / 8 < (fm.memBits * i + fm.memBits - 1) / 8 - fm.memBits * i / 8 + 1
    omega
  · change fm.memBits * i / 8 + (b / 8 - fm.memBits * i / 8) = b / 8
    omega

/-- A byte of a packed block of which enabled lanes write a bit lies in the span of one of them (R160). -/
theorem span_of_mem_packedCells {key : Nat → Nat} {fm : Fmt} {mask : Mask} {v : Nat → Nat} {c : Host.Cell}
    (h : c ∈ packedCells s key fm mask v) :
    ∃ i ∈ (List.range 64).filter fun i => mask.getLsbD i, ∃ m < (fm.span i).2.1, c.1 = key ((fm.span i).1 + m) := by
  obtain ⟨j, -, hj⟩ := List.mem_filterMap.mp h
  simp only at hj
  split_ifs at hj with hsel
  obtain ⟨b, hb⟩ := Nat.exists_testBit_of_ne_zero hsel
  rw [show 256 = 2 ^ 8 from rfl, Nat.testBit_mod_two_pow, Nat.testBit_div_two_pow, Bool.and_eq_true,
    decide_eq_true_eq] at hb
  obtain ⟨hb8, hbit⟩ := hb
  rcases exists_testBit_of_foldl_or _ _ hbit with h0 | ⟨i, hi, hib⟩
  · simp at h0
  · rw [Nat.testBit_mul_two_pow, Nat.testBit_two_pow_sub_one, Bool.and_eq_true, decide_eq_true_eq,
      decide_eq_true_eq] at hib
    obtain ⟨m, hm, hmj⟩ := span_contains (fm := fm) (i := i) (b := b + 8 * j) hib.1 (by omega)
    refine ⟨i, hi, m, hm, ?_⟩
    rw [hmj, show (b + 8 * j) / 8 = j by omega]
    exact (congrArg Prod.fst (Option.some.inj hj)).symm

/-- The key of each byte of a run that exists is among the run's keys. -/
theorem spmKey_of_spmRange {c : Ctx} {a n m : Nat} {ks : List Nat} (h : spmRange s c a n = some ks) (hm : m < n) :
    ∃ k ∈ ks, spmKey s c ((a + m) % 2 ^ 32) = some k := by
  induction n generalizing a m ks with
  | zero => exact absurd hm (Nat.not_lt_zero m)
  | succ n ih =>
    simp only [spmRange] at h
    split at h
    next k ks' hk hks =>
      cases h
      cases m with
      | zero => exact ⟨k, List.mem_cons_self, hk⟩
      | succ m =>
        obtain ⟨k', hk', he⟩ := ih hks (Nat.lt_of_succ_lt_succ hm)
        exact ⟨k', List.mem_cons_of_mem _ hk', by rwa [show a + (m + 1) = a + 1 + m by omega]⟩
    next => cases h

/-- A vst of packed elements writes at its lanes' keys. -/
theorem key_of_mem_packedCells {c : Ctx} {base : Nat} {fm : Fmt} {mask : Mask} {v : Nat → Nat} {k : Nat → List Nat}
    {d : Host.Cell}
    (hk : ∀ i ∈ (List.range 64).filter fun i => mask.getLsbD i,
      spmRange s c (base + (fm.span i).1) (fm.span i).2.1 = some (k i))
    (h : d ∈ packedCells s (runKey s c base) fm mask v) :
    ∃ i ∈ (List.range 64).filter fun i => mask.getLsbD i, d.1 ∈ k i := by
  obtain ⟨i, hi, m, hm, hd⟩ := span_of_mem_packedCells h
  obtain ⟨key, hkey, he⟩ := spmKey_of_spmRange (hk i hi) hm
  refine ⟨i, hi, ?_⟩
  rw [hd, runKey, ← Nat.add_assoc, he]
  exact hkey

end

/-- Settles O24: each store is one write of cells whose keys are those its addresses name; tag sets one tag. -/
theorem storesKeepOtherBytes : Obligations.StoresKeepOtherBytes := by
  intro p f s hm hp c fm lanes a0 n w onlyAt
  have only : ∀ {i : Instr} {cells bits : List Host.Cell} {at' : Nat → Prop},
      exec i s = .next (spmWrite s s.curCtx cells bits) → (∀ d ∈ cells, at' d.1) → WritesOnlyAt i s at' :=
    writesOnlyAt_of_spmWrite hm hp
  refine ⟨fun k h hk => only (exec_st h hk) fun d => key_mem_of_mem_zip,
    fun k h hb hk => only (exec_vst h hb hk) fun d => key_of_mem_laneCells,
    fun k h hb hk => only (exec_vst_packed h hb fun i hi => ?_) fun d => key_of_mem_packedCells hk,
    fun k h hk => only (exec_vsts h hk) fun d => key_of_mem_laneCells,
    fun k h hk => only (exec_vstx h hk) fun d => key_of_mem_laneCells,
    fun k h hk => only (exec_scat h hk) fun d => key_of_mem_laneCells,
    fun k h hk => only (exec_spill h hk) fun d => key_mem_of_mem_zip,
    fun k h hk => only (exec_vspill h hk) fun d hd => ?_,
    fun k h hk => ⟨_, exec_tag h hk, rfl⟩⟩
  · exact Option.isSome_of_eq_some (hk i hi)
  · exact (key_of_mem_vspill lanes _ hd).resolve_left List.not_mem_nil
end Sys2Proof.MemoryOps

/-!
Off-core commands as they perform: the turn, the fates (spec/07 R167, R176, R177), and the accesses of fld, fst, fldv and fstv
(R168, R169).
-/
namespace Sys2Proof.MemoryOps
open Sys2Proof Sys2Proof.Machine Sys2Proof.Safety

section

variable {s s1 s2 : State} {x : Cmd} {p : Pos} {f : Fields} {vault : Bool} {a n k cause : Nat} {c : Ctx} {acc : Acc}
  {pl : Place} {bs : List Byte}

/-! ### The turn of a command -/

/-- A command whose turn has come performs. -/
theorem exec_offcore {cid : Nat} {t : State} (hx : s.cmd? cid = some x) (hr : s.offReady x = true)
    (h : performOff s x = t) : exec (.offcoreCommandPerform cid) s = .next t := by
  change execOffcoreCommandPerform cid s = .next t
  rw [execOffcoreCommandPerform]
  simp only [hx, hr, if_true, h]

/-- A command that performs stands in an off-core queue. -/
theorem isE_of_offReady (h : s.offReady x = true) : x.isE = false := by
  cases hq : x.queue <;> simp [State.offReady, Cmd.isE, hq] at h ⊢

/-- What performs is decided by the command's instruction. -/
theorem performOff_fld (hi : x.instr = .fld p f) : performOff s x = performFld s x f := by simp only [performOff, hi]

theorem performOff_fst (hi : x.instr = .fst p f) : performOff s x = performFst s x f := by simp only [performOff, hi]

theorem performOff_fldv (hi : x.instr = .fldv p f) : performOff s x = performFldv s x f := by simp only [performOff, hi]

theorem performOff_fstv (hi : x.instr = .fstv p f) : performOff s x = performFstv s x f := by simp only [performOff, hi]

/-! ### Fates (R176, R177) -/

/-- The token completes, and the context ends in a fatal error that names an address. -/
def commandFate (s : State) (x : Cmd) (cause addr : Nat) : State :=
  fatalCmd (finishCmd s x 0) x cause (BitVec.ofNat 64 addr)

/-- Poisoned data at a key is recorded, and is the command's fate. -/
def poisonFate (s : State) (x : Cmd) (key addr : Nat) : State :=
  let pl := s.errPlace key
  commandFate (errRecord s (s.partOfKey key) 4 pl.1 pl.2.1 pl.2.2 x.ctx 0) x causePoisonRead addr

/-- A fate outside ordered tasks. -/
theorem failCmd_unordered {detail count : Nat} (he : x.isE = false) (ho : x.ord = false) :
    failCmd s x cause detail count (BitVec.ofNat 64 a) = commandFate s x cause a := by
  simp only [failCmd, failValue, he, ho, Bool.false_eq_true, if_false, commandFate]

/-- A speculative task's slot notes the fate, and the command has no effect. -/
theorem failCmd_deferred {detail count ix : Nat} {info : Word} {e : DequeEntry} (ho : x.ord = true) (ht : x.task = some ix)
    (hs : (s.slot x.core ix).task = some e) (hn : s.nonSpec (s.ctx x.ctx).part e = false) :
    failCmd s x cause detail count info =
      (keepToken s x).modSlot x.core ix fun y => { y with deferred := some (y.deferred.getD cause) } := by
  simp only [failCmd, ho, ht, hs, hn, if_true, Bool.false_eq_true, if_false]

/-- Poison outside ordered tasks. -/
theorem failPoison_unordered {count : Nat} (he : x.isE = false) (ho : x.ord = false) :
    failPoison s x k count (BitVec.ofNat 64 a) = poisonFate s x k a := failCmd_unordered he ho

/-- A vault address outside the partition's vaults is VAULT_RANGE. -/
theorem failSpace_vault {code lv ia count : Nat} (hv : vault = true) (he : x.isE = false) (ho : x.ord = false) :
    failSpace s x vault a (.fault code lv ia) count = commandFate s x causeVaultRange a := by
  subst hv
  exact failCmd_unordered he ho

/-- A far address that faults is FAR_FAULT. -/
theorem failSpace_far {code lv ia count : Nat} (hv : vault = false) :
    failSpace s x vault a (.fault code lv ia) count = failCmd s x causeFarFault code count (BitVec.ofNat 64 a) := by
  subst hv
  rfl

/-! ### Where an access goes -/

/-- The place of a vault address. -/
def vaultPlace (a : Nat) : Place := { key := vaultBase + a, vault := true, ia := a, nc := false }

/-- The bytes lie in the partition's vaults. -/
def InVault (part a n : Nat) : Prop := vaultOk part a = true ∧ vaultOk part (a + n - 1) = true

theorem spaceTarget_inVault (hv : vault = true) (h : InVault c.part a n) :
    spaceTarget s c vault a n acc = (s, .place (vaultPlace a)) := by
  subst hv
  exact congrArg (Prod.mk s) (if_pos h)

theorem spaceTarget_outside (hv : vault = true) (h : ¬InVault c.part a n) :
    spaceTarget s c vault a n acc = (s, .fault 0 0 a) := by
  subst hv
  exact congrArg (Prod.mk s) (if_neg h)

theorem spaceTarget_far {r : State × FarRes} (hv : vault = false) (h : resolveFar s c a acc = r) :
    spaceTarget s c vault a n acc = r := by
  subst hv
  exact h

/-! ### Reads and writes of one line -/

/-- Outside ordered tasks a vault is read as it stands. -/
theorem cmdRead_vault (ht : x.task = none) : cmdRead s x (vaultPlace a) n = (s, readBytes s (vaultBase + a) n) := by
  simp only [cmdRead, ht, readPlace, vaultPlace, if_true]

/-- A command of an ordered task writes into its slot's buffer. -/
theorem cmdWrite_task {ix : Nat} (ht : x.task = some ix) : cmdWrite s x pl bs = bufferBytes s x.core ix pl bs := by
  simp only [cmdWrite, ht]

/-- A command of an aborted execution writes nothing. -/
theorem cmdWrite_aborted (ht : x.task = none) (ho : x.ord = true) : cmdWrite s x pl bs = s := by
  simp only [cmdWrite, ht, ho, if_true]

/-- A write to a vault goes to its bytes. -/
theorem cmdWrite_vault (ht : x.task = none) (ho : x.ord = false) (hv : pl.vault = true) :
    cmdWrite s x pl bs = writeBytes s x.ctx pl.key bs := by
  simp only [cmdWrite, ht, ho, hv, Bool.false_eq_true, if_false, if_true]

/-- A far write is posted. -/
theorem cmdWrite_far (ht : x.task = none) (ho : x.ord = false) (hv : pl.vault = false) :
    cmdWrite s x pl bs = postWrite s (s.cmdCtx x) pl bs := by
  simp only [cmdWrite, ht, ho, hv, Bool.false_eq_true, if_false]

/-! ### fld and fst (R168) -/

/-- An fld of readable bytes completes with their value. -/
theorem performFld_ok
    (ht : spaceTarget s (s.cmdCtx x) (f.mod.getLsbD 0) (x.arg 0) (fmtOf f).bytes .read = (s1, .place pl))
    (hbs : cmdRead s1 x pl (fmtOf f).bytes = (s2, .ok bs)) : performFld s x f =
      finishCmd s2 x (BitVec.ofNat 64 (loadVal (fmtOf f) (f.mod.getLsbD 3) 64 (ofBytesLE bs))) := by
  simp only [performFld, ht, hbs]

/-- An fld of poisoned bytes. -/
theorem performFld_poison (he : x.isE = false) (ho : x.ord = false)
    (ht : spaceTarget s (s.cmdCtx x) (f.mod.getLsbD 0) (x.arg 0) (fmtOf f).bytes .read = (s1, .place pl))
    (hk : cmdRead s1 x pl (fmtOf f).bytes = (s2, .error k)) :
    performFld s x f = poisonFate s2 x k (x.arg 0 + (k - pl.key)) := by
  simp only [performFld, ht, hk, failPoison_unordered he ho]

/-- An fld whose address has no place. -/
theorem performFld_fault {code lv ia : Nat}
    (ht : spaceTarget s (s.cmdCtx x) (f.mod.getLsbD 0) (x.arg 0) (fmtOf f).bytes .read = (s1, .fault code lv ia)) :
    performFld s x f = failSpace s1 x (f.mod.getLsbD 0) (x.arg 0) (.fault code lv ia) 0 := by
  simp only [performFld, ht]

/-- An fst whose address has a place writes there and completes. -/
theorem performFst_place
    (ht : spaceTarget s (s.cmdCtx x) (f.mod.getLsbD 0) (x.arg 0) (fmtOf f).bytes .write = (s1, .place pl)) :
    performFst s x f = finishCmd (cmdWrite s1 x pl (toBytesLE (fmtOf f).bytes (x.arg 1))) x 0 := by
  simp only [performFst, ht]

/-- An fst whose address has none. -/
theorem performFst_fault {code lv ia : Nat}
    (ht : spaceTarget s (s.cmdCtx x) (f.mod.getLsbD 0) (x.arg 0) (fmtOf f).bytes .write = (s1, .fault code lv ia)) :
    performFst s x f = failSpace s1 x (f.mod.getLsbD 0) (x.arg 0) (.fault code lv ia) 0 := by
  simp only [performFst, ht]

/-! ### fldv and fstv (R169) -/

/-- Readable lines of a vault are read one after another, and nothing changes. -/
theorem readLines_vault {ls : Nat → List Byte} (hv : vault = true) (ht : x.task = none)
    (h : ∀ j < n, InVault (s.ctx x.ctx).part (a + 64 * j) 64 ∧ readBytes s (vaultBase + (a + 64 * j)) 64 = .ok (ls j)) :
    readLines s x vault a n = (s, some ((List.range n).flatMap ls)) := by
  induction n generalizing a ls with
  | zero => rfl
  | succ n ih =>
    obtain ⟨hin, hbs⟩ := h 0 n.succ_pos
    have hrest : readLines s x vault (a + 64) n = (s, some ((List.range n).flatMap fun j => ls (j + 1))) :=
      ih fun j hj => by
        rw [show a + 64 + 64 * j = a + 64 * (j + 1) by omega]
        exact h (j + 1) (Nat.succ_lt_succ hj)
    have hline : spaceTarget s (s.cmdCtx x) vault a 64 .read = (s, .place (vaultPlace a)) := spaceTarget_inVault hv hin
    have hread : readBytes s (vaultBase + a) 64 = .ok (ls 0) := hbs
    simp only [readLines, hline, cmdRead_vault ht, hread, hrest, List.range_succ_eq_map, List.flatMap_cons,
      List.flatMap_map]

/-- One line that lies in the vaults is written there. -/
theorem writeLines_vault (hv : vault = true) (h : InVault (s.ctx x.ctx).part a 64) (ht : x.task = none)
    (ho : x.ord = false) :
    writeLines s x vault a bs 1 = (writeBytes s x.ctx (vaultBase + a) (bs.take 64), true) := by
  have hline : spaceTarget s (s.cmdCtx x) vault a 64 .write = (s, .place (vaultPlace a)) := spaceTarget_inVault hv h
  simp only [writeLines, hline, cmdWrite_vault ht ho (show (vaultPlace a).vault = true from rfl)]
  rfl

variable {ks : List Nat}

/-- An fldv at its start: the lines that it has read may be seen at their new places from now on. -/
theorem performFldv_start (hks : ownRange s (s.cmdCtx x) (x.arg 0) (lineBytes f) = some ks) (hst : x.started = false)
    (hbs : readLines s x (f.mod.getLsbD 0) (x.arg 1) (lineBytes f / 64) = (s1, some bs)) : performFldv s x f =
      loosen (s1.setCmd { x with started := true, snap := ks.zip bs }) x.cid (ks.zip bs) := by
  simp only [performFldv, hks, hst, hbs, Bool.false_eq_true, if_false]

/-- An fldv at its end writes what it has read. -/
theorem performFldv_end (hks : ownRange s (s.cmdCtx x) (x.arg 0) (lineBytes f) = some ks) (hst : x.started = true) :
    performFldv s x f = finishCmd (cmdStore s x.ctx x.snap) x (BitVec.ofNat 64 (lineBytes f)) := by
  simp only [performFldv, hks, hst, if_true]

/-- An fldv to bytes that do not exist. -/
theorem performFldv_range (he : x.isE = false) (ho : x.ord = false)
    (hks : ownRange s (s.cmdCtx x) (x.arg 0) (lineBytes f) = none) :
    performFldv s x f = commandFate s x causeSpmRange (x.arg 0) := by
  simp only [performFldv, hks, failCmd_unordered he ho]

/-- An fstv at its start keeps the bytes that stand at its source. -/
theorem performFstv_start (hks : ownRange s (s.cmdCtx x) (x.arg 0) (lineBytes f) = some ks)
    (hbs : readKeys s (memGet s.mem) ks = .ok bs) (hst : x.started = false) : performFstv s x f =
      s.setCmd { x with started := true, snap := (ks.zip bs).filter fun d => d.2 ≠ 0 } := by
  simp only [performFstv, hks, hbs, hst, Bool.not_false, if_true]

/-- An fstv at its end, where every line has a place. -/
theorem performFstv_end (hks : ownRange s (s.cmdCtx x) (x.arg 0) (lineBytes f) = some ks)
    (hbs : readKeys s (memGet s.mem) ks = .ok bs) (hst : x.started = true)
    (hw : writeLines s x (f.mod.getLsbD 0) (x.arg 1) (ks.map (movedByte s x.snap)) (lineBytes f / 64) = (s1, true)) :
    performFstv s x f = finishCmd s1 x (BitVec.ofNat 64 (lineBytes f)) := by
  simp only [performFstv, hks, hbs, hst, hw, Bool.not_true, Bool.false_eq_true, if_false]

/-- An fstv of poisoned bytes. -/
theorem performFstv_poison {j : Nat} (he : x.isE = false) (ho : x.ord = false)
    (hks : ownRange s (s.cmdCtx x) (x.arg 0) (lineBytes f) = some ks)
    (hj : readKeys s (memGet s.mem) ks = .error j) :
    performFstv s x f = poisonFate s x ((ks[j]?).getD 0) (x.arg 0 + j) := by
  simp only [performFstv, hks, hj, failPoison_unordered he ho]

/-- An fstv of bytes that do not exist. -/
theorem performFstv_range (he : x.isE = false) (ho : x.ord = false)
    (hks : ownRange s (s.cmdCtx x) (x.arg 0) (lineBytes f) = none) :
    performFstv s x f = commandFate s x causeSpmRange (x.arg 0) := by
  simp only [performFstv, hks, failCmd_unordered he ho]

end
end Sys2Proof.MemoryOps

/-!
Atomics, probes and line maintenance as they perform, and atomics on tiered ranges as they issue (spec/07 R170 to R174, R176).
-/
namespace Sys2Proof.MemoryOps
open Sys2Proof Sys2Proof.Machine Sys2Proof.Safety

section

variable {s s1 : State} {x : Cmd} {p : Pos} {f : Fields} {pl : Place} {bs : List Byte} {k code lv ia : Nat}

/-- What performs is decided by the command's instruction. -/
theorem performOff_amo (hi : x.instr = .amo p f) : performOff s x = performAtomic s x f fun old =>
    some (amoValue (f.mod.extractLsb' 2 3).toNat (fmtOf f).width old (x.arg 1)) := by
  simp only [performOff, hi]

theorem performOff_amocas (hi : x.instr = .amocas p f) : performOff s x = performAtomic s x f fun old =>
    if f.mod.getLsbD 2 ∨ old = x.arg 2 % 2 ^ (fmtOf f).width then some (x.arg 1) else none := by
  simp only [performOff, hi]

/-- An amo and an amocas are one atomic. -/
theorem performOff_atomic (hi : x.instr = .amo p f ∨ x.instr = .amocas p f) :
    ∃ new, performOff s x = performAtomic s x f new :=
  hi.elim (fun h => ⟨_, performOff_amo h⟩) fun h => ⟨_, performOff_amocas h⟩

theorem performOff_probe (hi : x.instr = .probe p f) : performOff s x = performProbe s x (f.mod.getLsbD 0) 8194 := by
  simp only [performOff, hi]

theorem performOff_cwb (hi : x.instr = .cwb p f) : performOff s x = performMaint s x true false := by
  simp only [performOff, hi]

theorem performOff_cinv (hi : x.instr = .cinv p f) : performOff s x = performMaint s x false true := by
  simp only [performOff, hi]

theorem performOff_cwbi (hi : x.instr = .cwbi p f) : performOff s x = performMaint s x true true := by
  simp only [performOff, hi]

/-- The three maintenance commands are one operation. -/
theorem performOff_maint (hi : x.instr = .cwb p f ∨ x.instr = .cinv p f ∨ x.instr = .cwbi p f) :
    ∃ wb drop, performOff s x = performMaint s x wb drop := by
  rcases hi with hi | hi | hi
  · exact ⟨_, _, performOff_cwb hi⟩
  · exact ⟨_, _, performOff_cinv hi⟩
  · exact ⟨_, _, performOff_cwbi hi⟩

/-! ### Atomics (R170 to R172) -/

/-- The state in which an atomic of a command meets its bytes: its access counts, and a page that moves is touched. -/
def atomicTouched (s : State) (x : Cmd) (s1 : State) (pl : Place) : State :=
  let sm := mscTouch s1 (s.ctx x.ctx).part (ctxReq s x.ctx none) .atomic pl.key
  if pl.vault then sm else touchLine sm pl.key

variable {new : Nat → Option Nat}

/-- An atomic that writes a value. -/
theorem performAtomic_writes {v : Nat} (hr : resolveFar s (s.cmdCtx x) (x.arg 0) .atomic = (s1, .place pl))
    (hbs : readBytes (atomicTouched s x s1 pl) pl.key (fmtOf f).bytes = .ok bs) (hnew : new (ofBytesLE bs) = some v) :
    performAtomic s x f new =
      finishCmd (engineWrite (atomicTouched s x s1 pl) x.ctx (s.ctx x.ctx).part pl (toBytesLE (fmtOf f).bytes v)) x
        (BitVec.ofNat 64 (ofBytesLE bs)) := by
  rw [atomicTouched] at hbs ⊢
  simp only [performAtomic, hr, hbs, hnew]

/-- An atomic that writes none: a cached line is still brought to its home. -/
theorem performAtomic_keeps (hr : resolveFar s (s.cmdCtx x) (x.arg 0) .atomic = (s1, .place pl))
    (hbs : readBytes (atomicTouched s x s1 pl) pl.key (fmtOf f).bytes = .ok bs) (hnew : new (ofBytesLE bs) = none) :
    performAtomic s x f new =
      finishCmd (if pl.vault ∨ pl.nc then atomicTouched s x s1 pl
        else dirHomeWrite (atomicTouched s x s1 pl) (s.ctx x.ctx).part (pl.ia / 64 * 64)) x
        (BitVec.ofNat 64 (ofBytesLE bs)) := by
  rw [atomicTouched] at hbs ⊢
  simp only [performAtomic, hr, hbs, hnew]

/-- An atomic whose address faults. -/
theorem performAtomic_fault (he : x.isE = false) (ho : x.ord = false)
    (hr : resolveFar s (s.cmdCtx x) (x.arg 0) .atomic = (s1, .fault code lv ia)) :
    performAtomic s x f new = commandFate s1 x causeFarFault (x.arg 0) := by
  simp only [performAtomic, hr, failSpace_far, failCmd_unordered he ho]

/-- An atomic on poisoned bytes. -/
theorem performAtomic_poison (he : x.isE = false) (ho : x.ord = false)
    (hr : resolveFar s (s.cmdCtx x) (x.arg 0) .atomic = (s1, .place pl))
    (hk : readBytes (atomicTouched s x s1 pl) pl.key (fmtOf f).bytes = .error k) :
    performAtomic s x f new = poisonFate (atomicTouched s x s1 pl) x k (x.arg 0 + (k - pl.key)) := by
  rw [atomicTouched] at hk ⊢
  simp only [performAtomic, hr, hk, failPoison_unordered he ho]

/-! ### Probes (R173) -/

/-- The address that a probe has come to. -/
def probeAt (x : Cmd) : Nat := (x.arg 0 + x.progress) % 2 ^ 64

/-- Bytes from there to the next page. -/
def probeStep (x : Cmd) : Nat := 2 ^ 19 - probeAt x % 2 ^ 19

variable {w : Bool} {fuel : Nat}

/-- A probe that has come to its end completes with 0. -/
theorem performProbe_end (h : x.arg 1 ≤ x.progress) : performProbe s x w (fuel + 1) = finishCmd s x 0 := by
  simp only [performProbe, ge_iff_le, h, if_true]

/-- A probe goes on from a page that is mapped. -/
theorem performProbe_page (h : x.progress < x.arg 1)
    (hr : resolveFar s (s.cmdCtx x) (probeAt x) (if w then .both else .read) = (s1, .place pl)) :
    performProbe s x w (fuel + 1) = performProbe s1 { x with progress := x.progress + probeStep x } w fuel := by
  rw [probeAt] at hr
  simp only [performProbe, ge_iff_le, if_neg (Nat.not_le.mpr h), hr, probeStep, probeAt]

/-- A probe of its last page. -/
theorem performProbe_lastPage (h : x.progress < x.arg 1) (hlast : x.arg 1 ≤ x.progress + probeStep x)
    (hr : resolveFar s (s.cmdCtx x) (probeAt x) (if w then .both else .read) = (s1, .place pl)) :
    performProbe s x w (fuel + 2) = finishCmd s1 { x with progress := x.progress + probeStep x } 0 :=
  (performProbe_page h hr).trans (performProbe_end hlast)

/-- A missing page holds the probe, as a page without the permission does. -/
theorem performProbe_held (h : x.progress < x.arg 1) (hc : code = 1 ∨ code = 5)
    (hr : resolveFar s (s.cmdCtx x) (probeAt x) (if w then .both else .read) = (s1, .fault code lv ia)) :
    performProbe s x w (fuel + 1) =
      s1.setCmd { x with fault := some (code, probeAt x), faultAt := (ia / 2 ^ 19 * 2 ^ 19, lv) } := by
  rw [probeAt] at hr ⊢
  simp only [performProbe, ge_iff_le, if_neg (Nat.not_le.mpr h), hr, if_pos hc]

/-- Any other fault completes it with the page and the code. -/
theorem performProbe_fault (h : x.progress < x.arg 1) (hc : ¬(code = 1 ∨ code = 5))
    (hr : resolveFar s (s.cmdCtx x) (probeAt x) (if w then .both else .read) = (s1, .fault code lv ia)) :
    performProbe s x w (fuel + 1) = finishCmd s1 x (BitVec.ofNat 64 (probeAt x / 2 ^ 19 * 2 ^ 19 + code)) := by
  rw [probeAt] at hr ⊢
  simp only [performProbe, ge_iff_le, if_neg (Nat.not_le.mpr h), hr, if_neg hc]

/-! ### Line maintenance (R174) -/

variable {wb drop : Bool} {l : CacheLine}

/-- A dirty line is written back where that is asked for. -/
theorem maintLine_dirty (h : l.dirty ≠ 0) : maintLine true drop s l = writeBack s l drop := by
  rw [maintLine, if_pos ⟨rfl, h⟩]

/-- A clean line leaves or stays as asked. -/
theorem maintLine_clean (h : ¬l.dirty ≠ 0) :
    maintLine wb drop s l = if drop then dropLine s l.cluster l.part l.line else s := by
  rw [maintLine, if_neg fun hd => h hd.2]

/-- Without a write back a line leaves, dirty or not. -/
theorem maintLine_drop : maintLine false true s l = dropLine s l.cluster l.part l.line := by
  simp [maintLine]

/-- Maintenance of no byte. -/
theorem performMaint_empty (h : x.arg 1 = 0) : performMaint s x wb drop = finishCmd s x 0 := by
  simp [performMaint, h]

/-- The lines that bytes of one line touch: one. -/
theorem maintLines_one {a n : Nat} (h0 : 0 < n) (h : a % 64 + n ≤ 64) : (a + n - a / 64 * 64 + 63) / 64 = 1 := by
  omega

/-- Maintenance of one line. -/
theorem performMaint_line (h0 : 0 < x.arg 1) (h : x.arg 0 % 64 + x.arg 1 ≤ 64) : performMaint s x wb drop =
    finishCmd (((ncLine s x (x.arg 0 / 64 * 64)).map (maintLine wb drop s)).getD s) x 0 := by
  have hlt : x.arg 0 / 64 * 64 < 2 ^ 64 := (Nat.div_mul_le_self _ _).trans_lt (BitVec.isLt _)
  simp only [performMaint, if_neg (Nat.ne_of_gt h0), maintLines_one h0 h, List.range_one, List.foldl_cons, List.foldl_nil,
    Nat.mul_zero, Nat.add_zero, Nat.mod_eq_of_lt hlt]
  cases ncLine s x (x.arg 0 / 64 * 64) <;> rfl

/-- Maintenance of a line that is not cached as non-coherent. -/
theorem performMaint_uncached (h0 : 0 < x.arg 1) (h : x.arg 0 % 64 + x.arg 1 ≤ 64)
    (hl : ncLine s x (x.arg 0 / 64 * 64) = none) : performMaint s x wb drop = finishCmd s x 0 := by
  rw [performMaint_line h0 h, hl]
  rfl

/-- Maintenance of a line that is. -/
theorem performMaint_cached (h0 : 0 < x.arg 1) (h : x.arg 0 % 64 + x.arg 1 ≤ 64)
    (hl : ncLine s x (x.arg 0 / 64 * 64) = some l) :
    performMaint s x wb drop = finishCmd (maintLine wb drop s l) x 0 := by
  rw [performMaint_line h0 h, hl]
  rfl

/-! ### Atomics on tiered ranges at issue (R172) -/

/-- An atomic through a tiered range entry traps, or waits in a speculative task. -/
theorem exec_atomic_tiered {i : Instr} {cls : Cls} {opcode : Nat} {info : OpInfo} {extra : State → List Word} {h : RangeHit}
    (hp : i.parts = some (cls, opcode, p, f)) (hi : opInfo i = some info)
    (hs : semOf i s = slotOp i f s fun _ s => atomicIssue s i p f (extra s)) (hiss : issues i s = true)
    (hh : rangeHit s.curCtx (alignDown (farOp s p f.k1 f.src1) (fmtOf f).bytes) = some h) (ht : h.tiered = true) :
    exec i s = .next (if s.isSpec s.curCtx then s
      else stopTrap s s.curCtx.handle causeHostAtomic p.index 0 true
        (BitVec.ofNat 64 (alignDown (farOp s p f.k1 f.src1) (fmtOf f).bytes))) := by
  rw [exec_slotOp hiss hp hi hs rfl]
  simp only [atomicIssue, hh, ht, if_true, atFrontier]
  cases hspec : s.isSpec s.curCtx
  · simp only [settleSlot, hspec, Bool.and_false, Bool.false_eq_true, if_false]
    rfl
  · rfl

end

/-- Settles O33: each clause is the lemma above for its command and case. -/
theorem offcoreResults : Obligations.OffcoreResults := by
  constructor
  · intro cid s x p f hx hr out fm n lines vault a far c part val data vaultAt inVault fate poisoned touched op w b dirty
    have perform : ∀ {t}, performOff s x = t → out t := exec_offcore hx hr
    have he : x.isE = false := isE_of_offReady hr
    have poison : ∀ {t k i}, performOff s x = poisonFate t x k i → poisoned t k i := fun h => perform h
    refine ⟨fun hi => ?fld, fun hi => ?fst, fun hi => ?fldv, fun hi => ?fstv, fun s1 pl bs hp hbs => ?atomic,
      fun hi ho => ?atomicFates, fun hi => ?probe, fun hi h0 => ?maintEmpty, fun h0 h1 => ⟨fun hl hi => ?uncached,
      fun l hl => ?cached⟩⟩
    case fld =>
      have done : ∀ {t}, performFld s x f = t → out t := fun h => perform ((performOff_fld hi).trans h)
      have vaultRead : x.task = none → ∀ {r}, readBytes s (vaultBase + a) n = r → cmdRead s x (vaultPlace a) n = (s, r) :=
        fun ht _ hbs => (cmdRead_vault ht).trans (congrArg (Prod.mk s) hbs)
      exact ⟨fun bs hv hin ht hbs => done (performFld_ok (spaceTarget_inVault hv hin) (vaultRead ht hbs)),
        fun s1 s2 pl bs hv hp hbs => done (performFld_ok (spaceTarget_far hv hp) hbs),
        fun hv ho hout => done ((performFld_fault (spaceTarget_outside hv hout)).trans (failSpace_vault hv he ho)),
        fun s1 code lv ia hv ho hf => done ((performFld_fault (spaceTarget_far hv hf)).trans
          ((failSpace_far hv).trans (failCmd_unordered he ho))),
        fun k hv hin ht ho hk => poison ((performOff_fld hi).trans
          (performFld_poison (pl := vaultPlace a) he ho (spaceTarget_inVault hv hin) (vaultRead ht hk))),
        fun s1 s2 pl k hv ho hp hk => poison ((performOff_fld hi).trans
          (performFld_poison he ho (spaceTarget_far hv hp) hk)),
        fun s1 code lv ia ix e hv hf ho ht hs hn => done ((performFld_fault (spaceTarget_far hv hf)).trans
          ((failSpace_far hv).trans (failCmd_deferred ho ht hs hn)))⟩
    case fst =>
      have done : ∀ {t}, performFst s x f = t → out t := fun h => perform ((performOff_fst hi).trans h)
      have write : ∀ {s1 pl t}, spaceTarget s c vault a n .write = (s1, .place pl) → cmdWrite s1 x pl data = t →
          out (finishCmd t x 0) := fun hp hw => done (hw ▸ performFst_place hp)
      exact ⟨fun hv hin ht ho => write (spaceTarget_inVault hv hin) (cmdWrite_vault ht ho rfl),
        fun ix hv hin ht => write (spaceTarget_inVault hv hin) (cmdWrite_task ht),
        fun s1 pl hv hp => ⟨fun hpl ht ho => write (spaceTarget_far hv hp) (cmdWrite_far ht ho hpl),
          fun ix ht => write (spaceTarget_far hv hp) (cmdWrite_task ht),
          fun ht ho => write (spaceTarget_far hv hp) (cmdWrite_aborted ht ho)⟩,
        fun hv ho hout => done ((performFst_fault (spaceTarget_outside hv hout)).trans (failSpace_vault hv he ho)),
        fun s1 code lv ia hv ho hf => done ((performFst_fault (spaceTarget_far hv hf)).trans
          ((failSpace_far hv).trans (failCmd_unordered he ho)))⟩
    case fldv =>
      have done : ∀ {t}, performFldv s x f = t → out t := fun h => perform ((performOff_fldv hi).trans h)
      exact ⟨fun ks ls hks hst hv ht hls => done (performFldv_start hks hst (readLines_vault hv ht hls)),
        fun ks s1 bs hks hst hbs => done (performFldv_start hks hst hbs), fun ks hks hst => done (performFldv_end hks hst),
        fun hks ho => done (performFldv_range he ho hks)⟩
    case fstv =>
      have done : ∀ {t}, performFstv s x f = t → out t := fun h => perform ((performOff_fstv hi).trans h)
      refine ⟨fun ks bs hks hbs => ⟨fun hst => done (performFstv_start hks hbs hst), fun hst hn hv hin ht ho => ?_,
          fun s1 hst hw => done (performFstv_end hks hbs hst hw)⟩,
        fun ks j hks hj ho => poison ((performOff_fstv hi).trans (performFstv_poison he ho hks hj)),
        fun hks ho => done (performFstv_range he ho hks)⟩
      have hw := writeLines_vault (bs := ks.map (movedByte s x.snap)) hv hin ht ho
      rw [show 1 = lines / 64 by rw [hn]] at hw
      exact done ((performFstv_end hks hbs hst hw).trans (congrArg (finishCmd _ x <| BitVec.ofNat 64 ·) hn))
    case atomic =>
      refine ⟨fun hi => ?_, fun hi => ⟨fun hc => ?_, fun hf hne => ?_⟩⟩
      · have byOp : ∀ {k}, op = k → out (finishCmd (engineWrite (touched s1 pl) x.ctx part pl
            (toBytesLE n (amoValue k w (ofBytesLE bs) b))) x (BitVec.ofNat 64 (ofBytesLE bs))) := fun hop =>
          perform ((performOff_amo hi).trans
            (performAtomic_writes hp hbs (congrArg (some <| amoValue · w (ofBytesLE bs) b) hop)))
        exact ⟨byOp, byOp, byOp, byOp, byOp, byOp, byOp, byOp⟩
      · exact perform ((performOff_amocas hi).trans (performAtomic_writes hp hbs (if_pos hc)))
      · have hc : ¬(f.mod.getLsbD 2 = true ∨ ofBytesLE bs = x.arg 2 % 2 ^ w) :=
          fun hc => hc.elim (fun ht => absurd (ht.symm.trans hf) (by decide)) hne
        exact perform ((performOff_amocas hi).trans (performAtomic_keeps hp hbs (if_neg hc)))
    case atomicFates =>
      obtain ⟨new, hnew⟩ := performOff_atomic (s := s) hi
      exact ⟨fun s1 code lv ia hf => perform (hnew.trans (performAtomic_fault he ho hf)),
        fun s1 pl k hp hk => poison (hnew.trans (performAtomic_poison he ho hp hk))⟩
    case probe =>
      have done : ∀ {t}, performProbe s x vault 8194 = t → out t := fun h => perform ((performOff_probe hi).trans h)
      exact ⟨fun h => done (performProbe_end h), fun s1 pl h hlast hp => done (performProbe_lastPage h hlast hp),
        fun s1 code lv ia h hf => ⟨fun hc => done (performProbe_held h hc hf),
          fun h1 h5 => done (performProbe_fault h (not_or.mpr ⟨h1, h5⟩) hf)⟩⟩
    case maintEmpty =>
      obtain ⟨wb, drop, hm⟩ := performOff_maint (s := s) hi
      exact perform (hm.trans (performMaint_empty h0))
    case uncached =>
      obtain ⟨wb, drop, hm⟩ := performOff_maint (s := s) hi
      exact perform (hm.trans (performMaint_uncached h0 h1 hl))
    case cached =>
      have line : ∀ {wb drop t}, performOff s x = performMaint s x wb drop → maintLine wb drop s l = t →
          out (finishCmd t x 0) := fun hm ht => perform (hm.trans (ht ▸ performMaint_cached h0 h1 hl))
      exact ⟨fun hi hd => line (performOff_cwb hi) (maintLine_dirty hd),
        fun hi hd => line (performOff_cwb hi) (maintLine_clean hd), fun hi => line (performOff_cinv hi) maintLine_drop,
        fun hi hd => line (performOff_cwbi hi) (maintLine_dirty hd),
        fun hi hd => line (performOff_cwbi hi) (maintLine_clean hd)⟩
  · intro p f s h a trap hh ht
    exact ⟨fun hiss => exec_atomic_tiered rfl rfl (semOf_amo p f s) hiss hh ht,
      fun hiss => exec_atomic_tiered rfl rfl (semOf_amocas p f s) hiss hh ht⟩
end Sys2Proof.MemoryOps

/-!
What the lane-wise operations of slots V0 and V1 come to, by the shape of their meaning (spec/08 R180 to R182, R194), and the
words that their integer forms compute (R185, R193).
-/
namespace Sys2Proof.VectorOps
open Sys2Proof Sys2Proof.Machine Sys2Proof.Safety Sys2Proof.ControlTasks Sys2Proof.ScalarScale

/-! ### The shapes of the operations -/

section Shapes

variable {i : Instr} {cls : Cls} {code : Nat} {p : Pos} {f : Fields} {s : State} {info : OpInfo} {v : Nat → Nat}

/-- A lane-wise operation puts its lanes in flight under the guard mask. -/
theorem exec_vecOp {g : State → Nat → Nat} (hp : i.parts = some (cls, code, p, f)) (hi : opInfo i = some info)
    (hs : semOf i s = vecOp i p f s g) (hv : ∀ l, g s l = v l) (h : issues i s = true) :
    exec i s = .next (putVec s p f.dst info.lat (guardMask s.curCtx f) v) :=
  funext hv ▸ exec_slotOp h hp hi hs rfl

/-- An operation on integers alone computes each lane from both extended sources. -/
theorem exec_veci {x : Bool} {g : Nat → Nat → Nat → Nat} (hp : i.parts = some (cls, code, p, f))
    (hi : opInfo i = some info) (hs : semOf i s = veci i p f s x g)
    (hv : ∀ l, g f.dst.bits (laneExt s p f.k1 f.src1 x f.dst.bits l) (laneExt s p f.k2 f.src2 x f.dst.bits l) = v l)
    (h : issues i s = true) : exec i s = .next (putVec s p f.dst info.lat (guardMask s.curCtx f) v) :=
  exec_vecOp hp hi hs hv h

/-- The integer form of an operation with two forms (R180). -/
theorem exec_vec2_integer {gi : Nat → Nat → Nat → Nat} {gf : Fmt → RMode → FVal → FVal → Nat}
    (hp : i.parts = some (cls, code, p, f)) (hi : opInfo i = some info) (hs : semOf i s = vec2 i p f s gi gf)
    (hf : f.fmt = 0) (hv : ∀ l, gi f.dst.bits (laneExt s p f.k1 f.src1 (xBit f) f.dst.bits l)
      (laneExt s p f.k2 f.src2 (xBit f) f.dst.bits l) = v l) (h : issues i s = true) :
    exec i s = .next (putVec s p f.dst info.lat (guardMask s.curCtx f) v) :=
  exec_vecOp hp hi hs (fun l => (if_pos hf).trans (hv l)) h

/-- The float or tapered form of an operation with two forms (R180, R186). -/
theorem exec_vec2_float {gi : Nat → Nat → Nat → Nat} {gf : Fmt → RMode → FVal → FVal → Nat}
    (hp : i.parts = some (cls, code, p, f)) (hi : opInfo i = some info) (hs : semOf i s = vec2 i p f s gi gf)
    (hf : f.fmt ≠ 0) (h : issues i s = true) : exec i s = .next (putVec s p f.dst info.lat (guardMask s.curCtx f) fun l =>
      gf (fmtOf f) (rmOf f) (laneVal s p f.k1 f.src1 (fmtOf f) l) (laneVal s p f.k2 f.src2 (fmtOf f) l)) :=
  exec_vecOp hp hi hs (fun _ => if_neg hf) h

/-- The integer form of a multiply-add: the product and the destination with their signs, added modulo 2^W (R185). -/
theorem exec_vmac_integer {sp sd : Bool} (r : Int → Int → Int) (hp : i.parts = some (cls, code, p, f))
    (hi : opInfo i = some info) (hs : semOf i s = vmac i p f s sp sd) (hf : f.fmt = 0)
    (hr : ∀ m d : Int, (if sp then -1 else 1) * m + (if sd then -1 else 1) * d = r m d) (h : issues i s = true) :
    exec i s = .next (putVec s p f.dst info.lat (guardMask s.curCtx f) fun l =>
      (r (laneExt s p f.k1 f.src1 (xBit f) f.dst.bits l * laneExt s p f.k2 f.src2 (xBit f) f.dst.bits l : Nat)
        (dstLane s p f l) % 2 ^ f.dst.bits).toNat) :=
  exec_vecOp hp hi hs (fun _ => (if_pos hf).trans (congrArg (wrapI f.dst.bits) (hr _ _))) h

/-- The float or tapered form of a multiply-add: the product and the destination with their signs, rounded once (R186). -/
theorem exec_vmac_float {sp sd : Bool} (r : FVal → FVal → FVal) (hp : i.parts = some (cls, code, p, f))
    (hi : opInfo i = some info) (hs : semOf i s = vmac i p f s sp sd) (hf : f.fmt ≠ 0)
    (hr : ∀ m d : FVal, FVal.add (rmOf f) (if sp then m.neg else m) (if sd then d.neg else d) = r m d)
    (h : issues i s = true) : exec i s = .next (putVec s p f.dst info.lat (guardMask s.curCtx f) fun l =>
      (fmtOf f).encode (rmOf f)
        (r (FVal.mul (laneVal s p f.k1 f.src1 (fmtOf f) l) (laneVal s p f.k2 f.src2 (fmtOf f) l))
          ((fmtOf f).decode (dstLane s p f l)))) :=
  exec_vecOp hp hi hs (fun _ => (if_neg hf).trans (congrArg ((fmtOf f).encode (rmOf f)) (hr _ _))) h

/-- An operation that writes a predicate lane by lane puts its bits in flight under the guard mask (R183). -/
theorem exec_vecPred {g : State → Nat → Bool} {b : Nat → Bool} (hp : i.parts = some (cls, code, p, f))
    (hi : opInfo i = some info) (hs : semOf i s = vecPred i p f s g) (hv : ∀ l, g s l = b l) (h : issues i s = true) :
    exec i s = .next (putPred s p f.dst.start.toNat info.lat (laneMask b) (guardMask s.curCtx f)) :=
  funext hv ▸ exec_slotOp h hp hi hs rfl

/-- An approximation of each lane; an immediate is the exact integer that it encodes (R194). -/
theorem exec_vecApprox {op : Approx} (hp : i.parts = some (cls, code, p, f)) (hi : opInfo i = some info)
    (hs : semOf i s = vecApprox i p f s op) (h : issues i s = true) :
    exec i s = .next (putVec s p f.dst info.lat (guardMask s.curCtx f) fun l =>
      if f.k1 = .imm then approxVal (fmtOf f) op ((fmtOf f).encode .rne (.ofInt f.src1.imm)) (.ofInt f.src1.imm)
      else approx (fmtOf f) op (srcLane s p f.k1 f.src1 64 l)) := by
  refine exec_vecOp hp hi hs (fun l => ?_) h
  cases f.k1 <;> rfl

end Shapes

/-! ### The words of the integer forms -/

/-- A number taken modulo 2^W is below it. -/
theorem wrapI_lt (W : Nat) (x : Int) : wrapI W x < 2 ^ W := by
  rw [wrapI, Int.toNat_lt' (by positivity)]
  exact_mod_cast Int.emod_lt_of_pos x (by positivity)

/-- A value extended to `W` bits is a `W`-bit word. -/
theorem extTo_lt (x : Bool) (w W v : Nat) : extTo x w W v < 2 ^ W := by
  rw [extTo]
  split_ifs
  · rw [narrow, BitVec.toNat_ofNat]
    exact (Nat.mod_le _ _).trans_lt (wrapI_lt W _)
  · exact Nat.mod_lt _ (by positivity)

/-- A vector source's lane extended to `W` bits is a `W`-bit word (R181). -/
theorem laneExt_lt (s : State) (p : Pos) (k : Kind) (o : Operand) (x : Bool) (W l : Nat) : laneExt s p k o x W l < 2 ^ W :=
  extTo_lt _ _ _ _

/-- vneg: a word negated modulo 2^W. -/
theorem wrapI_neg {W a : Nat} (ha : a < 2 ^ W) : wrapI W (-a) = (2 ^ W - a) % 2 ^ W := by
  have h : (-a : Int) ≡ (2 ^ W - a : Nat) [ZMOD 2 ^ W] := by
    rw [Nat.cast_sub ha.le]
    exact Int.modEq_iff_dvd.mpr ⟨1, by push_cast; ring⟩
  exact (wrapI_congr h).trans (wrapI_natCast W _)

/-- vadds and vsubs: a sum or a difference clamped as unsigned or as signed. -/
theorem addSat_saturating {W a b : Nat} (ha : a < 2 ^ W) (hb : b < 2 ^ W) (u neg : Bool) :
    addSat (if u then 2 else 1) W neg a b =
      if u then (if neg then a - b else min (a + b) (2 ^ W - 1))
      else (max (-2 ^ (W - 1)) (min (2 ^ (W - 1) - 1)
        (if neg then signed W a - signed W b else signed W a + signed W b)) % 2 ^ W : Int).toNat := by
  cases neg with
  | false => rw [addSat_add ha hb]; cases u <;> rfl
  | true => rw [addSat_sub ha hb]; cases u <;> rfl

/-- A number narrowed to a word of at most 64 bits. -/
theorem narrow_toNat {W : Nat} (hW : W ≤ 64) (x : Int) : (narrow W x).toNat = wrapI W x :=
  Nat.mod_eq_of_lt ((wrapI_lt W x).trans_le (Nat.pow_le_pow_right two_pos hW))

/-- A one-bit number extended to an operand of at least four bits (R193). -/
theorem extTo_bit (x b : Bool) (o : Operand) :
    extTo x 1 o.bits (if b then 1 else 0) = if b then (if x then 2 ^ o.bits - 1 else 1) else 0 := by
  have hle : o.bits ≤ 64 := Nat.mul_le_mul_left 4 o.wm1.isLt
  have hlt : 1 < o.bits := Nat.lt_of_lt_of_le (by decide : 1 < 4) (Nat.le_mul_of_pos_right 4 (Nat.succ_pos _))
  rw [extTo]
  cases x with
  | false =>
    rw [if_neg (by simp)]
    cases b with
    | false => exact Nat.zero_mod _
    | true => exact Nat.mod_eq_of_lt (Nat.one_lt_two_pow (by omega))
  | true =>
    rw [if_pos ⟨hlt, rfl⟩, narrow_toNat hle]
    cases b with
    | false => exact wrapI_of_lt (n := 0) (by positivity)
    | true => exact wrapI_neg_one o.bits
end Sys2Proof.VectorOps

/-!
The vector operations of slots V0 and V1 (spec/08 R181 to R202).
-/
namespace Sys2Proof.VectorOps
open Sys2Proof Sys2Proof.Machine Sys2Proof.Safety Sys2Proof.ControlTasks Sys2Proof.ScalarScale

/-! ### The integer forms (R182, R185, R191, R192) -/

/-- Settles O6: each operation is its shape, and its function of two words is the row of R185. -/
theorem vectorIntegerOperations : Obligations.VectorIntegerOperations := by
  constructor
  · intro p f s hf W x u a b d less top clamp out
    have ha : ∀ l, a l < 2 ^ W := laneExt_lt s p f.k1 f.src1 x W
    have hb : ∀ l, b l < 2 ^ W := laneExt_lt s p f.k2 f.src2 x W
    exact ⟨exec_vec2_integer rfl rfl (semOf_vadd p f s) hf fun l => addSat_add (ha l) (hb l) 0,
      exec_vec2_integer rfl rfl (semOf_vsub p f s) hf fun l => addSat_sub (ha l) (hb l) 0,
      exec_vec2_integer rfl rfl (semOf_vmul p f s) hf fun _ => rfl,
      exec_veci rfl rfl (semOf_vmulh p f s) fun l => mulHigh_eq (ha l) (hb l) u,
      exec_vmac_integer (fun m d => m + d) rfl rfl (semOf_vfma p f s) hf fun _ _ => by simp,
      exec_vmac_integer (fun m d => m - d) rfl rfl (semOf_vfms p f s) hf fun _ _ => by simp [sub_eq_add_neg],
      exec_vmac_integer (fun m d => d - m) rfl rfl (semOf_vfnma p f s) hf fun _ _ => by simp [sub_eq_neg_add],
      exec_vec2_integer rfl rfl (semOf_vmin p f s) hf fun l => minmaxI_eq (ha l) (hb l) false u,
      exec_vec2_integer rfl rfl (semOf_vmax p f s) hf fun l => minmaxI_eq (ha l) (hb l) true u,
      exec_vecOp rfl rfl (semOf_vabs p f s) fun l => (if_pos hf).trans (absI_eq (bits_pos f.dst) (a l)),
      exec_vecOp rfl rfl (semOf_vneg p f s) fun l => (if_pos hf).trans (wrapI_neg (ha l)),
      exec_veci rfl rfl (semOf_vadds p f s) fun l => addSat_saturating (ha l) (hb l) u false,
      exec_veci rfl rfl (semOf_vsubs p f s) fun l => addSat_saturating (ha l) (hb l) u true,
      exec_vecOp rfl rfl (semOf_viota p f s) fun _ => rfl⟩
  · intro p f s W x a b w a0 n q y out
    exact ⟨exec_veci rfl rfl (semOf_vand p f s) fun _ => rfl, exec_veci rfl rfl (semOf_vor p f s) fun _ => rfl,
      exec_veci rfl rfl (semOf_vxor p f s) fun _ => rfl, exec_veci rfl rfl (semOf_vsll p f s) fun _ => rfl,
      exec_veci rfl rfl (semOf_vsrl p f s) fun _ => rfl, exec_veci rfl rfl (semOf_vsra p f s) fun l => sraI_eq W (a l) (b l),
      exec_vecOp rfl rfl (semOf_vclz p f s) fun _ => rfl, exec_vecOp rfl rfl (semOf_vpopc p f s) fun _ => rfl,
      exec_vecOp rfl rfl (semOf_vext p f s) fun l => xtrI_eq x w W (a0 l) (n l),
      exec_vecOp rfl rfl (semOf_vmov p f s) fun _ => rfl, exec_vecOp rfl rfl (semOf_vli p f s) fun _ => rfl,
      exec_vecOp rfl rfl (semOf_vsel p f s) fun _ => rfl⟩

/-! ### Float and tapered forms, and vcvt (R186 to R190, R194) -/

/-- What vcvt converts: a lane of an integer source at its own width, or of a source in a format; an immediate is the integer
that it encodes (R190). -/
def cvtVal (p : Pos) (f : Fields) (s : State) (l : Nat) : FVal :=
  if f.mod.extractLsb' 2 4 = 0 then
    match f.k1 with
    | .imm => .ofInt f.src1.imm
    | _ => .ofInt (readI (f.mod.getLsbD 6) f.src1.bits (srcLane s p f.k1 f.src1 64 l))
  else laneVal s p f.k1 f.src1 ((Fmt.ofCode (f.mod.extractLsb' 2 4)).getD .fp32) l

/-- An immediate is the same integer whatever the source format is. -/
theorem cvtVal_eq (p : Pos) (f : Fields) (s : State) (l : Nat) : cvtVal p f s l =
    if f.k1 = .imm then .ofInt f.src1.imm
    else if f.mod.extractLsb' 2 4 = 0 then
      .ofInt (readI (f.mod.getLsbD 6) f.src1.bits (srcLane s p f.k1 f.src1 64 l))
    else ((Fmt.ofCode (f.mod.extractLsb' 2 4)).getD .fp32).decode (srcLane s p f.k1 f.src1 64 l) := by
  rw [cvtVal]
  cases f.k1 with
  | imm => exact ite_self _
  | slices | common | special => rfl

/-- vcvt: to an integer with saturation, or rounded into a format. -/
theorem exec_vcvt {p : Pos} {f : Fields} {s : State} (h : issues (.vcvt p f) s = true) :
    exec (.vcvt p f) s = .next (putVec s p f.dst 3 (guardMask s.curCtx f) fun l =>
      if f.fmt = 0 then wrapI f.dst.bits (toIntSat f.dst.bits (f.mod.getLsbD 6) (rmOf f) (cvtVal p f s l))
      else (fmtOf f).encode (rmOf f) (cvtVal p f s l)) := by
  refine exec_vecOp rfl rfl (semOf_vcvt p f s) (fun l => ?_) h
  unfold cvtVal
  cases f.k1 <;> rfl

/-- Settles O7: each form rounds its exact result once; vcvt is its case for the kind and the format of its source. -/
theorem vectorFloat : Obligations.VectorFloat := by
  constructor
  · intro p f s hf fm rm a b d e k app out
    exact ⟨exec_vec2_float rfl rfl (semOf_vadd p f s) hf,
      exec_vec2_float rfl rfl (semOf_vsub p f s) hf,
      exec_vec2_float rfl rfl (semOf_vmul p f s) hf,
      exec_vmac_float (FVal.add rm) rfl rfl (semOf_vfma p f s) hf fun _ _ => rfl,
      exec_vmac_float (fun m d => FVal.add rm m d.neg) rfl rfl (semOf_vfms p f s) hf fun _ _ => rfl,
      exec_vmac_float (fun m d => FVal.add rm m.neg d) rfl rfl (semOf_vfnma p f s) hf fun _ _ => rfl,
      exec_vec2_float rfl rfl (semOf_vmin p f s) hf,
      exec_vec2_float rfl rfl (semOf_vmax p f s) hf,
      exec_vecOp rfl rfl (semOf_vabs p f s) fun _ => if_neg hf,
      exec_vecOp rfl rfl (semOf_vneg p f s) fun _ => if_neg hf,
      exec_vecOp rfl rfl (semOf_vscale p f s) fun _ => rfl,
      exec_vecOp rfl rfl (semOf_vrnd p f s) fun _ => rfl,
      exec_vecApprox rfl rfl (semOf_vrcp p f s), exec_vecApprox rfl rfl (semOf_vrsqrt p f s),
      exec_vecApprox rfl rfl (semOf_vexp2 p f s), exec_vecApprox rfl rfl (semOf_vlog2 p f s)⟩
  · intro p f s h sc rm raw v
    have hv : cvtVal p f s = v := funext fun l => cvtVal_eq p f s l
    rw [exec_vcvt h, hv]
    rfl

/-! ### Lane predicates (R183, R191, R193) -/

/-- Settles O8: vcmp and vpset write one bit a lane, vpget and vfirst read the bits of a predicate. -/
theorem vectorPredicates : Obligations.VectorPredicates := by
  intro p f s n on code W a b fa fb q V
  refine ⟨fun h hf => ?_, fun h hf => ?_, ?_, ?_, ?_⟩
  · have ha : ∀ l, a l < 2 ^ W := laneExt_lt s p f.k1 f.src1 _ W
    have hb : ∀ l, b l < 2 ^ W := laneExt_lt s p f.k2 f.src2 _ W
    exact exec_vecPred rfl rfl (semOf_vcmp p f s) (fun l => (if_pos hf).trans (intCond_of_lt code (ha l) (hb l))) h
  · exact exec_vecPred rfl rfl (semOf_vcmp p f s) (fun _ => if_neg hf) h
  · refine exec_vecPred rfl rfl (semOf_vpset p f s) fun l => ?_
    rw [Bool.eq_iff_iff, bne_iff_ne, decide_eq_true_iff]
  · exact exec_vecOp rfl rfl (semOf_vpget p f s) fun l => extTo_bit (xBit f) (q.getLsbD l) f.dst
  · exact exec_vecOp rfl rfl (semOf_vfirst p f s) fun _ => rfl

/-! ### Across the lanes (R196 to R199, R201, R202) -/

/-- Settles O9: a lane's result is its function of the lanes as they stood at issue; vslide has a case for its direction. -/
theorem vectorAcrossLanes : Obligations.VectorAcrossLanes := by
  constructor
  · intro p f s on n a out
    exact ⟨fun h => exec_slotOp h rfl rfl (semOf_vred p f s) rfl, exec_vecOp rfl rfl (semOf_vscan p f s) fun _ => rfl,
      exec_vecOp rfl rfl (semOf_vperm p f s) fun _ => rfl, exec_vecOp rfl rfl (semOf_vbcast p f s) fun _ => rfl,
      exec_vecOp rfl rfl (semOf_vrot p f s) fun _ => rfl,
      fun h hd => exec_vecOp rfl rfl (semOf_vslide p f s) (fun _ => if_neg (Bool.eq_false_iff.mp hd)) h,
      fun h hd => exec_vecOp rfl rfl (semOf_vslide p f s) (fun _ => if_pos hd) h⟩
  · intro p f s on g d a b out
    exact ⟨fun h => exec_slotOp h rfl rfl (semOf_vpack p f s) rfl, fun h => exec_slotOp h rfl rfl (semOf_vunpack p f s) rfl,
      exec_vecOp rfl rfl (semOf_vdot p f s) fun _ => rfl, exec_vecOp rfl rfl (semOf_vdotsu p f s) fun _ => rfl⟩
end Sys2Proof.VectorOps

/-!
What an engine command's work comes to as it completes: copies, tiles and multicasts (spec/09 R219 to R225), matrix
commands (R213 to R217), collectives (R226, R227) and calls (spec/12 R264 to R273).
-/
namespace Sys2Proof.Engines
open Sys2Proof Sys2Proof.Machine

section

variable {s t : State} {x y : Cmd} {p : Pos} {f : Fields} {bs : List Byte} {ks : List Nat} {j n : Nat} {e : EFail}

/-! ### The completion of a command (R206) -/

/-- A command that is ready completes with its work. -/
theorem exec_complete {cid : Nat} (hx : s.cmd? cid = some x) (hr : engReady s x = true) :
    exec (.engineCommandComplete cid) s = .next (engWork s x) := by
  change execEngineCommandComplete cid s = _
  simp only [execEngineCommandComplete, hx, hr, if_true]

/-- The work is decided by the command's instruction. -/
theorem engWork_mcall (hi : x.instr = .mcall p f) : engWork s x = runCall s x := by simp only [engWork, hi]

theorem engWork_mload (hi : x.instr = .mload p f) : engWork s x = runMload s x := by simp only [engWork, hi]

theorem engWork_smcopy (hi : x.instr = .smcopy p f) : engWork s x = runSmcopy s x := by simp only [engWork, hi]

theorem engWork_accld (hi : x.instr = .accld p f) : engWork s x = runAccld s x := by simp only [engWork, hi]

theorem engWork_accst (hi : x.instr = .accst p f) : engWork s x = runAccst s x := by simp only [engWork, hi]

theorem engWork_adrain (hi : x.instr = .adrain p f) : engWork s x = runAdrain s x := by simp only [engWork, hi]

theorem engWork_aclr (hi : x.instr = .aclr p f) : engWork s x = runAclr s x := by simp only [engWork, hi]

theorem engWork_ncopy (hi : x.instr = .ncopy p f) : engWork s x = runNcopy s x := by simp only [engWork, hi]

theorem engWork_rows {scatter : Bool} (hi : x.instr = if scatter then .escat p f else .egath p f) :
    engWork s x = runRows s x scatter := by
  cases scatter <;> simp only [engWork, hi, if_true, Bool.false_eq_true, if_false]

theorem engWork_mcast {bar : Bool} (hi : x.instr = if bar then .mcastb p f else .mcast p f) :
    engWork s x = runMcast s x bar := by
  cases bar <;> simp only [engWork, hi, if_true, Bool.false_eq_true, if_false]

theorem engWork_tile {op : Nat}
    (hi : op = 0 ∧ x.instr = .tnld p f ∨ op = 1 ∧ x.instr = .tnst p f ∨ op = 2 ∧ x.instr = .tnpf p f) :
    engWork s x = runTile s x op := by
  rcases hi with ⟨rfl, hi⟩ | ⟨rfl, hi⟩ | ⟨rfl, hi⟩ <;> simp only [engWork, hi]

theorem engWork_coll (hi : x.instr = .coll p f) : engWork s x = runColl s x := by simp only [engWork, hi]

theorem engWork_ebar (hi : x.instr = .ebar p f) : engWork s x = doneOk s x 0 := by simp only [engWork, hi]

theorem engWork_ecancel (hi : x.instr = .ecancel p f) : engWork s x = finishCmd s x (ecv ecOk 0 x.count) := by
  simp only [engWork, hi]

/-! ### Copies (R220 to R222) -/

section
variable {probe wr : Bool} {hop : Nat → Hop} {total : Nat}

/-- A copy that reaches its end completes with its bytes. -/
theorem runCopy_done (h : copyRun s {} x hop x.progress (total - x.progress) = (t, j, none)) :
    runCopy s x probe hop total = doneOk t x total := by
  simp only [runCopy, h]

/-- A copy that fails has moved the bytes before its failure. -/
theorem runCopy_fails (h : copyRun s {} x hop x.progress (total - x.progress) = (t, j, some (e, wr))) :
    runCopy s x probe hop total = copyFail t x probe j j e wr := by
  simp only [runCopy, h]

end

/-- The digit of a position in a dimension of `m` steps, and what remains of the position. -/
theorem digit_mod {i m r : Nat} (h : i < m) : (i + m * r) % m = i := by
  rw [Nat.add_mul_mod_self_left, Nat.mod_eq_of_lt h]

theorem digit_div {i m r : Nat} (h : i < m) : (i + m * r) / m = r := by
  rw [Nat.add_mul_div_left _ _ (Nat.zero_lt_of_lt h), Nat.div_eq_of_lt h, Nat.zero_add]

/-- The byte position of an ncopy at which its loop counters are `i` (R220). -/
def ncopyPos (x : Cmd) (i : Nat → Nat) : Nat :=
  i 0 + ncopyCount x 0 * (i 1 + ncopyCount x 1 * (i 2 + ncopyCount x 2 * (i 3 + ncopyCount x 3 *
    (i 4 + ncopyCount x 4 * i 5))))

/-- The offset of an ncopy's source (0) or destination (32) at some loop counters (R220). -/
def ncopyOff (x : Cmd) (i : Nat → Nat) (lsb : Nat) : Int :=
  (i 0 : Int) + i 1 * signed 32 (bitsOf (x.word 4) lsb 32) + i 2 * signed 32 (bitsOf (x.word 5) lsb 32)
    + i 3 * signed 32 (bitsOf (x.word 6) lsb 32) + i 4 * signed 32 (bitsOf (x.word 7) lsb 32)
    + i 5 * signed 32 (bitsOf (x.word 8) lsb 32)

/-- The addresses of a hop are those of the loop counters that its position stands for. -/
theorem ncopyHop_pos {i : Nat → Nat} (h : ∀ d < 6, i d < ncopyCount x d) :
    (ncopyHop x (ncopyPos x i)).sa = (((x.word 0 : Int) + ncopyOff x i 0) % 2 ^ 64).toNat ∧
      (ncopyHop x (ncopyPos x i)).da = (((x.word 1 : Int) + ncopyOff x i 32) % 2 ^ 64).toNat := by
  have h0 := h 0 (by decide)
  have h1 := h 1 (by decide)
  have h2 := h 2 (by decide)
  have h3 := h 3 (by decide)
  have h4 := h 4 (by decide)
  simp only [ncopyHop, ncopyPos, ncopyOff, ← Nat.div_div_eq_div_mul, digit_div h0, digit_div h1, digit_div h2,
    digit_div h3, digit_div h4, digit_mod h0, digit_mod h1, digit_mod h2, digit_mod h3, digit_mod h4, and_self]

/-- A byte position of a gather or scatter (R222): the packed bytes lie from the local address on, the others in the rows that
the indices choose. -/
def rowHop (x : Cmd) (scatter : Bool) (idx : List Nat) (j : Nat) : Hop :=
  let b := bitsOf (x.word 2) 32 16
  let loc := bitsOf (x.word 1) 0 32
  let space := bitsOf (x.word 3) 62 2
  let r := (x.word 0 + (idx[j / b]?.getD 0) * bitsOf (x.word 2) 0 32 + j % b) % 2 ^ 64
  if scatter then Hop.mk 0 (loc + j) space r else Hop.mk space r 0 (loc + j)

variable {scatter : Bool}

/-- A gather or scatter of no row completes. -/
theorem runRows_empty (h : bitsOf (x.word 2) 48 16 = 0) : runRows s x scatter = doneOk s x 0 := by
  simp only [runRows, h, if_true]

/-- One of some rows is a copy. -/
theorem runRows_copies {idx : List Nat} (h0 : 0 < bitsOf (x.word 2) 48 16) (hidx : idxList s x = .ok idx)
    (hl : ownForm (bitsOf (x.word 1) 0 32) = true) :
    runRows s x scatter = runCopy s x ((x.word 3).testBit 61 && bitsOf (x.word 3) 62 2 == 2) (rowHop x scatter idx)
      (bitsOf (x.word 2) 48 16 * bitsOf (x.word 2) 32 16) := by
  simp only [runRows, if_neg (Nat.ne_of_gt h0), hidx, hl, Bool.not_true, Bool.false_eq_true, if_false]
  rfl

/-! ### Multicasts (R223, R224) -/

/-- The address of a multicast's bytes at a member. -/
def mcastDst (x : Cmd) (m : Nat) : Nat := 2 ^ 31 + m * 2 ^ 24 + bitsOf (x.word 0) 32 20

/-- The arrival that an mcastb brings with its bytes. -/
def mcastArrive (s t : State) (x : Cmd) (bar : Bool) : State :=
  if bar then t.arrive (s.cmdCtx x).gkey (s.cmdCtx x).gang (bitsOf (x.word 1) 32 9) else t

/-- A multicast's bytes written at every member of its mask. -/
def mcastWrite (s : State) (x : Cmd) (bs : List Byte) : State :=
  (maskMembers (x.word 2)).foldl (fun t m => match spmRange t (s.cmdCtx x) (mcastDst x m) (bitsOf (x.word 1) 0 32) with
    | some dks => cmdStore t x.ctx (dks.zip bs)
    | none => t) s

variable {bar : Bool}

/-- A multicast of no byte still arrives. -/
theorem runMcast_empty (h : bitsOf (x.word 1) 0 32 = 0) : runMcast s x bar = doneOk (mcastArrive s s x bar) x 0 := by
  simp only [runMcast, h, if_true, Nat.zero_mul]
  rfl

/-- A multicast whose source and destinations lie in the banks writes each of them. -/
theorem runMcast_writes (h0 : 0 < bitsOf (x.word 1) 0 32)
    (hks : ownRange s (s.cmdCtx x) (bitsOf (x.word 0) 0 32) (bitsOf (x.word 1) 0 32) = some ks)
    (hbs : readKeys s (movedByte s x.snap) ks = .ok bs)
    (hd : ∀ m ∈ maskMembers (x.word 2), (spmRange s (s.cmdCtx x) (mcastDst x m) (bitsOf (x.word 1) 0 32)).isSome = true) :
    runMcast s x bar = doneOk (mcastArrive s (mcastWrite s x bs) x bar) x
      (bitsOf (x.word 1) 0 32 * (maskMembers (x.word 2)).length) := by
  have hfind : (maskMembers (x.word 2)).find? (fun m =>
      (spmRange s (s.cmdCtx x) (mcastDst x m) (bitsOf (x.word 1) 0 32)).isNone) = none :=
    List.find?_eq_none.mpr fun m hm => by simp [Option.isNone_eq_false_iff.mpr (hd m hm)]
  unfold mcastDst at hfind
  simp only [runMcast, if_neg (Nat.ne_of_gt h0), hks, hbs, hfind]
  rfl

/-! ### Tiles (R225) -/

section
variable {op : Nat} {h : Handle}

/-- A tile of no element completes. -/
theorem runTile_empty (hh : handleOf s x = some h) (h0 : tileCount x = 0) : runTile s x op = doneOk s x 0 := by
  simp only [runTile, hh, h0, if_true]

/-- A tile whose last element has moved completes with its bytes; a prefetch has none. -/
theorem runTile_done (hh : handleOf s x = some h) (h0 : 0 < tileCount x)
    (hl : op = 2 ∨ ownForm (bitsOf (x.word 0) 32 32) = true)
    (hr : tileRun s {} x h op (bitsOf (x.word 0) 32 32) x.progress (tileCount x - x.progress) = (t, j, none)) :
    runTile s x op = doneOk t x (if op = 2 then 0 else packedBytes h.fmt (tileCount x)) := by
  have hform : ¬(op ≠ 2 ∧ (!ownForm (bitsOf (x.word 0) 32 32)) = true) :=
    fun ⟨hop, hno⟩ => hl.elim hop fun hown => by simp [hown] at hno
  simp only [runTile, hh, if_neg (Nat.ne_of_gt h0), if_neg hform, hr]

end

/-! ### Matrix commands (R213 to R217) -/

/-- A copy of no byte into the side store completes. -/
theorem runSmcopy_empty (h : bitsOf (x.word 0) 48 15 = 0) : runSmcopy s x = finishCmd s x (ecv ecOk 0 0) := by
  simp only [runSmcopy, h, if_true]

/-- The bytes read go to the side store. -/
theorem runSmcopy_ok (h0 : 0 < bitsOf (x.word 0) 48 15)
    (hbs : spmRead (srcView s x) (s.cmdCtx x) (bitsOf (x.word 0) 0 32) (bitsOf (x.word 0) 48 15) = .ok bs) :
    runSmcopy s x = finishCmd (s.storeBytes (sideKey x.core + bitsOf (x.word 0) 32 14) bs) x
      (ecv ecOk 0 (bitsOf (x.word 0) 48 15)) := by
  simp only [runSmcopy, if_neg (Nat.ne_of_gt h0), hbs]

/-- The accumulator block of a descriptor (R215): its rows and columns, and the word of its `j`th element. -/
def accRows (x : Cmd) : Nat := bitsOf (x.word 0) 40 7 + 1
def accCols (x : Cmd) : Nat := bitsOf (x.word 0) 56 7 + 1
def accCell (x : Cmd) (j : Nat) : Nat × Nat :=
  (bitsOf (x.word 0) 32 7 + j / accCols x, bitsOf (x.word 0) 48 7 + j % accCols x)

/-- The bytes read become the words of the block. -/
theorem runAccld_ok (hbs : spmRead (srcView s x) (s.cmdCtx x) (bitsOf (x.word 0) 0 32) (4 * accRows x * accCols x) = .ok bs) :
    runAccld s x = finishCmd (s.setAccs x.core ((List.range (accRows x * accCols x)).map fun j =>
      ((accCell x j).1, (accCell x j).2, ofBytesLE ((bs.drop (4 * j)).take 4)))) x (ecv ecOk 0 (4 * accRows x * accCols x)) := by
  unfold accRows accCols at hbs
  simp only [runAccld, accDesc, hbs]
  rfl

/-- Bytes go to an address that can take them. -/
theorem spmOut_ok {a : Nat} {k : State → State} (h : spmRange s (s.cmdCtx x) a bs.length = some ks) :
    spmOut s x a bs k = k (cmdStore s x.ctx (ks.zip bs)) := by
  simp only [spmOut, h]

/-- The bytes of a block's words. -/
def accBytes (s : State) (x : Cmd) : List Byte :=
  (List.range (accRows x * accCols x)).flatMap fun j => toBytesLE 4 (s.acc x.core (accCell x j).1 (accCell x j).2)

/-- The words of the block become bytes. -/
theorem runAccst_ok (h : spmRange s (s.cmdCtx x) (bitsOf (x.word 0) 0 32) (accBytes s x).length = some ks) :
    runAccst s x = finishCmd (cmdStore s x.ctx (ks.zip (accBytes s x))) x (ecv ecOk 0 (4 * accRows x * accCols x)) :=
  spmOut_ok (k := fun t => finishCmd t x (ecv ecOk 0 (4 * accRows x * accCols x))) h

/-- The bytes of a drained block (R216). -/
def drainedBytes (s : State) (x : Cmd) : List Byte :=
  let fo := (Fmt.ofCode (BitVec.ofNat 4 (x.arg 2 / 2 ^ 20))).getD .fp32
  packCodes fo ((List.range (accRows x * accCols x)).map fun j =>
    drainCode (x.mods.getLsbD 0) fo ((x.args[3]?).getD 0).toInt (s.acc x.core (accCell x j).1 (accCell x j).2))

/-- A drained block's codes are written, and its words are cleared where that is asked for. -/
theorem runAdrain_ok (h : spmRange s (s.cmdCtx x) (bitsOf (x.word 0) 0 32) (drainedBytes s x).length = some ks) :
    let t := cmdStore s x.ctx (ks.zip (drainedBytes s x))
    runAdrain s x = finishCmd (if x.mods.getLsbD 1
      then clearBlock t x.core (bitsOf (x.word 0) 32 7) (accRows x) (bitsOf (x.word 0) 48 7) (accCols x) else t) x
      (ecv ecOk 0 (drainedBytes s x).length) :=
  spmOut_ok (k := fun t => finishCmd (if x.mods.getLsbD 1
    then clearBlock t x.core (bitsOf (x.word 0) 32 7) (accRows x) (bitsOf (x.word 0) 48 7) (accCols x) else t) x
    (ecv ecOk 0 (drainedBytes s x).length)) h

/-- The routine that an mload's header names, its length, and the micro-ops that its core's store has for it already. -/
def loadIndex (x : Cmd) : Nat := bitsOf (x.word 0) 0 6
def loadLen (x : Cmd) : Nat := bitsOf (x.word 0) 16 11
def ownOps (s : State) (x : Cmd) : Option Nat :=
  ((s.core x.core).store.find? fun r => r.index == loadIndex x).map fun r => r.ops.length

/-- A header that an mload accepts (R213): a writable routine's number, a length, zeros, a routine of no other grid, and room. -/
def LoadAccepted (s : State) (x : Cmd) : Prop :=
  32 ≤ loadIndex x ∧ 1 ≤ loadLen x ∧ loadLen x ≤ 1024 ∧ bitsOf (x.word 0) 6 10 = 0 ∧ bitsOf (x.word 0) 27 37 = 0 ∧
    (∀ r ∈ (s.core x.core).store, r.index = loadIndex x → r.gkey = x.gkey) ∧
    loadLen x ≤ 1024 - (s.core x.core).usedOps + (ownOps s x).getD 0

/-- The micro-ops of the bytes that an mload has read. -/
def loadedOps (x : Cmd) (bs : List Byte) : List Word :=
  (List.range (loadLen x)).map fun i => BitVec.ofNat 64 (ofBytesLE ((bs.drop (8 * i)).take 8))

/-- What an mload asks of its header in turn: fields in range, a routine that is no other grid's, and room. -/
theorem loadAccepted_iff : LoadAccepted s x ↔
    ¬(loadIndex x < 32 ∨ loadLen x = 0 ∨ loadLen x > 1024 ∨ bitsOf (x.word 0) 6 10 ≠ 0 ∨ bitsOf (x.word 0) 27 37 ≠ 0) ∧
    ¬((s.core x.core).store.any fun r => r.index == loadIndex x && r.gkey != x.gkey) = true ∧
    ¬1024 - (s.core x.core).usedOps + (ownOps s x).getD 0 < loadLen x := by
  have hmine : ¬((s.core x.core).store.any fun r => r.index == loadIndex x && r.gkey != x.gkey) = true ↔
      ∀ r ∈ (s.core x.core).store, r.index = loadIndex x → r.gkey = x.gkey := by simp
  simp only [hmine, LoadAccepted, not_or, not_not, Nat.not_lt, gt_iff_lt, ne_eq, Nat.one_le_iff_ne_zero, and_assoc]

/-- A header that is not accepted refuses the load. -/
theorem runMload_unaccepted (h : ¬LoadAccepted s x) : runMload s x = finishCmd s x (ecv ecRefused 0 0) := by
  rw [loadAccepted_iff] at h
  simp only [runMload]
  split
  · rfl
  split
  · rfl
  split
  · rfl
  next hhead hmine hroom => exact absurd ⟨hhead, hmine, hroom⟩ h

/-- An accepted load replaces its routine, or is refused for a micro-op. -/
theorem runMload_accepted (h : LoadAccepted s x)
    (hbs : spmRead (srcView s x) (s.cmdCtx x) (x.arg 0 + 8) (8 * loadLen x) = .ok bs) :
    runMload s x = if (List.range (loadLen x)).all fun i => uopOk (loadLen x) i (((loadedOps x bs)[i]?).getD 0)
      then finishCmd (s.setCore x.core { s.core x.core with
        store := (s.core x.core).store.filter (fun y => y.index != loadIndex x) ++
          [{ index := loadIndex x, gkey := x.gkey, ops := loadedOps x bs }] }) x (ecv ecOk 0 (loadLen x))
      else finishCmd s x (ecv ecRefused 0 0) := by
  obtain ⟨hhead, hmine, hroom⟩ := loadAccepted_iff.mp h
  unfold loadIndex loadLen at hhead
  unfold loadIndex at hmine
  unfold ownOps loadIndex loadLen at hroom
  unfold loadLen at hbs
  simp only [runMload, if_neg hhead, if_neg hmine, if_neg hroom, hbs]
  rfl

/-- A load of good micro-ops. -/
theorem runMload_ok (h : LoadAccepted s x)
    (hbs : spmRead (srcView s x) (s.cmdCtx x) (x.arg 0 + 8) (8 * loadLen x) = .ok bs)
    (hops : ∀ i < loadLen x, uopOk (loadLen x) i (((loadedOps x bs)[i]?).getD 0) = true) :
    runMload s x = finishCmd (s.setCore x.core { s.core x.core with
      store := (s.core x.core).store.filter (fun y => y.index != loadIndex x) ++
        [{ index := loadIndex x, gkey := x.gkey, ops := loadedOps x bs }] }) x (ecv ecOk 0 (loadLen x)) := by
  rw [runMload_accepted h hbs, if_pos (List.all_eq_true.mpr fun i hi => hops i (List.mem_range.mp hi))]

/-- A bad micro-op refuses the load. -/
theorem runMload_badOps (h : LoadAccepted s x)
    (hbs : spmRead (srcView s x) (s.cmdCtx x) (x.arg 0 + 8) (8 * loadLen x) = .ok bs)
    (hops : ∃ i < loadLen x, uopOk (loadLen x) i (((loadedOps x bs)[i]?).getD 0) = false) :
    runMload s x = finishCmd s x (ecv ecRefused 0 0) := by
  obtain ⟨i, hi, hbad⟩ := hops
  have hall : ¬((List.range (loadLen x)).all fun i => uopOk (loadLen x) i (((loadedOps x bs)[i]?).getD 0)) = true :=
    fun hall => Bool.false_ne_true (hbad.symm.trans (List.all_eq_true.mp hall i (List.mem_range.mpr hi)))
  rw [runMload_accepted h hbs, if_neg hall]

/-! ### Collectives (R226) -/

/-- The bytes that a coll keeps after its descriptor. -/
def collKept (x : Cmd) : List Byte := (x.args.drop 5).map fun w => w.setWidth 8

/-- A coll whose member gets no byte completes. -/
theorem putColl_empty (h : collKept x = []) : putColl s x = doneOk s x 0 := if_pos h

/-- The bytes that a coll keeps go to its destination. -/
theorem putColl_writes (h : collKept x ≠ [])
    (hks : ownRange s (s.cmdCtx x) (bitsOf (x.word 0) 32 32) (collKept x).length = some ks) :
    putColl s x = doneOk (cmdStore s x.ctx (ks.zip (collKept x))) x (collKept x).length := by
  unfold collKept at h hks
  simp only [putColl, if_neg h, hks]
  rfl

/-- A coll whose result is fixed writes it. -/
theorem runColl_fixed (h : x.progress = 2) : runColl s x = putColl s x := if_pos h

/-- The first of a collective to complete fixes every member's result, and then writes its own. -/
theorem runColl_fixes (h : x.progress ≠ 2) (hy : (collFix s x).cmd? x.cid = some y) :
    runColl s x = putColl (collFix s x) y := by
  simp only [runColl, if_neg h, hy]

/-! ### Calls (spec/12 R264 to R273) -/

section
variable {k : CallCtx} {idx : Nat}

/-- The state in which a ROM routine finds its operands: a co-operative one whose barrier nobody has seen pass reads them all as
its call completes (R272). -/
def romView (s : State) (k : CallCtx) (idx : Nat) : State :=
  if 24 ≤ idx then if k.x.progress = 0 then { s with loose := [] } else srcView s k.x else srcView s k.x

/-- A tile's words go to the accumulators; one that fails changes none. -/
def tileEnd (s : State) (k : CallCtx) : Except EFail (List (Nat × Nat × Nat)) → State × Option EFail
  | .error e => (s, some e)
  | .ok ws => (s.setAccs k.x.core ws, none)

/-- A ROM routine but cdrain is its tile. -/
theorem runRom_tile (h : idx < 28) :
    runRom s k idx = tileEnd s k (romTile (romView s k idx) k (idx / 4) (idx % 4)) := by
  have h7 : idx / 4 ≠ 7 := by omega
  have h6 : 24 ≤ idx ↔ idx / 4 = 6 := by omega
  have hview : romView s k idx = if idx / 4 = 6 ∧ k.x.progress = 0 then { s with loose := [] } else srcView s k.x := by
    simp only [romView, h6, ite_and]
  rw [runRom, if_neg h7, hview]
  cases romTile _ k (idx / 4) (idx % 4) <;> rfl

/-- The last ROM routines are cdrain. -/
theorem runRom_cdrain (h : 28 ≤ idx) (h' : idx < 32) : runRom s k idx = runCdrain s k (idx % 4) :=
  if_pos (by omega)

/-- The run that a core keeps for a call, and the state once the engine is free of it. -/
def runOf (s : State) (x : Cmd) : Option EngineRun := (s.core x.core).run.filter fun r => r.cid == x.cid
def freed (s : State) (x : Cmd) : State := if (runOf s x).isSome then setRun s x.core none else s

/-- What a call comes to: a ROM routine's effect, or the rows that a writable routine has still to write. -/
def callEnd (s : State) (x : Cmd) : State × Option EFail :=
  if x.arg 0 < 32 then runRom (freed s x) (callCtx s x) (x.arg 0)
  else landRows (freed s x) x (((runOf s x).map (·.drains)).getD [])

/-- A call that ends well completes. -/
theorem runCall_done (h : callEnd s x = (t, none)) : runCall s x = doneOk t x 0 := by
  unfold callEnd freed runOf at h
  simp only [runCall]
  split at h <;> rename_i hrom <;> simp only [hrom, if_true, if_false, h]

/-- One that fails faults its grid. -/
theorem runCall_fails (h : callEnd s x = (t, some e)) : runCall s x = failEng t x e 0 := by
  unfold callEnd freed runOf at h
  simp only [runCall]
  split at h <;> rename_i hrom <;> simp only [hrom, if_true, if_false, h]

end

end

/-- Settles O34: each clause is the lemma above for its command and case. -/
theorem engineResults : Obligations.EngineResults := by
  intro cid s x p f hx hr out ok rel c v w row rows col cols at32 cell
  have done : ∀ {t}, engWork s x = t → out t := fun h => h ▸ exec_complete hx hr
  refine ⟨fun hi => done (engWork_ebar hi), fun hi => done (engWork_ecancel hi), fun hi => done (engWork_aclr hi),
    fun hi => ?smcopy, fun hi bs hbs => done ((engWork_accld hi).trans (runAccld_ok hbs)),
    fun hi ks hks => done ((engWork_accst hi).trans (runAccst_ok hks)),
    fun hi ks hks => done ((engWork_adrain hi).trans (runAdrain_ok hks)),
    fun hi => ?mload, fun hi => ?ncopy, fun scatter hi => ?rows, fun bar hi => ?mcast, fun op h t j hi hh => ?tile,
    fun hi hp => ?collFixed, fun hi hp y hy => done ((engWork_coll hi).trans (runColl_fixes hp hy)), fun hi => ?mcall⟩
  case smcopy =>
    have work := engWork_smcopy (s := s) hi
    exact ⟨fun h0 => done (work.trans (runSmcopy_empty h0)), fun bs h0 hbs => done (work.trans (runSmcopy_ok h0 hbs))⟩
  case mload =>
    have work := engWork_mload (s := s) hi
    exact ⟨fun h => done (work.trans (runMload_unaccepted h)), fun bs h hbs =>
      ⟨fun hops => done (work.trans (runMload_ok h hbs hops)), fun hops => done (work.trans (runMload_badOps h hbs hops))⟩⟩
  case ncopy =>
    have work := engWork_ncopy (s := s) hi
    exact ⟨fun t j h => done (work.trans (runCopy_done h)), fun t j e wr h => done (work.trans (runCopy_fails h)),
      fun i h => ncopyHop_pos h⟩
  case rows =>
    have work := engWork_rows (s := s) hi
    exact ⟨fun h0 => done (work.trans (runRows_empty h0)), fun idx t j h0 hidx hl h =>
      done (work.trans ((runRows_copies h0 hidx hl).trans (runCopy_done h)))⟩
  case mcast =>
    have work := engWork_mcast (s := s) hi
    exact ⟨fun h0 => done (work.trans (runMcast_empty h0)), fun ks bs h0 hks hbs hd =>
      done (work.trans (runMcast_writes h0 hks hbs hd))⟩
  case tile =>
    have work := engWork_tile (s := s) hi
    exact ⟨fun h0 => done (work.trans (runTile_empty hh h0)), fun h0 hl h => done (work.trans (runTile_done hh h0 hl h))⟩
  case collFixed =>
    have work := (engWork_coll (s := s) hi).trans (runColl_fixed hp)
    exact ⟨fun h0 => done (work.trans (putColl_empty h0)), fun ks h0 hks => done (work.trans (putColl_writes h0 hks))⟩
  case mcall =>
    intro k idx mine s1
    have ends : ∀ {t}, callEnd s x = (t, none) → out (finishCmd (rel t) x (ecv ecOk 0 0)) :=
      fun h => done ((engWork_mcall hi).trans (runCall_done h))
    have fails : ∀ {t e}, callEnd s x = (t, some e) → out (failEng t x e 0) :=
      fun h => done ((engWork_mcall hi).trans (runCall_fails h))
    have rom : idx < 32 → callEnd s x = runRom s1 k idx := fun h => if_pos h
    have tile : ∀ {r}, idx < 28 → romTile (romView s1 k idx) k (idx / 4) (idx % 4) = r → callEnd s x = tileEnd s1 k r :=
      fun h hr => (rom (by omega)).trans ((runRom_tile h).trans (congrArg _ hr))
    have view : idx < 24 → romView s1 k idx = srcView s1 x := fun h => if_neg (Nat.not_le.mpr h)
    have coopView : 24 ≤ idx → romView s1 k idx = if x.progress = 0 then { s1 with loose := [] } else srcView s1 x :=
      fun h => if_pos h
    have coopKind : 24 ≤ idx → idx < 28 → idx / 4 = 6 := by omega
    have rows : 32 ≤ idx → callEnd s x = landRows s1 x ((mine.map (·.drains)).getD []) :=
      fun h => if_neg (Nat.not_lt.mpr h)
    exact ⟨fun ws h hr => ends (tile (r := .ok ws) (by omega) (view h ▸ hr)),
      fun e h hr => fails (tile (r := .error e) (by omega) (view h ▸ hr)),
      fun ws h h' hr => ends (tile (r := .ok ws) h' (by rw [coopView h, coopKind h h', hr])),
      fun t h h' hr => ends ((rom h').trans ((runRom_cdrain h h').trans hr)),
      fun t h hr => ends ((rows h).trans hr), fun t e h hr => fails ((rows h).trans hr)⟩
end Sys2Proof.Engines

/-!
How engine commands start and how collectives begin (spec/09 R205 to R207, R218, R226, R227).
-/
namespace Sys2Proof.Engines
open Sys2Proof Sys2Proof.Machine

section

variable {s : State} {x : Cmd} {cid : Nat}

/-! ### The start of a command (R205, R207) -/

/-- A command whose turn has come has not started. -/
theorem not_started_of_engTurn (h : engTurn s x = true) : x.started = false := by
  cases hq : x.queue <;> simp_all [engTurn]

/-- A call that waits for an episode has. -/
theorem started_of_coopWaits {r : EngineRun × BarWait} (h : coopWaits s x = some r) : x.started = true := by
  unfold coopWaits at h
  split at h
  · split at h
    next hw => exact hw.1
    next => cases h
  · cases h

/-- So a command does not wait for an episode as its turn comes. -/
theorem coopWaits_none_of_engTurn (h : engTurn s x = true) : coopWaits s x = none :=
  Option.eq_none_iff_forall_ne_some.mpr fun _ hr =>
    Bool.false_ne_true ((not_started_of_engTurn h).symm.trans (started_of_coopWaits hr))

/-- A co-operative call reads its operands once its episode has completed. -/
theorem exec_start_coop {r : EngineRun} {w : BarWait} (hx : s.cmd? cid = some x) (hr : coopWaits s x = some (r, w))
    (hc : s.clockStopped x.core = false) (hb : s.barPassed x.gkey (s.ctx x.ctx).gang w = true) :
    exec (.engineCommandStart cid) s = .next (coopReads s x r) := by
  change execEngineCommandStart cid s = _
  simp [execEngineCommandStart, hx, hr, hc, hb]

/-- The state in which a command's descriptor is read: the matrix engine of another grid is zeroed first. -/
def engCleared (s : State) (x : Cmd) : State := if x.queue = .mq then zeroEngine s x.core x.gkey else s

/-- How a command with a good descriptor begins. -/
def begins (s : State) (x : Cmd) : State :=
  match x.instr with
  | .mcall _ _ => startCall s x
  | .emit _ _ => startEmit s x
  | .coll _ _ => present s x
  | _ => startMoving s x

/-- A command whose turn has come, and whose wait operand is resolved, fails or begins. -/
theorem exec_start (hx : s.cmd? cid = some x) (ht : engTurn s x = true) (hw : x.waitCid = none) :
    exec (.engineCommandStart cid) s = .next (if x.dep then finishCmd s x (ecv ecDep 0 0)
      else if descGood (engCleared s x) x then begins (engCleared s x) x
      else failEng (engCleared s x) x (badDesc x) 0) := by
  change execEngineCommandStart cid s = _
  have hturn : ¬((!engTurn s x) = true ∨ x.waitCid.isSome = true) := by simp [ht, hw]
  simp only [execEngineCommandStart, hx, coopWaits_none_of_engTurn ht, if_neg hturn]
  cases hd : x.dep
  case true => rfl
  cases hg : descGood (engCleared s x) x <;> unfold engCleared at hg <;> simp only [hg]
  case false => rfl
  unfold begins
  cases x.instr <;> rfl

/-! ### The start of a collective (R226, R227) -/

/-- The participants of a coll: of each selected member the first that it presents. -/
def collParts (s : State) (x : Cmd) : List Cmd := (maskMembers (x.word 2)).filterMap (collOf s (collPeers s x))

/-- A coll that is presented and has not started, where no peer's clock is stopped. -/
theorem collStart_ready (hq : x.queue = .cq) (hs : x.started = false) (hp : x.progress = 1)
    (hc : ∀ y ∈ collPeers s x, s.clockStopped y.core = false) :
    ¬(x.queue ≠ .cq ∨ x.started = true ∨ x.progress ≠ 1 ∨
      ((collPeers s x).any fun y => s.clockStopped y.core) = true) := by
  simpa [hq, hs, hp] using hc

/-- Peers that agree, one of each selected member and each with a source that can be read, start together. -/
theorem exec_collStart_begins (hx : s.cmd? cid = some x) (hq : x.queue = .cq) (hs : x.started = false) (hp : x.progress = 1)
    (hc : ∀ y ∈ collPeers s x, s.clockStopped y.core = false)
    (hw : ∀ y ∈ collPeers s x, y.word 1 = x.word 1 ∧ y.word 2 = x.word 2)
    (hall : (collParts s x).length = (maskMembers (x.word 2)).length)
    (hsrc : ∀ y ∈ collParts s x, ∃ v, collSource s y (collFm x) = .ok v) :
    exec (.collStart cid) s = .next (collBegin s x (collParts s x)) := by
  change execCollStart cid s = _
  have hagree : ¬((collPeers s x).any fun y => y.word 1 != x.word 1 || y.word 2 != x.word 2) = true := by
    simpa using hw
  have hfail : (collParts s x).find? (fun y => match collSource s y (collFm x) with
      | .error _ => true
      | .ok _ => false) = none :=
    List.find?_eq_none.mpr fun y hy => by
      obtain ⟨v, hv⟩ := hsrc y hy
      simp [hv]
  unfold collParts at hall hfail
  simp only [execCollStart, hx, if_neg (collStart_ready hq hs hp hc), if_neg hagree, if_neg (not_not.mpr hall)]
  split
  next y hy => exact absurd (hfail.symm.trans hy) (Option.some_ne_none y).symm
  next => rfl

/-- Peers that do not agree all end. -/
theorem exec_collStart_mismatch (hx : s.cmd? cid = some x) (hq : x.queue = .cq) (hs : x.started = false) (hp : x.progress = 1)
    (hc : ∀ y ∈ collPeers s x, s.clockStopped y.core = false)
    (hw : ∃ y ∈ collPeers s x, y.word 1 ≠ x.word 1 ∨ y.word 2 ≠ x.word 2) :
    exec (.collStart cid) s = .next
      (collEnd s x (maskMembers ((collPeers s x).foldl (fun m y => m ||| y.word 2) 0)) ecMismatch) := by
  change execCollStart cid s = _
  have hdiffer : ((collPeers s x).any fun y => y.word 1 != x.word 1 || y.word 2 != x.word 2) = true := by
    simpa using hw
  simp only [execCollStart, hx, if_neg (collStart_ready hq hs hp hc), if_pos hdiffer]

end

/-- Settles O32: a start, a completion, a collective's start and an off-core command's turn, each by the lemma about it. -/
theorem engineCommands : Obligations.EngineCommands := by
  intro cid s x hx s1 ms peers parts
  refine ⟨fun r w hr hc hb => exec_start_coop hx hr hc hb, fun ht hw hd => ?dep, fun ht hw hd hg => ?begins,
    fun ht hw hd hg => ?bad, fun hr => exec_complete hx hr,
    fun hq hs hp hc hw hall hsrc => exec_collStart_begins hx hq hs hp hc hw hall hsrc,
    fun hq hs hp hc hw => exec_collStart_mismatch hx hq hs hp hc hw, fun hr => MemoryOps.exec_offcore hx hr rfl⟩
  case dep =>
    rw [exec_start hx ht hw, if_pos hd]
  case begins =>
    have hgood : descGood (engCleared s x) x = true := hg
    rw [exec_start hx ht hw, if_neg (Bool.eq_false_iff.mp hd), if_pos hgood]
    rfl
  case bad =>
    have hbad : descGood (engCleared s x) x = false := hg
    rw [exec_start hx ht hw, if_neg (Bool.eq_false_iff.mp hd), if_neg (Bool.eq_false_iff.mp hbad)]
    rfl
end Sys2Proof.Engines

/-!
Departures of a port's chunks, mirror copies and fail-over (spec/09 R229, spec/20 R410 to R412).
-/
namespace Sys2Proof.StreamIo
open Sys2Proof Sys2Proof.Machine

/-! ### Departures (R229, R410) -/

section

variable {s : State} {port : Nat} {c : Chunk}

/-- When a chunk may leave: the latest of its instant, the end of the port's chunk before it and its arrival. -/
def chunkStart (s : State) (port : Nat) (c : Chunk) : Nat :=
  max (c.instant * 1000) (max ((tabGet? s.portFree port).getD 0) c.since)

/-- The state without a chunk. -/
def chunkTaken (s : State) (c : Chunk) : State := { s with chunks := s.chunks.filter (· ≠ c) }

/-- A chunk leaves for its session's peer, and its port is busy until its end. -/
def chunkLeaves (s : State) (port : Nat) (c : Chunk) : State :=
  let start := chunkStart s port c
  let y := s.session c.part c.session
  endEmit (((markSent ((({ chunkTaken s c with
      portFree := tabSet s.portFree port (start + (c.bytes.length + 148) * 5) } : State)).output
    (.chunk port c.session start (s.ep c.session).peer c.bytes)) c).setSession
      { y with emitted := y.emitted + 1, lastLevel := y.level, lastHold := c.hold }).refresh c.part c.session)
    c ecOk c.bytes.length

/-- A chunk whose time has come leaves. -/
theorem exec_departure_leaves (hc : nextChunk s port = some c) (hh : holdFirst s c = false) (hl : c.late = false)
    (ht : chunkStart s port c ≤ c.instant * 1000 + 20000) (hn : chunkStart s port c ≤ s.nowPs) :
    exec (.emissionDeparture port) s = .next (chunkLeaves s port c) := by
  change execEmissionDeparture port s = _
  have hlate : ¬(c.late || decide (chunkStart s port c > c.instant * 1000 + 20000)) = true := by simpa [hl] using ht
  unfold chunkStart at hlate hn
  simp only [execEmissionDeparture, hc, hh, if_neg hlate, if_neg (Nat.not_lt.mpr hn), Bool.false_eq_true, if_false]
  rfl

/-- A chunk that would leave too late is dropped and counted. -/
theorem exec_departure_late (hc : nextChunk s port = some c) (hh : holdFirst s c = false)
    (hl : c.late = true ∨ c.instant * 1000 + 20000 < chunkStart s port c) (hn : c.instant * 1000 ≤ s.nowPs) :
    exec (.emissionDeparture port) s =
      .next (endEmit (countLateChunk (chunkTaken s c) c.part c.session port) c ecLate 0) := by
  change execEmissionDeparture port s = _
  have hlate : (c.late || decide (chunkStart s port c > c.instant * 1000 + 20000)) = true := by simpa using hl
  unfold chunkStart at hlate
  simp only [execEmissionDeparture, hc, hh, if_pos hlate, if_neg (Nat.not_lt.mpr hn), Bool.false_eq_true, if_false]
  rfl

end

/-! ### Mirror copies (R411) -/

section

variable {s : State} {n : Nat} {g h : Grid}

/-- An action job of the session of `g` that its table still holds. -/
def SameSession (g h : Grid) : Prop := h.kind = .action ∧ h.part = g.part ∧ h.session = g.session ∧ h.past = false

/-- One of them that ended without a miss and has not been mirrored. -/
def MirrorDue (g h : Grid) : Prop := SameSession g h ∧ h.status = .ended ∧ h.missed = false ∧ h.mirrored = false

/-- Both as `execMirrorCopy` decides them. -/
def sameSession (g h : Grid) : Bool := h.kind == .action && h.part == g.part && h.session == g.session && !h.past
def mirrorDue (g h : Grid) : Bool := sameSession g h && h.status == .ended && !h.missed && !h.mirrored

theorem sameSession_iff : sameSession g h = true ↔ SameSession g h := by
  simp [sameSession, SameSession, and_assoc]

theorem mirrorDue_iff : mirrorDue g h = true ↔ MirrorDue g h := by
  simp [mirrorDue, MirrorDue, sameSession_iff, and_assoc]

/-- The mirror source goes to the buffer that is not current, and the header then commits it. -/
def mirrored (s : State) (g : Grid) : State :=
  let e := s.ep g.session
  let src := vaultBase + e.field 5 0 64 / 64 * 64
  let dst := vaultBase + e.field 6 0 64 / 64 * 64
  let len := e.field 7 0 21 / 64 * 64
  let buf := 1 - s.load (dst + 0x10) 8 % 2
  ((agentWrite (agentWrite s (dst + 64 + buf * len) (memGetList s.mem src len)) dst (toBytesLE 8 (e.generation + 1) ++
    toBytesLE 8 g.jobNo ++ toBytesLE 8 buf ++ List.replicate 40 0)).setEp
      { e with generation := e.generation + 1 }).setGrid { g with mirrored := true }

/-- The job that is due is copied once no earlier job of its session runs or is to be copied. -/
theorem exec_mirrorCopy (hg : s.grid? n = some g) (hd : MirrorDue g g) (hf : (s.session g.part g.session).field 9 4 1 = 1)
    (hs : onShadow (s.ep g.session) (s.session g.part g.session) = false) (hr : (s.part g.part).resetting = false)
    (hfirst : ∀ h ∈ s.grids, SameSession g h → h.jobNo < g.jobNo → ¬MirrorDue g h ∧ h.status ≠ .ready) :
    exec (.mirrorCopy n) s = .next (mirrored s g) := by
  change execMirrorCopy n s = _
  have hearlier : ¬(s.grids.any fun h => sameSession g h && decide (h.jobNo < g.jobNo) &&
      (mirrorDue g h || h.status == .ready)) = true := fun hany => by
    obtain ⟨h, hmem, hh⟩ := List.any_eq_true.mp hany
    simp only [Bool.and_eq_true, Bool.or_eq_true, decide_eq_true_eq, beq_iff_eq, sameSession_iff, mirrorDue_iff] at hh
    obtain ⟨⟨hsame, hlt⟩, hwaits⟩ := hh
    obtain ⟨hnot, hready⟩ := hfirst h hmem hsame hlt
    exact hwaits.elim hnot hready
  have hturn : ¬((!mirrorDue g g) = true ∨ (s.session g.part g.session).field 9 4 1 = 0 ∨
      onShadow (s.ep g.session) (s.session g.part g.session) = true ∨ (s.part g.part).resetting = true ∨
      (s.grids.any fun h => sameSession g h && decide (h.jobNo < g.jobNo) &&
        (mirrorDue g h || h.status == .ready)) = true) := by
    simp only [mirrorDue_iff.mpr hd, hf, hs, hr, hearlier, Bool.not_true, Bool.false_eq_true, one_ne_zero, or_self,
      not_false_eq_true]
  simp only [execMirrorCopy, hg]
  exact if_neg hturn

end

/-- Settles O48: the two ends of a chunk's departure, a mirror copy in its turn, and a fail-over that is due. -/
theorem emissionsAndFailover : Obligations.EmissionsAndFailover := by
  intro s port n session c g x t start y rest e src dst len buf mine ended f
  refine ⟨exec_departure_leaves, exec_departure_late, exec_mirrorCopy, fun hf hx => ?_⟩
  change execFailoverSwitch session s = _
  have hat : (s.ep session).failAt = some t := hf
  simp only [execFailoverSwitch, hat, hx]
  rfl
end Sys2Proof.StreamIo

/-!
Placement of a grid's next gang, the end of a slice, a late yield and the save of a yielding context (spec/19 R383,
R387 to R389; spec/11 R247).
-/
namespace Sys2Proof.TrapsContexts
open Sys2Proof Sys2Proof.Machine

section

variable {s t : State} {n i h : Nat} {g : Grid} {x : Gang}

/-! ### Placement (R383, R387) -/

/-- No waiting grid that goes before another can be placed itself. -/
def FirstToPlace (s : State) (g : Grid) : Prop := ∀ r ∈ aheadOf s g, placeNext s r = none

/-- What keeps a grid from being placed: it does not wait, or a grid before it can be placed. -/
theorem placement_not_barred (hw : waits s g = true) (hf : FirstToPlace s g) :
    ¬((!waits s g) = true ∨ ((aheadOf s g).any fun r => (placeNext s r).isSome) = true) := by
  rintro (hnot | hany)
  · simp [hw] at hnot
  · obtain ⟨r, hr, hsome⟩ := List.any_eq_true.mp hany
    simp [hf r hr] at hsome

/-- The next gang of the grid whose turn it is gets its place where it fits. -/
theorem exec_gangPlace_places (hg : s.grid? n = some g) (hw : waits s g = true) (hf : FirstToPlace s g)
    (hp : placeNext s g = some t) : exec (.gangPlace n) s = .next t := by
  change execGangPlace n s = _
  simp only [execGangPlace, hg, hp]
  exact if_neg (placement_not_barred hw hf)

/-- Where it does not fit, the gang that it displaces is asked to yield. -/
theorem exec_gangPlace_asks {y : Grid × Gang} (hg : s.grid? n = some g) (hw : waits s g = true) (hf : FirstToPlace s g)
    (hp : placeNext s g = none) (hd : displaced s g = some y) :
    exec (.gangPlace n) s = .next (askYield s y.1 y.2) := by
  change execGangPlace n s = _
  simp only [execGangPlace, hg, hp, hd]
  exact if_neg (placement_not_barred hw hf)

/-- A grid's next gang is tried in the clusters from the cursor on. -/
theorem placeNext_eq_placeFirst {gi : Nat} (hn : nextGangOf (s.setGrid (withLevel s g)) (withLevel s g) = some gi) :
    placeNext s g = placeFirst (s.setGrid (withLevel s g)) (withLevel s g) gi
      (clusterOrder (withLevel s g).part (s.part (withLevel s g).part).cursorCluster) := by
  simp only [placeNext, hn, Option.bind_some]

/-! ### Yields (R388, R389) -/

/-- A launch that waits, of the same deadline as a running gang's, for cores that the gang is on. -/
def RivalOf (s : State) (g : Grid) (x : Gang) (r : Grid) : Prop :=
  r.part = g.part ∧ r.isJob = false ∧ r.keyDeadline = g.keyDeadline ∧ waits s r = true ∧
    gangOn s g x (neededCores s r) = true

/-- A launch's gang whose slice is over yields to a rival and passes its turn. -/
theorem exec_sliceExpiry (hg : s.grid? n = some g) (hx : g.gang? i = some x) (hj : g.isJob = false)
    (hs : x.status = .running) (ht : x.placedAt + g.slice ≤ s.now) (hr : ∃ r ∈ s.grids, RivalOf s g x r) :
    exec (.sliceExpiry n i) s = .next (askYield s g { x with turn := true }) := by
  obtain ⟨r, hmem, hpart, hjob, hkey, hwaits, hon⟩ := hr
  have hrival : (s.grids.any fun r => r.part == g.part && !r.isJob && r.keyDeadline == g.keyDeadline &&
      waits s r && gangOn s g x (neededCores s r)) = true :=
    List.any_eq_true.mpr ⟨r, hmem, by simp [hpart, hjob, hkey, hwaits, hon]⟩
  change execSliceExpiry n i s = _
  simp only [execSliceExpiry, hg, hx]
  exact if_pos ⟨by simp [hj], hs, ht, hrival⟩

/-- A gang that is past its bound and has not been counted is counted. -/
theorem countLate_counts {asked : Nat} (hx : g.gang? i = some x) (ha : x.yieldAt = some asked) (hl : x.yieldLate = false)
    (hp : yieldPast g.hdr asked s.now = true) :
    countLate s g i = (s.setGrid (g.setGang { x with yieldLate := true })).bumpReg (gafReg g.part 0x100) 1 := by
  simp [countLate, hx, ha, hl, hp]

/-- A yielding gang that is late is counted, once. -/
theorem exec_yieldLate {asked : Nat} (hg : s.grid? n = some g) (hx : g.gang? i = some x) (ha : x.yieldAt = some asked)
    (hs : x.status = .yielding) (hl : x.yieldLate = false) (hp : yieldPast g.hdr asked s.now = true) :
    exec (.yieldLate n i) s =
      .next ((s.setGrid (g.setGang { x with yieldLate := true })).bumpReg (gafReg g.part 0x100) 1) := by
  rw [← countLate_counts hx ha hl hp]
  change execYieldLate n i s = _
  simp only [execYieldLate, hg, hx, ha]
  exact if_pos ⟨hs, by simp [hl], hp⟩

/-! ### Saves (R247) -/

/-- A yielding context once its writes and its cluster's dirty lines have come home and it counts as saved. -/
def yieldedCtx (s : State) (h : Nat) (c : Ctx) : State :=
  (phaseRelease s c 2).modCtx h fun d => { d with status := .saved, yieldReq := false }

/-- A yielding context without a pending token is saved to its area. -/
theorem exec_contextSave {c : Ctx} (hc : s.ctx? h = some c) (hs : c.status = .yielding) (ht : c.tokPend = 0) :
    exec (.contextSave h) s =
      .next (settleGang (saveArea (yieldedCtx s h c) ((yieldedCtx s h c).ctx h)) c.gkey c.gang) := by
  change execContextSave h s = _
  simp only [execContextSave, hc]
  exact if_pos ⟨hs, ht⟩

end

/-- Settles O40: each event's guard holds under its clause, and the event does what the clause says. -/
theorem placement : Obligations.Placement := by
  intro s n i h g x c t first
  refine ⟨exec_gangPlace_places, fun _ => placeNext_eq_placeFirst, fun _ => exec_gangPlace_asks, exec_sliceExpiry,
    fun _ => exec_yieldLate, exec_contextSave⟩
end Sys2Proof.TrapsContexts

/-!
Partition resets and errors in stored data (spec/11 R254, spec/13 R303), and the commands that merge and split
partitions (spec/22 R422 to R424).
-/
namespace Sys2Proof.TrapsContexts
open Sys2Proof Sys2Proof.Machine

/-! ### Resets and errors (R254, R303) -/

section

variable {s : State} {part cls store unit addr : Nat} {x : CacheLine}

/-- A partition that is present and not resetting resets. -/
theorem exec_partitionReset (hp : partPresent s.prtCfg part = true) (h6 : part ≤ 6) (h0 : 0 < cls) (h5 : cls ≤ 5)
    (hr : (s.part part).resetting = false) : exec (.partitionReset part cls) s = .next (resetPartition s part cls) := by
  change execPartitionReset part cls s = _
  refine if_neg ?_
  simp only [hp, hr, Bool.not_true, Bool.false_eq_true, false_or, or_false]
  omega

/-- A partition whose supervisor's image verified is back when its reset is done. -/
theorem exec_partitionResetDone (hr : (s.part part).resetting = true) (hi : (s.part part).imageBad = false) :
    exec (.partitionResetDone part) s = .next (s.setPart { s.part part with resetting := false }) := by
  change execPartitionResetDone part s = _
  exact if_pos ⟨hr, by simp [hi]⟩

/-- A corrected error of a memory that R306 numbers is recorded with its unit and its address. -/
theorem exec_eccCorrected_memory (hs : store ≤ 4) : exec (.eccCorrected store unit addr) s =
    .next (errRecord s (errPart s store unit addr) 1 store (errUnit store unit addr) (errAddr s store unit addr) 0 0) := by
  change execEccCorrected store unit addr s = _
  simp only [execEccCorrected, if_neg (Nat.not_lt.mpr hs)]

/-- A corrected error of a core's files is recorded with the core alone. -/
theorem exec_eccCorrected_files (hs : 4 < store) : exec (.eccCorrected store unit addr) s =
    .next (errRecord s (errPart s store unit addr) 1 ((Config.otherStore store).toNat % 8) (unit % 512) 0 0 0) := by
  change execEccCorrected store unit addr s = _
  simp only [execEccCorrected, if_pos hs]

/-- An ECC word is poisoned. -/
def poisoned (s : State) (w : Nat) : State :=
  { s with poison := if s.poison.contains w then s.poison else w :: s.poison }

/-- An uncorrectable error of a memory other than a cluster cache poisons its word and is recorded. -/
theorem exec_eccUncorrectable_memory (hs : store ≤ 4) (h2 : store ≠ 2) : exec (.eccUncorrectable store unit addr) s =
    .next (errRecord (poisoned s (eccBase (errKey store addr))) (errPart s store unit addr) 2 store
      (errUnit store unit addr) (errAddr s store unit addr) 0 0) := by
  change execEccUncorrectable store unit addr s = _
  simp only [execEccUncorrectable, if_neg h2, if_neg (Nat.not_lt.mpr hs)]
  rfl

/-- An uncorrectable error of a cached line drops a clean line and resets the partition of a dirty one. -/
theorem exec_eccUncorrectable_line (hx : s.copyIn unit addr = some x) : exec (.eccUncorrectable 2 unit addr) s =
    if x.dirty = 0 then .next (evictLine s x) else .next (resetPartition s (errPart s 2 unit addr) 2) := by
  change execEccUncorrectable 2 unit addr s = _
  simp only [execEccUncorrectable, hx, if_true]

/-- An uncorrectable error of a core's files resets the partition. -/
theorem exec_eccUncorrectable_files (hs : 4 < store) : exec (.eccUncorrectable store unit addr) s =
    .next (resetPartition s (errPart s store unit addr) 1) := by
  change execEccUncorrectable store unit addr s = _
  simp only [execEccUncorrectable, if_neg (show store ≠ 2 by omega), if_pos hs]

end

/-! ### The commands of PRT_QCMD (R422, R423) -/

section

variable {s : State} {c : PartCmd} {op pair : Nat}

/-- A session of a partition that a command concerns is not FREE. -/
def sessionsInUse (s : State) (op pair : Nat) : Bool :=
  s.sessions.any fun x => (concerned op pair).contains x.part && x.state != 0

/-- A command stands at step 1, and its partitions drain. -/
def cmdBegun (s : State) (op pair : Nat) : State :=
  setDraining (qsts { s with partCmd := some { op := op, pair := pair, step := 1, began := s.nowPs } } 1 0 0 1)
    (concerned op pair) true

/-- A command begins. -/
def Begins (s : State) (op pair : Nat) : Prop :=
  s.partCmd = none ∧ (newCfg s.prtCfg op pair).isSome = true ∧ sessionsInUse s op pair = false

/-- A command is refused at once with a code. -/
def Refuses (s : State) (op pair code : Nat) : Prop :=
  s.partCmd = none ∧
    if (newCfg s.prtCfg op pair).isNone then code = 1 else sessionsInUse s op pair = true ∧ code = 2

/-- While a command runs, another is ignored. -/
theorem startCmd_ignored (hc : s.partCmd = some c) : startCmd s op pair = s := by
  simp only [startCmd, hc]

/-- A command that fits, over partitions whose sessions are FREE, begins. -/
theorem startCmd_begins (hb : Begins s op pair) : startCmd s op pair = cmdBegun s op pair := by
  obtain ⟨hnone, hfits, hfree⟩ := hb
  unfold sessionsInUse at hfree
  simp only [startCmd, hnone, Option.isNone_eq_false_iff.mpr hfits, hfree, Bool.false_eq_true, if_false]
  rfl

/-- A command that does not fit is refused with code 1, one over a session in use with code 2. -/
theorem startCmd_refuses {code : Nat} (hr : Refuses s op pair code) : startCmd s op pair = qsts s 0 1 code 0 := by
  obtain ⟨hnone, hwhy⟩ := hr
  by_cases hfits : (newCfg s.prtCfg op pair).isNone = true
  · rw [if_pos hfits] at hwhy
    simp only [startCmd, hnone, if_pos hfits, hwhy]
  · rw [if_neg hfits] at hwhy
    obtain ⟨huse, hcode⟩ := hwhy
    unfold sessionsInUse at huse
    simp only [startCmd, hnone, if_neg hfits, huse, if_true, hcode]

/-- What an event that starts a command comes to: what its start does while the part runs. -/
theorem next_whenUp_startCmd {t : State} (h : startCmd s op pair = t) :
    (.next (s.whenUp (startCmd s op pair)) : Host.Outcome State Fault Refusal) = .next (s.whenUp t) := by
  rw [h]

/-- An event that starts a command changes nothing while another runs. -/
theorem next_whenUp_ignored (hc : s.partCmd = some c) :
    (.next (s.whenUp (startCmd s op pair)) : Host.Outcome State Fault Refusal) = .next s := by
  rw [startCmd_ignored hc, State.whenUp, ite_self]

/-! ### The steps of a command (R423, R424) -/

/-- Once its partitions are quiet, a command goes on to step 2. -/
theorem exec_partitionQuiet (hc : s.partCmd = some c) (h1 : c.step = 1) (hq : unquiet s (concerned c.op c.pair) = none) :
    exec .partitionQuiet s = .next (qsts { s with partCmd := some { c with step := 2 } } 1 0 0 2) := by
  change execPartitionQuiet s = _
  simp only [execPartitionQuiet, hc]
  exact if_neg (by simp [h1, hq])

/-- A command whose partitions are not quiet in time is refused, and consumption resumes. -/
theorem exec_quiesceTimeout {r : Nat} (hc : s.partCmd = some c) (h1 : c.step = 1)
    (hq : unquiet s (concerned c.op c.pair) = some r) (ht : c.began + quiesceLimit s ≤ s.nowPs) :
    exec .quiesceTimeout s =
      .next (setDraining (qsts { s with partCmd := none } 0 1 r 1) (concerned c.op c.pair) false) := by
  change execQuiesceTimeout s = _
  simp only [execQuiesceTimeout, hc, hq]
  exact if_neg (by simp [h1, ht])

/-- The registers of a configuration: PRT_CFG, its copy, and the interleaving of each die. -/
def configured (s : State) (cfg : Nat) : State :=
  (List.range 4).foldl (fun t d => t.setReg (prtReg (0x1020 + 8 * d)) (ilvWord (partOfDie cfg d)))
    ((s.setReg (prtReg 0x1000) (BitVec.ofNat 64 cfg)).setReg (prtReg 0x1040) (BitVec.ofNat 64 cfg))

/-- A command's partitions are flushed and the configuration is rewritten. -/
def rewritten (s : State) (c : PartCmd) (cfg : Nat) : State := configured ((concerned c.op c.pair).foldl flushPart s) cfg

/-- At step 2 the partitions are flushed, the configuration is rewritten, and the command is done. -/
theorem exec_partitionFlushDone {cfg : Nat} (hc : s.partCmd = some c) (h2 : c.step = 2)
    (hn : newCfg s.prtCfg c.op c.pair = some cfg) :
    exec .partitionFlushDone s = .next (qsts
      { extendMeas3 (resetParts (rewritten s c cfg) (concerned c.op c.pair) (resulting c.op c.pair))
          ((rewritten s c cfg).meas[3]?.getD 0) with partCmd := none } 0 0 0 4) := by
  change execPartitionFlushDone s = _
  simp only [execPartitionFlushDone, hc, h2, hn]
  rfl

end

/-- Settles O52: each event under its guard, and each command of PRT_QCMD by how it starts. -/
theorem resetsErrorsAndPartitions : Obligations.ResetsErrorsAndPartitions := by
  refine ⟨fun s part cls store unit addr x => ?_, fun s pair c r cfg => ?_⟩
  · exact ⟨exec_partitionReset, exec_partitionResetDone, exec_eccCorrected_memory, exec_eccCorrected_files,
      exec_eccUncorrectable_memory, fun hx hd => (exec_eccUncorrectable_line hx).trans (if_pos hd),
      fun hx hd => (exec_eccUncorrectable_line hx).trans (if_neg hd), exec_eccUncorrectable_files⟩
  · intro refuses begins begun ps s1 s2 s3
    have begin' {op pr : Nat} (hb : begins op pr) := next_whenUp_startCmd (startCmd_begins hb)
    have refuse {op pr k : Nat} (hr : refuses op pr k) := next_whenUp_startCmd (startCmd_refuses hr)
    exact ⟨begin', begin', begin', begin', fun _ => refuse, fun _ => refuse, fun _ => refuse, fun _ => refuse,
      fun hc => ⟨next_whenUp_ignored hc, next_whenUp_ignored hc, next_whenUp_ignored hc, next_whenUp_ignored hc⟩,
      exec_partitionQuiet, exec_quiesceTimeout, exec_partitionFlushDone⟩
end Sys2Proof.TrapsContexts

/-!
Register writes: who may write each block, and what a write that a block does not take leaves (spec/11 R257, spec/13
R302, spec/16 R350, spec/22 R426, spec/23 R434, spec/26 R457).
-/
namespace Sys2Proof.TrapsContexts
open Sys2Proof Sys2Proof.Machine

section

variable {s : State} {who : Party} {a : RegAddr} {v : Word} {cl off : Nat}

/-! ### Whose writes count (R426) -/

/-- A supervisor's writes count while the part runs. -/
theorem partyCounts_supervisor (hr : s.boot = .running) : partyCounts s (partyId (.supervisor cl)) = true := by
  have hrange : ¬0x8000 + cl < 0x4200 := by omega
  simp [partyCounts, partyId, hr, hrange]

/-- The Gaffer's writes count while the part runs. -/
theorem partyCounts_gaffer (hr : s.boot = .running) : partyCounts s (partyId .gaffer) = true := by
  simp [partyCounts, partyId, hr]

/-- The writes of a function of a port that does not hold the lease do not count. -/
theorem partyCounts_of_not_holder {port fn : Nat} (hh : s.isHolder port = false) (hf : fn < 0x100) (hp : port < 2) :
    partyCounts s (partyId (.host port fn)) = false := by
  have hport : (0x4000 + 0x100 * port + fn) / 0x100 % 2 = port := by omega
  have hrange : 0x4000 + 0x100 * port + fn < 0x4200 := by omega
  have hlow : 0x4000 ≤ 0x4000 + 0x100 * port + fn := by omega
  unfold State.isHolder at hh
  simp only [partyCounts, partyId, hport, hrange, hlow, hh, decide_true, Bool.and_true, Bool.not_true, Bool.or_false,
    Bool.and_false]

/-- Outside a running part nobody's writes count. -/
theorem partyCounts_of_not_running {id : Nat} (hr : s.boot ≠ .running) : partyCounts s id = false := by
  simp [partyCounts, hr]

/-- A party whose writes count writes while the part runs. -/
theorem running_of_partyCounts {id : Nat} (hc : partyCounts s id = true) : s.boot = .running :=
  not_not.mp fun hr => by simp [partyCounts_of_not_running hr] at hc

/-! ### What a write does, block by block -/

/-- Beside the host interface, a write that does not count changes nothing. -/
theorem writeReg_of_not_counts (hb : a.block ≠ .hif) (hc : partyCounts s (partyId who) = false) :
    writeReg s who a v = s := by
  rw [writeReg, if_neg hb, if_pos (.inr (by simp [hc]))]

/-- Outside a running part no supervisor's write changes anything. -/
theorem writeReg_supervisor_of_not_running (hr : s.boot ≠ .running) : writeReg s (.supervisor cl) a v = s := by
  by_cases hb : a.block = .hif
  · simp only [writeReg, if_pos hb, writePort]
  · exact writeReg_of_not_counts hb (partyCounts_of_not_running hr)

/-- A write that counts passes the check of whose writes count. -/
theorem not_barred_of_counts (hc : partyCounts s (partyId who) = true) :
    ¬(s.boot ≠ .running ∨ (!partyCounts s (partyId who)) = true) := by
  simp [running_of_partyCounts hc, hc]

/-- What a write that counts does under a condition, a write does that counts under it. -/
theorem writeReg_eq_of_counts {p : Prop} [Decidable p] {t : State} (hb : a.block ≠ .hif)
    (h : partyCounts s (partyId who) = true → writeReg s who a v = if p then t else s) :
    writeReg s who a v = if partyCounts s (partyId who) = true ∧ p then t else s := by
  cases hc : partyCounts s (partyId who) with
  | false => simp [writeReg_of_not_counts hb hc]
  | true => simpa using h hc

/-- A supervisor's block takes the writes of its cluster's supervisor alone. -/
theorem writeReg_sup : writeReg s who ⟨.sup, cl, off⟩ v =
    if partyCounts s (partyId who) = true ∧ who = .supervisor cl then writeSup s cl off v else s := by
  refine writeReg_eq_of_counts (a := ⟨.sup, cl, off⟩) nofun fun hc => ?_
  simp only [writeReg, reduceCtorEq, if_false, if_neg (not_barred_of_counts hc)]

/-- A cluster's translation block takes the writes of its supervisor alone. -/
theorem writeReg_xltc : writeReg s who ⟨.xltc, cl, off⟩ v =
    if partyCounts s (partyId who) = true ∧ who = .supervisor cl then writeXltc s cl off v else s := by
  refine writeReg_eq_of_counts (a := ⟨.xltc, cl, off⟩) nofun fun hc => ?_
  simp only [writeReg, reduceCtorEq, if_false, if_neg (not_barred_of_counts hc)]

/-- A stack's memory map takes the Gaffer's writes of its words alone. -/
theorem writeReg_mrv : writeReg s who ⟨.mrv, cl, off⟩ v =
    if partyCounts s (partyId who) = true ∧ who = .gaffer ∧ cl < 8 ∧ off < 0x1000 ∧ off % 4 = 0 then
      s.setReg ⟨.mrv, cl, off⟩ (keepBits v 0 13) else s := by
  refine writeReg_eq_of_counts (a := ⟨.mrv, cl, off⟩) nofun fun hc => ?_
  simp only [writeReg, reduceCtorEq, if_false, if_neg (not_barred_of_counts hc)]

/-- Beside its counters, a reduction block takes no write but its owner's. -/
theorem writeReg_red_of_not_owner (hcl : cl < 64) (hcount : counterOff off = false)
    (ho : partyOwns s who (72 + cl) = false) : writeReg s who ⟨.red, cl, off⟩ v = s := by
  cases hc : partyCounts s (partyId who) with
  | false => exact writeReg_of_not_counts (a := ⟨.red, cl, off⟩) nofun hc
  | true =>
    simp only [writeReg, reduceCtorEq, if_false, if_neg (not_barred_of_counts hc), if_neg (Nat.not_le.mpr hcl), hcount,
      ho, Bool.false_eq_true]

/-! ### The event (R350) -/

/-- A register write completes, unless its party is a supervisor that waits. -/
theorem exec_registerWrite (hfree : ∀ c, who = .supervisor c → s.supWaits c = false) :
    exec (.registerWrite who a v) s = .next (writeReg s who a v) := by
  change execRegisterWrite who a v s = _
  cases who with
  | supervisor c =>
    refine (MachineState.supAccess_performs _ (hfree c rfl)).trans (congrArg _ ?_)
    by_cases hr : s.boot = .running
    · exact if_pos hr
    · exact (if_neg hr).trans (writeReg_supervisor_of_not_running hr).symm
  | host port fn => rfl
  | gaffer => rfl
  | jeldaeth => rfl

/-- A supervisor that waits writes nothing meanwhile. -/
theorem exec_registerWrite_waits (hw : s.supWaits cl = true) :
    exec (.registerWrite (.supervisor cl) a v) s = .refused (.notEnabled "REGISTER_WRITE") := by
  change supAccess "REGISTER_WRITE" cl s _ = _
  exact if_pos hw

end

/-- Settles O53: a write completes with what its block makes of it, by whose writes count and which party the block
takes them from. -/
theorem registerWrites : Obligations.RegisterWrites := by
  intro s who cl off v free
  refine ⟨fun hfree => ?_, fun c a hw hwaits => hw ▸ exec_registerWrite_waits hwaits⟩
  have completes {a : RegAddr} {t : State} (h : writeReg s who a v = t) : exec (.registerWrite who a v) s = .next t :=
    (exec_registerWrite hfree).trans (congrArg _ h)
  refine ⟨fun a => completes rfl, ?stopped, ?notHolder, ?sup, ?supOther, ?xltc, ?xltcOther, ?map, ?mapOther, ?red⟩
  case stopped => exact fun a hb hr => completes (writeReg_of_not_counts hb (partyCounts_of_not_running hr))
  case notHolder =>
    exact fun a port fn hwho hh hf hp hb =>
      completes (writeReg_of_not_counts hb (hwho ▸ partyCounts_of_not_holder hh hf hp))
  case sup => exact fun hr hw => completes (writeReg_sup.trans (if_pos ⟨hw ▸ partyCounts_supervisor hr, hw⟩))
  case supOther => exact fun _ hw => completes (writeReg_sup.trans (if_neg fun h => hw h.2))
  case xltc => exact fun hr hw => completes (writeReg_xltc.trans (if_pos ⟨hw ▸ partyCounts_supervisor hr, hw⟩))
  case xltcOther => exact fun _ hw => completes (writeReg_xltc.trans (if_neg fun h => hw h.2))
  case map =>
    exact fun hr hcl hoff hfour => (exec_registerWrite (who := .gaffer) nofun).trans
      (congrArg _ (writeReg_mrv.trans (if_pos ⟨partyCounts_gaffer hr, rfl, hcl, hoff, hfour⟩)))
  case mapOther => exact fun _ hw => completes (writeReg_mrv.trans (if_neg fun h => hw h.2.1))
  case red => exact fun hcl hcount ho => completes (writeReg_red_of_not_owner hcl hcount ho)
end Sys2Proof.TrapsContexts

/-!
Micro-ops of a writable routine: what lets one issue, and its result (spec/12 R275 to R282).
-/
namespace Sys2Proof.MatrixEngine
open Sys2Proof Sys2Proof.Machine Sys2Proof.Safety

section

variable {s t : State} {core : Nat} {u : MicroOp} {i : Instr} {r r1 : EngineRun} {x : Cmd} {all : Bool}

/-! ### A micro-op's issue (R275, R281, R282, spec/24 R447) -/

/-- Where no clock is stopped an engine waits for none. -/
theorem islandWaits_of_noneStopped {gkey : Nat} {go : State → State} (h : noneStopped s) :
    islandWaits s core gkey go = false := by
  have hnone : (s.islands.any fun x => x.2.stage == 2) = false := h
  simp only [islandWaits, hnone, Bool.false_and]

/-- What a call captured does not depend on its run. -/
theorem callCtx_setRun {o : Option EngineRun} : callCtx (setRun s core o) x = callCtx s x := rfl

/-- A micro-op that its core's engine has come to issues over the state `t` and the run `r1`, in a grid that no fatal error has
ended. -/
structure UopIssues (s : State) (core : Nat) (i : Instr) (r : EngineRun) (x : Cmd) (all : Bool) (t : State) (r1 : EngineRun) :
    Prop where
  comes : uopAt s core i r x
  alive : s.gridKilled x.gkey = false
  finds : uopFinds s core r x all t r1

/-- The run that a micro-op finds differs from that of the step before in the drains alone. -/
theorem UopIssues.run_eq (h : UopIssues s core i r x all t r1) : r1 = { r with drains := r1.drains } := by
  obtain ⟨-, hr1, -⟩ := h.finds
  rw [hr1]

/-- So the routine's registers, counters and weight buffers are as they were. -/
theorem UopIssues.reg_eq (h : UopIssues s core i r x all t r1) (f : BitVec 3) : r1.reg f = r.reg f := by
  rw [h.run_eq]; rfl

theorem UopIssues.lc_eq (h : UopIssues s core i r x all t r1) : r1.lc = r.lc := by rw [h.run_eq]
theorem UopIssues.wb0_eq (h : UopIssues s core i r x all t r1) : r1.wb0 = r.wb0 := by rw [h.run_eq]
theorem UopIssues.wb1_eq (h : UopIssues s core i r x all t r1) : r1.wb1 = r.wb1 := by rw [h.run_eq]
theorem UopIssues.waiting_eq (h : UopIssues s core i r x all t r1) : r1.waiting = r.waiting := by rw [h.run_eq]

variable {name : String} {k : State → EngineRun → CallCtx → Host.Outcome State Fault Refusal}

/-- A micro-op that issues does what its own rule says. -/
theorem UopIssues.step (h : UopIssues s core i r x all t r1) : uopStep name i core all s k = k t r1 (callCtx t x) := by
  obtain ⟨hclock, hrun, hcmd, y, hy, hop⟩ := h.comes
  obtain ⟨hnone, rfl, s1, hland, rfl⟩ := h.finds
  simp [uopStep, hrun, hcmd, hy, hclock, hop, h.alive, islandWaits_of_noneStopped hnone, hland,
    callCtx_setRun]

/-- In a grid that a fatal error has ended it only goes on (log entry 46). -/
theorem uopStep_killed (hat : uopAt s core i r x) (hk : s.gridKilled x.gkey = true) :
    uopStep name i core all s k = .next (setRun s core (some { r with upc := r.upc + 1, waiting := none })) := by
  obtain ⟨hclock, hrun, hcmd, y, hy, hop⟩ := hat
  simp [uopStep, hrun, hcmd, hy, hclock, hop, hk]

/-! ### Registers and flow (R277) -/

/-- END comes once every row has landed (R282). -/
theorem exec_uopEnd (hat : uopAt s core (.uopEnd core u) r x) (hnone : noneStopped s)
    (hland : landRows s x r.drains = (t, none)) :
    exec (.uopEnd core u) s = .next (setRun t core (some { r with upc := 2048, drains := [] })) := by
  obtain ⟨hclock, hrun, hcmd, y, hy, hop⟩ := hat
  change execUopEnd core u s = _
  simp only [execUopEnd, hrun, hcmd, hy, hclock, hop, islandWaits_of_noneStopped hnone, hland]
  rfl

/-- NOP only goes on. -/
theorem exec_uopNop (h : UopIssues s core (.uopNop core u) r x false t r1) :
    exec (.uopNop core u) s = uopNext t core r1 := by
  change execUopNop core u s = _
  exact h.step

/-- SETI loads its immediate. -/
theorem exec_uopSeti (h : UopIssues s core (.uopSeti core u) r x false t r1) :
    exec (.uopSeti core u) s = uopSet t core r1 u.f0 u.imm := by
  change execUopSeti core u s = _
  exact h.step

/-- SETP loads a field of a captured parameter. -/
theorem exec_uopSetp (h : UopIssues s core (.uopSetp core u) r x false t r1) :
    exec (.uopSetp core u) s = uopSet t core r1 u.f0 (BitVec.ofNat 32 ((callCtx s x).bits (u.imm.toNat % 8)
      (u.imm.toNat / 2 ^ 8 % 64) (u.imm.toNat / 2 ^ 16 % 32 + 1))) := by
  change execUopSetp core u s = _
  exact h.step

/-- MAD adds a multiple of its immediate. -/
theorem exec_uopMad (h : UopIssues s core (.uopMad core u) r x false t r1) :
    exec (.uopMad core u) s = uopSet t core r1 u.f0
      (r1.reg u.f1 + (if u.flags.getLsbD 0 then 1 else r1.reg u.f2) * u.imm) := by
  change execUopMad core u s = _
  exact h.step

/-- LOOP with a count of zero goes past its body. -/
theorem exec_uopLoop_zero (h : UopIssues s core (.uopLoop core u) r x false t r1) (h0 : r.reg u.f0 = 0) :
    exec (.uopLoop core u) s = .next (setRun t core (some { r1 with upc := u.imm.toNat % 1024 })) := by
  change execUopLoop core u s = _
  exact h.step.trans (if_pos ((h.reg_eq _).trans h0))

/-- LOOP enters its body with its count. -/
theorem exec_uopLoop_enters (h : UopIssues s core (.uopLoop core u) r x false t r1) (h0 : r.reg u.f0 ≠ 0) :
    exec (.uopLoop core u) s = uopNext t core { r1 with lc := r1.lc.setIfInBounds (uopLc u) (r.reg u.f0) } := by
  change execUopLoop core u s = _
  rw [← h.reg_eq] at h0 ⊢
  exact h.step.trans (if_neg h0)

/-- ENDL with more than one turn left goes back. -/
theorem exec_uopEndl_back (h : UopIssues s core (.uopEndl core u) r x false t r1)
    (hn : 1 < (r.lc[uopLc u]?.getD 0).toNat) :
    exec (.uopEndl core u) s = .next (setRun t core
      (some { r1 with lc := r1.lc.setIfInBounds (uopLc u) (r.lc[uopLc u]?.getD 0 - 1), upc := u.imm.toNat % 1024 })) := by
  change execUopEndl core u s = _
  rw [← h.lc_eq] at hn ⊢
  exact h.step.trans (if_pos hn)

/-- ENDL of the last turn goes on. -/
theorem exec_uopEndl_last (h : UopIssues s core (.uopEndl core u) r x false t r1)
    (hn : (r.lc[uopLc u]?.getD 0).toNat ≤ 1) :
    exec (.uopEndl core u) s = uopNext t core { r1 with lc := r1.lc.setIfInBounds (uopLc u) 0 } := by
  change execUopEndl core u s = _
  rw [← h.lc_eq] at hn
  exact h.step.trans (if_neg (Nat.not_lt.mpr hn))

/-! ### Weights and products (R278) -/

/-- The block that an LDW reads. -/
def ldwRows (t : State) (u : MicroOp) (r : EngineRun) (x : Cmd) : Except EFail (List (List (Nat × Nat))) :=
  (List.range (if u.flags.getLsbD 2 then 128 else 64)).mapM fun kk => (List.range 64).mapM fun nn =>
    ldwElem { t with loose := [] } (callCtx t x) u (r.reg u.f0).toNat (r.reg u.f1).toNat (r.reg u.f2).toNat (r.reg u.f3).toNat
      (r.reg u.f4).toNat kk nn

/-- LDW fills one of the weight buffers. -/
theorem exec_uopLdw (h : UopIssues s core (.uopLdw core u) r x false t r1) (hf : (callCtx s x).fmtsOk = true)
    {m : List (List (Nat × Nat))} (hm : ldwRows t u r x = .ok m) :
    exec (.uopLdw core u) s = uopNext t core
      (let b : WeightBuf :=
        { rows := m, validN := min ((callCtx s x).bits 2 8 8 - (r.reg u.f3).toNat) 64, k0 := (r.reg u.f2).toNat,
          span := if u.flags.getLsbD 2 then 128 else 64 }
       if u.flags.getLsbD 0 then { r1 with wb1 := b } else { r1 with wb0 := b }) := by
  change execUopLdw core u s = _
  refine h.step.trans ((if_neg (Bool.not_not_eq.mpr hf)).trans ?_)
  simp only [ldwRows] at hm
  simp only [h.reg_eq, hm]
  rfl

/-- LDW of a format that is no operand's. -/
theorem exec_uopLdw_badFormat (h : UopIssues s core (.uopLdw core u) r x false t r1) (hf : (callCtx s x).fmtsOk = false) :
    exec (.uopLdw core u) s = .next (failRun t core x (descFail x)) := by
  change execUopLdw core u s = _
  exact h.step.trans (if_pos (congrArg not hf))

/-- The weight buffer that an MMA names. -/
def mmaBuf (u : MicroOp) (r : EngineRun) : WeightBuf := if u.flags.getLsbD 0 then r.wb1 else r.wb0

/-- It is as it was before the micro-op's step. -/
theorem mmaBuf_eq (h : UopIssues s core i r x all t r1) : mmaBuf u r1 = mmaBuf u r := by
  simp only [mmaBuf, h.wb0_eq, h.wb1_eq]

/-- MMA writes the new words of its tile. -/
theorem exec_uopMma_words (h : UopIssues s core (.uopMma core u) r x true t r1) (hf : (callCtx s x).fmtsOk = true)
    (h0 : 0 < (r.reg u.f2).toNat) (hrows : (r.reg u.f3).toNat + (r.reg u.f2).toNat ≤ 128)
    (hcols : (r.reg u.f4).toNat + (mmaBuf u r).validN ≤ 128) {ws : List (Nat × Nat × Nat)}
    (hws : mmaTile { t with loose := [] } (callCtx t x) r1 u (mmaBuf u r) = .ok ws) :
    exec (.uopMma core u) s = uopNext (t.setAccs core ws) core r1 := by
  change execUopMma core u s = _
  have hplace : ¬((r.reg u.f2).toNat > 128 ∨ (r.reg u.f3).toNat + (r.reg u.f2).toNat > 128 ∨
      (r.reg u.f4).toNat + (mmaBuf u r).validN > 128) := by omega
  rw [← mmaBuf_eq h] at hplace hws
  simp only [← h.reg_eq] at h0 hplace
  refine h.step.trans ((if_neg (Bool.not_not_eq.mpr hf)).trans ((if_neg (Nat.pos_iff_ne_zero.mp h0)).trans ((if_neg hplace).trans ?_)))
  unfold mmaBuf at hws
  simp only [hws]

/-- MMA of no rows (R281). -/
theorem exec_uopMma_noRows (h : UopIssues s core (.uopMma core u) r x true t r1) (hf : (callCtx s x).fmtsOk = true)
    (h0 : (r.reg u.f2).toNat = 0) : exec (.uopMma core u) s = uopNext t core r1 := by
  change execUopMma core u s = _
  rw [← h.reg_eq] at h0
  exact h.step.trans ((if_neg (Bool.not_not_eq.mpr hf)).trans (if_pos h0))

/-- MMA of a format that is no operand's, or past the accumulators' last row or column. -/
theorem exec_uopMma_fails (h : UopIssues s core (.uopMma core u) r x true t r1)
    (hbad : (callCtx s x).fmtsOk = false ∨ 0 < (r.reg u.f2).toNat ∧
      (128 < (r.reg u.f3).toNat + (r.reg u.f2).toNat ∨ 128 < (r.reg u.f4).toNat + (mmaBuf u r).validN)) :
    exec (.uopMma core u) s = .next (failRun t core x (descFail x)) := by
  change execUopMma core u s = _
  refine h.step.trans ?_
  by_cases hf : (!(callCtx t x).fmtsOk) = true
  case pos => exact if_pos hf
  obtain hf' | ⟨h0, hplace⟩ := hbad
  · exact absurd (congrArg not hf') hf
  rw [← mmaBuf_eq h] at hplace
  simp only [← h.reg_eq] at h0 hplace
  exact (if_neg hf).trans ((if_neg (Nat.pos_iff_ne_zero.mp h0)).trans (if_pos (.inr hplace)))

/-! ### Rows of the accumulators (R277, R279, R281) -/

/-- ACLR of no rows clears none. -/
theorem exec_uopAclr_noRows (h : UopIssues s core (.uopAclr core u) r x false t r1) (h0 : (r.reg u.f1).toNat = 0) :
    exec (.uopAclr core u) s = uopNext t core r1 := by
  change execUopAclr core u s = _
  rw [← h.reg_eq] at h0
  exact h.step.trans (if_pos h0)

/-- ACLR of rows clears them where they are rows of the accumulators, and fails else. -/
theorem exec_uopAclr_rows (h : UopIssues s core (.uopAclr core u) r x false t r1) (h0 : 0 < (r.reg u.f1).toNat) :
    exec (.uopAclr core u) s = if (r.reg u.f0).toNat + (r.reg u.f1).toNat > 128 then .next (failRun t core x (descFail x))
      else uopNext (clearRows t core (r.reg u.f0).toNat (r.reg u.f1).toNat) core r1 := by
  change execUopAclr core u s = _
  simp only [← h.reg_eq] at h0 ⊢
  exact h.step.trans (if_neg (Nat.pos_iff_ne_zero.mp h0))

/-- MSK of no rows masks none. -/
theorem exec_uopMsk_noRows (h : UopIssues s core (.uopMsk core u) r x false t r1) (h0 : (r.reg u.f1).toNat = 0) :
    exec (.uopMsk core u) s = uopNext t core r1 := by
  change execUopMsk core u s = _
  rw [← h.reg_eq] at h0
  exact h.step.trans (if_pos h0)

/-- The words that an MSK writes: of each row those past its diagonal. -/
def mskWords (u : MicroOp) (r : EngineRun) (k : CallCtx) : List (Nat × Nat × Nat) :=
  let cols := 128 - (r.reg u.f2).toNat
  (List.range ((r.reg u.f1).toNat * cols)).filterMap fun j =>
    if ((j % cols : Nat) : Int) > ((j / cols : Nat) : Int) + (r.reg u.f3).toInt
    then some ((r.reg u.f0).toNat + j / cols, (r.reg u.f2).toNat + j % cols, maskWord k) else none

/-- MSK of rows writes its words where its rows and its column are the accumulators', and fails else. -/
theorem exec_uopMsk_rows (h : UopIssues s core (.uopMsk core u) r x false t r1) (h0 : 0 < (r.reg u.f1).toNat) :
    exec (.uopMsk core u) s = if (r.reg u.f0).toNat + (r.reg u.f1).toNat > 128 ∨ (r.reg u.f2).toNat > 127
      then .next (failRun t core x (descFail x))
      else uopNext (t.setAccs core (mskWords u r (callCtx s x))) core r1 := by
  change execUopMsk core u s = _
  simp only [mskWords, ← h.reg_eq] at h0 ⊢
  exact h.step.trans (if_neg (Nat.pos_iff_ne_zero.mp h0))

/-- DRN of no rows or of no columns drains nothing. -/
theorem exec_uopDrn_nothing (h : UopIssues s core (.uopDrn core u) r x false t r1)
    (h0 : (r.reg u.f1).toNat = 0 ∨ (r.reg u.f3).toNat = 0) : exec (.uopDrn core u) s = uopNext t core r1 := by
  change execUopDrn core u s = _
  simp only [← h.reg_eq] at h0
  exact h.step.trans (if_pos h0)

/-- A row as a DRN notes it. -/
def drnRow (t : State) (core : Nat) (u : MicroOp) (r : EngineRun) (k : CallCtx) (i : Nat) : DrainRow :=
  { space := (u.flags.extractLsb' 0 2).toNat
    addr := k.mp (u.imm.toNat % 8) + (r.reg u.f4).toNat + i * (r.reg u.f5).toNat
    cls := (u.imm.extractLsb' 8 2).toNat
    bytes := drainRow t core (u.flags.getLsbD 2) ((k.fmt 20).getD .fp32) k.ko ((r.reg u.f0).toNat + i) (r.reg u.f2).toNat
      (r.reg u.f3).toNat }

/-- A DRN whose block is none of the accumulators, or whose rows do not pack into whole bytes, fails; else its rows are noted for
their landing (R282), and its words are cleared where that is asked for. -/
theorem exec_uopDrn_block (h : UopIssues s core (.uopDrn core u) r x false t r1) (hrows : 0 < (r.reg u.f1).toNat)
    (hcols : 0 < (r.reg u.f3).toNat) :
    exec (.uopDrn core u) s =
      if (r.reg u.f0).toNat + (r.reg u.f1).toNat > 128 ∨ (r.reg u.f2).toNat + (r.reg u.f3).toNat > 128 ∨
        (!packsOk ((callCtx s x).fmt 20) (r.reg u.f3).toNat) = true then .next (failRun t core x (descFail x))
      else uopNext (if u.flags.getLsbD 3
          then clearBlock t core (r.reg u.f0).toNat (r.reg u.f1).toNat (r.reg u.f2).toNat (r.reg u.f3).toNat else t) core
        { r1 with drains := r1.drains ++ (List.range (r.reg u.f1).toNat).map (drnRow t core u r (callCtx s x)) } := by
  change execUopDrn core u s = _
  have hsome : ¬((r.reg u.f1).toNat = 0 ∨ (r.reg u.f3).toNat = 0) := by omega
  have hrow : drnRow t core u r (callCtx s x) = drnRow t core u r1 (callCtx t x) := by
    funext i
    simp only [drnRow, h.reg_eq]
    rfl
  rw [hrow]
  simp only [← h.reg_eq] at hsome ⊢
  exact h.step.trans (if_neg hsome)

/-! ### Barriers (R272, R277) -/

/-- The gang's barrier slot that a BWT or BAR names. -/
def uopBar? (t : State) (x : Cmd) (u : MicroOp) : Option Barrier :=
  t.bar? (callCtx t x).c.gkey (callCtx t x).c.gang (u.imm.toNat % 512)

/-- BWT arrives, and goes on where its arrival completes the episode, which it waits for else. -/
theorem exec_uopBwt_arrives (h : UopIssues s core (.uopBwt core u) r x false t r1) (hw : r.waiting = none) {b : Barrier}
    (hb : uopBar? t x u = some b) (hj : b.joinMode = false) :
    exec (.uopBwt core u) s =
      (let t1 := t.modBar (callCtx t x).c.gkey (callCtx t x).c.gang (u.imm.toNat % 512) fun _ => b.arrive true
       if b.count + 1 ≥ b.target then uopNext t1 core r1
       else .next (setRun t1 core (some { r1 with waiting := some ⟨u.imm.toNat % 512, b.episode⟩ }))) := by
  change execUopBwt core u s = _
  unfold uopBar? at hb
  refine h.step.trans ?_
  simp only [h.waiting_eq, hw, hb, hj, ControlTasks.arrive_episode_ne_iff]
  rfl

/-- BWT whose episode has completed goes on. -/
theorem exec_uopBwt_passed (h : UopIssues s core (.uopBwt core u) r x false t r1) {w : BarWait} (hw : r.waiting = some w)
    (hp : t.barPassed (callCtx t x).c.gkey (callCtx t x).c.gang w = true) :
    exec (.uopBwt core u) s = uopNext t core { r1 with waiting := none } := by
  change execUopBwt core u s = _
  refine h.step.trans ?_
  simp only [h.waiting_eq, hw, hp, if_true]

/-- BAR arrives, after its release where it has one. -/
theorem exec_uopBar (h : UopIssues s core (.uopBar core u) r x (u.flags.getLsbD 0) t r1)
    (hb : t.barMode (callCtx t x).c (u.imm.toNat % 512) = true) (hr : u.flags.getLsbD 0 = true → relReady t x = true) :
    exec (.uopBar core u) s = uopNext
      ((if u.flags.getLsbD 0 then engineRelease t x (u.flags.extractLsb' 1 2).toNat else t).arrive
        (callCtx t x).c.gkey (callCtx t x).c.gang (u.imm.toNat % 512)) core r1 := by
  change execUopBar core u s = _
  have hmode : ¬(!t.barMode (callCtx t x).c (u.imm.toNat % 512)) = true := Bool.not_not_eq.mpr hb
  have hrel : ¬(u.flags.getLsbD 0 = true ∧ (!relReady t x) = true) := fun hn => Bool.not_not_eq.mpr (hr hn.1) hn.2
  exact h.step.trans ((if_neg hmode).trans (if_neg hrel))

/-- In a grid that a fatal error has ended every micro-op but END only goes on. -/
theorem exec_micro_killed (hk : s.gridKilled x.gkey = true) :
    ∀ i ∈ ([.uopNop core u, .uopSeti core u, .uopSetp core u, .uopMad core u, .uopLoop core u, .uopEndl core u,
        .uopLdw core u, .uopMma core u, .uopAclr core u, .uopMsk core u, .uopDrn core u, .uopBwt core u,
        .uopBar core u] : List Instr), uopAt s core i r x →
      exec i s = .next (setRun s core (some { r with upc := r.upc + 1, waiting := none })) := by
  simp only [List.forall_mem_cons, List.not_mem_nil, false_implies, implies_true, and_true]
  exact ⟨fun h => (uopStep_killed h hk : execUopNop core u s = _), fun h => (uopStep_killed h hk : execUopSeti core u s = _),
    fun h => (uopStep_killed h hk : execUopSetp core u s = _), fun h => (uopStep_killed h hk : execUopMad core u s = _),
    fun h => (uopStep_killed h hk : execUopLoop core u s = _), fun h => (uopStep_killed h hk : execUopEndl core u s = _),
    fun h => (uopStep_killed h hk : execUopLdw core u s = _), fun h => (uopStep_killed h hk : execUopMma core u s = _),
    fun h => (uopStep_killed h hk : execUopAclr core u s = _), fun h => (uopStep_killed h hk : execUopMsk core u s = _),
    fun h => (uopStep_killed h hk : execUopDrn core u s = _), fun h => (uopStep_killed h hk : execUopBwt core u s = _),
    fun h => (uopStep_killed h hk : execUopBar core u s = _)⟩

end

/-- Settles O35: each clause is the lemma above for its micro-op and case. -/
theorem microOps : Obligations.MicroOps := by
  intro core u s r x step goOn setIx fails im lc n ix wb rows0 rows1 cb fits span call
  have steps {i : Instr} {all : Bool} {P : Prop} {out : State → EngineRun → State}
      (hout : ∀ {t r1}, UopIssues s core i r x all t r1 → P → exec i s = .next (out t r1)) : step i all P out :=
    fun t r1 hat hk hf hP => hout ⟨hat, hk, hf⟩ hP
  refine ⟨fun s1 hat hnone hland => exec_uopEnd hat hnone hland, steps fun h _ => exec_uopNop h, steps fun h _ => exec_uopSeti h,
    steps fun h _ => exec_uopSetp h, steps fun h _ => exec_uopMad h, steps exec_uopLoop_zero, steps exec_uopLoop_enters,
    steps exec_uopEndl_back, steps exec_uopEndl_last,
    fun t r1 m hat hk hf hfmt hm => exec_uopLdw ⟨hat, hk, hf⟩ hfmt hm,
    fun t r1 ws hat hk hf hfmt h0 hr hc hws => exec_uopMma_words ⟨hat, hk, hf⟩ hfmt h0 hr hc hws,
    steps fun h hP => exec_uopMma_noRows h hP.1 hP.2,
    steps exec_uopAclr_noRows, steps fun h hP => (exec_uopAclr_rows h hP.1).trans (if_neg (Nat.not_lt.mpr hP.2)),
    steps exec_uopMsk_noRows, steps fun h hP => ?msk, steps exec_uopDrn_nothing, steps fun h hP => ?drn,
    fun t r1 b hat hk hf hw hb hj => (exec_uopBwt_arrives ⟨hat, hk, hf⟩ hw hb hj).trans
      (apply_ite Host.Outcome.next _ _ _).symm,
    fun t r1 w hat hk hf hw hp => exec_uopBwt_passed ⟨hat, hk, hf⟩ hw hp,
    fun t r1 hat hk hf hb hr => exec_uopBar ⟨hat, hk, hf⟩ hb hr,
    steps fun h hP => (exec_uopAclr_rows h hP.1).trans (if_pos (Nat.not_le.mp hP.2)),
    steps fun h hP => (exec_uopMsk_rows h hP.1).trans (if_pos (hP.2.imp_left Nat.not_le.mp)), steps fun h hP => ?drnFails,
    steps exec_uopLdw_badFormat, steps exec_uopMma_fails, fun i hi hat hk => exec_micro_killed hk i hi hat⟩
  case msk =>
    obtain ⟨h0, hrows, hcol⟩ := hP
    exact (exec_uopMsk_rows h h0).trans (if_neg (not_or.mpr ⟨Nat.not_lt.mpr hrows, Nat.not_lt.mpr hcol⟩))
  case drn =>
    obtain ⟨hr, hc, hrows, hcols, hpack⟩ := hP
    exact (exec_uopDrn_block h hr hc).trans (if_neg (not_or.mpr ⟨Nat.not_lt.mpr hrows,
      not_or.mpr ⟨Nat.not_lt.mpr hcols, Bool.not_not_eq.mpr hpack⟩⟩))
  case drnFails =>
    obtain ⟨hr, hc, hbad⟩ := hP
    exact (exec_uopDrn_block h hr hc).trans (if_pos (hbad.imp Nat.not_le.mp (Or.imp_right (congrArg not))))

end Sys2Proof.MatrixEngine

/-!
The directory's events, the turns of a memory channel and a supervisor's accesses (spec/14 R319, R323 to R325;
spec/13 R299 to R301).
-/
namespace Sys2Proof.MemoryHierarchy
open Sys2Proof Sys2Proof.Machine

/-! ### The directory (R323 to R325) -/

/-- Of a list's elements, the first whose outcome meets a test is the one found. -/
theorem findSome?_filter_of_first {α β : Type} {f : α → Option β} {p : α → β → Bool} {l l1 l2 : List α} {y : α} {u : β}
    (hl : l = l1 ++ y :: l2) (hf : f y = some u) (hp : p y u = true)
    (hfirst : ∀ z ∈ l1, ∀ v, f z = some v → p z v = false) : (l.findSome? fun z => (f z).filter (p z)) = some u := by
  have hskip : ∀ z ∈ l1, (f z).filter (p z) = none := fun z hz =>
    Option.filter_eq_none_iff.mpr fun v hv => by simp [hfirst z hz v hv]
  exact List.findSome?_eq_some_iff.mpr ⟨l1, y, l2, hl, Option.filter_eq_some_iff.mpr ⟨hf, hp⟩, hskip⟩

section

variable {s t u : State} {cl line : Nat} {pl : Place} {x : CacheLine} {l1 l2 : List Cmd} {y : Cmd}

/-- A cluster that lacks bytes of a mapped line fetches them. -/
theorem exec_dirRd (hv : (s.copyIn cl line).map (·.valid) ≠ some (BitVec.allOnes 64))
    (hp : linePlace s cl line = (t, some pl)) :
    exec (.dirRd cl line) s = .next (fetchLine t cl (s.partOfCluster cl) pl sysReq) := by
  change execDirRd cl line s = _
  simp only [execDirRd, if_neg hv, hp]

/-- The first command that drains a clean line from the posted-write buffers performs. -/
theorem exec_dirWn (hc : ((s.copyIn cl line).map (·.dirty)).getD 0 = 0) (hl : s.cmds = l1 ++ y :: l2)
    (hy : cmdNext s y = some u) (hs : postedIn s cl line = true) (hu : postedIn u cl line = false)
    (hfirst : ∀ z ∈ l1, ∀ v, cmdNext s z = some v → postedIn v cl line = true) :
    exec (.dirWn cl line) s = .next u := by
  change execDirWn cl line s = _
  have hfound := findSome?_filter_of_first (p := fun _ t => !postedIn t cl line) hl hy (by simp [hu])
    (fun z hz v hv => by simp [hfirst z hz v hv])
  simp only [execDirWn, hc, hs, decide_true, Bool.true_and, hfound]

/-- A clean copy is dropped. -/
theorem exec_dirEvc (hx : s.copyIn cl line = some x) (hd : x.dirty = 0) :
    exec (.dirEvc cl line) s = .next (evictLine s x) := by
  change execDirEvc cl line s = _
  simp only [execDirEvc, hx, if_pos hd]

/-- A dirty line that leaves is written back. -/
theorem exec_dirWb_leaves (hx : s.copyIn cl line = some x) (hd : x.dirty ≠ 0) :
    exec (.dirWb cl line true) s = .next (writeBack s x true) := by
  change execDirWb cl line true s = _
  simp only [execDirWb, hx, if_neg hd, if_true]

/-- The first of the cluster's releases that brings a dirty line home performs. -/
theorem exec_dirWb_releases (hx : s.copyIn cl line = some x) (hd : x.dirty ≠ 0) (hl : s.cmds = l1 ++ y :: l2)
    (hy : cmdNext s y = some u) (hr : y.releases = true) (hcl : clusterOf y.core = cl) (hu : dirtyIn u cl line = false)
    (hfirst : ∀ z ∈ l1, ∀ v, cmdNext s z = some v → z.releases = true → clusterOf z.core = cl → dirtyIn v cl line = true) :
    exec (.dirWb cl line false) s = .next u := by
  have hfound := findSome?_filter_of_first
    (p := fun c t => (c.releases && clusterOf c.core == cl) && !dirtyIn t cl line)
    hl hy (by simp [hr, hcl, hu]) (fun z hz v hv => by simpa [and_imp] using hfirst z hz v hv)
  change execDirWb cl line false s = _
  simp only [execDirWb, hx, if_neg hd, Bool.false_eq_true, if_false, Option.filter_filter, hfound]

/-- The first atomic or engine command that writes a line at its home performs. -/
theorem exec_dirHw (hl : s.cmds = l1 ++ y :: l2) (hy : homeWriter s y = some u) (hw : wroteHome s u y line = true)
    (hfirst : ∀ z ∈ l1, ∀ v, homeWriter s z = some v → wroteHome s v z line = false) :
    exec (.dirHw line) s = .next u := by
  change execDirHw line s = _
  simp only [execDirHw, findSome?_filter_of_first (p := fun x t => wroteHome s t x line) hl hy hw hfirst]

/-- An entry goes to make room: it is its set's victim, and a command that can perform needs an entry there. -/
def MakesRoom (s : State) (d : DirEntry) : Prop :=
  isVictim s d = true ∧ ∃ y ∈ s.cmds, ∃ u, cmdNext s y = some u ∧ displaces s u d = true

/-- `MakesRoom` as `execDirVic` decides it. -/
def makesRoom (s : State) (d : DirEntry) : Bool :=
  isVictim s d && s.cmds.any fun x => ((cmdNext s x).filter fun t => displaces s t d).isSome

theorem makesRoom_iff {d : DirEntry} : makesRoom s d = true ↔ MakesRoom s d := by
  simp only [makesRoom, MakesRoom, Bool.and_eq_true, List.any_eq_true, Option.isSome_iff_exists, Option.filter_eq_some_iff]

/-- The first entry of a line that goes to make room is recalled. -/
theorem exec_dirVic {e1 e2 : List DirEntry} {d : DirEntry} (hl : entriesOf s line = e1 ++ d :: e2) (hd : MakesRoom s d)
    (hfirst : ∀ e ∈ e1, ¬MakesRoom s e) : exec (.dirVic line) s = .next (backInvalidate s d) := by
  have hfound : ((entriesOf s line).find? fun d => makesRoom s d) = some d :=
    List.find?_eq_some_iff_append.mpr ⟨makesRoom_iff.mpr hd, e1, e2, hl, fun e he => by
      rw [Bool.not_eq_true', ← Bool.not_eq_true, makesRoom_iff]
      exact hfirst e he⟩
  unfold makesRoom at hfound
  change execDirVic line s = _
  simp only [execDirVic, hfound]

end

/-! ### The channels (R299 to R301) -/

section

variable {s : State} {stack ch bank row : Nat}

/-- A turn of a channel's wheel. -/
theorem exec_wheelTurn (hs : stack < 8) (hc : ch < 32) :
    exec (.wheelTurn stack ch) s = .next (turnWheel s (s.chan stack ch)) := by
  change execWheelTurn stack ch s = _
  exact if_neg (by omega)

/-- A turn without a request to serve moves the wheel on alone. -/
theorem turnWheel_idle {c : Chan} (h : turnServes s c = none) : turnWheel s c = s.setChan { c with
    pos := (c.pos + 1) % 32, charged := (c.charged.map fun x => (x.1, x.2 - 1)).filter fun x => x.2 != 0 } := by
  simp only [turnWheel, h]

/-- The turn whose activation of a row reaches the threshold. -/
theorem exec_rowHammerThrottle {r : ChanReq} (hr : turnServes s (s.chan stack ch) = some r) (hb : r.bank = bank)
    (hrow : r.row = row) (ha : activates (s.chan stack ch) r = true)
    (hn : rowCount (s.chan stack ch) bank row + 1 = (s.reg ⟨.mrv, stack, 0x1010⟩).toNat) :
    exec (.rowHammerThrottle stack ch bank row) s = .next (turnWheel s (s.chan stack ch)) := by
  change execRowHammerThrottle stack ch bank row s = _
  simp only [execRowHammerThrottle, hr]
  exact if_pos ⟨hb, hrow, ha, hn⟩

/-- A bank is released 320 ns after it was throttled. -/
theorem exec_rowHammerRefreshEnd {b : Nat × Nat} (hb : ((s.chan stack ch).busy.find? fun b => b.1 == bank) = some b)
    (hn : b.2 + 320000 ≤ s.nowPs) : exec (.rowHammerRefreshEnd stack ch bank) s = .next
      (s.setChan { s.chan stack ch with busy := (s.chan stack ch).busy.filter fun x => x.1 != bank }) := by
  change execRowHammerRefreshEnd stack ch bank s = _
  simp only [execRowHammerRefreshEnd, hb, if_neg (Nat.not_lt.mpr hn)]

/-- A bank's refresh window ends at the next multiple of 32 ms, and its counts start again. -/
theorem exec_refreshWindowEnd {n : Nat} (h : (tabGet? (s.chan stack ch).windows bank).getD 0 = n) (hs : stack < 8)
    (hc : ch < 32) (hb : bank < 32) (hn : (n + 1) * 32000000000 ≤ s.nowPs) :
    exec (.refreshWindowEnd stack ch bank) s = .next (s.setChan { s.chan stack ch with
      rows := (s.chan stack ch).rows.filter fun x => x.1 != bank
      windows := tabSet (s.chan stack ch).windows bank (n + 1) }) := by
  subst h
  change execRefreshWindowEnd stack ch bank s = _
  exact if_neg (by omega)

end

/-! ### Supervisors (R319) -/

section

variable {s t : State} {cl ia : Nat} {data : List Byte}

/-- A supervisor's store of no bytes. -/
theorem supStore_nil (n : Nat) : supStore s cl ia [] n = some s := by
  cases n with
  | zero => rfl
  | succ n => exact if_pos rfl

/-- A supervisor's store within one mapped line whose home can be reached enters the cluster's cache. -/
theorem supStore_line {s1 : State} {lv at' n : Nat} {e0 e : Word} (h0 : 0 < data.length) (h64 : ia % 64 + data.length ≤ 64)
    (hleaf : lookupLeaf s (s.partOfCluster cl) (cl / 16) ia = (s1, .leaf lv e0 at'))
    (hswap : swapEntry s1 (s.partOfCluster cl) ia e0 = .ok e) (hup : pteH e = true → hostDown s1 (pteAddr e) = false) :
    supStore s cl ia data (n + 1) =
      some (supLine s1 cl { key := homeKey lv ia e, vault := false, ia := ia, nc := pteNc e } data) := by
  have hdata : data ≠ [] := List.length_pos_iff.mp h0
  have hreached : ¬(pteH e = true ∧ hostDown s1 (pteAddr e) = true) := fun ⟨hh, hdown⟩ =>
    Bool.false_ne_true ((hup hh).symm.trans hdown)
  have hfits : data.length ≤ 64 - ia % 64 := by omega
  simp only [supStore, if_neg hdata, hleaf, hswap, if_neg hreached, List.take_of_length_le hfits,
    List.drop_of_length_le hfits, supStore_nil]

/-- FENCE.I finds the stores to instruction stores performed. -/
theorem exec_supervisorFence_code : exec (.supervisorFence cl true) s = .next s := by
  change execSupervisorFence cl true s = _
  exact if_pos rfl

/-- FENCE writes the cluster's dirty coherent lines home. -/
theorem exec_supervisorFence_data : exec (.supervisorFence cl false) s = .next
    ((s.lines.filter fun x => x.cluster == cl && !x.nc && x.dirty != 0).foldl (fun t x => writeBack t x false) s) := by
  change execSupervisorFence cl false s = _
  exact if_neg Bool.false_ne_true

/-- A store to intermediate addresses goes line by line. -/
theorem exec_supervisorStore_near (hia : ia + data.length ≤ 2 ^ 48)
    (ht : supStore s cl ia data (data.length + 1) = some t) : exec (.supervisorStore cl ia data) s = .next t := by
  change execSupervisorStore cl ia data s = _
  simp only [execSupervisorStore, if_pos hia, ht]

/-- A store to vault-space addresses of the supervisor's partition. -/
theorem exec_supervisorStore_vault (hia : 2 ^ 60 ≤ ia) (hfirst : vaultOk (s.partOfCluster cl) (ia - 2 ^ 60) = true)
    (hlast : vaultOk (s.partOfCluster cl) (ia - 2 ^ 60 + (data.length - 1)) = true) :
    exec (.supervisorStore cl ia data) s = .next (writeBytes s 0 (vaultBase + (ia - 2 ^ 60)) data) := by
  change execSupervisorStore cl ia data s = _
  exact (if_neg (by omega)).trans (if_pos ⟨hia, hfirst, hlast⟩)

/-- A store to the instruction stores of the supervisor's cluster. -/
theorem exec_supervisorStore_code (hia : 2 ^ 61 ≤ ia) (hv : vaultOk (s.partOfCluster cl) (ia - 2 ^ 60) = false)
    (hend : ia - 2 ^ 61 + data.length ≤ 2 ^ 21) : exec (.supervisorStore cl ia data) s =
      .next (s.storeBytes (codeBase + 8 * cl * 2 ^ 18 + (ia - 2 ^ 61)) data) := by
  have hnotVault : ¬(2 ^ 60 ≤ ia ∧ vaultOk (s.partOfCluster cl) (ia - 2 ^ 60) = true ∧
      vaultOk (s.partOfCluster cl) (ia - 2 ^ 60 + (data.length - 1)) = true) := fun ⟨_, hfirst, _⟩ =>
    Bool.false_ne_true (hv.symm.trans hfirst)
  change execSupervisorStore cl ia data s = _
  exact (if_neg (by omega)).trans ((if_neg hnotVault).trans (if_pos ⟨hia, hend⟩))

end

/-- Settles O51: each event under its clause; a store within one line is its line-by-line store with nothing left over. -/
theorem cachesAndChannels : Obligations.CachesAndChannels := by
  refine ⟨fun s cl line pl t x => ?_, fun s stack ch bank row r b => ?_, fun s cl ia data t => ?_⟩
  · exact ⟨exec_dirRd, fun _ _ _ _ => exec_dirWn, exec_dirEvc, exec_dirWb_leaves, fun _ _ _ _ => exec_dirWb_releases,
      fun _ _ _ _ => exec_dirHw, fun _ _ _ => exec_dirVic⟩
  · exact ⟨exec_wheelTurn, turnWheel_idle, exec_rowHammerThrottle, exec_rowHammerRefreshEnd, exec_refreshWindowEnd rfl⟩
  · exact ⟨exec_supervisorFence_code, exec_supervisorFence_data, exec_supervisorStore_near,
      fun _ _ _ _ _ hia h0 h64 hleaf hswap hup => exec_supervisorStore_near hia (supStore_line h0 h64 hleaf hswap hup),
      exec_supervisorStore_vault, exec_supervisorStore_code⟩
end Sys2Proof.MemoryHierarchy

/-!
Every step takes down anew since when each domain cannot go on (spec/17 R366).
-/
namespace Sys2Proof.TasksSpeculation
open Sys2Proof Sys2Proof.Machine Sys2Proof.Safety

/-- Two domain records name one domain, bound to one grid or not bound: they may differ in their counts and in their time. -/
def SameBinding (d e : Domain) : Prop := d.part = e.part ∧ d.dom = e.dom ∧ d.bound = e.bound ∧ d.gkey = e.gkey

/-- A change of every domain's record that keeps what it names keeps which record a domain's number finds. -/
theorem dom?_map {s t : State} {f : Domain → Domain} (hf : ∀ d, SameBinding (f d) d) (ht : t.domains = s.domains.map f)
    (part dom : Nat) : t.dom? part dom = (s.dom? part dom).map f := by
  have hp : ((fun d : Domain => d.part == part && d.dom == dom) ∘ f) = fun d => d.part == part && d.dom == dom := by
    funext d
    obtain ⟨hpart, hdom, -, -⟩ := hf d
    simp only [Function.comp_apply, hpart, hdom]
  simp only [State.dom?, ht, List.find?_map, hp]

/-- The stalled tasks of a domain are read from the contexts, the cores and the grids alone. -/
theorem stalledTasks_congr {s t : State} (hctxs : t.ctxs = s.ctxs) (hcores : t.cores = s.cores) (hgrids : t.grids = s.grids)
    (part dom : Nat) : stalledTasks t part dom = stalledTasks s part dom := by
  have hctx : t.ctx = s.ctx := funext fun h => by simp only [State.ctx, ctx?_congr hctxs]
  have hslot : t.slot = s.slot := funext₂ fun core ix => by simp only [State.slot, State.core, hcores]
  have hmine : t.mySlot = s.mySlot := funext fun c => by simp only [State.mySlot, hslot]
  have hpart : t.gridPart = s.gridPart := funext fun k => by simp only [State.gridPart, State.grid?, hgrids]
  simp only [stalledTasks, hctx, hmine, hpart, hcores]

/-- Whether a domain cannot go on is read from the contexts, the cores, the grids and the domains' bindings alone. -/
theorem domainDead_map {s t : State} {f : Domain → Domain} (hf : ∀ d, SameBinding (f d) d)
    (ht : t.domains = s.domains.map f) (hctxs : t.ctxs = s.ctxs) (hcores : t.cores = s.cores) (hgrids : t.grids = s.grids)
    (d : Domain) : domainDead t (f d) = domainDead s d := by
  obtain ⟨hpart, hdom, hbound, -⟩ := hf d
  have hfrontier : ∀ p n, t.frontierTask p n = s.frontierTask p n := fun p n => by
    simp only [State.frontierTask, State.uncommitted, State.grid?, hcores, hgrids]
  have hslot : ∀ p n, t.frontierSlot p n = s.frontierSlot p n := fun p n => by
    simp only [State.frontierSlot, State.heldSlots, hfrontier, dom?_map hf ht, hcores]
    cases s.frontierTask p n with
    | none => rfl
    | some _ => cases s.dom? p n with
      | none => rfl
      | some e =>
        obtain ⟨-, -, -, hgkey⟩ := hf e
        simp only [Option.map_some, hgkey]
  simp only [domainDead, hpart, hdom, hbound, hfrontier, stalledTasks_congr hctxs hcores hgrids, hslot]

/-- A domain's record with the time taken down from which it cannot go on. -/
def tickedDomain (s : State) (d : Domain) : Domain :=
  { d with deadFrom := if domainDead s d then some (d.deadFrom.getD s.now) else none }

/-- Its time is kept exactly while it cannot go on. -/
theorem tickedDomain_timed (s : State) (d : Domain) : (tickedDomain s d).deadFrom.isSome = domainDead s d := by
  unfold tickedDomain
  cases domainDead s d <;> rfl

/-- After time has gone on, the domains are those ticked in a state that agrees on all that says which of them cannot go on. -/
theorem advance_domains (s : State) : ∃ u : State, (advance s).domains = u.domains.map (tickedDomain u) ∧
    (advance s).ctxs = u.ctxs ∧ (advance s).cores = u.cores ∧ (advance s).grids = u.grids :=
  ⟨_, rfl, rfl, rfl, rfl⟩

/-- Time that goes on leaves every domain timed. -/
theorem advance_timed (s : State) : ∀ d ∈ (advance s).domains, d.deadFrom.isSome = domainDead (advance s) d := by
  obtain ⟨u, hdomains, hctxs, hcores, hgrids⟩ := advance_domains s
  intro d hd
  rw [hdomains] at hd
  obtain ⟨e, -, rfl⟩ := List.mem_map.mp hd
  rw [domainDead_map (f := tickedDomain u) (fun _ => ⟨rfl, rfl, rfl, rfl⟩) hdomains hctxs hcores hgrids]
  exact tickedDomain_timed u e

/-- A step that is made ends with time that goes on. -/
theorem step_advances {s t : State} (h : step s = .next t) : ∃ u, t = advance u := by
  unfold step elapse at h
  split at h
  · exact ⟨_, (Host.Outcome.next.inj h).symm⟩
  · cases h
  · cases h

/-- Settles O58: a step ends with time that goes on, which takes down since when each domain cannot go on. -/
theorem stalledDomainsAreTimed : Obligations.StalledDomainsAreTimed := by
  intro s t h
  obtain ⟨u, rfl⟩ := step_advances h
  exact advance_timed u

end Sys2Proof.TasksSpeculation

/-!
The canonical form of memory (spec/13): one list for each content.
-/
namespace Sys2Proof.MemoryHierarchy
open Sys2Proof Sys2Proof.Machine Sys2Proof.Safety

/-- A list that starts with a byte other than zero at `k` and one that lists nothing up to `k` read differently there. -/
theorem memGet_ne_of_head {k : Nat} {v : Byte} {m n : List Host.Cell} (hv : v ≠ 0) (hn : memAbove (some k) n = true) :
    memGet ((k, v) :: m) k ≠ memGet n k := by
  rwa [memGet_below hn, memGet, if_pos rfl]

/-- Two ascending lists without zeros that read alike are equal, entry by entry from the lowest key on. -/
theorem memAbove_ext {m n : List Host.Cell} {lo : Option Nat} (hm : memAbove lo m = true) (hn : memAbove lo n = true)
    (h : ∀ a, memGet m a = memGet n a) : m = n := by
  induction m generalizing lo n with
  | nil =>
    cases n with
    | nil => rfl
    | cons d n =>
      obtain ⟨-, hw, -⟩ := memAbove_cons.mp hn
      exact absurd (h d.1).symm (memGet_ne_of_head hw rfl)
  | cons c m ih =>
    obtain ⟨k, v⟩ := c
    obtain ⟨hlo, hv, hm'⟩ := memAbove_cons.mp hm
    cases n with
    | nil => exact absurd (h k) (memGet_ne_of_head hv rfl)
    | cons d n =>
      obtain ⟨j, w⟩ := d
      obtain ⟨hlo', hw, hn'⟩ := memAbove_cons.mp hn
      rcases Nat.lt_trichotomy k j with hlt | rfl | hlt
      · exact absurd (h k) (memGet_ne_of_head hv (memAbove_cons.mpr ⟨hlt, hw, hn'⟩))
      · have hvw : v = w := by simpa only [memGet, if_true] using h k
        have hrest : ∀ a, memGet m a = memGet n a := fun a => by
          rcases Nat.lt_trichotomy k a with hka | rfl | hka
          · have hread := h a
            simpa only [memGet, if_neg hka.ne, if_neg hka.asymm] using hread
          · rw [memGet_below hm', memGet_below hn']
          · rw [memGet_below (memAbove_mono hka.le hm'), memGet_below (memAbove_mono hka.le hn')]
        rw [hvw, ih hm' hn' hrest]
      · exact absurd (h j).symm (memGet_ne_of_head hw (memAbove_cons.mpr ⟨hlt, hv, hm'⟩))

/-- Settles O55: a canonical list is an ascending list without zeros, above no bound. -/
theorem memoryIsCanonical : Obligations.MemoryIsCanonical := fun _ _ hm hn h => memAbove_ext hm hn h

end Sys2Proof.MemoryHierarchy

/-!
Fault-queue entries and the resolves of a supervisor (spec/15 R336 to R340).
-/
namespace Sys2Proof.Translation
open Sys2Proof Sys2Proof.Machine Sys2Proof.Safety

/-- A register access of a supervisor that does not wait happens (spec/16 R350). -/
theorem supAccess_next {name : String} {cluster : Nat} {s t : State} (h : s.supWaits cluster = false) :
    supAccess name cluster s t = .next (s.whenUp t) := by
  rw [supAccess, h, if_neg Bool.false_ne_true]

section

variable {s : State} {cid code va : Nat} {x : Cmd}

/-- The unresolved entry of its cluster that covers the fault of a held command. -/
def coveringEntry (s : State) (x : Cmd) : Option FaultEntry :=
  (s.faults.filter fun e => e.cluster == clusterOf x.core && e.unres).find? fun e =>
    e.ia == x.faultAt.1 && (!x.needsWrite || e.wr)

/-- Where no unresolved entry covers its fault and the cluster has fewer than 32, a held command makes the next entry. -/
theorem exec_faultEntryCreate_new (hx : s.cmd? cid = some x) (hf : x.fault = some (code, va)) (hn : x.entry = none)
    (hcover : coveringEntry s x = none)
    (hroom : (s.faults.filter fun e => e.cluster == clusterOf x.core && e.unres).length < 32) :
    exec (.faultEntryCreate cid) s = .next (ringFaults
      { s.setCmd { x with entry := some ((tabGet? s.faultSeq (clusterOf x.core)).getD 0) } with
        faultSeq := tabSet s.faultSeq (clusterOf x.core) (((tabGet? s.faultSeq (clusterOf x.core)).getD 0 + 1) % 2 ^ 32)
        faults := s.faults ++ [{
          cluster := clusterOf x.core, seq := (tabGet? s.faultSeq (clusterOf x.core)).getD 0, ia := x.faultAt.1,
          va := BitVec.ofNat 64 va, ctx := x.ctx, code := code, wr := x.needsWrite, eng := x.isE, slot := x.slot,
          token := x.token.getD 0, core := x.core, level := x.faultAt.2, waiters := [cid], rung := false }] }
      (clusterOf x.core)) := by
  change execFaultEntryCreate cid s = _
  unfold coveringEntry at hcover
  simp only [execFaultEntryCreate, hx, hf, hn, hcover, if_neg (Nat.not_le.mpr hroom)]
  rfl

/-- A held command joins the unresolved entry that covers its fault, which counts a merge. -/
theorem exec_faultEntryCreate_joins {e : FaultEntry} (hx : s.cmd? cid = some x) (hf : x.fault = some (code, va))
    (hn : x.entry = none) (hcover : coveringEntry s x = some e) :
    let t : State := { s.setCmd { x with entry := some e.seq } with
      faults := (s.setCmd { x with entry := some e.seq }).faults.map fun d =>
        if d.cluster = clusterOf x.core ∧ d.seq = e.seq then { d with waiters := d.waiters ++ [cid] } else d }
    exec (.faultEntryCreate cid) s = .next (t.setReg (xltcReg (clusterOf x.core) 0x28)
      (t.reg (xltcReg (clusterOf x.core) 0x28) + BitVec.ofNat 64 (2 ^ 32))) := by
  change execFaultEntryCreate cid s = _
  unfold coveringEntry at hcover
  simp only [execFaultEntryCreate, hx, hf, hn, hcover]

end

section

variable {s : State} {cluster seq n : Nat} {e : FaultEntry}

/-- A resolve that names an unresolved entry, by a supervisor that does not wait. -/
theorem exec_resolve_matched (he : s.faultEntry? cluster seq = some e) (hw : s.supWaits cluster = false) :
    exec (.fqReplay cluster seq) s = .next (s.whenUp (replayFault (matched s cluster) e)) ∧
    exec (.fqRefuse cluster seq n) s = .next (s.whenUp (refuseFault (matched s cluster) e (n % 256))) ∧
    exec (.fqExhausted cluster seq) s = .next (s.whenUp (exhaustFault (matched s cluster) e)) := by
  change execFqReplay cluster seq s = _ ∧ execFqRefuse cluster seq n s = _ ∧ execFqExhausted cluster seq s = _
  simp only [execFqReplay, execFqRefuse, execFqExhausted, he, supAccess_next hw, and_self]

/-- A resolve that names no unresolved entry sets the flag. -/
theorem exec_resolve_noMatch (he : s.faultEntry? cluster seq = none) (hw : s.supWaits cluster = false) :
    exec (.fqReplay cluster seq) s = .next (s.whenUp (noMatch s cluster)) ∧
    exec (.fqRefuse cluster seq n) s = .next (s.whenUp (noMatch s cluster)) ∧
    exec (.fqExhausted cluster seq) s = .next (s.whenUp (noMatch s cluster)) := by
  change execFqReplay cluster seq s = _ ∧ execFqRefuse cluster seq n s = _ ∧ execFqExhausted cluster seq s = _
  simp only [execFqReplay, execFqRefuse, execFqExhausted, he, supAccess_next hw, and_self]

end

/-- Settles O36: the held command's two cases, and the resolves by whether an unresolved entry has the number. -/
theorem faultEntries : Obligations.FaultEntries := fun _ _ _ _ _ _ _ _ _ =>
  ⟨exec_faultEntryCreate_new, exec_faultEntryCreate_joins, exec_resolve_matched, exec_resolve_noMatch⟩

end Sys2Proof.Translation

/-!
Walks, range entries, invalidations, page swaps and the clear engine (spec/15 R330 to R345).
-/
namespace Sys2Proof.Translation
open Sys2Proof Sys2Proof.Machine Sys2Proof.Safety

/-! ### Range entries (R330, R340) -/

section

variable {s : State} {cl : Nat} {value : Word} {c : Ctx}

/-- The context that a cluster's range-entry registers select. -/
def rangeTarget (s : State) (cl : Nat) : Option Ctx := s.ctx? ((s.reg (xltcReg cl 0x30)).toNat % 2 ^ 32)

/-- The four words that a commit gives an entry: the three that stand in the registers, and the one written. -/
def committedRange (s : State) (cl : Nat) (value : Word) : Word × Word × Word × Word :=
  (s.reg (xltcReg cl 0x38), s.reg (xltcReg cl 0x40), s.reg (xltcReg cl 0x48), value)

/-- A commit for a context that is not there, has ended or is another partition's reports 2. -/
theorem exec_rangeEntryCommit_unknown (hw : s.supWaits cl = false)
    (hc : ∀ c, rangeTarget s cl = some c → c.status = .ended ∨ c.part ≠ s.partOfCluster cl) :
    exec (.rangeEntryCommit cl value) s =
      .next (s.whenUp ((s.setReg (xltcReg cl 0x50) value).setReg (xltcReg cl 0x58) 2)) := by
  change execRangeEntryCommit cl value s = _
  unfold rangeTarget at hc
  simp only [execRangeEntryCommit, supAccess_next hw]
  cases h : s.ctx? ((s.reg (xltcReg cl 0x30)).toNat % 2 ^ 32) with
  | none => rfl
  | some c => exact if_pos (hc c h)

/-- A commit for a context of the partition that has not ended is refused with 1 where its words break a rule or the context
runs, and else takes effect with status 0. -/
theorem exec_rangeEntryCommit_known (hw : s.supWaits cl = false) (hc : rangeTarget s cl = some c) (hs : c.status ≠ .ended)
    (hp : c.part = s.partOfCluster cl) : exec (.rangeEntryCommit cl value) s =
      if rangeOk c.part (committedRange s cl value) = false ∨ ctxRuns c = true then
        .next (s.whenUp ((s.setReg (xltcReg cl 0x50) value).setReg (xltcReg cl 0x58) 1))
      else .next (s.whenUp (((s.setReg (xltcReg cl 0x50) value).setCtx
        (setRange c ((s.reg (xltcReg cl 0x30)).toNat / 2 ^ 32 % 16) (committedRange s cl value))).setReg
          (xltcReg cl 0x58) 0)) := by
  change execRangeEntryCommit cl value s = _
  unfold rangeTarget at hc
  have hknown : ¬(c.status = .ended ∨ c.part ≠ s.partOfCluster cl) := not_or.mpr ⟨hs, not_not.mpr hp⟩
  simp only [execRangeEntryCommit, supAccess_next hw, hc, if_neg hknown, Bool.not_eq_true']
  rfl

end

/-! ### Walks and invalidations (R333, R341, R342) -/

section

variable {s : State} {part ia : Nat} {value : Word} {r : Nat × Nat}

/-- A walk of the partition's lowest die. -/
theorem exec_pageWalkComplete :
    exec (.pageWalkComplete part ia) s = .next (lookupLeaf s part (partDie part) (ia % 2 ^ 48)).1 := rfl

/-- The granules that a write of the invalidation register names; a count of 0 names all. -/
def invalidated (value : Word) : Nat × Nat :=
  if (value.extractLsb' 48 16).toNat = 0 then (0, 2 ^ 29)
  else ((value.extractLsb' 19 29).toNat, (value.extractLsb' 19 29).toNat + (value.extractLsb' 48 16).toNat)

/-- An invalidation becomes pending. -/
theorem exec_xltInv_idle (h : (s.part part).invGran = none) : exec (.xltInv part value) s =
    .next (s.whenUp (s.setPart { s.part part with invGran := some (invalidated value) })) := by
  change execXltInv part value s = _
  simp only [execXltInv, h]
  rfl

/-- One that finds another pending covers both ranges. -/
theorem exec_xltInv_busy (h : (s.part part).invGran = some r) : exec (.xltInv part value) s =
    .next (s.whenUp (s.setPart { s.part part with
      invGran := some (min r.1 (invalidated value).1, max r.2 (invalidated value).2) })) := by
  change execXltInv part value s = _
  simp only [execXltInv, h]
  rfl

/-- Its end drops the translations and the runs of its range. -/
theorem exec_xltInvDone (h : (s.part part).invGran = some r) :
    exec (.xltInvDone part) s = .next ((dropLeaves s part r.1 r.2).setPart { s.part part with invGran := none }) := by
  change execXltInvDone part s = _
  simp only [execXltInvDone, h]

end

/-! ### Swapping pages (R343, R344) -/

section

variable {s : State} {part : Nat} {w : Swap}

/-- The page that a swap register names. -/
def swapPage (s : State) (part off : Nat) : Nat := (s.reg (xltpReg part off)).toNat / 2 ^ 19 % 2 ^ 29 * 2 ^ 19

/-- The state after the walks of both pages of a swap. -/
def swapWalked (s : State) (part : Nat) : State :=
  touchWalk (touchWalk s part (swapPage s part 0x20)) part (swapPage s part 0x28)

/-- A swap is not begun while another runs in the partition. -/
theorem exec_swapStart_busy (h : s.swapOf part = some w) :
    exec (.swapStart part) s = .next (s.whenUp (swapSts s part 1 3 w.done)) := by
  change execSwapStart part s = _
  simp only [execSwapStart, h]

/-- The far page is not mapped. -/
theorem exec_swapStart_unmapped {code lv : Nat} (h : s.swapOf part = none)
    (hfar : walk s part (swapPage s part 0x20) = .fault code lv) :
    exec (.swapStart part) s = .next (s.whenUp (swapSts (swapWalked s part) part 0 1 0)) := by
  change execSwapStart part s = _
  unfold swapPage at hfar
  simp only [execSwapStart, h, hfar]
  rfl

/-- The swap of two mapped pages: what it comes to by their levels and homes. -/
theorem exec_swapStart_mapped {lf ln af an : Nat} {ef en : Word} (h : s.swapOf part = none)
    (hfar : walk s part (swapPage s part 0x20) = .leaf lf ef af)
    (hnear : walk s part (swapPage s part 0x28) = .leaf ln en an) : exec (.swapStart part) s = .next (s.whenUp
    (if lf ≠ 3 ∨ ln ≠ 3 then swapSts (swapWalked s part) part 0 1 0
     else if pteH ef = false ∨ pteH en = true then swapSts (swapWalked s part) part 0 2 0
     else swapSts { setSwp (setSwp (swapWalked s part) af true) an true with
       swaps := (setSwp (setSwp (swapWalked s part) af true) an true).swaps ++
         [{ part := part, farIa := swapPage s part 0x20, nearIa := swapPage s part 0x28, farPte := af, nearPte := an,
            done := 0 }] } part 1 0 0)) := by
  change execSwapStart part s = _
  unfold swapPage at hfar hnear
  simp only [execSwapStart, h, hfar, hnear, Bool.not_eq_true', swapWalked, swapPage]
  split
  · rfl
  · split <;> rfl

/-- The state in which one more line of a swap has been exchanged. -/
def lineSwapped (s : State) (part : Nat) (w : Swap) (far near : Nat) : State :=
  let t := swapLines (mscTouch s part sysReq .write (near + 64 * w.done)) (hostBase + far + 64 * w.done) (near + 64 * w.done)
  { t with swaps := t.swaps.map fun x => if x.part = part then { w with done := w.done + 1 } else x }

/-- A line of a swap whose entries can be read and whose far frame can be reached is exchanged; the last one ends it. -/
theorem exec_swapLine {pf pn : Word} (h : s.swapOf part = some w) (hfar : pteAt s w.farPte = some pf)
    (hnear : pteAt s w.nearPte = some pn) (hup : hostDown s (pteAddr pf) = false) : exec (.swapLine part) s =
      .next (if w.done + 1 = 8192 then swapEnd (lineSwapped s part w (pteAddr pf) (pteAddr pn)) { w with done := w.done + 1 }
        else swapSts (lineSwapped s part w (pteAddr pf) (pteAddr pn)) part 1 0 (w.done + 1)) := by
  change execSwapLine part s = _
  simp only [execSwapLine, h, hfar, hnear, hup, Bool.false_eq_true, if_false]
  rfl

end

/-! ### The clear engine (R345) -/

section

variable {s : State} {part : Nat} {frames : List Nat}

/-- No copy of a line of the frames is left in a cluster's cache. -/
theorem dropFrames_lines : ∀ l ∈ (dropFrames s frames).lines, homedIn s frames l.part l.cluster l.line l.key = false :=
  fun l hl => by simpa using (List.mem_filter.mp hl).2

/-- Nor in a posted-write buffer. -/
theorem dropFrames_posted :
    ∀ l ∈ (dropFrames s frames).posted, homedIn s frames l.part (clusterOf l.core) l.line l.key = false :=
  fun l hl => by simpa using (List.mem_filter.mp hl).2

/-- The sweep zeroes the next line of the oldest pending frame, unless it is marked, and passes it. -/
theorem exec_clearSweepLine {f : ClearFrame} (h : (s.clear.find? fun f => f.part == part) = some f) :
    let key := f.frame + 64 * f.next
    let t := if f.marked.contains f.next then s else zeroLine (mscTouch s part sysReq .write key) key
    exec (.clearSweepLine part) s = .next { t with
      clear := if f.next + 1 ≥ 8192 then t.clear.filter fun g => !(g.part == part && g.frame == f.frame)
        else t.clear.map fun g => if g.part = part ∧ g.frame = f.frame then { g with next := g.next + 1 } else g } := by
  change execClearSweepLine part s = _
  simp only [execClearSweepLine, h]

end

/-- Settles O50: each event by its case. -/
theorem translationSwapAndClear : Obligations.TranslationSwapAndClear := by
  refine ⟨fun s part ia cl value c r => ?_, fun s part value w pf pn ef en af an f => ?_⟩
  · refine ⟨exec_pageWalkComplete, fun hw => ⟨fun hc => ?_, fun hc hbad => ?_, fun hc hs hp hok hr => ?_,
      fun hc hs hp hbad => ?_⟩, exec_xltInv_idle, exec_xltInv_busy, exec_xltInvDone⟩
    · exact exec_rangeEntryCommit_unknown hw fun d hd => absurd (hc.symm.trans hd) nofun
    · exact exec_rangeEntryCommit_unknown hw fun d hd => by
        cases hc.symm.trans hd
        exact hbad
    · exact (exec_rangeEntryCommit_known hw hc hs hp).trans (if_neg (not_or.mpr
        ⟨ne_false_of_eq_true hok, ne_true_of_eq_false hr⟩))
    · exact (exec_rangeEntryCommit_known hw hc hs hp).trans (if_pos hbad)
  · refine ⟨fun lf ln h hfar hnear hlf hln hhost hown => ?_, exec_swapStart_busy, fun lf ln h hfar hnear => ⟨fun hlv => ?_,
      fun hlf hln hhome => ?_⟩, fun _ _ => exec_swapStart_unmapped, fun h hfar hnear hup hmore => ?_,
      fun h hfar hnear hup hlast => ?_, rfl, ⟨dropFrames_lines, dropFrames_posted⟩, exec_clearSweepLine⟩
    · exact (exec_swapStart_mapped h hfar hnear).trans (by
        rw [if_neg (by simp [hlf, hln]), if_neg (by simp [hhost, hown])]; rfl)
    · exact (exec_swapStart_mapped h hfar hnear).trans (by rw [if_pos hlv]; rfl)
    · exact (exec_swapStart_mapped h hfar hnear).trans (by rw [if_neg (by simp [hlf, hln]), if_pos hhome]; rfl)
    · exact (exec_swapLine h hfar hnear hup).trans (by rw [if_neg hmore]; rfl)
    · exact (exec_swapLine h hfar hnear hup).trans (by rw [if_pos hlast]; rfl)

end Sys2Proof.Translation

/-!
The intake of launches, their release, and the release of session jobs (spec/19 R381, R382, R387; spec/20 R404; spec/21
R463; spec/22 R428).
-/
namespace Sys2Proof.Scheduler
open Sys2Proof Sys2Proof.Machine Sys2Proof.Safety

/-! ### Consumption (R381, R428) -/

section

variable {s : State} {part : Nat}

/-- An enabled ring that has not overrun holds an entry that a partition can take. -/
theorem exec_launchConsume (hopen : partOpen s part = true) (hon : (s.reg (gafReg part 0x38)).getLsbD 8 = true)
    (hovr : (s.reg (gafReg part 0x38)).getLsbD 9 = false)
    (hnew : (s.reg (gafReg part 0x40)).toNat < s.load (vaultBase + (s.reg (gafReg part 0x30)).toNat) 8) :
    let ctl := s.reg (gafReg part 0x38)
    let base := vaultBase + (s.reg (gafReg part 0x30)).toNat
    let ri := (s.reg (gafReg part 0x40)).toNat
    let entry := base + 64 + 128 * (ri % ringSize ctl)
    exec (.launchConsume part) s =
      if s.load base 8 > ri + ringSize ctl then .next (s.setReg (gafReg part 0x38) (ctl ||| 0x200))
      else .next
        ((agentStore (enterLaunch s part (memGetList s.mem entry 128) (.ring (entry + 0x70))) (base + 8) 8 (ri + 1)).setReg
          (gafReg part 0x40) (BitVec.ofNat 64 (ri + 1))) := by
  change execLaunchConsume part s = _
  exact if_neg (by rw [hopen, hon, hovr]; simp [hnew])

/-- An enabled host queue of a holder's device holds an entry that its partition can take. -/
theorem exec_hostQueueConsume {qn : Nat} (hs : (s.queue qn).state = 1) (hon : (s.queue qn).cfg.getLsbD 4 = true)
    (hhost : s.hostIf.valid = true) (hopen : partOpen s (s.queue qn).part = true)
    (hnew : (s.queue qn).ri < (s.queue qn).last)
    (hroom : (s.queue qn).outstanding +
      ((s.queue qn).cwi - s.load (vaultBase + (s.queue qn).base.toNat + 0x10) 8) < ringSize (s.queue qn).cfg) :
    let q := s.queue qn
    let base := vaultBase + q.base.toNat
    let entry := base + 0x100 + 128 * (q.ri % ringSize q.cfg)
    exec (.hostQueueConsume qn) s = .next
      ((agentStore (enterLaunch s q.part (memGetList s.mem entry 128) (.queue qn q.ri (entry + 0x70))) base 8
        (q.ri + 1)).setQueue { q with ri := q.ri + 1, outstanding := q.outstanding + 1 }) := by
  change execHostQueueConsume qn s = _
  exact if_neg (by simp [hs, hon, hhost, hopen, hnew, hroom])

end

/-! ### The release of a launch (R382) -/

section

variable {s : State} {n : Nat} {g : Grid}

/-- A pending launch whose time has come, and before which no other event of its instant goes. -/
def LaunchDue (s : State) (g : Grid) : Prop := g.status = .pending ∧ g.kind = .launch ∧ g.release ≤ s.now ∧
  (s.part g.part).resetting = false ∧ otherFirst s g g.eventAt = false

/-- `LaunchDue` as `execLaunchRelease` decides it. -/
theorem launchDue_iff : LaunchDue s g ↔ ¬(g.status ≠ .pending ∨ g.kind ≠ .launch ∨ s.now < g.release ∨
    (s.part g.part).resetting = true ∨ otherFirst s g g.eventAt = true) := by
  simp [LaunchDue]

/-- A launch that is due is set up. -/
theorem exec_launchRelease_setUp {t : State} {g' : Grid} (hg : s.grid? n = some g) (hdue : LaunchDue s g)
    (hok : setupGrid (setupTouch s g) { g with complete := false } (!g.complete) = .ok (t, g')) :
    exec (.launchRelease n) s = .next (noteDone (t.setGrid g') g.part) := by
  change execLaunchRelease n s = _
  simp only [execLaunchRelease, hg, if_neg (launchDue_iff.mp hdue), hok]

/-- One whose set-up fails is refused with the reason as its status. -/
theorem exec_launchRelease_refused {r : Nat} (hg : s.grid? n = some g) (hdue : LaunchDue s g)
    (hbad : setupGrid (setupTouch s g) { g with complete := false } (!g.complete) = .error r) :
    exec (.launchRelease n) s = .next
      (noteDone (writeStatus ((setupTouch s g).setGrid { g with status := .refused, complete := false }) g 2 r) g.part) := by
  change execLaunchRelease n s = _
  simp only [execLaunchRelease, hg, if_neg (launchDue_iff.mp hdue), hbad]

end

/-! ### The release of a job (R404, R463) -/

section

variable {s : State} {id : Nat} {j : Job}

/-- The first waiting job of its session at its release instant, before which no other event of that instant goes. -/
def JobDue (s : State) (j : Job) : Prop := j.release ≤ s.now ∧ (s.part j.part).resetting = false ∧ s.headJob j = true ∧
  otherFirst s (j.asGrid s) (j.asGrid s).eventAt = false

/-- `JobDue` as `execJobRelease` decides it. -/
theorem jobDue_iff : JobDue s j ↔ ¬(s.now < j.release ∨ (s.part j.part).resetting = true ∨ (!s.headJob j) = true ∨
    otherFirst s (j.asGrid s) (j.asGrid s).eventAt = true) := by
  simp [JobDue]

/-- The state in which a job waits no more. -/
def unqueued (s : State) (id : Nat) : State := { s with jobs := s.jobs.filter fun y => y.id != id }

/-- The state in which a job has left the waiting ones and has taken the next submission number and the next key. -/
def numbered (s : State) (id : Nat) (j : Job) : State := { (takeSub (unqueued s id) j.part).1 with nextKey := s.nextKey + 1 }

/-- The state in which the set-up of a job's grid has read what it reads. -/
def jobTouched (s : State) (id : Nat) (j : Job) (g : Grid) : State :=
  setupTouch (gafTouch (numbered s id j) j.part
    [((((s.session j.part j.session).words[if j.action then 1 else 2]?).getD 0).toNat, 128)]) g

/-- A job that is missed at its release. -/
def releaseMissed (t : State) (g : Grid) : State :=
  missJob (t.setGrid { g with status := .refused, missed := true, complete := true }) g

/-- A release of an action job evaluates its session's level, and completions that waited for it are taken. -/
def jobReleased (t : State) (j : Job) : State := noteDone (if j.action then evalLevel t j.part j.session else t) j.part

variable (hj : (s.jobs.find? fun y => y.id == id) = some j) (hdue : JobDue s j)
include hj hdue

/-- A job of a session that is not ACTIVE any more is dropped. -/
theorem exec_jobRelease_dropped (hx : (s.session j.part j.session).state ≠ 1) :
    exec (.jobRelease id) s = .next (noteDone (unqueued s id) j.part) := by
  change execJobRelease id s = _
  simp only [execJobRelease, hj, if_neg (jobDue_iff.mp hdue)]
  exact if_pos hx

section

variable {bs : List Byte} {g : Grid} (hx : (s.session j.part j.session).state = 1)
  (hg : jobGrid (unqueued s id) (s.session j.part j.session) j (takeSub (unqueued s id) j.part).2 = some (bs, g))
include hx hg

/-- A job of an ACTIVE session is set up where its lane has room, and else missed. -/
theorem exec_jobRelease_setUp {t : State} {g' : Grid} (hok : setupGrid (jobTouched s id j g) g (descZero bs) = .ok (t, g')) :
    exec (.jobRelease id) s = .next (jobReleased
      (if laneRoom (jobTouched s id j g) g' then t.setGrid g' else releaseMissed (jobTouched s id j g) g) j) := by
  unfold jobTouched numbered unqueued at hok
  unfold unqueued at hg
  change execJobRelease id s = _
  simp only [execJobRelease, hj, if_neg (jobDue_iff.mp hdue), if_neg (not_not.mpr hx), hg, hok]
  rfl

/-- One whose set-up fails is missed. -/
theorem exec_jobRelease_missed {r : Nat} (hbad : setupGrid (jobTouched s id j g) g (descZero bs) = .error r) :
    exec (.jobRelease id) s = .next (jobReleased (releaseMissed (jobTouched s id j g) g) j) := by
  unfold jobTouched numbered unqueued at hbad
  unfold unqueued at hg
  change execJobRelease id s = _
  simp only [execJobRelease, hj, if_neg (jobDue_iff.mp hdue), if_neg (not_not.mpr hx), hg, hbad]
  rfl

end

end

/-- Settles O39: each event under its guard, a set-up by what it answers. -/
theorem launchesAndJobReleases : Obligations.LaunchesAndJobReleases := by
  refine ⟨fun s part qn n g g' t => ?_, fun s id j bs g g' t => ?_⟩
  · refine ⟨fun hopen hon hovr hnew hfits => ?_, fun hopen hon hovr hmore => ?_, exec_hostQueueConsume,
      fun hg hs hk ht hr ho hok => ?_, fun r hg hs hk ht hr ho hbad => ?_⟩
    · exact (exec_launchConsume hopen hon hovr hnew).trans (if_neg (Nat.not_lt.mpr hfits))
    · exact (exec_launchConsume hopen hon hovr (by omega)).trans (if_pos hmore)
    · exact exec_launchRelease_setUp hg ⟨hs, hk, ht, hr, ho⟩ hok
    · exact exec_launchRelease_refused hg ⟨hs, hk, ht, hr, ho⟩ hbad
  · intro s0 sub s1 y r missed level hj ht hr hh ho
    exact ⟨fun hx hg hok => exec_jobRelease_setUp hj ⟨ht, hr, hh, ho⟩ hx hg hok,
      fun _ hx hg hbad => exec_jobRelease_missed hj ⟨ht, hr, hh, ho⟩ hx hg hbad,
      exec_jobRelease_dropped hj ⟨ht, hr, hh, ho⟩⟩

end Sys2Proof.Scheduler

/-!
The operations on sessions (spec/19 R393, R394, R396, R399; spec/22 R430).
-/
namespace Sys2Proof.Scheduler
open Sys2Proof Sys2Proof.Machine Sys2Proof.Safety

section

variable {s t : State} {part session level : Nat}

/-- The state of a session's admission: its templates have been read where the entry itself is in order. -/
def admissionRead (s : State) (part : Nat) (x : Session) : State :=
  if x.state = 0 ∧ (s.part part).resetting = false ∧ entryZero x = true ∧ entryLimits s x = true then touchTemplates s x
  else s

/-- An admission that succeeds. -/
theorem exec_sessionAdmit_ok
    (h : admitSession (admissionRead s part (s.session part (sesSel s part))) (s.session part (sesSel s part)) = .ok t) :
    exec (.sessionAdmit part) s = .next (s.whenUp (sesStatus t part 0 0)) := by
  unfold admissionRead at h
  change execSessionAdmit part s = _
  simp only [execSessionAdmit, Bool.not_eq_true', h]

/-- One that is refused reports the reason; what it read has been read. -/
theorem exec_sessionAdmit_refused {r : Nat}
    (h : admitSession (admissionRead s part (s.session part (sesSel s part))) (s.session part (sesSel s part)) = .error r) :
    exec (.sessionAdmit part) s =
      .next (s.whenUp (sesStatus (admissionRead s part (s.session part (sesSel s part))) part 1 r)) := by
  unfold admissionRead at h
  change execSessionAdmit part s = _
  simp only [execSessionAdmit, Bool.not_eq_true', h]
  rfl

/-- A level forced on the selected session. -/
theorem exec_sessionForceLevel : exec (.sessionForceLevel part level) s =
    let x := s.session part (sesSel s part)
    .next (s.whenUp (sesStatus (if x.state = 0 then s else enterLevel s { x with forced := true, forcedLevel := level % 4 }
      (if x.hostForced = true ∧ x.state ≠ 3 then 3 else level % 4)) part 0 0)) := by
  change execSessionForceLevel part level s = _
  unfold execSessionForceLevel
  dsimp only
  split <;> rfl

/-- The force of the selected session is released. -/
theorem exec_sessionForceRelease : exec (.sessionForceRelease part) s =
    let x := s.session part (sesSel s part)
    .next (s.whenUp (sesStatus (if x.state = 0 then s else s.setSession { x with forced := false }) part 0 0)) := by
  change execSessionForceRelease part s = _
  unfold execSessionForceRelease
  dsimp only
  split <;> rfl

/-- A closing session without a job that stands ready becomes FREE. -/
theorem exec_sessionCloseDone (hx : (s.session part session).state = 2)
    (hidle : ∀ g ∈ s.grids, g.isJob = true → g.part = part → g.session = session → g.status ≠ .ready) :
    exec (.sessionCloseDone part session) s = .next (freeSession s (s.session part session)) := by
  have hbusy : (s.grids.any fun g => g.isJob && g.part == part && g.session == session && g.status == .ready) = false := by
    simpa [and_imp] using hidle
  change execSessionCloseDone part session s = _
  exact if_neg (by rw [hbusy]; simp [hx])

/-- A session that has been ACTIVE for 64 periods without a host is suspended. -/
theorem exec_sessionSuspend (hx : (s.session part session).state = 1) (hhost : s.hostIf.valid = false)
    (hlate : max s.hostIf.lapsedAt (s.session part session).activeAt + 64 * (s.session part session).field 3 0 32 ≤ s.now) :
    exec (.sessionSuspend part session) s =
      let u := s.setSession { s.session part session with state := 3 }
      .next { u with jobs := u.jobs.filter fun j => !(j.part == part && j.session == session) } := by
  change execSessionSuspend part session s = _
  exact if_neg (by rw [hx, hhost]; simp [hlate])

end

/-- Settles O41: each operation by its case; a close and an enabling hold as they are written. -/
theorem sessions : Obligations.Sessions := by
  intro s part session level value
  exact ⟨fun _ => exec_sessionAdmit_ok, fun _ => exec_sessionAdmit_refused, rfl, exec_sessionCloseDone,
    exec_sessionForceLevel, exec_sessionForceRelease, exec_sessionSuspend, rfl⟩

end Sys2Proof.Scheduler

/-!
Tokens and packets from the network (spec/20 R400, R403 to R405, R409).
-/
namespace Sys2Proof.StreamIo
open Sys2Proof Sys2Proof.Machine Sys2Proof.Safety

section

variable {s : State} {session port : Nat} {payload : List Byte} {p : Session}

/-- A token of a length that the endpoint supports arrives at a part that runs. -/
def TokenHere (s : State) (session port : Nat) (payload : List Byte) : Prop :=
  session < 4096 ∧ port < 4 ∧ s.boot = .running ∧ payload.length ≤ 9000

/-- The guard of an arrival, as `execTokenArrival` decides it. -/
theorem arrival_enabled (hs : session < 4096) (hport : port < 4) (hb : s.boot = .running) :
    ¬(session ≥ 4096 ∨ port ≥ 4 ∨ s.boot ≠ .running) := by
  simp [hs, hport, hb]

/-- The session of an endpoint entry takes tokens: the entry is enabled and the session ACTIVE on a die that runs. -/
def TakesTokens (s : State) (session : Nat) (p : Session) : Prop :=
  (s.ep session).field 0 0 1 ≠ 0 ∧ (s.session (activePart s (s.ep session) p) session).state = 1 ∧
    (s.part (activePart s (s.ep session) p)).resetting = false

/-- `TakesTokens` as `execTokenArrival` decides it. -/
theorem takesTokens_iff : TakesTokens s session p ↔ ¬((s.ep session).field 0 0 1 = 0 ∨
    (s.session (activePart s (s.ep session) p) session).state ≠ 1 ∨
    (s.part (activePart s (s.ep session) p)).resetting = true) := by
  simp [TakesTokens]

/-- The ring word of a session's active die. -/
def tokenRing (s : State) (session : Nat) (p : Session) : Word :=
  ((s.ep session).words[if onShadow (s.ep session) p then 4 else 3]?).getD 0

/-- Where that ring lies. -/
def ringBase (s : State) (session : Nat) (p : Session) : Nat := vaultBase + (tokenRing s session p).toNat / 2 ^ 12 * 2 ^ 12

/-- A token of a session that no Gaffer entry holds is discarded. -/
theorem exec_tokenArrival_unknown (h : TokenHere s session port payload) (hp : primaryOf s session = none) :
    exec (.tokenArrival session port payload) s =
      .next (s.setEp { s.ep session with discarded := (s.ep session).discarded + 1 }) := by
  obtain ⟨hs, hport, hb, hl⟩ := h
  change execTokenArrival session port payload s = _
  simp only [execTokenArrival, if_neg (arrival_enabled hs hport hb), if_neg (Nat.not_lt.mpr hl), hp]

/-- A token of a session that takes none is discarded. -/
theorem exec_tokenArrival_discarded (h : TokenHere s session port payload) (hp : primaryOf s session = some p)
    (hgone : ¬TakesTokens s session p) : exec (.tokenArrival session port payload) s =
      .next (s.setEp { s.ep session with discarded := (s.ep session).discarded + 1 }) := by
  obtain ⟨hs, hport, hb, hl⟩ := h
  change execTokenArrival session port payload s = _
  simp only [execTokenArrival, if_neg (arrival_enabled hs hport hb), if_neg (Nat.not_lt.mpr hl), hp]
  exact if_pos (not_not.mp (mt takesTokens_iff.mpr hgone))

/-- A token of a session that takes tokens is refused where its ring is full, and else accepted. -/
theorem exec_tokenArrival_taken (h : TokenHere s session port payload) (hp : primaryOf s session = some p)
    (htakes : TakesTokens s session p) : exec (.tokenArrival session port payload) s =
      if s.load (ringBase s session p) 8 - s.load (ringBase s session p + 8) 8 ≥
          2 ^ max 5 (min 12 ((tokenRing s session p).toNat % 16)) then
        .next ((s.setEp { s.ep session with full := (s.ep session).full + 1 }).output (.nack session))
      else .next (acceptToken s (s.ep session) (s.session (activePart s (s.ep session) p) session) port payload
        (tokenRing s session p) (ringBase s session p) (s.load (ringBase s session p) 8)) := by
  obtain ⟨hs, hport, hb, hl⟩ := h
  change execTokenArrival session port payload s = _
  simp only [execTokenArrival, if_neg (arrival_enabled hs hport hb), if_neg (Nat.not_lt.mpr hl), hp]
  exact if_neg (takesTokens_iff.mp htakes)

/-- A message that is too long is refused and counted. -/
theorem exec_tokenArrival_long (hs : session < 4096) (hport : port < 4) (hb : s.boot = .running) (hl : 9000 < payload.length) :
    exec (.tokenArrival session port payload) s = .next ((s.bumpReg ⟨.uep, 0, 0x50⟩ 1).output (.nack session)) := by
  change execTokenArrival session port payload s = _
  simp only [execTokenArrival, if_neg (arrival_enabled hs hport hb), if_pos (show payload.length > 9000 from hl)]

/-- A packet of an unsupported part of the semantic sublayer is refused, another dropped; both are counted. -/
theorem exec_unsupportedPacket {semantic : Bool} (hport : port < 4) : exec (.unsupportedPacket ⟨port, semantic⟩) s =
    .next (if semantic then (s.bumpReg ⟨.uep, 0, 0x50⟩ 1).output (.nackPacket port)
      else s.bumpReg ⟨.uep, 0, 0x50⟩ 1) := by
  change execUnsupportedPacket ⟨port, semantic⟩ s = _
  exact if_neg (Nat.not_le.mpr hport)

end

/-- Settles O47: an arrival by who holds its session and what its ring holds, a packet by its kind. -/
theorem tokens : Obligations.Tokens := by
  intro s session port payload p
  refine ⟨fun h hp ho hroom => ?_, fun h hp ho hfull => ?_, exec_tokenArrival_discarded, exec_tokenArrival_unknown,
    exec_tokenArrival_long, exec_unsupportedPacket, exec_unsupportedPacket⟩
  · exact (exec_tokenArrival_taken h hp ho).trans (if_neg (Nat.not_le.mpr hroom))
  · exact (exec_tokenArrival_taken h hp ho).trans (if_pos hfull)

end Sys2Proof.StreamIo

/-!
The time unit (spec/20 R406 to R408).
-/
namespace Sys2Proof.StreamIo
open Sys2Proof Sys2Proof.Machine Sys2Proof.Safety

section

variable {s : State} {port q a t1 t4 : Nat} {twoStep : Bool} {time origin rate : Int}

/-- A one-step Sync gives an offset and a rate, a two-step one waits for its Follow_Up. -/
theorem exec_ptp_sync (hport : port < 4) : exec (.ptpEventMessage port (.sync twoStep origin) rate) s =
    .next { s with time := if twoStep then { s.time with sync := some (port, s.now) }
      else { syncOffset s.now s.time (s.now - origin) with rate := clampAbs (200000 * 2 ^ 16) rate, sync := none } } :=
  if_neg (Nat.not_le.mpr hport)

/-- A delay request leaves. -/
theorem exec_ptp_delayReq (hport : port < 4) : exec (.ptpEventMessage port .delayReq rate) s =
    .next { s with time := { s.time with req := some (port, s.now) } } := if_neg (Nat.not_le.mpr hport)

/-- A peer delay request leaves. -/
theorem exec_ptp_pdelayReq (hport : port < 4) : exec (.ptpEventMessage port .pdelayReq rate) s =
    .next { s with time := { s.time with peerReq := some (port, s.now), peerResp := none } } := if_neg (Nat.not_le.mpr hport)

/-- The response to a port's peer delay request: a one-step one gives the path delay, a two-step one waits for its follow-up. -/
theorem exec_ptp_pdelayResp (hport : port < 4) (hreq : s.time.peerReq = some (port, t1)) :
    exec (.ptpEventMessage port (.pdelayResp twoStep time) rate) s =
      .next { s with time := if twoStep then { s.time with peerResp := some (port, s.now, time) }
        else { s.time with delay := (s.now - t1 - time) / 2, peerReq := none } } := by
  change execPtpEventMessage port (.pdelayResp twoStep time) rate s = _
  simp only [execPtpEventMessage, if_neg (Nat.not_le.mpr hport), hreq, ne_eq, not_true, if_false]

/-- The Follow_Up of a port's two-step Sync gives the offset at that Sync's arrival. -/
theorem exec_ptp_followUp (hport : port < 4) (hsync : s.time.sync = some (port, a)) :
    exec (.ptpGeneralMessage port 8 origin) s =
      .next { s with time := { syncOffset s.now s.time (a - origin) with sync := none } } := by
  change execPtpGeneralMessage port 8 origin s = _
  simp only [execPtpGeneralMessage, if_neg (Nat.not_le.mpr hport), hsync, if_true]

/-- The response to a port's delay request gives the path delay. -/
theorem exec_ptp_delayResp (hport : port < 4) (hreq : s.time.req = some (port, a)) :
    exec (.ptpGeneralMessage port 9 origin) s =
      .next { s with time := { s.time with delay := (s.time.toRecv + (origin - a)) / 2, req := none } } := by
  change execPtpGeneralMessage port 9 origin s = _
  simp only [execPtpGeneralMessage, if_neg (Nat.not_le.mpr hport), hreq, if_true]

/-- The follow-up of a two-step peer response gives the path delay. -/
theorem exec_ptp_pdelayFollowUp (hport : port < 4) (hreq : s.time.peerReq = some (q, t1))
    (hresp : s.time.peerResp = some (port, t4, time)) : exec (.ptpGeneralMessage port 10 origin) s =
      .next { s with time := { s.time with
        delay := (t4 - t1 - (origin - time)) / 2, peerReq := none, peerResp := none } } := by
  change execPtpGeneralMessage port 10 origin s = _
  simp only [execPtpGeneralMessage, if_neg (Nat.not_le.mpr hport), hreq, hresp, if_true]

/-- Eight sync intervals without a usable sync begin holdover. -/
theorem exec_holdover (hh : s.time.holdover = false) (ht : s.time.lastSync + 8 * Config.syncInterval ≤ s.now) :
    exec .holdover s = .next { s with time := { s.time with holdover := true } } :=
  if_neg (by simp [hh, ht])

/-- A write that is no step, or a part that does not run: the count does not move. -/
theorem exec_ptmStep_none {value : Word} (h : value.toNat = 0 ∨ 2 ^ 32 < value.toNat ∨ s.boot ≠ .running) :
    exec (.ptmStep value) s = .next s := if_pos h

end

/-- Settles O49: each message by its kind; a PTM step is the model's own once its guard is decided. -/
theorem timeUnitEvents : Obligations.TimeUnitEvents := by
  intro s port t1 at' origin rate value t synced v past held next
  refine ⟨exec_ptp_sync, exec_ptp_sync, exec_ptp_followUp, exec_ptp_delayReq, exec_ptp_delayResp, exec_ptp_pdelayReq,
    exec_ptp_pdelayResp, exec_ptp_pdelayResp, fun _ => exec_ptp_pdelayFollowUp, exec_holdover, fun hpos hmax hb => ?_,
    exec_ptmStep_none⟩
  have hstep : ¬(v = 0 ∨ v > 2 ^ 32 ∨ s.boot ≠ .running) :=
    not_or.mpr ⟨hpos.ne', not_or.mpr ⟨Nat.not_lt.mpr hmax, not_not.mpr hb⟩⟩
  exact if_neg hstep

end Sys2Proof.StreamIo

/-!
The lease, the links, host queues, cross-side queues and the window onto vault memory (spec/22 R425 to R431).
-/
namespace Sys2Proof.FabricHost
open Sys2Proof Sys2Proof.Machine Sys2Proof.Safety

/-! ### The lease (R426, R430) -/

section

variable {s : State} {port : Nat}

/-- A renewal by one of the two ports of a part that has left reset. -/
theorem renewal_enabled (hport : port < 2) (hb : s.boot = .running ∨ s.boot = .recovery) :
    ¬(port ≥ 2 ∨ s.boot = .off ∨ s.boot = .held) := by
  rcases hb with hb | hb <;> simp [hport, hb]

/-- A renewal in recovery mode restarts the boot sequence. -/
theorem exec_leaseRenew_recovery (hport : port < 2) (hb : s.boot = .recovery) :
    exec (.leaseRenew port) s = .next (recoverPart s) := by
  change execLeaseRenew port s = _
  simp only [execLeaseRenew, if_neg (renewal_enabled hport (.inr hb)), if_pos hb]

/-- A renewal on a part that runs: it takes a free lease, keeps it for its holder, and, from the other port, takes it only for
port 0 at the instant at which port 1 took the free lease. -/
theorem exec_leaseRenew_running (hport : port < 2) (hb : s.boot = .running) : exec (.leaseRenew port) s =
    if s.hostIf.valid = false then .next (hostReturns { s with hostIf := { s.hostIf with
      holder := port, valid := true, epoch := s.hostIf.epoch + 1, exp := s.now + leaseTtl s
      takenAt := if port = 1 then some s.nowPs else none } })
    else if s.hostIf.holder = port then .next { s with hostIf := { s.hostIf with exp := s.now + leaseTtl s } }
    else if port = 0 ∧ s.hostIf.takenAt = some s.nowPs then
      .next { s with hostIf := { s.hostIf with holder := 0, takenAt := none } }
    else .next s := by
  change execLeaseRenew port s = _
  simp only [execLeaseRenew, if_neg (renewal_enabled hport (.inl hb)),
    if_neg (show ¬s.boot = .recovery by simp [hb]), Bool.not_eq_true']

/-- An expiry hands the lease over where the other port has armed that, and else leaves the device without a host. -/
theorem exec_leaseExpiry (hv : s.hostIf.valid = true) (ht : s.hostIf.exp ≤ s.now) : exec .leaseExpiry s =
    if (s.reg (hifReg (1 - s.hostIf.holder) 0x20)).getLsbD 0 = true then
      .next ((s.queues.filter (unreadQueue s)).foldl (fun t q => t.output (.queueIrq (1 - s.hostIf.holder) q.q))
        { s with hostIf := { s.hostIf with
          holder := 1 - s.hostIf.holder, epoch := s.hostIf.epoch + 1, exp := s.now + leaseTtl s } })
    else .next (hostLapses s) := by
  change execLeaseExpiry s = _
  exact if_neg (by rw [hv]; simp [ht])

/-! ### Links and the window onto vault memory (R425) -/

/-- A link goes down. -/
theorem exec_hostLinkDown (hport : port < 2) : exec (.hostLinkDown port) s = .next (setLink s port false) :=
  if_neg (Nat.not_le.mpr hport)

/-- A link comes up, unless the part is held in reset. -/
theorem exec_hostLinkUp (hport : port < 2) (hb : s.boot ≠ .held) : exec (.hostLinkUp port) s = .next (setLink s port true) :=
  if_neg (not_or.mpr ⟨Nat.not_le.mpr hport, hb⟩)

/-- A write through the window of a port whose link is up is its holder's alone, but in recovery mode. -/
theorem exec_hostBar2Write {vault : Nat} {data : List Byte} (hport : port < 2)
    (hup : (if port = 0 then s.hostIf.up0 else s.hostIf.up1) = true) (hfits : vault + data.length ≤ 2 ^ 33)
    (hb : s.boot ≠ .recovery) : exec (.hostBar2Write port vault data) s =
      .next (if s.isHolder port then agentWrite s (vaultBase + vault) data else s) := by
  change execHostBar2Write port vault data s = _
  have henabled : ¬(port ≥ 2 ∨ (!if port = 0 then s.hostIf.up0 else s.hostIf.up1) = true ∨
      vault + data.length > 2 ^ 33) :=
    not_or.mpr ⟨Nat.not_le.mpr hport, not_or.mpr ⟨by rw [hup]; nofun, Nat.not_lt.mpr hfits⟩⟩
  simp only [execHostBar2Write, if_neg henabled, if_neg hb]
  split <;> rfl

end

/-! ### Queue pairs and cross-side queues (R429, R431) -/

section

variable {s : State} {port queue : Nat} {value : Word}

/-- A doorbell of a port that does not hold the lease, or of a queue in overrun, changes nothing. -/
theorem exec_doorbell_ignored (h : s.isHolder port = false ∨ (s.queue (queueSel s)).state = 2) :
    exec (.doorbell port value) s = .next s := by
  change execDoorbell port value s = _
  exact if_pos (h.imp_left fun hp => by rw [hp]; rfl)

/-- The holder's doorbell of a queue that has not overrun: it goes back, stays within the ring, or overruns it. -/
theorem exec_doorbell_holder (hp : s.isHolder port = true) (hs : (s.queue (queueSel s)).state ≠ 2) :
    let q := s.queue (queueSel s)
    exec (.doorbell port value) s =
      if value.toNat < q.last then .next (s.setQueue { q with ignored := min (q.ignored + 1) 0xFFFF })
      else if value.toNat - q.ri ≤ ringSize q.cfg then .next (s.setQueue { q with last := value.toNat })
      else .next (s.setQueue { q with state := 2 }) := by
  change execDoorbell port value s = _
  exact if_neg (not_or.mpr ⟨by rw [hp]; nofun, hs⟩)

/-- A queue reset counts from the holder alone. -/
theorem exec_queueReset : exec (.queueReset port) s =
    let q := s.queue (queueSel s)
    if s.isHolder port = false then .next s else .next (zeroQueue s q (if q.cfg.getLsbD 4 then 1 else 0)) := by
  change execQueueReset port s = _
  simp only [execQueueReset, Bool.not_eq_true']

/-- The write index of an enabled cross-side queue that has gone on. -/
theorem exec_csqUpdate (hq : queue < 64) (hon : (s.reg (csqReg queue 0x68)).getLsbD 4 = true)
    (hnew : (tabGet? s.csqSeen queue).getD 0 < csqWrite s queue) :
    let cfg := s.reg (csqReg queue 0x68)
    let s1 : State := { s with csqSeen := tabSet s.csqSeen queue (csqWrite s queue) }
    exec (.csqUpdate queue) s = .next
      (if (s.reg (csqReg queue 0x70)).getLsbD 0 = true then s1
       else if csqWrite s queue - s.load (vaultBase + (s.reg (csqReg queue 0x60)).toNat + 8) 8 > ringSize cfg then
         s1.setReg (csqReg queue 0x70) 1
       else if cfg.getLsbD 5 = true ∨ s.hostIf.valid = false then s1
       else s1.output (.msix s.hostIf.holder (cfg.extractLsb' 8 8).toNat)) := by
  have henabled : ¬(queue ≥ 64 ∨ (!(s.reg (csqReg queue 0x68)).getLsbD 4) = true ∨
      csqWrite s queue ≤ (tabGet? s.csqSeen queue).getD 0) :=
    not_or.mpr ⟨Nat.not_le.mpr hq, not_or.mpr ⟨by rw [hon]; nofun, Nat.not_le.mpr hnew⟩⟩
  change execCsqUpdate queue s = _
  refine (if_neg henabled).trans ?_
  simp only [Bool.not_eq_true', apply_ite Host.Outcome.next]

end

/-- Settles O43: each event under its guard, by the lease's holder and the queue's indices. -/
theorem leaseAndHostQueues : Obligations.LeaseAndHostQueues := by
  refine ⟨fun s port vault data => ?_, fun s port queue value => ?_⟩
  · refine ⟨fun hport hb hv => ?_, fun hport hb hv hh => ?_, fun hport hb hv hh hlost => ?_, fun hb hv hh ht => ?_,
      exec_leaseRenew_recovery, fun hv ht harmed => ?_, fun hv ht harmed => ?_, exec_hostLinkDown, exec_hostLinkUp,
      exec_hostBar2Write⟩
    · exact (exec_leaseRenew_running hport hb).trans (if_pos hv)
    · exact (exec_leaseRenew_running hport hb).trans ((if_neg (ne_false_of_eq_true hv)).trans (if_pos hh))
    · have hfirst : ¬(port = 0 ∧ s.hostIf.takenAt = some s.nowPs) := fun ⟨hzero, htaken⟩ =>
        hlost.elim (fun hone => by omega) (fun hn => hn htaken)
      exact (exec_leaseRenew_running hport hb).trans
        ((if_neg (ne_false_of_eq_true hv)).trans ((if_neg hh).trans (if_neg hfirst)))
    · exact (exec_leaseRenew_running Nat.two_pos hb).trans
        ((if_neg (ne_false_of_eq_true hv)).trans ((if_neg hh).trans (if_pos ⟨rfl, ht⟩)))
    · exact (exec_leaseExpiry hv ht).trans (if_pos harmed)
    · exact (exec_leaseExpiry hv ht).trans (if_neg (ne_true_of_eq_false harmed))
  · refine ⟨fun hp hs hw => ?_, fun hp hs hw hfits => ?_, fun hp hs hw hmore => ?_, exec_doorbell_ignored, fun hp => ?_,
      fun hp => ?_, exec_csqUpdate⟩
    · exact (exec_doorbell_holder hp hs).trans (if_pos hw)
    · exact (exec_doorbell_holder hp hs).trans ((if_neg (Nat.not_lt.mpr hw)).trans (if_pos hfits))
    · exact (exec_doorbell_holder hp hs).trans ((if_neg (Nat.not_lt.mpr hw)).trans (if_neg (Nat.not_le.mpr hmore)))
    · exact exec_queueReset.trans (if_neg (ne_false_of_eq_true hp))
    · exact exec_queueReset.trans (if_pos hp)

end Sys2Proof.FabricHost

/-!
Claims of resources, their release and their handover (spec/22 R426, R432, R433).
-/
namespace Sys2Proof.FabricHost
open Sys2Proof Sys2Proof.Machine Sys2Proof.Safety

section

variable {s : State} {res who target : Nat}

/-- A claim granted now, which another claim of this instant can take (R433). -/
def grantNow (s t : State) (res who : Nat) : State :=
  (grantClaim t res who).setClaim { (grantClaim t res who).claim res with since := some s.nowPs }

/-- A party's claim goes before the grant that its resource holds, which was made at the same instant. -/
def TakesGrant (s : State) (res who : Nat) : Prop :=
  (s.claim res).since = some s.nowPs ∧ claimFirst who (s.claim res).owner = true

/-- A party of hypervisor rank against a guest that owns the resource is none of those whose claim changes nothing. -/
theorem not_refused (howner : (s.claim res).owner ≠ who) (hyper : hyperRank who = true)
    (hguest : hyperRank (s.claim res).owner = false) :
    ¬((s.claim res).owner = who ∨ (!hyperRank who) = true ∨ hyperRank (s.claim res).owner = true) := by
  simp [howner, hyper, hguest]

/-- A claim of a party that does not count changes nothing. -/
theorem exec_claim_ignored (h : partyCounts s who = false) : exec (.claim res who) s = .next s :=
  if_pos (Or.inr (Or.inr (by rw [h]; rfl)))

section

variable (hres : 0 < res) (hmax : res < 136) (hcounts : partyCounts s who = true)
include hres hmax hcounts

/-- A counted claim of a resource reaches its claim register. -/
theorem claim_enabled : ¬(res = 0 ∨ res ≥ 136 ∨ (!partyCounts s who) = true) :=
  not_or.mpr ⟨hres.ne', not_or.mpr ⟨Nat.not_le.mpr hmax, by rw [hcounts]; nofun⟩⟩

/-- A free resource is granted at once. -/
theorem exec_claim_free (hfree : (s.claim res).held = false) : exec (.claim res who) s = .next (grantNow s s res who) :=
  (if_neg (claim_enabled hres hmax hcounts)).trans (if_pos (by rw [hfree]; rfl))

variable (hheld : (s.claim res).held = true)
include hheld

/-- A claim that goes before a grant of its instant takes the resource. -/
theorem exec_claim_first (hfirst : TakesGrant s res who) :
    exec (.claim res who) s = .next (grantNow s (claimLost s res) res who) :=
  (if_neg (claim_enabled hres hmax hcounts)).trans ((if_neg (by rw [hheld]; nofun)).trans (if_pos hfirst))

variable (hlater : ¬TakesGrant s res who)
include hlater

/-- A claim of a held resource by its owner, by a guest, or against an owner of hypervisor rank changes nothing. -/
theorem exec_claim_refused (h : (s.claim res).owner = who ∨ hyperRank who = false ∨ hyperRank (s.claim res).owner = true) :
    exec (.claim res who) s = .next s :=
  (if_neg (claim_enabled hres hmax hcounts)).trans ((if_neg (by rw [hheld]; nofun)).trans ((if_neg hlater).trans
    (if_pos (h.imp_right (Or.imp_left fun hguest => by rw [hguest]; rfl)))))

section

variable (howner : (s.claim res).owner ≠ who) (hyper : hyperRank who = true) (hguest : hyperRank (s.claim res).owner = false)
include howner hyper hguest

/-- A claim of hypervisor rank takes a guest's resource that belongs to no cluster. -/
theorem exec_claim_hyper_plain (hcl : claimCluster res = none) : exec (.claim res who) s = .next (grantClaim s res who) := by
  unfold TakesGrant at hlater
  change execClaim res who s = _
  simp only [execClaim, if_neg (claim_enabled hres hmax hcounts), hheld, Bool.not_true, Bool.false_eq_true, if_false,
    if_neg hlater, if_neg (not_refused howner hyper hguest), hcl]

/-- On a guest's resource of a cluster it changes nothing where another claim waits; else it waits for the window's boundary, or
takes the resource where no windows run. -/
theorem exec_claim_hyper_cluster {cl : Nat} (hcl : claimCluster res = some cl) : exec (.claim res who) s =
    if (s.claim res).pending ≠ none then .next s
    else if histOn s cl = true then .next (s.setClaim { s.claim res with pending := some who })
    else .next (grantClaim (claimLost s res) res who) := by
  unfold TakesGrant at hlater
  change execClaim res who s = _
  simp only [execClaim, if_neg (claim_enabled hres hmax hcounts), hheld, Bool.not_true, Bool.false_eq_true, if_false,
    if_neg hlater, if_neg (not_refused howner hyper hguest), hcl, Option.isSome_iff_ne_none]

end

end

/-- A release by a party that does not own the resource, or does not count, changes nothing, and so does a handover. -/
theorem exec_release_ignored (h : s.owns who res = false ∨ partyCounts s who = false) :
    exec (.claimRelease res who) s = .next s ∧ exec (.claimHandover res who target) s = .next s := by
  have hnot : ¬(res ≠ 0 ∧ s.owns who res = true ∧ partyCounts s who = true) := fun ⟨_, howns, hcounts⟩ =>
    h.elim (ne_false_of_eq_true howns) (ne_false_of_eq_true hcounts)
  exact ⟨if_neg hnot, if_neg hnot⟩

/-- A free resource's claim without a claimant that waits. -/
theorem freeClaim_idle (h : (s.claim res).pending = none) :
    freeClaim s res = (claimLost s res).setClaim { s.claim res with held := false, owner := 0, since := none } :=
  if_neg (by rw [h]; nofun)

/-- With a claimant that waits the resource goes to it. -/
theorem freeClaim_pending {p : Nat} (h : (s.claim res).pending = some p) : freeClaim s res = grantPending s res :=
  if_pos (by rw [h]; rfl)

section

variable (hres : 0 < res) (howns : s.owns who res = true) (hcounts : partyCounts s who = true)
include hres howns hcounts

/-- An owner's release frees the resource. -/
theorem exec_claimRelease : exec (.claimRelease res who) s = .next (freeClaim s res) := if_pos ⟨hres.ne', howns, hcounts⟩

/-- An owner's handover names the new owner. -/
theorem exec_claimHandover : exec (.claimHandover res who target) s = .next (s.setClaim { s.claim res with
    owner := target, since := none
    pending := if (s.claim res).pending = some target then none else (s.claim res).pending }) :=
  if_pos ⟨hres.ne', howns, hcounts⟩

end

end

/-- Settles O44: a claim by who holds the resource and since when, a release by who waits for it. -/
theorem claims : Obligations.Claims := by
  intro s res who target c first stamp
  refine ⟨fun hres hmax hcounts => ⟨exec_claim_free hres hmax hcounts, exec_claim_first hres hmax hcounts,
      fun hheld hlater howner hyper hguest => ?_, exec_claim_refused hres hmax hcounts⟩,
    fun hres howns hcounts => ⟨fun hp => ?_, fun p hp => ?_, exec_claimHandover hres howns hcounts⟩,
    exec_claim_ignored, exec_release_ignored⟩
  · have hcluster {cl} := exec_claim_hyper_cluster hres hmax hcounts hheld hlater howner hyper hguest (cl := cl)
    refine ⟨fun cl hcl hp hon => ?_, fun cl hcl hp hoff => ?_, fun cl hcl hp => ?_,
      exec_claim_hyper_plain hres hmax hcounts hheld hlater howner hyper hguest⟩
    · exact (hcluster hcl).trans ((if_neg (not_not.mpr hp)).trans (if_pos hon))
    · exact (hcluster hcl).trans ((if_neg (not_not.mpr hp)).trans (if_neg (ne_true_of_eq_false hoff)))
    · exact (hcluster hcl).trans (if_pos hp)
  · rw [exec_claimRelease hres howns hcounts, freeClaim_idle hp]
  · rw [exec_claimRelease hres howns hcounts, freeClaim_pending hp]

end Sys2Proof.FabricHost

/-!
Histograms, stall ratios and latched counter reads (spec/23 R439 to R442).
-/
namespace Sys2Proof.DebugProfiling
open Sys2Proof Sys2Proof.Machine Sys2Proof.Safety

section

variable {s : State} {cl core fn k : Nat}

/-- At a period's end every core of a cluster is sampled. -/
theorem exec_histSample (hon : histOn s cl = true) (hmore : (s.red cl).samples < histLength s cl)
    (ht : (s.red cl).winStart + ((s.red cl).samples + 1) * histPeriod s cl ≤ s.now) : exec (.histSample cl) s =
      .next (s.setRed { (List.range 8).foldl (fun (b : RedBlock) i =>
          let k := coreSample s (cl * 8 + i)
          histAdd b k.1 k.2.1 k.2.2 1) (s.red cl) with
        samples := (s.red cl).samples + 1 }) :=
  if_neg (not_or.mpr ⟨by rw [hon]; nofun, not_or.mpr ⟨Nat.not_le.mpr hmore, Nat.not_lt.mpr ht⟩⟩)

/-- Time that goes on keeps the number of the window in progress. -/
theorem advance_winNo : (advance s).winNo = (advance s).now / 10000 := by
  have hnow : (advance s).now = (s.nowPs + 1000 * Config.elapsed s.stepNo) / 1000 := rfl
  rw [hnow, Nat.div_div_eq_div_mul]
  rfl

/-- The register of a core's ratios. -/
def ratioReg (core : Nat) : RegAddr := ⟨.red, clusterOf core, 0x300 + 8 * (core % 8)⟩

/-- A core's ratios change where they are not those of the last complete window yet. -/
theorem exec_stallRatioWindow {w : Nat} (hw : s.winNo = w + 1)
    (hold : (s.reg (ratioReg core)).toNat / 2 ^ 32 % 2 ^ 32 ≠ w % 2 ^ 32 ∨ s.reg (ratioReg core) = 0) :
    let n := windowCycles s core - (s.core core).doneHeld
    exec (.stallRatioWindow core) s = .next (s.setReg (ratioReg core) (BitVec.ofNat 64
      (ratio16 (s.core core).doneStall n + ratio16 (s.core core).doneComp n * 2 ^ 16 + w % 2 ^ 32 * 2 ^ 32))) := by
  have hlast : s.winNo - 1 = w := by omega
  have hdue : ¬(s.winNo = 0 ∨
      ((s.reg (ratioReg core)).toNat / 2 ^ 32 % 2 ^ 32 = w % 2 ^ 32 ∧ s.reg (ratioReg core) ≠ 0)) :=
    not_or.mpr ⟨by omega, fun ⟨hsame, hset⟩ => hold.elim (fun h => h hsame) hset⟩
  subst hlast
  exact if_neg hdue

/-- A window that has all its samples is written and cleared, and claims that wait for its boundary are granted. -/
theorem exec_histWindowEnd (hon : histOn s cl = true) (hall : histLength s cl ≤ (s.red cl).samples) :
    let r := s.red cl
    let s1 := agentWrite s
      (vaultBase + ((s.reg (redReg cl 0x10)).toNat / 2 ^ 15 * 2 ^ 15 + 0x4000 * (r.winIndex % 2))) (histBytes r)
    let s2 := s1.setReg (redReg cl 0x18) (BitVec.ofNat 64
      (((s1.reg (redReg cl 0x18)).toNat % 2 ^ 32 + 1) % 2 ^ 32 + min r.dropped 0xFFFF * 2 ^ 32))
    exec (.histWindowEnd cl) s = .next (grantPending (grantPending (s2.setRed { r with
      hist := [], samples := 0, dropped := 0, winIndex := r.winIndex + 1
      winStart := r.winStart + histLength s cl * histPeriod s cl }) (8 + cl)) (72 + cl)) :=
  if_neg (not_or.mpr ⟨by rw [hon]; nofun, Nat.not_lt.mpr hall⟩)

/-- An access to a part that runs. -/
theorem whenUp_running {t : State} (h : s.boot = .running) : s.whenUp t = t := if_pos h

/-- An access to a part that does not run. -/
theorem whenUp_down {t : State} (h : s.boot ≠ .running) : s.whenUp t = s := if_neg h

/-- What a read of a counter's high half finds latched: the moment of the last low read, where that was of the same counter. -/
theorem exec_counterHighRead_latched (hset : ((tabGet? s.latches fn).getD 0).getLsbD 39 = true)
    (hsame : (((tabGet? s.latches fn).getD 0).extractLsb' 32 7).toNat = counterIndex core k % 128) :
    exec (.counterHighRead fn core k) s = .next (s.whenUp { s with
      latches := tabSet s.latches fn ((tabGet? s.latches fn).getD 0 &&& ~~~(BitVec.ofNat 64 (2 ^ 39)))
      busRead := (tabGet? s.latches fn).getD 0 &&& 0xFFFFFFFF }) := if_pos ⟨hset, hsame⟩

/-- Otherwise it reads the counter as it stands. -/
theorem exec_counterHighRead_plain (h : ((tabGet? s.latches fn).getD 0).getLsbD 39 = false ∨
      (((tabGet? s.latches fn).getD 0).extractLsb' 32 7).toNat ≠ counterIndex core k % 128) :
    exec (.counterHighRead fn core k) s =
      .next (s.whenUp { s with busRead := BitVec.ofNat 64 ((counterValue s core k).toNat / 2 ^ 32) }) :=
  if_neg fun ⟨hset, hsame⟩ => h.elim (ne_false_of_eq_true hset) (fun hother => hother hsame)

/-- A read of a high half of a counter on a part that does not run changes nothing. -/
theorem exec_counterHighRead_down (hb : s.boot ≠ .running) : exec (.counterHighRead fn core k) s = .next s := by
  change execCounterHighRead fn core k s = _
  unfold execCounterHighRead
  dsimp only
  split <;> rw [whenUp_down hb]

end

/-- Settles O45: each event under its guard, and the number of the window from the time that goes on. -/
theorem histogramsAndCounters : Obligations.HistogramsAndCounters := by
  intro s cl core fn k
  refine ⟨exec_histSample, exec_histWindowEnd, fun t hstep => ?_, fun hwin hnow hold => ?_,
    fun hb => congrArg _ (whenUp_running hb), fun hb hset hsame => ?_, fun hb h => ?_,
    fun hb => ⟨congrArg _ (whenUp_down hb), exec_counterHighRead_down hb⟩⟩
  · obtain ⟨u, rfl⟩ := TasksSpeculation.step_advances hstep
    exact advance_winNo
  · exact exec_stallRatioWindow (by omega) hold
  · exact (exec_counterHighRead_latched hset hsame).trans (congrArg _ (whenUp_running hb))
  · exact (exec_counterHighRead_plain h).trans (congrArg _ (whenUp_running hb))

end Sys2Proof.DebugProfiling

/-!
Voltage and frequency changes and the thermal throttle (spec/24 R445 to R448).
-/
namespace Sys2Proof.PowerClocks
open Sys2Proof Sys2Proof.Machine Sys2Proof.Safety

section

variable {s : State} {i celsius : Nat} {value : Word}

/-- The time of a phase, the three phases in their order: none, the clock's stop, a voltage step. -/
theorem phaseTime_eq (stage : Nat) :
    phaseTime stage = if stage = 0 then 0 else if stage = 2 then 400000 else 100000 := by
  unfold phaseTime
  split
  · next h => rw [h]; rfl
  · rfl

/-- A request to an island of a part that runs is a write of its request register. -/
theorem exec_dvfRequest (hi : i < 512) (hb : s.boot = .running) :
    exec (.dvfRequest i value) s = .next (requestPoint s i value) :=
  (if_pos hi).trans (congrArg _ (if_pos hb))

/-- A part that does not run takes none. -/
theorem exec_dvfRequest_down (hi : i < 512) (hb : s.boot ≠ .running) : exec (.dvfRequest i value) s = .next s :=
  (if_pos hi).trans (congrArg _ (if_neg hb))

/-- A request that fails a rule changes the island's result alone. -/
theorem requestPoint_refused (h : requestCode s i (value.extractLsb' 0 6).toNat (value.extractLsb' 8 7).toNat ≠ 0) :
    requestPoint s i value = s.setIsland i { s.island i with
      result := 1, code := requestCode s i (value.extractLsb' 0 6).toNat (value.extractLsb' 8 7).toNat } := if_pos h

/-- One that passes them starts its first phase. -/
theorem requestPoint_accepted (h : requestCode s i (value.extractLsb' 0 6).toNat (value.extractLsb' 8 7).toNat = 0) :
    let f := (value.extractLsb' 0 6).toNat
    let v := (value.extractLsb' 8 7).toNat
    requestPoint s i value = s.setIsland i { s.island i with
      req := BitVec.ofNat 64 (v * 256 + f), toF := f, toV := v, stage := firstStage (s.island i) f v, forced := false
      result := 0, code := 0
      nextAt := if f = (s.island i).f50 ∧ v = (s.island i).v10 then s.nowPs
        else s.nowPs + phaseTime (firstStage (s.island i) f v) } := if_neg (not_not.mpr h)

/-- A voltage step that is due. -/
theorem exec_voltageStep (hs : (s.island i).stage = 1 ∨ (s.island i).stage = 3) (ht : (s.island i).nextAt ≤ s.nowPs) :
    exec (.voltageStep i) s = .next (s.setIsland i (stepVoltage (s.island i))) := if_pos ⟨hs, ht⟩

/-- A rising voltage goes up by a step; the phase after the last one stops the clock, where the frequency changes. -/
theorem stepVoltage_rising {x : Island} (h : x.stage = 1) : stepVoltage x = { x with v10 := x.v10 + 1 }.goOn
    (if x.v10 + 1 < x.toV then 1 else if x.toF ≠ x.f50 then 2 else 0) := if_pos h

/-- A falling one goes down by a step, until it has arrived. -/
theorem stepVoltage_falling {x : Island} (h : x.stage = 3) :
    let v := if x.toV < x.v10 then x.v10 - 1 else x.v10
    stepVoltage x = { x with v10 := v }.goOn (if v > x.toV then 3 else 0) := if_neg (by omega)

/-- The clock's restart at the new frequency. -/
theorem exec_clockRestart (hs : (s.island i).stage = 2) (ht : (s.island i).nextAt ≤ s.nowPs) :
    exec (.clockRestart i) s = .next (s.setIsland i
      ({ s.island i with f50 := (s.island i).toF }.goOn (if (s.island i).toV < (s.island i).v10 then 3 else 0))) :=
  if_pos ⟨hs, ht⟩

/-- A throttle of an island that is not under way to the floor already. -/
theorem exec_thermalThrottle (hi : i < 512) (h : (s.island i).stage = 0 ∨ (s.island i).forced = false) :
    let x := s.island i
    let hot := if x.stage = 2 ∨ x.f50 ≠ 24 then 2 else if x.v10 > 55 then 3 else 0
    exec (.thermalThrottle i) s = .next (s.setIsland i { x with
      throttled := true, toF := 24, toV := 55, stage := hot, forced := true, nextAt := s.nowPs + phaseTime hot
      result := if x.stage ≠ 0 then 1 else x.result, code := if x.stage ≠ 0 then 4 else x.code }) :=
  (if_pos hi).trans (if_neg fun ⟨hmoving, hforced⟩ => h.elim hmoving (ne_false_of_eq_true hforced))

/-- A throttle's own move goes on. -/
theorem exec_thermalThrottle_underway (hi : i < 512) (hs : (s.island i).stage ≠ 0) (hf : (s.island i).forced = true) :
    exec (.thermalThrottle i) s = .next s := (if_pos hi).trans (if_pos ⟨hs, hf⟩)

/-- The throttle's end. -/
theorem exec_throttleClear (ht : (s.island i).throttled = true) (hc : celsius < (s.island i).tHi) :
    exec (.throttleClear i celsius) s = .next (s.setIsland i { s.island i with throttled := false }) := if_pos ⟨ht, hc⟩

end

/-- Settles O46: each event under its guard, with the time of the phase that follows. -/
theorem islands : Obligations.Islands := by
  intro s i celsius value x f v takes first up low down after hot
  have htakes : takes = phaseTime := funext fun stage => (phaseTime_eq stage).symm
  rw [htakes]
  refine ⟨fun hi hb hok => ?_, fun hi hb hbad => ?_, exec_dvfRequest_down, fun hs ht => ?_, fun hs ht => ?_,
    exec_clockRestart, exec_thermalThrottle, exec_thermalThrottle_underway, exec_throttleClear⟩
  · rw [exec_dvfRequest hi hb, requestPoint_accepted hok]
    rfl
  · rw [exec_dvfRequest hi hb, requestPoint_refused hbad]
  · rw [exec_voltageStep (.inl hs) ht, stepVoltage_rising hs]
    rfl
  · rw [exec_voltageStep (.inr hs) ht, stepVoltage_falling hs]
    rfl

end Sys2Proof.PowerClocks

/-!
Boot and resets (spec/26 R456, R459), attestation (R458), and the state at reset (spec/22 R422).
-/
namespace Sys2Proof.FabricHost
open Sys2Proof Sys2Proof.Machine Sys2Proof.Safety

section

variable {s : State} {port vf : Nat} {value : Word}

/-- A package reset of a part that is on. -/
theorem exec_packageReset (hb : s.boot ≠ .off) : exec .packageReset s = .next (bootPart (freshPart s)) := if_neg hb

/-- The holder's request while no report is in the making for its port: the buffer must lie in vault memory. -/
theorem exec_attestationRequest (hp : s.isHolder port = true) (hv : value.getLsbD 0 = true)
    (hidle : ∀ y ∈ s.hostIf.attBusy, y.1 ≠ port) :
    let buf := (s.reg (hifReg port 0xA0)).toNat / 2 ^ 12 * 2 ^ 12
    exec (.attestationRequest port value) s =
      if buf + 2676 > 2 ^ 33 then .next (attSts s port 0x10)
      else .next (attSts { s with hostIf := { s.hostIf with
        attBusy := s.hostIf.attBusy ++ [(port, buf, reportHead s port)] } } port 1) := by
  have hbusy : (s.hostIf.attBusy.any fun x => x.1 == port) = false := by simpa using hidle
  change execAttestationRequest port value s = _
  exact if_neg (by rw [hp, hv, hbusy]; simp)

/-- The report reaches the buffer, and the port is free for another request. -/
theorem exec_attestationDone {x : Nat × Nat × List Byte} (hx : (s.hostIf.attBusy.find? fun y => y.1 == port) = some x) :
    let s1 := agentWrite s (vaultBase + x.2.1) (x.2.2 ++ (List.range 2420).map fun i => ((Config.signature x.2.2)[i]?).getD 0)
    exec (.attestationDone port) s = .next
      (attSts { s1 with hostIf := { s.hostIf with attBusy := s.hostIf.attBusy.filter fun y => y.1 != port } } port 0) := by
  change execAttestationDone port s = _
  simp only [execAttestationDone, hx]

/-- A virtual function's reset. -/
theorem exec_vfReset (hvf : vf < 64) : exec (.vfReset vf) s = .next
    (let s1 := (s.queues.filter fun q => (q.cfg.extractLsb' 8 6).toNat == vf).foldl disableQueue s
     clearVf ((s1.claims.filter fun c => c.held && (c.owner == 0x4000 + vf + 1 || c.owner == 0x4100 + vf + 1)).foldl
       (fun t c => freeClaim t c.res) s1) vf) := if_neg (Nat.not_le.mpr hvf)

end

/-- Settles O42: each event under its guard; power-on and a port's PERST hold as they are written, in every state. -/
theorem bootAndResets : Obligations.BootAndResets := by
  intro s port vf value x h buf
  refine ⟨rfl, exec_packageReset, ⟨rfl, rfl, rfl, rfl, rfl, rfl, rfl⟩, fun hp hv hidle hfits => ?_,
    fun hp hv hidle hlong => ?_, exec_attestationDone, rfl, rfl, exec_vfReset⟩
  · exact (exec_attestationRequest hp hv hidle).trans (if_neg (Nat.not_lt.mpr hfits))
  · exact (exec_attestationRequest hp hv hidle).trans (if_pos hlong)

/-- No core of the part at reset has a sequencer to issue: no context is listed. -/
theorem pick_reset (core : Nat) : pick State.reset core = none := rfl

/-- Settles O56: the state at reset lists no context, no domain, no island and no register, so each is at its reset value. -/
theorem resetState : Obligations.ResetState :=
  ⟨rfl, rfl, reset_wf, .inl rfl, rfl, rfl, rfl, rfl, rfl, rfl, rfl, fun _ => rfl, pick_reset, nofun, fun _ => rfl⟩

end Sys2Proof.FabricHost
